-- ==== Sys2Proof/Word.lean ====
section
/-! DEFINITION. The word types, the names of the parts of the package, and the plainest arithmetic on words. -/

namespace Sys2Proof

/-- The 64-bit word of registers and addresses (04 R68). -/
abbrev Word := BitVec 64

/-- The smallest addressable unit (07 R135). -/
abbrev Byte := BitVec 8

/-- A core named die.tier.index (00 R5). -/
structure CoreId where
  die : Nat
  tier : Nat
  idx : Nat
deriving DecidableEq, Repr

/-- A thread context named core.thread (00 R5). -/
structure ThreadId where
  die : Nat
  tier : Nat
  idx : Nat
  ctx : Nat
deriving DecidableEq, Repr

/-- The core a context belongs to. -/
def ThreadId.core (t : ThreadId) : CoreId := ⟨t.die, t.tier, t.idx⟩

/-- The context of a core with a number. -/
def CoreId.thread (c : CoreId) (k : Nat) : ThreadId := ⟨c.die, c.tier, c.idx, k⟩

/-- A hart: the loader (`storer = false`) or storer core of a core, and its number 0 to 3 (13 R289). -/
structure HartId where
  core : CoreId
  storer : Bool
  n : Nat
deriving DecidableEq, Repr

/-- A Lemuf link: a Lemuf-I link by its ILOST bit 0 to 11, or a Lemuf-X port 0 to 15 (10 R228). -/
structure LinkId where
  external : Bool
  n : Nat
deriving DecidableEq, Repr

/-- A 64-bit word from a natural number, modulo 2^64. -/
abbrev w64 (n : Nat) : Word := BitVec.ofNat 64 n

/-- The bits `hi.lo` of a word as a natural number. -/
abbrev bits (v : BitVec n) (hi lo : Nat) : Nat := (v.toNat / 2 ^ lo) % 2 ^ (hi + 1 - lo)

/-- One bit of a word. -/
abbrev bit (v : BitVec n) (i : Nat) : Bool := v.getLsbD i

/-- A Boolean as a number 0 or 1. -/
abbrev b2n (b : Bool) : Nat := if b then 1 else 0

end Sys2Proof
end

