-- ==== Sys2Proof/Syntax.lean ====
section
/-! DEFINITION. The instructions and device events of the KX8: one constructor per row of spec/opcode_table.json.

Encodable rows carry the fields of their encoding as bit vectors (05 R20, R90, R91, R101). Rows without an encoding are
the commands of the matrix unit (12 R257), the chunk instructions of Halo (20 R408) and the events of the device and of the
host (95): their arguments say where and on what the step happens. -/

namespace Sys2Proof

/-- One constructor per row of the opcode table; each docstring is the rule that gives the row its meaning. -/
inductive Instr where
  /-- ADD (R114). -/
  | add (d a b : BitVec 5)
  /-- SUB (R114). -/
  | sub (d a b : BitVec 5)
  /-- AND (R114). -/
  | and (d a b : BitVec 5)
  /-- OR (R114). -/
  | or (d a b : BitVec 5)
  /-- XOR (R114). -/
  | xor (d a b : BitVec 5)
  /-- SLL (R114). -/
  | sll (d a b : BitVec 5)
  /-- SRL (R114). -/
  | srl (d a b : BitVec 5)
  /-- SRA (R114). -/
  | sra (d a b : BitVec 5)
  /-- MIN (R114). -/
  | min (d a b : BitVec 5)
  /-- MAX (R114). -/
  | max (d a b : BitVec 5)
  /-- MINU (R114). -/
  | minu (d a b : BitVec 5)
  /-- MAXU (R114). -/
  | maxu (d a b : BitVec 5)
  /-- CLZ (R116). -/
  | clz (d a : BitVec 5)
  /-- CTZ (R116). -/
  | ctz (d a : BitVec 5)
  /-- POPC (R116). -/
  | popc (d a : BitVec 5)
  /-- MUL (R115). -/
  | mul (d a b : BitVec 5)
  /-- MULH (R115). -/
  | mulh (d a b : BitVec 5)
  /-- MULHU (R115). -/
  | mulhu (d a b : BitVec 5)
  /-- DIV (R115). -/
  | div (d a b : BitVec 5)
  /-- DIVU (R115). -/
  | divu (d a b : BitVec 5)
  /-- REM (R115). -/
  | rem (d a b : BitVec 5)
  /-- REMU (R115). -/
  | remu (d a b : BitVec 5)
  /-- ADDI (R117). -/
  | addi (d a : BitVec 5) (i : BitVec 15)
  /-- ANDI (R117). -/
  | andi (d a : BitVec 5) (i : BitVec 15)
  /-- ORI (R117). -/
  | ori (d a : BitVec 5) (i : BitVec 15)
  /-- XORI (R117). -/
  | xori (d a : BitVec 5) (i : BitVec 15)
  /-- ADDA (R120). -/
  | adda (d a b : BitVec 5) (s : BitVec 3)
  /-- SLLI (R118). -/
  | slli (d a : BitVec 5) (s : BitVec 6)
  /-- SRLI (R118). -/
  | srli (d a : BitVec 5) (s : BitVec 6)
  /-- SRAI (R118). -/
  | srai (d a : BitVec 5) (s : BitVec 6)
  /-- BEXT (R119). -/
  | bext (d a : BitVec 5) (x : BitVec 1) (l w : BitVec 6)
  /-- BINS (R119). -/
  | bins (d a : BitVec 5) (l w : BitVec 6)
  /-- LDK (R122). -/
  | ldk (d : BitVec 5) (k : BitVec 8)
  /-- MOVE (R121). -/
  | move (d a : BitVec 5)
  /-- LDE (R121). -/
  | lde (e : BitVec 3) (a : BitVec 5)
  /-- MOVE_X_E (R121). -/
  | moveXE (d : BitVec 5) (e : BitVec 3)
  /-- SEL (R124). -/
  | sel (d a b : BitVec 5) (n : BitVec 1) (p : BitVec 3)
  /-- PAND (R126). -/
  | pand (d a b : BitVec 3) (n m : BitVec 1)
  /-- POR (R126). -/
  | por (d a b : BitVec 3) (n m : BitVec 1)
  /-- PNOT (R126). -/
  | pnot (d a : BitVec 3)
  /-- PMOV (R126). -/
  | pmov (d a : BitVec 3) (n : BitVec 1)
  /-- BR (R127). -/
  | br (o : BitVec 25)
  /-- BRP (R127). -/
  | brp (n : BitVec 1) (p : BitVec 3) (o : BitVec 21)
  /-- JAL (R127). -/
  | jal (d : BitVec 5) (o : BitVec 20)
  /-- JR (R127). -/
  | jr (d a : BitVec 5)
  /-- LD (R135). -/
  | ld (t b : BitVec 5) (w o : BitVec 2) (s : BitVec 3) (f : BitVec 8)
  /-- ST (R135). -/
  | st (t b : BitVec 5) (w o : BitVec 2) (s : BitVec 3) (f : BitVec 8)
  /-- LDQ (R140). -/
  | ldq (q : BitVec 2) (b : BitVec 5) (o : BitVec 2) (s : BitVec 3) (f : BitVec 8)
  /-- STQ (R140). -/
  | stq (q : BitVec 2) (b : BitVec 5) (o : BitVec 2) (s : BitVec 3) (f : BitVec 8)
  /-- LDF_KEEP (R144). -/
  | ldfKeep (t b : BitVec 5) (o : BitVec 2) (s : BitVec 3) (f : BitVec 8)
  /-- LDF_TAKE (R144). -/
  | ldfTake (t b : BitVec 5) (o : BitVec 2) (s : BitVec 3) (f : BitVec 8)
  /-- STF (R144). -/
  | stf (t b : BitVec 5) (o : BitVec 2) (s : BitVec 3) (f : BitVec 8)
  /-- FEW (R144). -/
  | few (b : BitVec 5) (f : BitVec 8)
  /-- FEQ (R144). -/
  | feq (p : BitVec 3) (b : BitVec 5) (f : BitVec 8)
  /-- AMOADD (R148). -/
  | amoadd (d a b : BitVec 5) (w : BitVec 1) (o : BitVec 2) (s : BitVec 3)
  /-- AMOMIN (R148). -/
  | amomin (d a b : BitVec 5) (u w : BitVec 1) (o : BitVec 2) (s : BitVec 3)
  /-- AMOMAX (R148). -/
  | amomax (d a b : BitVec 5) (u w : BitVec 1) (o : BitVec 2) (s : BitVec 3)
  /-- AMOAND (R148). -/
  | amoand (d a b : BitVec 5) (w : BitVec 1) (o : BitVec 2) (s : BitVec 3)
  /-- AMOOR (R148). -/
  | amoor (d a b : BitVec 5) (w : BitVec 1) (o : BitVec 2) (s : BitVec 3)
  /-- AMOXOR (R148). -/
  | amoxor (d a b : BitVec 5) (w : BitVec 1) (o : BitVec 2) (s : BitVec 3)
  /-- AMOSWP (R148). -/
  | amoswp (d a b : BitVec 5) (w : BitVec 1) (o : BitVec 2) (s : BitVec 3)
  /-- AMOCAS (R148). -/
  | amocas (d a b : BitVec 5) (w : BitVec 1) (o : BitVec 2) (s : BitVec 3)
  /-- BANKOP_ADD (R150). -/
  | bankopAdd (q : BitVec 2) (a : BitVec 5) (c : BitVec 4) (n : BitVec 3)
  /-- BANKOP_MAX (R150). -/
  | bankopMax (q : BitVec 2) (a : BitVec 5) (c : BitVec 4) (n : BitVec 3)
  /-- BANKOP_MIN (R150). -/
  | bankopMin (q : BitVec 2) (a : BitVec 5) (c : BitVec 4) (n : BitVec 3)
  /-- BANKOP_AXPY (R150). -/
  | bankopAxpy (q : BitVec 2) (a : BitVec 5) (c : BitVec 4) (n : BitVec 3)
  /-- FENCE (R151). -/
  | fence (s : BitVec 3)
  /-- CMP (R125). -/
  | cmp (p c : BitVec 3) (a b : BitVec 5)
  /-- CMPI (R125). -/
  | cmpi (p c : BitVec 3) (a : BitVec 5) (i : BitVec 14)
  /-- BARINIT (R163). -/
  | barinit (a b : BitVec 5)
  /-- BAR_ARRIVE (R163). -/
  | barArrive (a : BitVec 5)
  /-- BAR_WAIT (R163). -/
  | barWait (a : BitVec 5)
  /-- HTEST (R166). -/
  | htest (p : BitVec 3) (h : BitVec 4)
  /-- HCANCEL (R166). -/
  | hcancel (h : BitVec 4)
  /-- MOVH_H_H (R166). -/
  | movhHH (d h : BitVec 4)
  /-- FFDONE (R166). -/
  | ffdone
  /-- MOVH_H_X (R166). -/
  | movhHX (d : BitVec 4) (a : BitVec 5)
  /-- MOVH_X_H (R166). -/
  | movhXH (d : BitVec 5) (h : BitVec 4)
  /-- SEND (R155). -/
  | send (s : BitVec 5) (c : BitVec 4)
  /-- RECV (R155). -/
  | recv (d : BitVec 5) (c : BitVec 4)
  /-- SENDT (R158). -/
  | sendt (o : BitVec 2) (c : BitVec 4)
  /-- RECVT (R158). -/
  | recvt (o : BitVec 2) (c : BitVec 4)
  /-- CHSET (R154). -/
  | chset (s : BitVec 5) (c : BitVec 4)
  /-- CHRESET (R160). -/
  | chreset (c : BitVec 4)
  /-- MSGBIND (R158). -/
  | msgbind (s : BitVec 5)
  /-- WAITALL (R167). -/
  | waitall (m : BitVec 16)
  /-- WAITANY (R167). -/
  | waitany (m : BitVec 16)
  /-- CPY (R281). -/
  | cpy (h : BitVec 4) (d s l : BitVec 5)
  /-- CPY_T8 (R281). -/
  | cpyT8 (h : BitVec 4) (d s l : BitVec 5)
  /-- CPY_T16 (R281). -/
  | cpyT16 (h : BitVec 4) (d s l : BitVec 5)
  /-- CPYS (R282). -/
  | cpys (h : BitVec 4) (d s l : BitVec 5)
  /-- CPYG (R283). -/
  | cpyg (h : BitVec 4) (d b c : BitVec 5) (w : BitVec 2)
  /-- PFETCH (R287). -/
  | pfetch (a l : BitVec 5)
  /-- RSTORE (R288). -/
  | rstore (d s l : BitVec 5)
  /-- STRM_BIND (R293). -/
  | strmBind (v : BitVec 2) (a : BitVec 5)
  /-- STRM_END (R294). -/
  | strmEnd (v : BitVec 2)
  /-- RESTRICT_WSUM (R315). -/
  | restrictWsum (h : BitVec 4) (d s z : BitVec 5)
  /-- RESTRICT_MAX (R315). -/
  | restrictMax (h : BitVec 4) (d s z : BitVec 5)
  /-- RESTRICT_MIN (R315). -/
  | restrictMin (h : BitVec 4) (d s z : BitVec 5)
  /-- RESTRICT_GATHER (R315). -/
  | restrictGather (h : BitVec 4) (d s z : BitVec 5)
  /-- PROLONG_INTERP (R316). -/
  | prolongInterp (h : BitVec 4) (d s z : BitVec 5)
  /-- PROLONG_BCAST (R316). -/
  | prolongBcast (h : BitVec 4) (d s z : BitVec 5)
  /-- PROLONG_SCATTER (R316). -/
  | prolongScatter (h : BitVec 4) (d s z : BitVec 5)
  /-- LWLOAD (R311). -/
  | lwload (h : BitVec 4) (i s l : BitVec 5)
  /-- LCFG (R308). -/
  | lcfg (i v : BitVec 5)
  /-- LSTAT (R321). -/
  | lstat (d : BitVec 5)
  /-- LWAIT (R323). -/
  | lwait
  /-- HALO_RUN (R404). -/
  | haloRun (h : BitVec 4) (a b : BitVec 5)
  /-- HALO_STAT (R407). -/
  | haloStat (h : BitVec 4) (d : BitVec 5)
  /-- VLD (R235). -/
  | vld (v : BitVec 4) (a : BitVec 5) (f : BitVec 4) (m : BitVec 3) (e : BitVec 1)
  /-- VST (R235). -/
  | vst (v : BitVec 4) (a : BitVec 5) (m : BitVec 3) (e : BitVec 1)
  /-- VLDS (R235). -/
  | vlds (v : BitVec 4) (a b : BitVec 5) (f : BitVec 4) (m : BitVec 3) (e : BitVec 1)
  /-- VLDX (R235). -/
  | vldx (v : BitVec 4) (a : BitVec 5) (i f : BitVec 4) (m : BitVec 3) (e : BitVec 1)
  /-- VSTX (R235). -/
  | vstx (v : BitVec 4) (a : BitVec 5) (i : BitVec 4) (m : BitVec 3) (e : BitVec 1)
  /-- VADD (R242). -/
  | vadd (d a b : BitVec 4) (m : BitVec 3) (e : BitVec 1)
  /-- VSUB (R242). -/
  | vsub (d a b : BitVec 4) (m : BitVec 3) (e : BitVec 1)
  /-- VMUL (R242). -/
  | vmul (d a b : BitVec 4) (m : BitVec 3) (e : BitVec 1)
  /-- VFMA (R242). -/
  | vfma (d a b c : BitVec 4) (m : BitVec 3) (e : BitVec 1)
  /-- VFMS (R242). -/
  | vfms (d a b c : BitVec 4) (m : BitVec 3) (e : BitVec 1)
  /-- VMIN (R242). -/
  | vmin (d a b : BitVec 4) (m : BitVec 3) (e : BitVec 1)
  /-- VMAX (R242). -/
  | vmax (d a b : BitVec 4) (m : BitVec 3) (e : BitVec 1)
  /-- VABS (R242). -/
  | vabs (d a : BitVec 4) (m : BitVec 3) (e : BitVec 1)
  /-- VNEG (R242). -/
  | vneg (d a : BitVec 4) (m : BitVec 3) (e : BitVec 1)
  /-- VRCP (R54). -/
  | vrcp (d a : BitVec 4) (m : BitVec 3) (e : BitVec 1)
  /-- VRSQ (R55). -/
  | vrsq (d a : BitVec 4) (m : BitVec 3) (e : BitVec 1)
  /-- VEXP2 (R243). -/
  | vexp2 (d a : BitVec 4) (m : BitVec 3) (e : BitVec 1)
  /-- VLOG2 (R243). -/
  | vlog2 (d a : BitVec 4) (m : BitVec 3) (e : BitVec 1)
  /-- VTANH (R243). -/
  | vtanh (d a : BitVec 4) (m : BitVec 3) (e : BitVec 1)
  /-- VAND (R244). -/
  | vand (d a b : BitVec 4) (m : BitVec 3) (e : BitVec 1)
  /-- VOR (R244). -/
  | vor (d a b : BitVec 4) (m : BitVec 3) (e : BitVec 1)
  /-- VXOR (R244). -/
  | vxor (d a b : BitVec 4) (m : BitVec 3) (e : BitVec 1)
  /-- VSHL (R244). -/
  | vshl (d a b : BitVec 4) (m : BitVec 3) (e : BitVec 1)
  /-- VSHR (R244). -/
  | vshr (d a b : BitVec 4) (m : BitVec 3) (e : BitVec 1)
  /-- VIADD (R244). -/
  | viadd (d a b : BitVec 4) (m : BitVec 3) (e : BitVec 1)
  /-- VIMUL (R244). -/
  | vimul (d a b : BitVec 4) (m : BitVec 3) (e : BitVec 1)
  /-- VSEL (R244). -/
  | vsel (d a b : BitVec 4) (m : BitVec 3)
  /-- VCMP_EQ (R245). -/
  | vcmpEq (k : BitVec 3) (a b : BitVec 4) (m : BitVec 3) (e : BitVec 1)
  /-- VCMP_NE (R245). -/
  | vcmpNe (k : BitVec 3) (a b : BitVec 4) (m : BitVec 3) (e : BitVec 1)
  /-- VCMP_LT (R245). -/
  | vcmpLt (k : BitVec 3) (a b : BitVec 4) (m : BitVec 3) (e : BitVec 1)
  /-- VCMP_LTU (R245). -/
  | vcmpLtu (k : BitVec 3) (a b : BitVec 4) (m : BitVec 3) (e : BitVec 1)
  /-- VCMP_GE (R245). -/
  | vcmpGe (k : BitVec 3) (a b : BitVec 4) (m : BitVec 3) (e : BitVec 1)
  /-- VCMP_GEU (R245). -/
  | vcmpGeu (k : BitVec 3) (a b : BitVec 4) (m : BitVec 3) (e : BitVec 1)
  /-- VRED (R248). -/
  | vred (d a o : BitVec 4) (m : BitVec 3) (e z : BitVec 1)
  /-- VSCAN (R248). -/
  | vscan (d a o : BitVec 4) (m : BitVec 3) (e z : BitVec 1)
  /-- VPERM (R249). -/
  | vperm (d a b : BitVec 4) (m : BitVec 3) (e z : BitVec 1)
  /-- VSORT (R250). -/
  | vsort (d a b : BitVec 4) (c : BitVec 1) (m : BitVec 3) (e z : BitVec 1)
  /-- VCVT (R246). -/
  | vcvt (d a n : BitVec 4) (m : BitVec 3) (e : BitVec 1)
  /-- VPACK (R246). -/
  | vpack (d a n : BitVec 4) (m : BitVec 3) (e : BitVec 1)
  /-- VUNPACK (R246). -/
  | vunpack (d a n : BitVec 4) (m : BitVec 3) (e : BitVec 1)
  /-- MAND (R251). -/
  | mand (d a b m : BitVec 3) (e : BitVec 1)
  /-- MOR (R251). -/
  | mor (d a b m : BitVec 3) (e : BitVec 1)
  /-- MNOT (R251). -/
  | mnot (d a m : BitVec 3) (e : BitVec 1)
  /-- VBCAST (R249). -/
  | vbcast (d : BitVec 4) (a : BitVec 5) (m : BitVec 3) (e : BitVec 1)
  /-- VMOVX (R249). -/
  | vmovx (v : BitVec 4) (d b : BitVec 5)
  /-- VROT (R249). -/
  | vrot (d a : BitVec 4) (x : BitVec 5) (m : BitVec 3) (e : BitVec 1)
  /-- VSCALE (R247). -/
  | vscale (d a : BitVec 4) (x : BitVec 5) (m : BitVec 3) (e : BitVec 1)
  /-- VSETF (R247). -/
  | vsetf (d n : BitVec 4)
  /-- VFENCE (R240). -/
  | vfence
  /-- RNGKEY (R373). -/
  | rngkey (a b : BitVec 5)
  /-- RNGGEN (R374). -/
  | rnggen (d : BitVec 4) (a b : BitVec 5)
  /-- STEMP (R381). -/
  | stemp (a b : BitVec 5)
  /-- STOPK (R382). -/
  | stopk (d a b : BitVec 5)
  /-- STOPP (R383). -/
  | stopp (d a b : BitVec 5)
  /-- SMERGE (R380). -/
  | smerge (d a b : BitVec 5)
  /-- SDRAW (R384). -/
  | sdraw (d a b : BitVec 5)
  /-- SPEC_OPEN (R388). -/
  | specOpen (d a b : BitVec 5)
  /-- SPEC_APPEND (R389). -/
  | specAppend (d a b : BitVec 5)
  /-- SPEC_VERIFY (R390). -/
  | specVerify (d a b : BitVec 5)
  /-- SPEC_COMMIT (R391). -/
  | specCommit (d a : BitVec 5)
  /-- SPEC_ABORT (R392). -/
  | specAbort (d a : BitVec 5)
  /-- POST (R361). -/
  | post (a : BitVec 5)
  /-- POST_TRY (R361). -/
  | postTry (p : BitVec 3) (a : BitVec 5)
  /-- TAKE (R362). -/
  | take (d a : BitVec 5)
  /-- LAUNCH (R363). -/
  | launch (d a : BitVec 5)
  /-- LAUNCH_TRY (R363). -/
  | launchTry (p : BitVec 3) (a : BitVec 5)
  /-- SETPRED (R364). -/
  | setpred (a b : BitVec 5)
  /-- ADDSUCC (R364). -/
  | addsucc (d a b : BitVec 5)
  /-- EVICT (R367). -/
  | evict (d a : BitVec 5)
  /-- GETC (R129). -/
  | getc (d : BitVec 5) (c : BitVec 10)
  /-- SETC (R129). -/
  | setc (a : BitVec 5) (c : BitVec 10)
  /-- TRAP (R207). -/
  | trap (c : BitVec 10)
  /-- TRET (R205). -/
  | tret
  /-- BRK (R207). -/
  | brk (c : BitVec 10)
  /-- CHKERR (R207). -/
  | chkerr (d : BitVec 5)
  /-- GSTOP (R208). -/
  | gstop (a : BitVec 5)
  /-- STEPCTL (R220). -/
  | stepctl (a : BitVec 5)
  /-- SUSPEND (R365). -/
  | suspend
  /-- YIELD (R365). -/
  | yield
  /-- RETIRE (R365). -/
  | retire
  /-- NOP (R100). -/
  | nop (h : BitVec 25)
  /-- HINT (R100). -/
  | hint (h : BitVec 25)
  /-- C_HINT (R100). -/
  | cHint (h : BitVec 11)
  /-- C_ADD (R133). -/
  | cAdd (d s : BitVec 5)
  /-- C_ADDI (R133). -/
  | cAddi (d : BitVec 5) (i : BitVec 6)
  /-- C_MOVE (R133). -/
  | cMove (d s : BitVec 5)
  /-- C_LD (R133). -/
  | cLd (t : BitVec 5) (b o : BitVec 3)
  /-- C_ST (R133). -/
  | cSt (t : BitVec 5) (b o : BitVec 3)
  /-- C_BR (R133). -/
  | cBr (o : BitVec 11)
  /-- C_BRP (R133). -/
  | cBrp (n : BitVec 1) (p : BitVec 3) (o : BitVec 7)
  /-- SB_NEXT (R296). -/
  | sbNext (s d : BitVec 5)
  /-- SQ_PUSH (R296). -/
  | sqPush (t s : BitVec 5)
  /-- SQ_POP (R296). -/
  | sqPop (t s d : BitVec 5)
  /-- BQ_WAIT (R296). -/
  | bqWait (s d : BitVec 5)
  /-- ECALL (R295). -/
  | ecall
  /-- MNOP (R258). -/
  | mnop
  /-- MMA (R262). -/
  | mma (acc : BitVec 2) (init asrc : Bool) (k : BitVec 12) (addr : Word)
  /-- MMA_S (R262). -/
  | mmaS (acc : BitVec 2) (init asrc : Bool) (k : BitVec 12) (addr xval : Word) (sa sb : BitVec 14)
  /-- MLOADA (R263). -/
  | mloada (dest : Bool) (addr len : Word)
  /-- MROT (R264). -/
  | mrot (addr : Word)
  /-- MROT_LD (R264). -/
  | mrotLd (k : BitVec 12) (addr : Word)
  /-- MACC_LD (R265). -/
  | maccLd (acc : BitVec 2) (int : Bool) (addr : Word)
  /-- MACC_ST (R265). -/
  | maccSt (acc : BitVec 2) (clr conv : Bool) (ofmt : BitVec 4) (addr : Word)
  /-- MCFG (R259). -/
  | mcfg (xval : Word)
  /-- MCHK (R267). -/
  | mchk (acc acc2 : BitVec 2) (addr : Word)
  /-- MZERO (R266). -/
  | mzero (mask : BitVec 4) (int : Bool)
  /-- MFENCE (R268). -/
  | mfence
  /-- MTAG (R268). -/
  | mtag (addr xval : Word)
  /-- H_SEND (R416). -/
  | hSend (base : BitVec 3) (even : Bool) (ev : BitVec 3) (peer : BitVec 5) (ch : BitVec 6) (len : BitVec 14) (off : BitVec 24)
  /-- H_RECV (R416). -/
  | hRecv (base : BitVec 3) (even : Bool) (ev : BitVec 3) (peer : BitVec 5) (ch : BitVec 6) (len : BitVec 14) (off : BitVec 24)
  /-- H_REDUCE (R411). -/
  | hReduce (base : BitVec 3) (even : Bool) (ev : BitVec 3) (peer : BitVec 5) (ch : BitVec 6) (opr : BitVec 4) (len : BitVec 14) (off : BitVec 24)
  /-- H_COPY (R410). -/
  | hCopy (base : BitVec 3) (even : Bool) (ev sbase : BitVec 3) (len : BitVec 14) (off : BitVec 24)
  /-- H_WAIT (R413). -/
  | hWait (ev : BitVec 3) (value : BitVec 32)
  /-- H_SIGNAL (R412). -/
  | hSignal (ev : BitVec 3) (peer : BitVec 5) (value : BitVec 32)
  /-- H_LOOP (R414). -/
  | hLoop (lc : BitVec 2) (mask : BitVec 8) (back : BitVec 12) (count : BitVec 14) (stp : BitVec 24)
  /-- H_END (R415). -/
  | hEnd
  /-- RV64IMC_INSTRUCTION (R295). -/
  | rv64imc (w : BitVec 32)
  /-- RESERVED_OPCODE (R98). -/
  | reservedOpcode (detail : BitVec 8) (wide : Bool) (w : BitVec 32)
  /-- HALO_TRANSFER (R416); `inbound`: the LEN of another package's receive where it differs, or what its send brings, with marks. -/
  | haloTransfer (die : BitVec 3) (peer : BitVec 5) (comm : BitVec 16) (ch : BitVec 6) (inbound : Option (BitVec 14) ⊕ List Byte × List Bool)
  /-- HALO_SIGNAL_ARRIVAL (R412). -/
  | haloSignalArrival (die : BitVec 3)
  /-- HALO_CANCELLED (R419). -/
  | haloCancelled (die : BitVec 3) (tag : BitVec 4)
  /-- RSTORE_ARRIVAL (R423). -/
  | rstoreArrival (port : BitVec 4) (page : BitVec 12) (off : BitVec 16) (data : List Byte) (marks : List Bool)
  /-- RSTORE_ACKNOWLEDGEMENT (R424). -/
  | rstoreAcknowledgement (t : ThreadId) (refusal : Option (BitVec 8))
  /-- WAKE (R63). -/
  | wake (t : ThreadId)
  /-- EVICTION (R65). -/
  | eviction (t : ThreadId)
  /-- EVICTION_WRITEBACK (R87). -/
  | evictionWriteback (t : ThreadId)
  /-- SUSPENSION_WRITEBACK (R86). -/
  | suspensionWriteback (t : ThreadId)
  /-- DISPATCH (R354). -/
  | dispatch (t : ThreadId)
  /-- CONDENSER_ARRIVAL (R348). -/
  | condenserArrival (die : BitVec 3) (tier : BitVec 2)
  /-- PRIORITY_AGEING (R354). -/
  | priorityAgeing (die : BitVec 3) (tier : BitVec 2) (n : Nat)
  /-- AFFINITY_HINT_EXPIRY (R355). -/
  | affinityHintExpiry (die : BitVec 3) (tier : BitVec 2) (n : Nat)
  /-- PACKET_PARSE (R346). -/
  | packetParse (q : BitVec 6)
  /-- FENCE_POLL (R347). -/
  | fencePoll (q : BitVec 6)
  /-- FENCE_TIMEOUT (R347). -/
  | fenceTimeout (q : BitVec 6)
  /-- LAUNCH_ADMISSION (R343). -/
  | launchAdmission (serial : Word)
  /-- RECORD_EXPANSION (R344). -/
  | recordExpansion (serial : Word)
  /-- LAUNCH_COMPLETION (R345). -/
  | launchCompletion (serial : Word)
  /-- COMPLETION_ENTRY_WRITE (R216). -/
  | completionEntryWrite (cq : BitVec 6)
  /-- WATCHDOG_EXPIRY (R209). -/
  | watchdogExpiry (serial : Word)
  /-- PAIR_SCRUB_COMPLETE (R226). -/
  | pairScrubComplete (t : ThreadId)
  /-- FORCED_PREEMPTION (R358). -/
  | forcedPreemption (serial : Word)
  /-- CHEAP_PREEMPTION (R357). -/
  | cheapPreemption (serial : Word)
  /-- GANG_STOP (R208). -/
  | gangStop (c : CoreId) (serial : Word)
  /-- SAVE_BLOCK (R211). -/
  | saveBlock (c : CoreId)
  /-- RESTORE (R215). -/
  | restore (serial : Word)
  /-- CHANNEL_HANDSHAKE (R154). -/
  | channelHandshake (c : CoreId)
  /-- RING_MESSAGE_ARRIVAL (R156). -/
  | ringMessageArrival (c : CoreId)
  /-- MESSAGE_RETURN (R156). -/
  | messageReturn (c : CoreId) (n : Nat)
  /-- CHANNEL_TIMEOUT (R161). -/
  | channelTimeout (t : ThreadId)
  /-- CHANNEL_AUDIT (R159). -/
  | channelAudit (c : CoreId) (n : BitVec 5)
  /-- BARRIER_TIMEOUT (R164). -/
  | barrierTimeout (t : ThreadId) (recorded : Option Word)
  /-- ROW_CLEAN (R177). -/
  | rowClean (bank row : Nat)
  /-- BANK_RETIREMENT (R179). -/
  | bankRetirement (bank : Nat)
  /-- PATROL_SCRUB (R182). -/
  | patrolScrub (word : Nat)
  /-- FAULT_RECORD_RETRY (R175). -/
  | faultRecordRetry
  /-- VU_COMMAND_EXECUTE (R231). -/
  | vuCommandExecute (c : CoreId)
  /-- COPY_COMPLETE (R285). -/
  | copyComplete (c : CoreId) (tag : BitVec 6)
  /-- COPY_CANCELLED (R279). -/
  | copyCancelled (c : CoreId) (tag : BitVec 6)
  /-- LENS_OPERATION_COMPLETE (R317). -/
  | lensOperationComplete (c : CoreId)
  /-- LENS_CANCELLED (R324). -/
  | lensCancelled (c : CoreId) (tag : BitVec 3)
  /-- FLIT_RETRANSMIT (R401). -/
  | flitRetransmit (link : LinkId)
  /-- LINK_LOST (R401). -/
  | linkLost (link : LinkId)
  /-- CURRENT_GRANT (R431). -/
  | currentGrant (c : CoreId)
  /-- SLEW_END (R429). -/
  | slewEnd
  /-- SENSOR_READING (R433). -/
  | sensorReading (die : BitVec 3) (tier : BitVec 2) (clus : BitVec 4) (celsius : BitVec 8)
  /-- THERMAL_TRIP (R435). -/
  | thermalTrip
  /-- MOVED_RECORD_EXPIRY (R434). -/
  | movedRecordExpiry (die : BitVec 3) (addr : Word)
  /-- TLB_INVALIDATION_ACK (R176). -/
  | tlbInvalidationAck
  /-- MIGRATION_COPY_DONE (R187). -/
  | migrationCopyDone (stack slot : BitVec 3)
  /-- POWER_ON_RESET (R436), with the firmware of the security processor and of the device that the ROM finds. -/
  | powerOnReset (images : List Byte × List Byte)
  /-- HOST_RESET (R439), with the same two images. -/
  | hostReset (images : List Byte × List Byte)
  /-- ATTESTATION_QUOTE (R438). -/
  | attestationQuote
  /-- RECOVERY_VERIFY (R445) of an image of the device, or of the security processor. -/
  | recoveryVerify (device : Bool)
  /-- PSCTL_REQUEST (R428). -/
  | psctlRequest (v : Word)
  /-- REPLAY (R175). -/
  | replay (serial : Word)
  /-- TLBINV (R176). -/
  | tlbinv (v : Word)
  /-- MIGRATION_START (R187). -/
  | migrationStart (v : Word)
  /-- MIGRATION_END (R187). -/
  | migrationEnd (v : Word)
  /-- QUOTE_REQUEST (R438). -/
  | quoteRequest (nonce : BitVec 256) (buf : Word)
  /-- DEBUG_TOKEN (R440). -/
  | debugToken (level : BitVec 2) (token : List Byte)
  /-- RECOVERY_GO (R445). -/
  | recoveryGo (v : Word)
  /-- HALT (R446). -/
  | halt (v : Word)
  /-- RESUME (R446). -/
  | resume (v : Word)
  /-- STEP (R446). -/
  | step (v : Word)
  /-- CTXRES (R446). -/
  | ctxres (v : Word)
  /-- RESAVE (R446). -/
  | resave (v : Word)
  /-- SQ_DOORBELL (R444). -/
  | sqDoorbell (q : BitVec 6) (v : Word)
  /-- CQ_CONSUMER_INDEX (R444). -/
  | cqConsumerIndex (q : BitVec 6) (v : Word)
  /-- QUEUE_ENABLE (R444). -/
  | queueEnable (completion : Bool) (q : BitVec 6) (v : Word)
  /-- QUEUE_ABORT (R444). -/
  | queueAbort (q : BitVec 6) (v : Word)
  /-- QUEUE_RESUME (R444). -/
  | queueResume (q : BitVec 6) (v : Word)
  /-- SBQ_DATA (R298). -/
  | sbqData (port : BitVec 2) (value : BitVec 60)
  /-- SBQ_SKIP (R299). -/
  | sbqSkip (port level : BitVec 2)
  /-- SBQ_STOP (R299). -/
  | sbqStop (port : BitVec 2)
  /-- PFCTL_CLR (R186). -/
  | pfctlClr (v : Word)
  /-- REGISTER_WRITE (R443). -/
  | registerWrite (off : BitVec 25) (v : Word)
  /-- H_COPY_COMPLETION (R410). -/
  | hCopyCompletion (die : BitVec 3) (tag : BitVec 4) (n : Nat)
  /-- REPAIR_RECORD_RESET (R441). -/
  | repairRecordReset
deriving DecidableEq, Repr

end Sys2Proof
end

