-- ==== Sys2Proof/WellFormed.lean ====
section
/-! DEFINITION. Which instructions are well formed: the field values that 05 R98 permits. -/

namespace Sys2Proof

/-- ord and sc of a load (02 R21, 07 R135): plain, or acquire at a scope. -/
def ordLoad (o : BitVec 2) (s : BitVec 3) : Bool := (o == 0 && s == 0) || (o == 1 && decide (s.toNat < 6))
/-- ord and sc of a store: plain, or release at a scope. -/
def ordStore (o : BitVec 2) (s : BitVec 3) : Bool := (o == 0 && s == 0) || (o == 2 && decide (s.toNat < 6))
/-- ord and sc of an atomic: plain, acquire or release. -/
def ordAmo (o : BitVec 2) (s : BitVec 3) : Bool := (o == 0 && s == 0) || ((o == 1 || o == 2) && decide (s.toNat < 6))
/-- m and me of a vector form (05 R92). -/
def maskOk (m : BitVec 3) (e : BitVec 1) : Bool := e == 1 || m == 0

/-- Well-formed instructions. Commands and events are unrestricted: their own meanings check them. -/
def Instr.wf (i : Instr) : Bool :=
  match i with
  | .add _ _ _ => true
  | .sub _ _ _ => true
  | .and _ _ _ => true
  | .or _ _ _ => true
  | .xor _ _ _ => true
  | .sll _ _ _ => true
  | .srl _ _ _ => true
  | .sra _ _ _ => true
  | .min _ _ _ => true
  | .max _ _ _ => true
  | .minu _ _ _ => true
  | .maxu _ _ _ => true
  | .clz _ _ => true
  | .ctz _ _ => true
  | .popc _ _ => true
  | .mul _ _ _ => true
  | .mulh _ _ _ => true
  | .mulhu _ _ _ => true
  | .div _ _ _ => true
  | .divu _ _ _ => true
  | .rem _ _ _ => true
  | .remu _ _ _ => true
  | .addi _ _ _ => true
  | .andi _ _ _ => true
  | .ori _ _ _ => true
  | .xori _ _ _ => true
  | .adda _ _ _ _ => true
  | .slli _ _ _ => true
  | .srli _ _ _ => true
  | .srai _ _ _ => true
  | .bext _ _ _ l w => decide (l.toNat + w.toNat < 64)
  | .bins _ _ l w => decide (l.toNat + w.toNat < 64)
  | .ldk _ _ => true
  | .move _ _ => true
  | .lde _ _ => true
  | .moveXE _ _ => true
  | .sel _ _ _ _ _ => true
  | .pand _ _ _ _ _ => true
  | .por _ _ _ _ _ => true
  | .pnot _ _ => true
  | .pmov _ _ _ => true
  | .br _ => true
  | .brp _ _ _ => true
  | .jal _ _ => true
  | .jr _ _ => true
  | .ld _ _ _ o s _ => ordLoad o s
  | .st _ _ _ o s _ => ordStore o s
  | .ldq _ _ o s _ => ordLoad o s
  | .stq _ _ o s _ => ordStore o s
  | .ldfKeep _ _ o s _ => ordLoad o s
  | .ldfTake _ _ o s _ => ordLoad o s
  | .stf _ _ o s _ => ordStore o s
  | .few _ _ => true
  | .feq _ _ _ => true
  | .amoadd _ _ _ _ o s => ordAmo o s
  | .amomin _ _ _ _ _ o s => ordAmo o s
  | .amomax _ _ _ _ _ o s => ordAmo o s
  | .amoand _ _ _ _ o s => ordAmo o s
  | .amoor _ _ _ _ o s => ordAmo o s
  | .amoxor _ _ _ _ o s => ordAmo o s
  | .amoswp _ _ _ _ o s => ordAmo o s
  | .amocas _ _ _ _ o s => ordAmo o s
  | .bankopAdd _ _ c _ => decide (c.toNat < 5)
  | .bankopMax _ _ c _ => decide (c.toNat < 5)
  | .bankopMin _ _ c _ => decide (c.toNat < 5)
  | .bankopAxpy _ _ c _ => decide (c.toNat < 5)
  | .fence s => decide (s.toNat < 6)
  | .cmp _ c _ _ => decide (c.toNat < 6)
  | .cmpi _ c _ _ => decide (c.toNat < 6)
  | .barinit _ _ => true
  | .barArrive _ => true
  | .barWait _ => true
  | .htest _ _ => true
  | .hcancel _ => true
  | .movhHH _ _ => true
  | .ffdone => true
  | .movhHX _ _ => true
  | .movhXH _ _ => true
  | .send _ _ => true
  | .recv _ _ => true
  | .sendt _ _ => true
  | .recvt _ _ => true
  | .chset _ _ => true
  | .chreset _ => true
  | .msgbind _ => true
  | .waitall _ => true
  | .waitany _ => true
  | .cpy _ _ _ _ => true
  | .cpyT8 _ _ _ _ => true
  | .cpyT16 _ _ _ _ => true
  | .cpys _ _ _ _ => true
  | .cpyg _ _ _ _ _ => true
  | .pfetch _ _ => true
  | .rstore _ _ _ => true
  | .strmBind _ _ => true
  | .strmEnd _ => true
  | .restrictWsum _ _ _ _ => true
  | .restrictMax _ _ _ _ => true
  | .restrictMin _ _ _ _ => true
  | .restrictGather _ _ _ _ => true
  | .prolongInterp _ _ _ _ => true
  | .prolongBcast _ _ _ _ => true
  | .prolongScatter _ _ _ _ => true
  | .lwload _ _ _ _ => true
  | .lcfg _ _ => true
  | .lstat _ => true
  | .lwait => true
  | .haloRun _ _ _ => true
  | .haloStat _ _ => true
  | .vld _ _ _ m e => maskOk m e
  | .vst _ _ m e => maskOk m e
  | .vlds _ _ _ _ m e => maskOk m e
  | .vldx _ _ _ _ m e => maskOk m e
  | .vstx _ _ _ m e => maskOk m e
  | .vadd _ _ _ m e => maskOk m e
  | .vsub _ _ _ m e => maskOk m e
  | .vmul _ _ _ m e => maskOk m e
  | .vfma _ _ _ _ m e => maskOk m e
  | .vfms _ _ _ _ m e => maskOk m e
  | .vmin _ _ _ m e => maskOk m e
  | .vmax _ _ _ m e => maskOk m e
  | .vabs _ _ m e => maskOk m e
  | .vneg _ _ m e => maskOk m e
  | .vrcp _ _ m e => maskOk m e
  | .vrsq _ _ m e => maskOk m e
  | .vexp2 _ _ m e => maskOk m e
  | .vlog2 _ _ m e => maskOk m e
  | .vtanh _ _ m e => maskOk m e
  | .vand _ _ _ m e => maskOk m e
  | .vor _ _ _ m e => maskOk m e
  | .vxor _ _ _ m e => maskOk m e
  | .vshl _ _ _ m e => maskOk m e
  | .vshr _ _ _ m e => maskOk m e
  | .viadd _ _ _ m e => maskOk m e
  | .vimul _ _ _ m e => maskOk m e
  | .vsel _ _ _ _ => true
  | .vcmpEq _ _ _ m e => maskOk m e
  | .vcmpNe _ _ _ m e => maskOk m e
  | .vcmpLt _ _ _ m e => maskOk m e
  | .vcmpLtu _ _ _ m e => maskOk m e
  | .vcmpGe _ _ _ m e => maskOk m e
  | .vcmpGeu _ _ _ m e => maskOk m e
  | .vred _ _ o m e _ => maskOk m e && decide (o.toNat < 6)
  | .vscan _ _ o m e _ => maskOk m e && decide (o.toNat < 6)
  | .vperm _ _ _ m e _ => maskOk m e
  | .vsort _ _ _ _ m e _ => maskOk m e
  | .vcvt _ _ _ m e => maskOk m e
  | .vpack _ _ _ m e => maskOk m e
  | .vunpack _ _ _ m e => maskOk m e
  | .mand _ _ _ m e => maskOk m e
  | .mor _ _ _ m e => maskOk m e
  | .mnot _ _ m e => maskOk m e
  | .vbcast _ _ m e => maskOk m e
  | .vmovx _ _ _ => true
  | .vrot _ _ _ m e => maskOk m e
  | .vscale _ _ _ m e => maskOk m e
  | .vsetf _ _ => true
  | .vfence => true
  | .rngkey _ _ => true
  | .rnggen _ _ _ => true
  | .stemp _ _ => true
  | .stopk _ _ _ => true
  | .stopp _ _ _ => true
  | .smerge _ _ _ => true
  | .sdraw _ _ _ => true
  | .specOpen _ _ _ => true
  | .specAppend _ _ _ => true
  | .specVerify _ _ _ => true
  | .specCommit _ _ => true
  | .specAbort _ _ => true
  | .post _ => true
  | .postTry _ _ => true
  | .take _ _ => true
  | .launch _ _ => true
  | .launchTry _ _ => true
  | .setpred _ _ => true
  | .addsucc _ _ _ => true
  | .evict _ _ => true
  | .getc _ _ => true
  | .setc _ _ => true
  | .trap _ => true
  | .tret => true
  | .brk _ => true
  | .chkerr _ => true
  | .gstop _ => true
  | .stepctl _ => true
  | .suspend => true
  | .yield => true
  | .retire => true
  | .nop _ => true
  | .hint _ => true
  | .cHint _ => true
  | .cAdd _ _ => true
  | .cAddi _ _ => true
  | .cMove _ _ => true
  | .cLd _ _ _ => true
  | .cSt _ _ _ => true
  | .cBr _ => true
  | .cBrp _ _ _ => true
  | .sbNext _ _ => true
  | .sqPush _ _ => true
  | .sqPop _ _ _ => true
  | .bqWait _ _ => true
  | .ecall => true
  | .mnop => true
  | .mma _ _ _ _ _ => true
  | .mmaS _ _ _ _ _ _ _ _ => true
  | .mloada _ _ _ => true
  | .mrot _ => true
  | .mrotLd _ _ => true
  | .maccLd _ _ _ => true
  | .maccSt _ _ _ _ _ => true
  | .mcfg _ => true
  | .mchk _ _ _ => true
  | .mzero _ _ => true
  | .mfence => true
  | .mtag _ _ => true
  | .hSend _ _ _ _ _ _ _ => true
  | .hRecv _ _ _ _ _ _ _ => true
  | .hReduce _ _ _ _ _ _ _ _ => true
  | .hCopy _ _ _ _ _ _ => true
  | .hWait _ _ => true
  | .hSignal _ _ _ => true
  | .hLoop _ _ _ _ _ => true
  | .hEnd => true
  | .rv64imc _ => true
  | .reservedOpcode _ _ _ => true
  | .haloTransfer _ _ _ _ _ => true
  | .haloSignalArrival _ => true
  | .haloCancelled _ _ => true
  | .rstoreArrival _ _ _ _ _ => true
  | .rstoreAcknowledgement _ _ => true
  | .wake _ => true
  | .eviction _ => true
  | .evictionWriteback _ => true
  | .suspensionWriteback _ => true
  | .dispatch _ => true
  | .condenserArrival _ _ => true
  | .priorityAgeing _ _ _ => true
  | .affinityHintExpiry _ _ _ => true
  | .packetParse _ => true
  | .fencePoll _ => true
  | .fenceTimeout _ => true
  | .launchAdmission _ => true
  | .recordExpansion _ => true
  | .launchCompletion _ => true
  | .completionEntryWrite _ => true
  | .watchdogExpiry _ => true
  | .pairScrubComplete _ => true
  | .forcedPreemption _ => true
  | .cheapPreemption _ => true
  | .gangStop _ _ => true
  | .saveBlock _ => true
  | .restore _ => true
  | .channelHandshake _ => true
  | .ringMessageArrival _ => true
  | .messageReturn _ _ => true
  | .channelTimeout _ => true
  | .channelAudit _ _ => true
  | .barrierTimeout _ _ => true
  | .rowClean _ _ => true
  | .bankRetirement _ => true
  | .patrolScrub _ => true
  | .faultRecordRetry => true
  | .vuCommandExecute _ => true
  | .copyComplete _ _ => true
  | .copyCancelled _ _ => true
  | .lensOperationComplete _ => true
  | .lensCancelled _ _ => true
  | .flitRetransmit _ => true
  | .linkLost _ => true
  | .currentGrant _ => true
  | .slewEnd => true
  | .sensorReading _ _ _ _ => true
  | .thermalTrip => true
  | .movedRecordExpiry _ _ => true
  | .tlbInvalidationAck => true
  | .migrationCopyDone _ _ => true
  | .powerOnReset _ => true
  | .hostReset _ => true
  | .attestationQuote => true
  | .recoveryVerify _ => true
  | .psctlRequest _ => true
  | .replay _ => true
  | .tlbinv _ => true
  | .migrationStart _ => true
  | .migrationEnd _ => true
  | .quoteRequest _ _ => true
  | .debugToken _ _ => true
  | .recoveryGo _ => true
  | .halt _ => true
  | .resume _ => true
  | .step _ => true
  | .ctxres _ => true
  | .resave _ => true
  | .sqDoorbell _ _ => true
  | .cqConsumerIndex _ _ => true
  | .queueEnable _ _ _ => true
  | .queueAbort _ _ => true
  | .queueResume _ _ => true
  | .sbqData _ _ => true
  | .sbqSkip _ _ => true
  | .sbqStop _ => true
  | .pfctlClr _ => true
  | .registerWrite _ _ => true
  | .hCopyCompletion _ _ _ => true
  | .repairRecordReset => true

end Sys2Proof
end

