-- ==== Sys2Proof/Decode.lean ====
section
/-! DEFINITION. The decoders of the core's 32-bit and 16-bit words and of the hart's words, why a pattern is refused, and
the encoder (05 R88 to R103; 13 R296). Words are numbered as the encoding tables number them: bit 31 first in fetch order. -/

namespace Sys2Proof

/-- Why a pattern is not an instruction (05 R98), with the detail of ILLEGAL (10 R201). -/
inductive Reject where
  /-- A reserved major or compact opcode: detail 0x01. -/
  | reservedOpcode
  /-- An unassigned sub-opcode: detail 0x02. -/
  | unassignedSub
  /-- A field violation: detail 0x03. -/
  | fieldViolation
  /-- A stream register outside v12 to v15 (13 R293), or a SUSP pattern that is none of the three forms (16 R365): detail 0x07. -/
  | operandRange
deriving DecidableEq, Repr

/-- Detail of the ILLEGAL trap. -/
def Reject.detail (r : Reject) : BitVec 8 :=
  match r with
  | .reservedOpcode => 1
  | .unassignedSub => 2
  | .fieldViolation => 3
  | .operandRange => 7

/-- A field of a word, from bit `lo`. -/
def fb {n : Nat} (w lo : Nat) : BitVec n := BitVec.ofNat n (w / 2 ^ lo)

/-- The `n` bits of a word from bit `lo` are zero. -/
def zf (w lo n : Nat) : Bool := w / 2 ^ lo % 2 ^ n == 0

/-- Accept an instruction whose fixed fields are right and whose variable fields are permitted (05 R98). -/
def checked (fixed : Bool) (i : Instr) : Except Reject Instr :=
  if fixed && i.wf then .ok i else .error .fieldViolation

/-- Major opcode 0x00: sub-opcode in bits 4:0 (05 R94). -/
def decAlu (w : Nat) : Except Reject Instr :=
  match w % 32 with
  | 0 => checked (zf w 5 5) (.add (fb w 20) (fb w 15) (fb w 10))
  | 1 => checked (zf w 5 5) (.sub (fb w 20) (fb w 15) (fb w 10))
  | 2 => checked (zf w 5 5) (.and (fb w 20) (fb w 15) (fb w 10))
  | 3 => checked (zf w 5 5) (.or (fb w 20) (fb w 15) (fb w 10))
  | 4 => checked (zf w 5 5) (.xor (fb w 20) (fb w 15) (fb w 10))
  | 5 => checked (zf w 5 5) (.sll (fb w 20) (fb w 15) (fb w 10))
  | 6 => checked (zf w 5 5) (.srl (fb w 20) (fb w 15) (fb w 10))
  | 7 => checked (zf w 5 5) (.sra (fb w 20) (fb w 15) (fb w 10))
  | 8 => checked (zf w 5 5) (.min (fb w 20) (fb w 15) (fb w 10))
  | 9 => checked (zf w 5 5) (.max (fb w 20) (fb w 15) (fb w 10))
  | 10 => checked (zf w 5 5) (.minu (fb w 20) (fb w 15) (fb w 10))
  | 11 => checked (zf w 5 5) (.maxu (fb w 20) (fb w 15) (fb w 10))
  | 12 => checked (zf w 5 10) (.clz (fb w 20) (fb w 15))
  | 13 => checked (zf w 5 10) (.ctz (fb w 20) (fb w 15))
  | 14 => checked (zf w 5 10) (.popc (fb w 20) (fb w 15))
  | 16 => checked (zf w 5 5) (.mul (fb w 20) (fb w 15) (fb w 10))
  | 17 => checked (zf w 5 5) (.mulh (fb w 20) (fb w 15) (fb w 10))
  | 18 => checked (zf w 5 5) (.mulhu (fb w 20) (fb w 15) (fb w 10))
  | 20 => checked (zf w 5 5) (.div (fb w 20) (fb w 15) (fb w 10))
  | 21 => checked (zf w 5 5) (.divu (fb w 20) (fb w 15) (fb w 10))
  | 22 => checked (zf w 5 5) (.rem (fb w 20) (fb w 15) (fb w 10))
  | 23 => checked (zf w 5 5) (.remu (fb w 20) (fb w 15) (fb w 10))
  | _ => .error .unassignedSub

/-- Major opcode 0x06: sub-opcode in bits 14:8 (05 R94). -/
def decShi (w : Nat) : Except Reject Instr :=
  match w / 256 % 128 with
  | 0 => checked (zf w 6 2) (.slli (fb w 20) (fb w 15) (fb w 0))
  | 1 => checked (zf w 6 2) (.srli (fb w 20) (fb w 15) (fb w 0))
  | 2 => checked (zf w 6 2) (.srai (fb w 20) (fb w 15) (fb w 0))
  | _ => .error .unassignedSub

/-- Major opcode 0x07: sub-opcode in bits 14:14 (05 R94). -/
def decBf (w : Nat) : Except Reject Instr :=
  match w / 16384 % 2 with
  | 0 => checked (zf w 0 1) (.bext (fb w 20) (fb w 15) (fb w 13) (fb w 7) (fb w 1))
  | 1 => checked (zf w 0 1 && zf w 13 1) (.bins (fb w 20) (fb w 15) (fb w 7) (fb w 1))
  | _ => .error .unassignedSub

/-- Major opcode 0x09: sub-opcode in bits 3:0 (05 R94). -/
def decMov (w : Nat) : Except Reject Instr :=
  match w % 16 with
  | 0 => checked (zf w 4 11) (.move (fb w 20) (fb w 15))
  | 1 => checked (zf w 4 11 && zf w 23 2) (.lde (fb w 20) (fb w 15))
  | 2 => checked (zf w 4 11 && zf w 18 2) (.moveXE (fb w 20) (fb w 15))
  | _ => .error .unassignedSub

/-- Major opcode 0x0B: sub-opcode in bits 1:0 (05 R94). -/
def decPl (w : Nat) : Except Reject Instr :=
  match w % 4 with
  | 0 => checked (zf w 2 12) (.pand (fb w 22) (fb w 19) (fb w 16) (fb w 15) (fb w 14))
  | 1 => checked (zf w 2 12) (.por (fb w 22) (fb w 19) (fb w 16) (fb w 15) (fb w 14))
  | 2 => checked (zf w 2 17) (.pnot (fb w 22) (fb w 19))
  | 3 => checked (zf w 2 13 && zf w 16 3) (.pmov (fb w 22) (fb w 19) (fb w 15))
  | _ => .error .unassignedSub

/-- Major opcode 0x12: sub-opcode in bits 14:13 (05 R94). -/
def decQw (w : Nat) : Except Reject Instr :=
  match w / 8192 % 4 with
  | 0 => checked (zf w 20 3) (.ldq (fb w 23) (fb w 15) (fb w 11) (fb w 8) (fb w 0))
  | 1 => checked (zf w 20 3) (.stq (fb w 23) (fb w 15) (fb w 11) (fb w 8) (fb w 0))
  | _ => .error .unassignedSub

/-- Major opcode 0x13: sub-opcode in bits 14:13 (05 R94). -/
def decFe (w : Nat) : Except Reject Instr :=
  match w / 8192 % 4 with
  | 0 => checked (true) (.ldfKeep (fb w 20) (fb w 15) (fb w 11) (fb w 8) (fb w 0))
  | 1 => checked (true) (.ldfTake (fb w 20) (fb w 15) (fb w 11) (fb w 8) (fb w 0))
  | 2 => checked (true) (.stf (fb w 20) (fb w 15) (fb w 11) (fb w 8) (fb w 0))
  | 3 => checked (zf w 8 5 && zf w 20 5) (.few (fb w 15) (fb w 0))
  | _ => .error .unassignedSub

/-- Major opcode 0x15: sub-opcode in bits 9:7 (05 R94). -/
def decAmo (w : Nat) : Except Reject Instr :=
  match w / 128 % 8 with
  | 0 => checked (zf w 6 1) (.amoadd (fb w 20) (fb w 15) (fb w 10) (fb w 5) (fb w 3) (fb w 0))
  | 1 => checked (true) (.amomin (fb w 20) (fb w 15) (fb w 10) (fb w 6) (fb w 5) (fb w 3) (fb w 0))
  | 2 => checked (true) (.amomax (fb w 20) (fb w 15) (fb w 10) (fb w 6) (fb w 5) (fb w 3) (fb w 0))
  | 3 => checked (zf w 6 1) (.amoand (fb w 20) (fb w 15) (fb w 10) (fb w 5) (fb w 3) (fb w 0))
  | 4 => checked (zf w 6 1) (.amoor (fb w 20) (fb w 15) (fb w 10) (fb w 5) (fb w 3) (fb w 0))
  | 5 => checked (zf w 6 1) (.amoxor (fb w 20) (fb w 15) (fb w 10) (fb w 5) (fb w 3) (fb w 0))
  | 6 => checked (zf w 6 1) (.amoswp (fb w 20) (fb w 15) (fb w 10) (fb w 5) (fb w 3) (fb w 0))
  | 7 => checked (zf w 6 1) (.amocas (fb w 20) (fb w 15) (fb w 10) (fb w 5) (fb w 3) (fb w 0))
  | _ => .error .unassignedSub

/-- Major opcode 0x16: sub-opcode in bits 14:12 (05 R94). -/
def decBankop (w : Nat) : Except Reject Instr :=
  match w / 4096 % 8 with
  | 0 => checked (zf w 0 5 && zf w 20 3) (.bankopAdd (fb w 23) (fb w 15) (fb w 8) (fb w 5))
  | 1 => checked (zf w 0 5 && zf w 20 3) (.bankopMax (fb w 23) (fb w 15) (fb w 8) (fb w 5))
  | 2 => checked (zf w 0 5 && zf w 20 3) (.bankopMin (fb w 23) (fb w 15) (fb w 8) (fb w 5))
  | 3 => checked (zf w 0 5 && zf w 20 3) (.bankopAxpy (fb w 23) (fb w 15) (fb w 8) (fb w 5))
  | _ => .error .unassignedSub

/-- Major opcode 0x20: sub-opcode in bits 3:0 (05 R94). -/
def decBar (w : Nat) : Except Reject Instr :=
  match w % 16 with
  | 0 => checked (zf w 4 6 && zf w 20 5) (.barinit (fb w 15) (fb w 10))
  | 1 => checked (zf w 4 11 && zf w 20 5) (.barArrive (fb w 15))
  | 2 => checked (zf w 4 11 && zf w 20 5) (.barWait (fb w 15))
  | _ => .error .unassignedSub

/-- Major opcode 0x21: sub-opcode in bits 3:0 (05 R94). -/
def decHnd (w : Nat) : Except Reject Instr :=
  match w % 16 with
  | 0 => checked (zf w 4 11 && zf w 19 1 && zf w 23 2) (.htest (fb w 20) (fb w 15))
  | 1 => checked (zf w 4 11 && zf w 19 6) (.hcancel (fb w 15))
  | 2 => checked (zf w 4 11 && zf w 19 1 && zf w 24 1) (.movhHH (fb w 20) (fb w 15))
  | 3 => checked (zf w 4 21) (.ffdone)
  | 4 => checked (zf w 4 11 && zf w 24 1) (.movhHX (fb w 20) (fb w 15))
  | 5 => checked (zf w 4 11 && zf w 19 1) (.movhXH (fb w 20) (fb w 15))
  | _ => .error .unassignedSub

/-- Major opcode 0x24: sub-opcode in bits 13:10 (05 R94). -/
def decCh (w : Nat) : Except Reject Instr :=
  match w / 1024 % 16 with
  | 0 => checked (zf w 0 10 && zf w 14 2) (.send (fb w 20) (fb w 16))
  | 1 => checked (zf w 0 10 && zf w 14 2) (.recv (fb w 20) (fb w 16))
  | 2 => checked (zf w 0 10 && zf w 14 2 && zf w 20 3) (.sendt (fb w 23) (fb w 16))
  | 3 => checked (zf w 0 10 && zf w 14 2 && zf w 20 3) (.recvt (fb w 23) (fb w 16))
  | 4 => checked (zf w 0 10 && zf w 14 2) (.chset (fb w 20) (fb w 16))
  | 5 => checked (zf w 0 10 && zf w 14 2 && zf w 20 5) (.chreset (fb w 16))
  | 6 => checked (zf w 0 10 && zf w 14 6) (.msgbind (fb w 20))
  | _ => .error .unassignedSub

/-- Major opcode 0x27: sub-opcode in bits 24:24 (05 R94). -/
def decWait (w : Nat) : Except Reject Instr :=
  match w / 16777216 % 2 with
  | 0 => checked (zf w 16 8) (.waitall (fb w 0))
  | 1 => checked (zf w 16 8) (.waitany (fb w 0))
  | _ => .error .unassignedSub

/-- Major opcode 0x28: sub-opcode in bits 4:0 (05 R94). -/
def decCpy (w : Nat) : Except Reject Instr :=
  match w % 32 with
  | 0 => checked (zf w 20 1) (.cpy (fb w 21) (fb w 15) (fb w 10) (fb w 5))
  | 1 => checked (zf w 20 1) (.cpyT8 (fb w 21) (fb w 15) (fb w 10) (fb w 5))
  | 2 => checked (zf w 20 1) (.cpyT16 (fb w 21) (fb w 15) (fb w 10) (fb w 5))
  | _ => .error .unassignedSub

/-- Major opcode 0x29: sub-opcode in bits 4:0 (05 R94). -/
def decCpys (w : Nat) : Except Reject Instr :=
  match w % 32 with
  | 0 => checked (zf w 20 1) (.cpys (fb w 21) (fb w 15) (fb w 10) (fb w 5))
  | _ => .error .unassignedSub

/-- Major opcode 0x2A: CPYG, its width in q[1:0] (05 R94). -/
def decCpyg (w : Nat) : Except Reject Instr :=
  if w / 4 % 8 ≠ 0 then .error .unassignedSub
  else checked (zf w 20 1) (.cpyg (fb w 21) (fb w 15) (fb w 10) (fb w 5) (fb w 0))

/-- Major opcode 0x2B: sub-opcode in bits 4:0 (05 R94). -/
def decPfetch (w : Nat) : Except Reject Instr :=
  match w % 32 with
  | 0 => checked (zf w 15 10) (.pfetch (fb w 10) (fb w 5))
  | _ => .error .unassignedSub

/-- Major opcode 0x2C: sub-opcode in bits 4:0 (05 R94). -/
def decRstore (w : Nat) : Except Reject Instr :=
  match w % 32 with
  | 0 => checked (zf w 20 5) (.rstore (fb w 15) (fb w 10) (fb w 5))
  | _ => .error .unassignedSub

/-- Major opcode 0x2D: sub-opcode in bits 3:0 (05 R94). -/
def decStrm (w : Nat) : Except Reject Instr :=
  match w % 16 with
  | 0 => if w / 4194304 % 8 ≠ 3 then .error .operandRange else checked (zf w 4 11) (.strmBind (fb w 20) (fb w 15))
  | 1 => if w / 4194304 % 8 ≠ 3 then .error .operandRange else checked (zf w 4 16) (.strmEnd (fb w 20))
  | _ => .error .unassignedSub

/-- Major opcode 0x2E: sub-opcode in bits 4:0 (05 R94). -/
def decLens (w : Nat) : Except Reject Instr :=
  match w % 32 with
  | 0 => checked (zf w 20 1) (.restrictWsum (fb w 21) (fb w 15) (fb w 10) (fb w 5))
  | 1 => checked (zf w 20 1) (.restrictMax (fb w 21) (fb w 15) (fb w 10) (fb w 5))
  | 2 => checked (zf w 20 1) (.restrictMin (fb w 21) (fb w 15) (fb w 10) (fb w 5))
  | 3 => checked (zf w 20 1) (.restrictGather (fb w 21) (fb w 15) (fb w 10) (fb w 5))
  | 8 => checked (zf w 20 1) (.prolongInterp (fb w 21) (fb w 15) (fb w 10) (fb w 5))
  | 9 => checked (zf w 20 1) (.prolongBcast (fb w 21) (fb w 15) (fb w 10) (fb w 5))
  | 10 => checked (zf w 20 1) (.prolongScatter (fb w 21) (fb w 15) (fb w 10) (fb w 5))
  | 16 => checked (zf w 20 1) (.lwload (fb w 21) (fb w 15) (fb w 10) (fb w 5))
  | 24 => checked (zf w 5 5 && zf w 20 5) (.lcfg (fb w 15) (fb w 10))
  | 25 => checked (zf w 5 10 && zf w 20 5) (.lstat (fb w 15))
  | 26 => checked (zf w 5 20) (.lwait)
  | _ => .error .unassignedSub

/-- Major opcode 0x2F: sub-opcode in bits 4:0 (05 R94). -/
def decHalo (w : Nat) : Except Reject Instr :=
  match w % 32 with
  | 0 => checked (zf w 15 6) (.haloRun (fb w 21) (fb w 10) (fb w 5))
  | 1 => checked (zf w 5 10 && zf w 20 1) (.haloStat (fb w 21) (fb w 15))
  | _ => .error .unassignedSub

/-- Major opcode 0x30: sub-opcode in bits 2:0 (05 R94). -/
def decVmem (w : Nat) : Except Reject Instr :=
  match w % 8 with
  | 0 => checked (zf w 11 5) (.vld (fb w 21) (fb w 16) (fb w 7) (fb w 4) (fb w 3))
  | 1 => checked (zf w 7 9) (.vst (fb w 21) (fb w 16) (fb w 4) (fb w 3))
  | 2 => checked (true) (.vlds (fb w 21) (fb w 16) (fb w 11) (fb w 7) (fb w 4) (fb w 3))
  | 3 => checked (zf w 15 1) (.vldx (fb w 21) (fb w 16) (fb w 11) (fb w 7) (fb w 4) (fb w 3))
  | 4 => checked (zf w 7 4 && zf w 15 1) (.vstx (fb w 21) (fb w 16) (fb w 11) (fb w 4) (fb w 3))
  | _ => .error .unassignedSub

/-- Major opcode 0x31: sub-opcode in bits 3:0 (05 R94). -/
def decVfp (w : Nat) : Except Reject Instr :=
  match w % 16 with
  | 0 => checked (zf w 4 1 && zf w 9 4) (.vadd (fb w 21) (fb w 17) (fb w 13) (fb w 6) (fb w 5))
  | 1 => checked (zf w 4 1 && zf w 9 4) (.vsub (fb w 21) (fb w 17) (fb w 13) (fb w 6) (fb w 5))
  | 2 => checked (zf w 4 1 && zf w 9 4) (.vmul (fb w 21) (fb w 17) (fb w 13) (fb w 6) (fb w 5))
  | 3 => checked (zf w 4 1) (.vfma (fb w 21) (fb w 17) (fb w 13) (fb w 9) (fb w 6) (fb w 5))
  | 4 => checked (zf w 4 1) (.vfms (fb w 21) (fb w 17) (fb w 13) (fb w 9) (fb w 6) (fb w 5))
  | 5 => checked (zf w 4 1 && zf w 9 4) (.vmin (fb w 21) (fb w 17) (fb w 13) (fb w 6) (fb w 5))
  | 6 => checked (zf w 4 1 && zf w 9 4) (.vmax (fb w 21) (fb w 17) (fb w 13) (fb w 6) (fb w 5))
  | 7 => checked (zf w 4 1 && zf w 9 8) (.vabs (fb w 21) (fb w 17) (fb w 6) (fb w 5))
  | 8 => checked (zf w 4 1 && zf w 9 8) (.vneg (fb w 21) (fb w 17) (fb w 6) (fb w 5))
  | 9 => checked (zf w 4 1 && zf w 9 8) (.vrcp (fb w 21) (fb w 17) (fb w 6) (fb w 5))
  | 10 => checked (zf w 4 1 && zf w 9 8) (.vrsq (fb w 21) (fb w 17) (fb w 6) (fb w 5))
  | 11 => checked (zf w 4 1 && zf w 9 8) (.vexp2 (fb w 21) (fb w 17) (fb w 6) (fb w 5))
  | 12 => checked (zf w 4 1 && zf w 9 8) (.vlog2 (fb w 21) (fb w 17) (fb w 6) (fb w 5))
  | 13 => checked (zf w 4 1 && zf w 9 8) (.vtanh (fb w 21) (fb w 17) (fb w 6) (fb w 5))
  | _ => .error .unassignedSub

/-- Major opcode 0x32: sub-opcode in bits 3:0 (05 R94). -/
def decVint (w : Nat) : Except Reject Instr :=
  match w % 16 with
  | 0 => checked (zf w 4 1 && zf w 9 4) (.vand (fb w 21) (fb w 17) (fb w 13) (fb w 6) (fb w 5))
  | 1 => checked (zf w 4 1 && zf w 9 4) (.vor (fb w 21) (fb w 17) (fb w 13) (fb w 6) (fb w 5))
  | 2 => checked (zf w 4 1 && zf w 9 4) (.vxor (fb w 21) (fb w 17) (fb w 13) (fb w 6) (fb w 5))
  | 3 => checked (zf w 4 1 && zf w 9 4) (.vshl (fb w 21) (fb w 17) (fb w 13) (fb w 6) (fb w 5))
  | 4 => checked (zf w 4 1 && zf w 9 4) (.vshr (fb w 21) (fb w 17) (fb w 13) (fb w 6) (fb w 5))
  | 5 => checked (zf w 4 1 && zf w 9 4) (.viadd (fb w 21) (fb w 17) (fb w 13) (fb w 6) (fb w 5))
  | 6 => checked (zf w 4 1 && zf w 9 4) (.vimul (fb w 21) (fb w 17) (fb w 13) (fb w 6) (fb w 5))
  | 7 => checked (zf w 4 1 && zf w 9 4 && w / 32 % 2 == 1) (.vsel (fb w 21) (fb w 17) (fb w 13) (fb w 6))
  | 8 => checked (zf w 4 1 && zf w 9 4 && zf w 24 1) (.vcmpEq (fb w 21) (fb w 17) (fb w 13) (fb w 6) (fb w 5))
  | 9 => checked (zf w 4 1 && zf w 9 4 && zf w 24 1) (.vcmpNe (fb w 21) (fb w 17) (fb w 13) (fb w 6) (fb w 5))
  | 10 => checked (zf w 4 1 && zf w 9 4 && zf w 24 1) (.vcmpLt (fb w 21) (fb w 17) (fb w 13) (fb w 6) (fb w 5))
  | 11 => checked (zf w 4 1 && zf w 9 4 && zf w 24 1) (.vcmpLtu (fb w 21) (fb w 17) (fb w 13) (fb w 6) (fb w 5))
  | 12 => checked (zf w 4 1 && zf w 9 4 && zf w 24 1) (.vcmpGe (fb w 21) (fb w 17) (fb w 13) (fb w 6) (fb w 5))
  | 13 => checked (zf w 4 1 && zf w 9 4 && zf w 24 1) (.vcmpGeu (fb w 21) (fb w 17) (fb w 13) (fb w 6) (fb w 5))
  | _ => .error .unassignedSub

/-- Major opcode 0x33: sub-opcode in bits 3:0 (05 R94). -/
def decVlane (w : Nat) : Except Reject Instr :=
  match w % 16 with
  | 0 => checked (zf w 13 4) (.vred (fb w 21) (fb w 17) (fb w 9) (fb w 6) (fb w 5) (fb w 4))
  | 1 => checked (zf w 13 4) (.vscan (fb w 21) (fb w 17) (fb w 9) (fb w 6) (fb w 5) (fb w 4))
  | 2 => checked (zf w 9 4) (.vperm (fb w 21) (fb w 17) (fb w 13) (fb w 6) (fb w 5) (fb w 4))
  | 3 => checked (zf w 10 3) (.vsort (fb w 21) (fb w 17) (fb w 13) (fb w 9) (fb w 6) (fb w 5) (fb w 4))
  | 4 => checked (zf w 4 1 && zf w 13 4) (.vcvt (fb w 21) (fb w 17) (fb w 9) (fb w 6) (fb w 5))
  | 5 => checked (zf w 4 1 && zf w 13 4) (.vpack (fb w 21) (fb w 17) (fb w 9) (fb w 6) (fb w 5))
  | 6 => checked (zf w 4 1 && zf w 13 4) (.vunpack (fb w 21) (fb w 17) (fb w 9) (fb w 6) (fb w 5))
  | 7 => checked (zf w 4 1 && zf w 9 4 && zf w 16 1 && zf w 20 1 && zf w 24 1) (.mand (fb w 21) (fb w 17) (fb w 13) (fb w 6) (fb w 5))
  | 8 => checked (zf w 4 1 && zf w 9 4 && zf w 16 1 && zf w 20 1 && zf w 24 1) (.mor (fb w 21) (fb w 17) (fb w 13) (fb w 6) (fb w 5))
  | 9 => checked (zf w 4 1 && zf w 9 8 && zf w 20 1 && zf w 24 1) (.mnot (fb w 21) (fb w 17) (fb w 6) (fb w 5))
  | _ => .error .unassignedSub

/-- Major opcode 0x34: sub-opcode in bits 2:0 (05 R94). -/
def decVscl (w : Nat) : Except Reject Instr :=
  match w % 8 with
  | 0 => checked (zf w 7 5 && zf w 17 4) (.vbcast (fb w 21) (fb w 12) (fb w 4) (fb w 3))
  | 1 => checked (zf w 3 4 && zf w 21 4) (.vmovx (fb w 17) (fb w 12) (fb w 7))
  | 2 => checked (zf w 7 5) (.vrot (fb w 21) (fb w 17) (fb w 12) (fb w 4) (fb w 3))
  | 3 => checked (zf w 7 5) (.vscale (fb w 21) (fb w 17) (fb w 12) (fb w 4) (fb w 3))
  | 4 => checked (zf w 3 14) (.vsetf (fb w 21) (fb w 17))
  | 5 => checked (zf w 3 22) (.vfence)
  | _ => .error .unassignedSub

/-- Major opcode 0x38: sub-opcode in bits 3:0 (05 R94). -/
def decSamp (w : Nat) : Except Reject Instr :=
  match w % 16 with
  | 0 => checked (zf w 4 6 && zf w 20 5) (.rngkey (fb w 15) (fb w 10))
  | 1 => checked (zf w 4 6 && zf w 20 1) (.rnggen (fb w 21) (fb w 15) (fb w 10))
  | 2 => checked (zf w 4 6 && zf w 20 5) (.stemp (fb w 15) (fb w 10))
  | 3 => checked (zf w 4 6) (.stopk (fb w 20) (fb w 15) (fb w 10))
  | 4 => checked (zf w 4 6) (.stopp (fb w 20) (fb w 15) (fb w 10))
  | 5 => checked (zf w 4 6) (.smerge (fb w 20) (fb w 15) (fb w 10))
  | 6 => checked (zf w 4 6) (.sdraw (fb w 20) (fb w 15) (fb w 10))
  | _ => .error .unassignedSub

/-- Major opcode 0x39: sub-opcode in bits 3:0 (05 R94). -/
def decSpec (w : Nat) : Except Reject Instr :=
  match w % 16 with
  | 0 => checked (zf w 4 6) (.specOpen (fb w 20) (fb w 15) (fb w 10))
  | 1 => checked (zf w 4 6) (.specAppend (fb w 20) (fb w 15) (fb w 10))
  | 2 => checked (zf w 4 6) (.specVerify (fb w 20) (fb w 15) (fb w 10))
  | 3 => checked (zf w 4 11) (.specCommit (fb w 20) (fb w 15))
  | 4 => checked (zf w 4 11) (.specAbort (fb w 20) (fb w 15))
  | _ => .error .unassignedSub

/-- Major opcode 0x3A: sub-opcode in bits 3:0 (05 R94). -/
def decCond (w : Nat) : Except Reject Instr :=
  match w % 16 with
  | 0 => checked (zf w 4 11 && zf w 20 5) (.post (fb w 15))
  | 1 => checked (zf w 4 11 && zf w 23 2) (.postTry (fb w 20) (fb w 15))
  | 2 => checked (zf w 4 11) (.take (fb w 20) (fb w 15))
  | 3 => checked (zf w 4 11) (.launch (fb w 20) (fb w 15))
  | 4 => checked (zf w 4 11 && zf w 23 2) (.launchTry (fb w 20) (fb w 15))
  | 5 => checked (zf w 4 6 && zf w 20 5) (.setpred (fb w 15) (fb w 10))
  | 6 => checked (zf w 4 6) (.addsucc (fb w 20) (fb w 15) (fb w 10))
  | 7 => checked (zf w 4 11) (.evict (fb w 20) (fb w 15))
  | _ => .error .unassignedSub

/-- Major opcode 0x3C: sub-opcode in bits 4:0 (05 R94). -/
def decCtrl (w : Nat) : Except Reject Instr :=
  match w % 32 with
  | 0 => checked (zf w 15 5) (.getc (fb w 20) (fb w 5))
  | 1 => checked (zf w 20 5) (.setc (fb w 15) (fb w 5))
  | _ => .error .unassignedSub

/-- Major opcode 0x3D: sub-opcode in bits 4:0 (05 R94). -/
def decSys (w : Nat) : Except Reject Instr :=
  match w % 32 with
  | 0 => checked (zf w 15 10) (.trap (fb w 5))
  | 1 => checked (zf w 5 20) (.tret)
  | 2 => checked (zf w 15 10) (.brk (fb w 5))
  | 3 => checked (zf w 5 15) (.chkerr (fb w 20))
  | 4 => checked (zf w 5 10 && zf w 20 5) (.gstop (fb w 15))
  | 5 => checked (zf w 5 10 && zf w 20 5) (.stepctl (fb w 15))
  | _ => .error .unassignedSub

/-- Major opcode 0x3E: sub-opcode in bits 3:0 (05 R94), and nothing else (16 R365). -/
def decSusp (w : Nat) : Except Reject Instr :=
  if zf w 4 21 then
    match w % 16 with
    | 0 => .ok .suspend
    | 1 => .ok .yield
    | 2 => .ok .retire
    | _ => .error .operandRange
  else .error .operandRange

/-- A 32-bit word of the core, bit 31 set (05 R93). -/
def decodeWide (w : Nat) : Except Reject Instr :=
  match w / 33554432 % 64 with
  | 0 => decAlu w
  | 1 => checked (true) (.addi (fb w 20) (fb w 15) (fb w 0))
  | 2 => checked (true) (.andi (fb w 20) (fb w 15) (fb w 0))
  | 3 => checked (zf w 3 7) (.adda (fb w 20) (fb w 15) (fb w 10) (fb w 0))
  | 4 => checked (true) (.ori (fb w 20) (fb w 15) (fb w 0))
  | 5 => checked (true) (.xori (fb w 20) (fb w 15) (fb w 0))
  | 6 => decShi w
  | 7 => decBf w
  | 8 => checked (zf w 0 12) (.ldk (fb w 20) (fb w 12))
  | 9 => decMov w
  | 10 => checked (zf w 4 6) (.sel (fb w 20) (fb w 15) (fb w 10) (fb w 3) (fb w 0))
  | 11 => decPl w
  | 12 => checked (true) (.br (fb w 0))
  | 13 => checked (true) (.brp (fb w 24) (fb w 21) (fb w 0))
  | 14 => checked (true) (.jal (fb w 20) (fb w 0))
  | 15 => checked (zf w 0 15) (.jr (fb w 20) (fb w 15))
  | 16 => checked (true) (.ld (fb w 20) (fb w 15) (fb w 13) (fb w 11) (fb w 8) (fb w 0))
  | 17 => checked (true) (.st (fb w 20) (fb w 15) (fb w 13) (fb w 11) (fb w 8) (fb w 0))
  | 18 => decQw w
  | 19 => decFe w
  | 20 => checked (zf w 8 7 && zf w 23 2) (.feq (fb w 20) (fb w 15) (fb w 0))
  | 21 => decAmo w
  | 22 => decBankop w
  | 23 => checked (zf w 3 22) (.fence (fb w 0))
  | 24 => checked (zf w 0 9) (.cmp (fb w 22) (fb w 19) (fb w 14) (fb w 9))
  | 25 => checked (true) (.cmpi (fb w 22) (fb w 19) (fb w 14) (fb w 0))
  | 31 => .ok (.hint (fb w 0))
  | 32 => decBar w
  | 33 => decHnd w
  | 36 => decCh w
  | 39 => decWait w
  | 40 => decCpy w
  | 41 => decCpys w
  | 42 => decCpyg w
  | 43 => decPfetch w
  | 44 => decRstore w
  | 45 => decStrm w
  | 46 => decLens w
  | 47 => decHalo w
  | 48 => decVmem w
  | 49 => decVfp w
  | 50 => decVint w
  | 51 => decVlane w
  | 52 => decVscl w
  | 56 => decSamp w
  | 57 => decSpec w
  | 58 => decCond w
  | 60 => decCtrl w
  | 61 => decSys w
  | 62 => decSusp w
  | 63 => .ok (.nop (fb w 0))
  | _ => .error .reservedOpcode

/-- A 16-bit halfword: an instruction or a prefix (05 R97, 02 R25). -/
inductive Half where
  | instr (i : Instr)
  | pred (n : Bool) (p : BitVec 3)
  | rlx
deriving DecidableEq, Repr

/-- Accept a compact form. -/
def half (fixed : Bool) (h : Half) : Except Reject Half := if fixed then .ok h else .error .fieldViolation

/-- A halfword whose bit 15 is clear. -/
def decodeHalf (w : Nat) : Except Reject Half :=
  match w / 2048 % 16 with
  | 1 => half (zf w 0 1) (.instr (.cAdd (fb w 6) (fb w 1)))
  | 2 => half true (.instr (.cAddi (fb w 6) (fb w 0)))
  | 3 => half (zf w 0 1) (.instr (.cMove (fb w 6) (fb w 1)))
  | 4 => half true (.instr (.cLd (fb w 6) (fb w 3) (fb w 0)))
  | 5 => half true (.instr (.cSt (fb w 6) (fb w 3) (fb w 0)))
  | 6 => half true (.instr (.cBr (fb w 0)))
  | 7 => half true (.instr (.cBrp (fb w 10) (fb w 7) (fb w 0)))
  | 13 => half true (.instr (.cHint (fb w 0)))
  | 14 => half (zf w 0 7) (.pred (w / 1024 % 2 == 1) (fb w 7))
  | 15 => half (zf w 0 11) .rlx
  | _ => .error .reservedOpcode

/-- A word of a loader or storer hart: the stream instructions and ECALL, or an instruction of RV64IMC (13 R295, R296). -/
def decodeHart (w : Nat) : Instr :=
  if w % 128 = 11 ∧ w / 4096 % 8 = 0 ∧ w / 1048576 % 4096 = 0 then .sbNext (fb w 15) (fb w 7)
  else if w % 32768 = 4107 ∧ w / 33554432 % 128 = 0 then .sqPush (fb w 20) (fb w 15)
  else if w % 128 = 43 ∧ w / 4096 % 8 = 0 ∧ w / 33554432 % 128 = 0 then .sqPop (fb w 20) (fb w 15) (fb w 7)
  else if w % 128 = 43 ∧ w / 4096 % 8 = 1 ∧ w / 1048576 % 4096 = 0 then .bqWait (fb w 15) (fb w 7)
  else if w % 4294967296 = 115 then .ecall
  else .rv64imc (BitVec.ofNat 32 w)

/-- The instruction that a table-numbered word of `nbits` bits stands for. -/
def decodeTableWord (nbits w : Nat) : Option Instr :=
  if nbits = 16 then
    match decodeHalf w with
    | .ok (.instr i) => some i
    | _ => none
  else if w / 2147483648 % 2 = 1 then
    match decodeWide w with
    | .ok i => some i
    | .error _ => none
  else some (decodeHart w)

/-- The encoder: width in bits and word of an instruction that has an encoding (05 R101, 13 R296). -/
def encode (i : Instr) : Option (Nat × Nat) :=
  match i with
  | .add d a b => some (32, 2147483648 + d.toNat * 1048576 + a.toNat * 32768 + b.toNat * 1024)
  | .sub d a b => some (32, 2147483649 + d.toNat * 1048576 + a.toNat * 32768 + b.toNat * 1024)
  | .and d a b => some (32, 2147483650 + d.toNat * 1048576 + a.toNat * 32768 + b.toNat * 1024)
  | .or d a b => some (32, 2147483651 + d.toNat * 1048576 + a.toNat * 32768 + b.toNat * 1024)
  | .xor d a b => some (32, 2147483652 + d.toNat * 1048576 + a.toNat * 32768 + b.toNat * 1024)
  | .sll d a b => some (32, 2147483653 + d.toNat * 1048576 + a.toNat * 32768 + b.toNat * 1024)
  | .srl d a b => some (32, 2147483654 + d.toNat * 1048576 + a.toNat * 32768 + b.toNat * 1024)
  | .sra d a b => some (32, 2147483655 + d.toNat * 1048576 + a.toNat * 32768 + b.toNat * 1024)
  | .min d a b => some (32, 2147483656 + d.toNat * 1048576 + a.toNat * 32768 + b.toNat * 1024)
  | .max d a b => some (32, 2147483657 + d.toNat * 1048576 + a.toNat * 32768 + b.toNat * 1024)
  | .minu d a b => some (32, 2147483658 + d.toNat * 1048576 + a.toNat * 32768 + b.toNat * 1024)
  | .maxu d a b => some (32, 2147483659 + d.toNat * 1048576 + a.toNat * 32768 + b.toNat * 1024)
  | .clz d a => some (32, 2147483660 + d.toNat * 1048576 + a.toNat * 32768)
  | .ctz d a => some (32, 2147483661 + d.toNat * 1048576 + a.toNat * 32768)
  | .popc d a => some (32, 2147483662 + d.toNat * 1048576 + a.toNat * 32768)
  | .mul d a b => some (32, 2147483664 + d.toNat * 1048576 + a.toNat * 32768 + b.toNat * 1024)
  | .mulh d a b => some (32, 2147483665 + d.toNat * 1048576 + a.toNat * 32768 + b.toNat * 1024)
  | .mulhu d a b => some (32, 2147483666 + d.toNat * 1048576 + a.toNat * 32768 + b.toNat * 1024)
  | .div d a b => some (32, 2147483668 + d.toNat * 1048576 + a.toNat * 32768 + b.toNat * 1024)
  | .divu d a b => some (32, 2147483669 + d.toNat * 1048576 + a.toNat * 32768 + b.toNat * 1024)
  | .rem d a b => some (32, 2147483670 + d.toNat * 1048576 + a.toNat * 32768 + b.toNat * 1024)
  | .remu d a b => some (32, 2147483671 + d.toNat * 1048576 + a.toNat * 32768 + b.toNat * 1024)
  | .addi d a i => some (32, 2181038080 + d.toNat * 1048576 + a.toNat * 32768 + i.toNat)
  | .andi d a i => some (32, 2214592512 + d.toNat * 1048576 + a.toNat * 32768 + i.toNat)
  | .ori d a i => some (32, 2281701376 + d.toNat * 1048576 + a.toNat * 32768 + i.toNat)
  | .xori d a i => some (32, 2315255808 + d.toNat * 1048576 + a.toNat * 32768 + i.toNat)
  | .adda d a b s => some (32, 2248146944 + d.toNat * 1048576 + a.toNat * 32768 + b.toNat * 1024 + s.toNat)
  | .slli d a s => some (32, 2348810240 + d.toNat * 1048576 + a.toNat * 32768 + s.toNat)
  | .srli d a s => some (32, 2348810496 + d.toNat * 1048576 + a.toNat * 32768 + s.toNat)
  | .srai d a s => some (32, 2348810752 + d.toNat * 1048576 + a.toNat * 32768 + s.toNat)
  | .bext d a x l w => some (32, 2382364672 + d.toNat * 1048576 + a.toNat * 32768 + x.toNat * 8192 + l.toNat * 128 + w.toNat * 2)
  | .bins d a l w => some (32, 2382381056 + d.toNat * 1048576 + a.toNat * 32768 + l.toNat * 128 + w.toNat * 2)
  | .ldk d k => some (32, 2415919104 + d.toNat * 1048576 + k.toNat * 4096)
  | .move d a => some (32, 2449473536 + d.toNat * 1048576 + a.toNat * 32768)
  | .lde e a => some (32, 2449473537 + e.toNat * 1048576 + a.toNat * 32768)
  | .moveXE d e => some (32, 2449473538 + d.toNat * 1048576 + e.toNat * 32768)
  | .sel d a b n p => some (32, 2483027968 + d.toNat * 1048576 + a.toNat * 32768 + b.toNat * 1024 + n.toNat * 8 + p.toNat)
  | .pand d a b n m => some (32, 2516582400 + d.toNat * 4194304 + a.toNat * 524288 + b.toNat * 65536 + n.toNat * 32768 + m.toNat * 16384)
  | .por d a b n m => some (32, 2516582401 + d.toNat * 4194304 + a.toNat * 524288 + b.toNat * 65536 + n.toNat * 32768 + m.toNat * 16384)
  | .pnot d a => some (32, 2516582402 + d.toNat * 4194304 + a.toNat * 524288)
  | .pmov d a n => some (32, 2516582403 + d.toNat * 4194304 + a.toNat * 524288 + n.toNat * 32768)
  | .br o => some (32, 2550136832 + o.toNat)
  | .brp n p o => some (32, 2583691264 + n.toNat * 16777216 + p.toNat * 2097152 + o.toNat)
  | .jal d o => some (32, 2617245696 + d.toNat * 1048576 + o.toNat)
  | .jr d a => some (32, 2650800128 + d.toNat * 1048576 + a.toNat * 32768)
  | .ld t b w o s f => some (32, 2684354560 + t.toNat * 1048576 + b.toNat * 32768 + w.toNat * 8192 + o.toNat * 2048 + s.toNat * 256 + f.toNat)
  | .st t b w o s f => some (32, 2717908992 + t.toNat * 1048576 + b.toNat * 32768 + w.toNat * 8192 + o.toNat * 2048 + s.toNat * 256 + f.toNat)
  | .ldq q b o s f => some (32, 2751463424 + q.toNat * 8388608 + b.toNat * 32768 + o.toNat * 2048 + s.toNat * 256 + f.toNat)
  | .stq q b o s f => some (32, 2751471616 + q.toNat * 8388608 + b.toNat * 32768 + o.toNat * 2048 + s.toNat * 256 + f.toNat)
  | .ldfKeep t b o s f => some (32, 2785017856 + t.toNat * 1048576 + b.toNat * 32768 + o.toNat * 2048 + s.toNat * 256 + f.toNat)
  | .ldfTake t b o s f => some (32, 2785026048 + t.toNat * 1048576 + b.toNat * 32768 + o.toNat * 2048 + s.toNat * 256 + f.toNat)
  | .stf t b o s f => some (32, 2785034240 + t.toNat * 1048576 + b.toNat * 32768 + o.toNat * 2048 + s.toNat * 256 + f.toNat)
  | .few b f => some (32, 2785042432 + b.toNat * 32768 + f.toNat)
  | .feq p b f => some (32, 2818572288 + p.toNat * 1048576 + b.toNat * 32768 + f.toNat)
  | .amoadd d a b w o s => some (32, 2852126720 + d.toNat * 1048576 + a.toNat * 32768 + b.toNat * 1024 + w.toNat * 32 + o.toNat * 8 + s.toNat)
  | .amomin d a b u w o s => some (32, 2852126848 + d.toNat * 1048576 + a.toNat * 32768 + b.toNat * 1024 + u.toNat * 64 + w.toNat * 32 + o.toNat * 8 + s.toNat)
  | .amomax d a b u w o s => some (32, 2852126976 + d.toNat * 1048576 + a.toNat * 32768 + b.toNat * 1024 + u.toNat * 64 + w.toNat * 32 + o.toNat * 8 + s.toNat)
  | .amoand d a b w o s => some (32, 2852127104 + d.toNat * 1048576 + a.toNat * 32768 + b.toNat * 1024 + w.toNat * 32 + o.toNat * 8 + s.toNat)
  | .amoor d a b w o s => some (32, 2852127232 + d.toNat * 1048576 + a.toNat * 32768 + b.toNat * 1024 + w.toNat * 32 + o.toNat * 8 + s.toNat)
  | .amoxor d a b w o s => some (32, 2852127360 + d.toNat * 1048576 + a.toNat * 32768 + b.toNat * 1024 + w.toNat * 32 + o.toNat * 8 + s.toNat)
  | .amoswp d a b w o s => some (32, 2852127488 + d.toNat * 1048576 + a.toNat * 32768 + b.toNat * 1024 + w.toNat * 32 + o.toNat * 8 + s.toNat)
  | .amocas d a b w o s => some (32, 2852127616 + d.toNat * 1048576 + a.toNat * 32768 + b.toNat * 1024 + w.toNat * 32 + o.toNat * 8 + s.toNat)
  | .bankopAdd q a c n => some (32, 2885681152 + q.toNat * 8388608 + a.toNat * 32768 + c.toNat * 256 + n.toNat * 32)
  | .bankopMax q a c n => some (32, 2885685248 + q.toNat * 8388608 + a.toNat * 32768 + c.toNat * 256 + n.toNat * 32)
  | .bankopMin q a c n => some (32, 2885689344 + q.toNat * 8388608 + a.toNat * 32768 + c.toNat * 256 + n.toNat * 32)
  | .bankopAxpy q a c n => some (32, 2885693440 + q.toNat * 8388608 + a.toNat * 32768 + c.toNat * 256 + n.toNat * 32)
  | .fence s => some (32, 2919235584 + s.toNat)
  | .cmp p c a b => some (32, 2952790016 + p.toNat * 4194304 + c.toNat * 524288 + a.toNat * 16384 + b.toNat * 512)
  | .cmpi p c a i => some (32, 2986344448 + p.toNat * 4194304 + c.toNat * 524288 + a.toNat * 16384 + i.toNat)
  | .barinit a b => some (32, 3221225472 + a.toNat * 32768 + b.toNat * 1024)
  | .barArrive a => some (32, 3221225473 + a.toNat * 32768)
  | .barWait a => some (32, 3221225474 + a.toNat * 32768)
  | .htest p h => some (32, 3254779904 + p.toNat * 1048576 + h.toNat * 32768)
  | .hcancel h => some (32, 3254779905 + h.toNat * 32768)
  | .movhHH d h => some (32, 3254779906 + d.toNat * 1048576 + h.toNat * 32768)
  | .ffdone => some (32, 3254779907)
  | .movhHX d a => some (32, 3254779908 + d.toNat * 1048576 + a.toNat * 32768)
  | .movhXH d h => some (32, 3254779909 + d.toNat * 1048576 + h.toNat * 32768)
  | .send s c => some (32, 3355443200 + s.toNat * 1048576 + c.toNat * 65536)
  | .recv d c => some (32, 3355444224 + d.toNat * 1048576 + c.toNat * 65536)
  | .sendt o c => some (32, 3355445248 + o.toNat * 8388608 + c.toNat * 65536)
  | .recvt o c => some (32, 3355446272 + o.toNat * 8388608 + c.toNat * 65536)
  | .chset s c => some (32, 3355447296 + s.toNat * 1048576 + c.toNat * 65536)
  | .chreset c => some (32, 3355448320 + c.toNat * 65536)
  | .msgbind s => some (32, 3355449344 + s.toNat * 1048576)
  | .waitall m => some (32, 3456106496 + m.toNat)
  | .waitany m => some (32, 3472883712 + m.toNat)
  | .cpy h d s l => some (32, 3489660928 + h.toNat * 2097152 + d.toNat * 32768 + s.toNat * 1024 + l.toNat * 32)
  | .cpyT8 h d s l => some (32, 3489660929 + h.toNat * 2097152 + d.toNat * 32768 + s.toNat * 1024 + l.toNat * 32)
  | .cpyT16 h d s l => some (32, 3489660930 + h.toNat * 2097152 + d.toNat * 32768 + s.toNat * 1024 + l.toNat * 32)
  | .cpys h d s l => some (32, 3523215360 + h.toNat * 2097152 + d.toNat * 32768 + s.toNat * 1024 + l.toNat * 32)
  | .cpyg h d b c w => some (32, 3556769792 + h.toNat * 2097152 + d.toNat * 32768 + b.toNat * 1024 + c.toNat * 32 + w.toNat)
  | .pfetch a l => some (32, 3590324224 + a.toNat * 1024 + l.toNat * 32)
  | .rstore d s l => some (32, 3623878656 + d.toNat * 32768 + s.toNat * 1024 + l.toNat * 32)
  | .strmBind v a => some (32, 3670016000 + v.toNat * 1048576 + a.toNat * 32768)
  | .strmEnd v => some (32, 3670016001 + v.toNat * 1048576)
  | .restrictWsum h d s z => some (32, 3690987520 + h.toNat * 2097152 + d.toNat * 32768 + s.toNat * 1024 + z.toNat * 32)
  | .restrictMax h d s z => some (32, 3690987521 + h.toNat * 2097152 + d.toNat * 32768 + s.toNat * 1024 + z.toNat * 32)
  | .restrictMin h d s z => some (32, 3690987522 + h.toNat * 2097152 + d.toNat * 32768 + s.toNat * 1024 + z.toNat * 32)
  | .restrictGather h d s z => some (32, 3690987523 + h.toNat * 2097152 + d.toNat * 32768 + s.toNat * 1024 + z.toNat * 32)
  | .prolongInterp h d s z => some (32, 3690987528 + h.toNat * 2097152 + d.toNat * 32768 + s.toNat * 1024 + z.toNat * 32)
  | .prolongBcast h d s z => some (32, 3690987529 + h.toNat * 2097152 + d.toNat * 32768 + s.toNat * 1024 + z.toNat * 32)
  | .prolongScatter h d s z => some (32, 3690987530 + h.toNat * 2097152 + d.toNat * 32768 + s.toNat * 1024 + z.toNat * 32)
  | .lwload h i s l => some (32, 3690987536 + h.toNat * 2097152 + i.toNat * 32768 + s.toNat * 1024 + l.toNat * 32)
  | .lcfg i v => some (32, 3690987544 + i.toNat * 32768 + v.toNat * 1024)
  | .lstat d => some (32, 3690987545 + d.toNat * 32768)
  | .lwait => some (32, 3690987546)
  | .haloRun h a b => some (32, 3724541952 + h.toNat * 2097152 + a.toNat * 1024 + b.toNat * 32)
  | .haloStat h d => some (32, 3724541953 + h.toNat * 2097152 + d.toNat * 32768)
  | .vld v a f m e => some (32, 3758096384 + v.toNat * 2097152 + a.toNat * 65536 + f.toNat * 128 + m.toNat * 16 + e.toNat * 8)
  | .vst v a m e => some (32, 3758096385 + v.toNat * 2097152 + a.toNat * 65536 + m.toNat * 16 + e.toNat * 8)
  | .vlds v a b f m e => some (32, 3758096386 + v.toNat * 2097152 + a.toNat * 65536 + b.toNat * 2048 + f.toNat * 128 + m.toNat * 16 + e.toNat * 8)
  | .vldx v a i f m e => some (32, 3758096387 + v.toNat * 2097152 + a.toNat * 65536 + i.toNat * 2048 + f.toNat * 128 + m.toNat * 16 + e.toNat * 8)
  | .vstx v a i m e => some (32, 3758096388 + v.toNat * 2097152 + a.toNat * 65536 + i.toNat * 2048 + m.toNat * 16 + e.toNat * 8)
  | .vadd d a b m e => some (32, 3791650816 + d.toNat * 2097152 + a.toNat * 131072 + b.toNat * 8192 + m.toNat * 64 + e.toNat * 32)
  | .vsub d a b m e => some (32, 3791650817 + d.toNat * 2097152 + a.toNat * 131072 + b.toNat * 8192 + m.toNat * 64 + e.toNat * 32)
  | .vmul d a b m e => some (32, 3791650818 + d.toNat * 2097152 + a.toNat * 131072 + b.toNat * 8192 + m.toNat * 64 + e.toNat * 32)
  | .vfma d a b c m e => some (32, 3791650819 + d.toNat * 2097152 + a.toNat * 131072 + b.toNat * 8192 + c.toNat * 512 + m.toNat * 64 + e.toNat * 32)
  | .vfms d a b c m e => some (32, 3791650820 + d.toNat * 2097152 + a.toNat * 131072 + b.toNat * 8192 + c.toNat * 512 + m.toNat * 64 + e.toNat * 32)
  | .vmin d a b m e => some (32, 3791650821 + d.toNat * 2097152 + a.toNat * 131072 + b.toNat * 8192 + m.toNat * 64 + e.toNat * 32)
  | .vmax d a b m e => some (32, 3791650822 + d.toNat * 2097152 + a.toNat * 131072 + b.toNat * 8192 + m.toNat * 64 + e.toNat * 32)
  | .vabs d a m e => some (32, 3791650823 + d.toNat * 2097152 + a.toNat * 131072 + m.toNat * 64 + e.toNat * 32)
  | .vneg d a m e => some (32, 3791650824 + d.toNat * 2097152 + a.toNat * 131072 + m.toNat * 64 + e.toNat * 32)
  | .vrcp d a m e => some (32, 3791650825 + d.toNat * 2097152 + a.toNat * 131072 + m.toNat * 64 + e.toNat * 32)
  | .vrsq d a m e => some (32, 3791650826 + d.toNat * 2097152 + a.toNat * 131072 + m.toNat * 64 + e.toNat * 32)
  | .vexp2 d a m e => some (32, 3791650827 + d.toNat * 2097152 + a.toNat * 131072 + m.toNat * 64 + e.toNat * 32)
  | .vlog2 d a m e => some (32, 3791650828 + d.toNat * 2097152 + a.toNat * 131072 + m.toNat * 64 + e.toNat * 32)
  | .vtanh d a m e => some (32, 3791650829 + d.toNat * 2097152 + a.toNat * 131072 + m.toNat * 64 + e.toNat * 32)
  | .vand d a b m e => some (32, 3825205248 + d.toNat * 2097152 + a.toNat * 131072 + b.toNat * 8192 + m.toNat * 64 + e.toNat * 32)
  | .vor d a b m e => some (32, 3825205249 + d.toNat * 2097152 + a.toNat * 131072 + b.toNat * 8192 + m.toNat * 64 + e.toNat * 32)
  | .vxor d a b m e => some (32, 3825205250 + d.toNat * 2097152 + a.toNat * 131072 + b.toNat * 8192 + m.toNat * 64 + e.toNat * 32)
  | .vshl d a b m e => some (32, 3825205251 + d.toNat * 2097152 + a.toNat * 131072 + b.toNat * 8192 + m.toNat * 64 + e.toNat * 32)
  | .vshr d a b m e => some (32, 3825205252 + d.toNat * 2097152 + a.toNat * 131072 + b.toNat * 8192 + m.toNat * 64 + e.toNat * 32)
  | .viadd d a b m e => some (32, 3825205253 + d.toNat * 2097152 + a.toNat * 131072 + b.toNat * 8192 + m.toNat * 64 + e.toNat * 32)
  | .vimul d a b m e => some (32, 3825205254 + d.toNat * 2097152 + a.toNat * 131072 + b.toNat * 8192 + m.toNat * 64 + e.toNat * 32)
  | .vsel d a b m => some (32, 3825205287 + d.toNat * 2097152 + a.toNat * 131072 + b.toNat * 8192 + m.toNat * 64)
  | .vcmpEq k a b m e => some (32, 3825205256 + k.toNat * 2097152 + a.toNat * 131072 + b.toNat * 8192 + m.toNat * 64 + e.toNat * 32)
  | .vcmpNe k a b m e => some (32, 3825205257 + k.toNat * 2097152 + a.toNat * 131072 + b.toNat * 8192 + m.toNat * 64 + e.toNat * 32)
  | .vcmpLt k a b m e => some (32, 3825205258 + k.toNat * 2097152 + a.toNat * 131072 + b.toNat * 8192 + m.toNat * 64 + e.toNat * 32)
  | .vcmpLtu k a b m e => some (32, 3825205259 + k.toNat * 2097152 + a.toNat * 131072 + b.toNat * 8192 + m.toNat * 64 + e.toNat * 32)
  | .vcmpGe k a b m e => some (32, 3825205260 + k.toNat * 2097152 + a.toNat * 131072 + b.toNat * 8192 + m.toNat * 64 + e.toNat * 32)
  | .vcmpGeu k a b m e => some (32, 3825205261 + k.toNat * 2097152 + a.toNat * 131072 + b.toNat * 8192 + m.toNat * 64 + e.toNat * 32)
  | .vred d a o m e z => some (32, 3858759680 + d.toNat * 2097152 + a.toNat * 131072 + o.toNat * 512 + m.toNat * 64 + e.toNat * 32 + z.toNat * 16)
  | .vscan d a o m e z => some (32, 3858759681 + d.toNat * 2097152 + a.toNat * 131072 + o.toNat * 512 + m.toNat * 64 + e.toNat * 32 + z.toNat * 16)
  | .vperm d a b m e z => some (32, 3858759682 + d.toNat * 2097152 + a.toNat * 131072 + b.toNat * 8192 + m.toNat * 64 + e.toNat * 32 + z.toNat * 16)
  | .vsort d a b c m e z => some (32, 3858759683 + d.toNat * 2097152 + a.toNat * 131072 + b.toNat * 8192 + c.toNat * 512 + m.toNat * 64 + e.toNat * 32 + z.toNat * 16)
  | .vcvt d a n m e => some (32, 3858759684 + d.toNat * 2097152 + a.toNat * 131072 + n.toNat * 512 + m.toNat * 64 + e.toNat * 32)
  | .vpack d a n m e => some (32, 3858759685 + d.toNat * 2097152 + a.toNat * 131072 + n.toNat * 512 + m.toNat * 64 + e.toNat * 32)
  | .vunpack d a n m e => some (32, 3858759686 + d.toNat * 2097152 + a.toNat * 131072 + n.toNat * 512 + m.toNat * 64 + e.toNat * 32)
  | .mand d a b m e => some (32, 3858759687 + d.toNat * 2097152 + a.toNat * 131072 + b.toNat * 8192 + m.toNat * 64 + e.toNat * 32)
  | .mor d a b m e => some (32, 3858759688 + d.toNat * 2097152 + a.toNat * 131072 + b.toNat * 8192 + m.toNat * 64 + e.toNat * 32)
  | .mnot d a m e => some (32, 3858759689 + d.toNat * 2097152 + a.toNat * 131072 + m.toNat * 64 + e.toNat * 32)
  | .vbcast d a m e => some (32, 3892314112 + d.toNat * 2097152 + a.toNat * 4096 + m.toNat * 16 + e.toNat * 8)
  | .vmovx v d b => some (32, 3892314113 + v.toNat * 131072 + d.toNat * 4096 + b.toNat * 128)
  | .vrot d a x m e => some (32, 3892314114 + d.toNat * 2097152 + a.toNat * 131072 + x.toNat * 4096 + m.toNat * 16 + e.toNat * 8)
  | .vscale d a x m e => some (32, 3892314115 + d.toNat * 2097152 + a.toNat * 131072 + x.toNat * 4096 + m.toNat * 16 + e.toNat * 8)
  | .vsetf d n => some (32, 3892314116 + d.toNat * 2097152 + n.toNat * 131072)
  | .vfence => some (32, 3892314117)
  | .rngkey a b => some (32, 4026531840 + a.toNat * 32768 + b.toNat * 1024)
  | .rnggen d a b => some (32, 4026531841 + d.toNat * 2097152 + a.toNat * 32768 + b.toNat * 1024)
  | .stemp a b => some (32, 4026531842 + a.toNat * 32768 + b.toNat * 1024)
  | .stopk d a b => some (32, 4026531843 + d.toNat * 1048576 + a.toNat * 32768 + b.toNat * 1024)
  | .stopp d a b => some (32, 4026531844 + d.toNat * 1048576 + a.toNat * 32768 + b.toNat * 1024)
  | .smerge d a b => some (32, 4026531845 + d.toNat * 1048576 + a.toNat * 32768 + b.toNat * 1024)
  | .sdraw d a b => some (32, 4026531846 + d.toNat * 1048576 + a.toNat * 32768 + b.toNat * 1024)
  | .specOpen d a b => some (32, 4060086272 + d.toNat * 1048576 + a.toNat * 32768 + b.toNat * 1024)
  | .specAppend d a b => some (32, 4060086273 + d.toNat * 1048576 + a.toNat * 32768 + b.toNat * 1024)
  | .specVerify d a b => some (32, 4060086274 + d.toNat * 1048576 + a.toNat * 32768 + b.toNat * 1024)
  | .specCommit d a => some (32, 4060086275 + d.toNat * 1048576 + a.toNat * 32768)
  | .specAbort d a => some (32, 4060086276 + d.toNat * 1048576 + a.toNat * 32768)
  | .post a => some (32, 4093640704 + a.toNat * 32768)
  | .postTry p a => some (32, 4093640705 + p.toNat * 1048576 + a.toNat * 32768)
  | .take d a => some (32, 4093640706 + d.toNat * 1048576 + a.toNat * 32768)
  | .launch d a => some (32, 4093640707 + d.toNat * 1048576 + a.toNat * 32768)
  | .launchTry p a => some (32, 4093640708 + p.toNat * 1048576 + a.toNat * 32768)
  | .setpred a b => some (32, 4093640709 + a.toNat * 32768 + b.toNat * 1024)
  | .addsucc d a b => some (32, 4093640710 + d.toNat * 1048576 + a.toNat * 32768 + b.toNat * 1024)
  | .evict d a => some (32, 4093640711 + d.toNat * 1048576 + a.toNat * 32768)
  | .getc d c => some (32, 4160749568 + d.toNat * 1048576 + c.toNat * 32)
  | .setc a c => some (32, 4160749569 + a.toNat * 32768 + c.toNat * 32)
  | .trap c => some (32, 4194304000 + c.toNat * 32)
  | .tret => some (32, 4194304001)
  | .brk c => some (32, 4194304002 + c.toNat * 32)
  | .chkerr d => some (32, 4194304003 + d.toNat * 1048576)
  | .gstop a => some (32, 4194304004 + a.toNat * 32768)
  | .stepctl a => some (32, 4194304005 + a.toNat * 32768)
  | .suspend => some (32, 4227858432)
  | .yield => some (32, 4227858433)
  | .retire => some (32, 4227858434)
  | .nop h => some (32, 4261412864 + h.toNat)
  | .hint h => some (32, 3187671040 + h.toNat)
  | .cHint h => some (16, 26624 + h.toNat)
  | .cAdd d s => some (16, 2048 + d.toNat * 64 + s.toNat * 2)
  | .cAddi d i => some (16, 4096 + d.toNat * 64 + i.toNat)
  | .cMove d s => some (16, 6144 + d.toNat * 64 + s.toNat * 2)
  | .cLd t b o => some (16, 8192 + t.toNat * 64 + b.toNat * 8 + o.toNat)
  | .cSt t b o => some (16, 10240 + t.toNat * 64 + b.toNat * 8 + o.toNat)
  | .cBr o => some (16, 12288 + o.toNat)
  | .cBrp n p o => some (16, 14336 + n.toNat * 1024 + p.toNat * 128 + o.toNat)
  | .sbNext s d => some (32, 11 + s.toNat * 32768 + d.toNat * 128)
  | .sqPush t s => some (32, 4107 + t.toNat * 1048576 + s.toNat * 32768)
  | .sqPop t s d => some (32, 43 + t.toNat * 1048576 + s.toNat * 32768 + d.toNat * 128)
  | .bqWait s d => some (32, 4139 + s.toNat * 32768 + d.toNat * 128)
  | .ecall => some (32, 115)
  | .mnop => none
  | .mma _ _ _ _ _ => none
  | .mmaS _ _ _ _ _ _ _ _ => none
  | .mloada _ _ _ => none
  | .mrot _ => none
  | .mrotLd _ _ => none
  | .maccLd _ _ _ => none
  | .maccSt _ _ _ _ _ => none
  | .mcfg _ => none
  | .mchk _ _ _ => none
  | .mzero _ _ => none
  | .mfence => none
  | .mtag _ _ => none
  | .hSend _ _ _ _ _ _ _ => none
  | .hRecv _ _ _ _ _ _ _ => none
  | .hReduce _ _ _ _ _ _ _ _ => none
  | .hCopy _ _ _ _ _ _ => none
  | .hWait _ _ => none
  | .hSignal _ _ _ => none
  | .hLoop _ _ _ _ _ => none
  | .hEnd => none
  | .rv64imc _ => none
  | .reservedOpcode _ _ _ => none
  | .haloTransfer _ _ _ _ _ => none
  | .haloSignalArrival _ => none
  | .haloCancelled _ _ => none
  | .rstoreArrival _ _ _ _ _ => none
  | .rstoreAcknowledgement _ _ => none
  | .wake _ => none
  | .eviction _ => none
  | .evictionWriteback _ => none
  | .suspensionWriteback _ => none
  | .dispatch _ => none
  | .condenserArrival _ _ => none
  | .priorityAgeing _ _ _ => none
  | .affinityHintExpiry _ _ _ => none
  | .packetParse _ => none
  | .fencePoll _ => none
  | .fenceTimeout _ => none
  | .launchAdmission _ => none
  | .recordExpansion _ => none
  | .launchCompletion _ => none
  | .completionEntryWrite _ => none
  | .watchdogExpiry _ => none
  | .pairScrubComplete _ => none
  | .forcedPreemption _ => none
  | .cheapPreemption _ => none
  | .gangStop _ _ => none
  | .saveBlock _ => none
  | .restore _ => none
  | .channelHandshake _ => none
  | .ringMessageArrival _ => none
  | .messageReturn _ _ => none
  | .channelTimeout _ => none
  | .channelAudit _ _ => none
  | .barrierTimeout _ _ => none
  | .rowClean _ _ => none
  | .bankRetirement _ => none
  | .patrolScrub _ => none
  | .faultRecordRetry => none
  | .vuCommandExecute _ => none
  | .copyComplete _ _ => none
  | .copyCancelled _ _ => none
  | .lensOperationComplete _ => none
  | .lensCancelled _ _ => none
  | .flitRetransmit _ => none
  | .linkLost _ => none
  | .currentGrant _ => none
  | .slewEnd => none
  | .sensorReading _ _ _ _ => none
  | .thermalTrip => none
  | .movedRecordExpiry _ _ => none
  | .tlbInvalidationAck => none
  | .migrationCopyDone _ _ => none
  | .powerOnReset _ => none
  | .hostReset _ => none
  | .attestationQuote => none
  | .recoveryVerify _ => none
  | .psctlRequest _ => none
  | .replay _ => none
  | .tlbinv _ => none
  | .migrationStart _ => none
  | .migrationEnd _ => none
  | .quoteRequest _ _ => none
  | .debugToken _ _ => none
  | .recoveryGo _ => none
  | .halt _ => none
  | .resume _ => none
  | .step _ => none
  | .ctxres _ => none
  | .resave _ => none
  | .sqDoorbell _ _ => none
  | .cqConsumerIndex _ _ => none
  | .queueEnable _ _ _ => none
  | .queueAbort _ _ => none
  | .queueResume _ _ => none
  | .sbqData _ _ => none
  | .sbqSkip _ _ => none
  | .sbqStop _ => none
  | .pfctlClr _ => none
  | .registerWrite _ _ => none
  | .hCopyCompletion _ _ _ => none
  | .repairRecordReset => none

/-- The bytes of a core's word in fetch order: halfwords little-endian, bits 31:16 first (05 R88). -/
def wordBytes (nbits w : Nat) : List Byte :=
  if nbits = 16 then [BitVec.ofNat 8 w, BitVec.ofNat 8 (w / 256)]
  else [BitVec.ofNat 8 (w / 65536), BitVec.ofNat 8 (w / 16777216), BitVec.ofNat 8 w, BitVec.ofNat 8 (w / 256)]

/-! Matrix commands (12 R257, R258): 64-byte records, read as 512-bit numbers. -/

/-- The record of a matrix command. -/
def encodeMxu (i : Instr) : Option Nat :=
  match i with
  | .mnop => some 0
  | .mma acc init asrc k addr =>
      some (1 + acc.toNat * 2 ^ 4 + b2n init * 2 ^ 8 + b2n asrc * 2 ^ 9 + k.toNat * 2 ^ 16 + addr.toNat * 2 ^ 64)
  | .mmaS acc init asrc k addr xval sa sb =>
      some (2 + acc.toNat * 2 ^ 4 + b2n init * 2 ^ 8 + b2n asrc * 2 ^ 9 + k.toNat * 2 ^ 16 + addr.toNat * 2 ^ 64 +
        xval.toNat * 2 ^ 192 + sa.toNat * 2 ^ 256 + sb.toNat * 2 ^ 272)
  | .mloada dest addr len => some (3 + b2n dest * 2 ^ 13 + addr.toNat * 2 ^ 64 + len.toNat * 2 ^ 128)
  | .mrot addr => some (4 + addr.toNat * 2 ^ 64)
  | .mrotLd k addr => some (4 + 2 ^ 12 + k.toNat * 2 ^ 16 + addr.toNat * 2 ^ 64)
  | .maccLd acc int addr => some (5 + acc.toNat * 2 ^ 4 + b2n int * 2 ^ 11 + addr.toNat * 2 ^ 64)
  | .maccSt acc clr conv ofmt addr =>
      some (6 + acc.toNat * 2 ^ 4 + b2n clr * 2 ^ 10 + ofmt.toNat * 2 ^ 32 + b2n conv * 2 ^ 36 + addr.toNat * 2 ^ 64)
  | .mcfg xval => some (7 + xval.toNat * 2 ^ 192)
  | .mchk acc acc2 addr => some (8 + acc.toNat * 2 ^ 4 + acc2.toNat * 2 ^ 6 + addr.toNat * 2 ^ 64)
  | .mzero mask int => some (9 + b2n int * 2 ^ 11 + mask.toNat * 2 ^ 28)
  | .mfence => some 10
  | .mtag addr xval => some (11 + addr.toNat * 2 ^ 64 + xval.toNat * 2 ^ 192)
  | _ => none

/-- The command that the fields of a record name, unused fields disregarded. -/
def fieldsMxu (v : Nat) : Option Instr :=
  let flag (lo : Nat) : Bool := v / 2 ^ lo % 2 == 1
  match v % 16 with
  | 0 => some .mnop
  | 1 => some (.mma (fb v 4) (flag 8) (flag 9) (fb v 16) (fb v 64))
  | 2 => some (.mmaS (fb v 4) (flag 8) (flag 9) (fb v 16) (fb v 64) (fb v 192) (fb v 256) (fb v 272))
  | 3 => some (.mloada (flag 13) (fb v 64) (fb v 128))
  | 4 => if flag 12 then some (.mrotLd (fb v 16) (fb v 64)) else some (.mrot (fb v 64))
  | 5 => some (.maccLd (fb v 4) (flag 11) (fb v 64))
  | 6 => some (.maccSt (fb v 4) (flag 10) (flag 36) (fb v 32) (fb v 64))
  | 7 => some (.mcfg (fb v 192))
  | 8 => some (.mchk (fb v 4) (fb v 6) (fb v 64))
  | 9 => some (.mzero (fb v 28) (flag 11))
  | 10 => some .mfence
  | 11 => some (.mtag (fb v 64) (fb v 192))
  | _ => none

/-- Fields whose use depends on another field (12 R256, R258). -/
def usedMxu (i : Instr) : Bool :=
  match i with
  | .mma _ _ asrc _ addr => !asrc || addr == 0
  | .mmaS _ _ asrc _ addr _ _ _ => !asrc || addr == 0
  | .maccSt _ _ conv ofmt _ => conv || ofmt == 0
  | _ => true

/-- A record as a command: an unassigned code is refused with detail 0x02, a non-zero unused field with 0x03 (12 R256). -/
def decodeMxu (v : Nat) : Except Reject Instr :=
  match fieldsMxu v with
  | none => .error .unassignedSub
  | some i => if encodeMxu i == some v && usedMxu i then .ok i else .error .fieldViolation

/-! Chunk instructions (20 R408). -/

/-- PEER names a die or an external port (20 R400). -/
def peerOk (p : BitVec 5) : Bool := decide (p.toNat < 8) || decide (16 ≤ p.toNat)

/-- The 64-bit word of a chunk instruction. -/
def encodeHalo (i : Instr) : Option Nat :=
  let op (opc : Nat) (base : BitVec 3) (even : Bool) (ev : BitVec 3) (peer : BitVec 5) (ch : BitVec 6) (opr : Nat)
      (len : BitVec 14) (off : BitVec 24) : Nat :=
    opc * 2 ^ 60 + base.toNat * 2 ^ 57 + b2n even * 2 ^ 56 + ev.toNat * 2 ^ 53 + peer.toNat * 2 ^ 48 + ch.toNat * 2 ^ 42 +
      opr * 2 ^ 38 + len.toNat * 2 ^ 24 + off.toNat
  match i with
  | .hSend base even ev peer ch len off => some (op 0 base even ev peer ch 0 len off)
  | .hRecv base even ev peer ch len off => some (op 1 base even ev peer ch 0 len off)
  | .hReduce base even ev peer ch opr len off => some (op 2 base even ev peer ch opr.toNat len off)
  | .hCopy base even ev sbase len off => some (op 3 base even ev (sbase.zeroExtend 5) 0 0 len off)
  | .hWait ev value => some (4 * 2 ^ 60 + ev.toNat * 2 ^ 53 + value.toNat)
  | .hSignal ev peer value => some (5 * 2 ^ 60 + ev.toNat * 2 ^ 53 + peer.toNat * 2 ^ 48 + value.toNat)
  | .hLoop lc mask back count stp =>
      some (6 * 2 ^ 60 + lc.toNat * 2 ^ 58 + mask.toNat * 2 ^ 50 + back.toNat * 2 ^ 38 + count.toNat * 2 ^ 24 + stp.toNat)
  | .hEnd => some (7 * 2 ^ 60)
  | _ => none

/-- The chunk instruction whose fields a word holds. -/
def fieldsHalo (v : Nat) : Option Instr :=
  let even : Bool := v / 2 ^ 56 % 2 == 1
  match v / 2 ^ 60 % 16 with
  | 0 => some (.hSend (fb v 57) even (fb v 53) (fb v 48) (fb v 42) (fb v 24) (fb v 0))
  | 1 => some (.hRecv (fb v 57) even (fb v 53) (fb v 48) (fb v 42) (fb v 24) (fb v 0))
  | 2 => some (.hReduce (fb v 57) even (fb v 53) (fb v 48) (fb v 42) (fb v 38) (fb v 24) (fb v 0))
  | 3 => some (.hCopy (fb v 57) even (fb v 53) (fb v 48) (fb v 24) (fb v 0))
  | 4 => some (.hWait (fb v 53) (fb v 0))
  | 5 => some (.hSignal (fb v 53) (fb v 48) (fb v 0))
  | 6 => some (.hLoop (fb v 58) (fb v 50) (fb v 38) (fb v 24) (fb v 0))
  | 7 => some .hEnd
  | _ => none

/-- Permitted field values of a chunk instruction, but for BACK against PCIX (20 R408). -/
def chunkOk (i : Instr) : Bool :=
  let len (l : BitVec 14) : Bool := decide (1 ≤ l.toNat ∧ l.toNat ≤ 8192)
  match i with
  | .hSend _ _ _ peer _ l _ => peerOk peer && len l
  | .hRecv _ _ _ peer _ l _ => peerOk peer && len l
  | .hReduce _ _ _ peer _ opr l _ => peerOk peer && len l && decide (1 ≤ opr.toNat ∧ opr.toNat ≤ 8)
  | .hCopy _ _ _ _ l _ => len l
  | .hSignal _ peer value => peerOk peer && value != 0
  | .hLoop _ _ back count _ => back != 0 && count != 0
  | _ => true

/-- A chunk word: OPC 8 to 15 is refused with detail 0x01, a wrong field with 0x03 (20 R408). -/
def decodeHalo (v : Nat) : Except Reject Instr :=
  match fieldsHalo v with
  | none => .error .reservedOpcode
  | some i => if encodeHalo i == some v && chunkOk i then .ok i else .error .fieldViolation

end Sys2Proof
end

