-- ==== Sys2Proof/Config.lean ====
section
/-! DEFINITION. What an implementation fixes and the free values: constants without a body stand for what the spec leaves
open, so that nothing can be proved of their value. -/

namespace Sys2Proof.Config

/-- The wait-condition word at offset 0x1D8 of a thread record: its encoding is not given (10 R213; log 17, DESIGN CHOICE). -/
opaque waitWord : Nat → Word

/-- SHAKE256 digest, of 64 bytes (22 R436, R438; log 12, DESIGN CHOICE). -/
opaque shake256 : List Byte → BitVec 512

/-- The 57-byte public part of the alias key, from the fused secret, the digests of both boot images and the debug level (22 R437; log 12, DESIGN CHOICE,
DESIGN CHOICE). -/
opaque aliasKey : BitVec 512 → BitVec 512 → Nat → BitVec 456

/-- The 1 KiB certificate of an alias key, which the identity key has signed (22 R437; log 12, DESIGN CHOICE). -/
opaque aliasCert : BitVec 456 → BitVec 8192

/-- The 114-byte Ed448 signature over bytes with the private part of an alias key (22 R438; log 12, DESIGN CHOICE). -/
opaque aliasSign : BitVec 456 → List Byte → BitVec 912

/-- The bytes of the repair record, from the lost Lemuf-X and Lemuf-I links, the retired pages and banks and the counts of bank errors: their form
is not given (22 R438; log 12, DESIGN CHOICE). -/
opaque repairBytes : BitVec 16 → BitVec 12 → List Nat → List Nat → List (Nat × Nat) → List Byte

/-- The nonce that DBGREQ issues (22 R440; log 12, DESIGN CHOICE). -/
opaque nonce : Nat → BitVec 256

/-- Does a token for a debug level, 1 or 2, verify: signed with the key of that level, and naming this device and the nonce (22 R440; log 12, DESIGN CHOICE,
DESIGN CHOICE)? -/
opaque tokenSigned : Nat → List Byte → BitVec 256 → Bool

/-- Does an image's 114-byte signature verify over a digest with the fused vendor key? Where it stands in the image is not given
(22 R436; log 63, DESIGN CHOICE). -/
opaque imageSigned : List Byte → BitVec 512 → Bool

/-- The image's security version, and whether its bytes have the form of an image: the form is not given (22 R436, R445; log 63, DESIGN
CHOICE). -/
opaque imageVersion : List Byte → BitVec 8
opaque imageFormed : List Byte → Bool

/-- What an offset of the debug window names: core, part, which one of it, and word (22 R441, R443; log 65, DESIGN CHOICE). -/
opaque debugPlace : Nat → Nat × Nat × Nat × Nat

/-- A free value drawn by a counter: a result the spec states to exist but not which. -/
opaque freeWord : Nat → Word

/-- The fused minimum security version (22 R439, Reset 'Fused'; log 14, DESIGN CHOICE). -/
opaque fusedSvn : BitVec 8

/-- Is the part a KX8-M1, or a KX8-P1 (00 R1; log 19, DESIGN CHOICE)? -/
opaque isModule : Bool

/-- Form code of IDENT: 0x01 KX8-P1, 0x02 KX8-M1 (22 R443). -/
def identForm : BitVec 8 := if isModule then 2 else 1

/-- IDENT's stepping (22 R443; log 19, DESIGN CHOICE). -/
opaque identStepping : BitVec 8

end Sys2Proof.Config
end

