-- ==== Sys2Proof/Machine/Map.lean ====
section
/-! DEFINITION. Finite maps from numbers as lists of pairs in rising order: register files, tables, cores. An index that the
list does not hold reads as the default the reader names. -/

namespace Sys2Proof.Machine

/-- A map from numbers, listed in rising order of its keys. -/
abbrev SMap (α : Type) := List (Nat × α)

/-- The value at `k`, or `d`. -/
def mget (d : α) (m : SMap α) (k : Nat) : α :=
  match m with
  | [] => d
  | (a, v) :: t => if a = k then v else mget d t k

/-- Write the value at `k`. -/
def mset (m : SMap α) (k : Nat) (v : α) : SMap α :=
  match m with
  | [] => [(k, v)]
  | (a, w) :: t => if k < a then (k, v) :: (a, w) :: t else if a = k then (k, v) :: t else (a, w) :: mset t k v

/-- The entry at `k`, if the map lists it. -/
def mfind (m : SMap α) (k : Nat) : Option α :=
  match m with
  | [] => none
  | (a, v) :: t => if a = k then some v else mfind t k

/-- Remove the entry at `k`. -/
def merase (m : SMap α) (k : Nat) : SMap α :=
  match m with
  | [] => []
  | (a, v) :: t => if a = k then t else (a, v) :: merase t k

/-- Write or erase. -/
def mput (m : SMap α) (k : Nat) (v : Option α) : SMap α :=
  match v with
  | some v => mset m k v
  | none => merase m k

/-- Write consecutive keys. -/
def msetList (m : SMap α) (k : Nat) : List α → SMap α
  | [] => m
  | v :: t => msetList (mset m k v) (k + 1) t

theorem mget_mset_self (d : α) (m : SMap α) (k : Nat) (v : α) : mget d (mset m k v) k = v := by
  induction m with
  | nil => simp [mset, mget]
  | cons h t ih =>
    obtain ⟨a, w⟩ := h
    simp only [mset]
    split
    · simp [mget]
    · split
      · simp [mget]
      · rename_i h2
        simp [mget, h2, ih]

theorem mget_mset_ne (d : α) (m : SMap α) {j k : Nat} (v : α) (h : j ≠ k) : mget d (mset m k v) j = mget d m j := by
  induction m with
  | nil => simp [mset, mget, Ne.symm h]
  | cons hd t ih =>
    obtain ⟨a, w⟩ := hd
    simp only [mset]
    split
    · simp [mget, Ne.symm h]
    · split
      · rename_i h2
        subst h2
        simp [mget, Ne.symm h]
      · simp [mget, ih]

theorem mget_mset (d : α) (m : SMap α) (j k : Nat) (v : α) :
    mget d (mset m k v) j = if j = k then v else mget d m j := by
  by_cases h : j = k
  · subst h; simp [mget_mset_self]
  · simp [h, mget_mset_ne d m v h]

end Sys2Proof.Machine
end

