-- ==== Sys2Proof/Machine/Types.lean ====
section
/-! DEFINITION. The parts of the state that threads, memory, the Condenser and launches use. Plain data only. -/

namespace Sys2Proof.Machine

/-- State of a thread context (04 R57), in the order of the save code (10 R213). -/
inductive CtxState where
  | free | ready | parked | evicting | stopped | killed
deriving DecidableEq, Repr

/-- What a held instruction waits for (04 R62). -/
inductive Cause where
  /-- RECV with no word waiting, on endpoint-table entry `ep`. -/
  | recv (ep : Nat)
  /-- RECVT with an empty ring of the class. -/
  | recvt (cls : Nat)
  /-- SEND with no free slot, on endpoint-table entry `ep`. -/
  | send (ep : Nat)
  /-- LDF (`write = false`) or STF at a word of banked memory; `take` for LDF.take. -/
  | fe (word : Nat) (write take : Bool)
  /-- BAR.WAIT at a word of banked memory. -/
  | bar (word : Nat)
  /-- WAITALL or WAITANY on handles. -/
  | handles (mask : BitVec 16) (any : Bool)
  /-- LWAIT. -/
  | lens
  /-- FFDONE. -/
  | ffdone
  /-- POST to a full partition. -/
  | postFull (die tier : Nat)
  /-- Translation fault at a virtual address. -/
  | xlate (va : Word)
  /-- VU command while the VU is busy, or VFENCE. -/
  | vu
  /-- First read of the destination of a VMOVX whose value has not arrived (11 R249). -/
  | vmovx (r : Nat)
  /-- All 64 copy tags, eight lens tags or sixteen Halo tags are RUNNING (13 R276): 1, 2 or 3. -/
  | tags (eng : Nat)
  /-- Fifteen RSTOREs await acknowledgement (13 R288). -/
  | rstores
  /-- The back queue of a port holds eight words (13 R298). -/
  | backQueue (port : Nat)
  /-- Queue push while the MXU queue is full. -/
  | mxq
  /-- The thread's own earlier accesses, before an access of its own is performed or a unit of the core takes it (07 R136, R137;
  12 R256; 18 R378), or the SAMP unit of the core (18 R394); no blocking point. -/
  | own
  /-- The reply of a plain access (07 R137), behind the thread's earlier accesses to the same bytes; of a load or an atomic a blocking point
  for region 0x7C and for a reply that crosses Lemuf-I. -/
  | reply (blocking : Bool)
  /-- First read of the destination of a relaxed load whose reply comes later (02 R22; 07 R138). -/
  | first
deriving DecidableEq, Repr

/-- The instruction that parked a context (04 R64): held, with its cause and the cycle of the park. -/
structure Held where
  instr : Instr
  cause : Cause
  since : Nat
  /-- Cycle from which the retry limit counts (04 R65; 07 R146). -/
  retryAt : Nat
  /-- What it took from its core at issue: the RNG key (18 R373) and the lens geometry (14 R308). -/
  snap : List Word
  /-- Prefix bytes before the instruction, and whether RLX was among them. -/
  pfx : Nat
  rlx : Bool
  /-- Remaining timeout carried over an eviction (07 R164); none when counted from `since`. -/
  left : Option Nat
  /-- The fetch itself met a translation fault (05 R89): nothing is held, and the thread fetches again. -/
  fetch : Bool
deriving DecidableEq, Repr

/-- An access in flight: relaxed, or posted (07 R137, R138). -/
structure Pend where
  load : Bool
  relaxed : Bool
  va : Word
  len : Nat
  /-- Destination register (loads) or first register of the octet. -/
  dest : Nat
  data : List Byte
  marks : List Bool
  /-- Physical key, when translated at issue. -/
  key : Option Nat
  /-- A release store that is held back until every earlier access of the thread is performed, at its scope (07 R136). -/
  rel : Option Nat
  /-- Number of the access in the order of issue. -/
  ord : Nat
deriving DecidableEq, Repr

/-- Arrival record of a thread (07 R162). -/
structure Arrival where
  addr : Word
  gen : BitVec 16
deriving DecidableEq, Repr

/-- What the leader of a pair has issued and the trailer has not (10 R222): the instruction with its prefixes, its own length,
and what a GETC read at the leader's issue (06 R131). -/
structure Ahead where
  instr : Instr
  pfx : Nat
  rlx : Bool
  pred : Option (Bool × BitVec 3)
  len : Nat
  got : Option Word
deriving DecidableEq, Repr

/-- A thread context (04 R57, R68, R72; 10 R202). -/
structure Ctx where
  st : CtxState
  /-- State held before a stop (04 R58). -/
  prev : CtxState
  xs : SMap Word
  xm : BitVec 32
  ps : BitVec 8
  pm : BitVec 8
  hs : SMap (BitVec 32)
  es : SMap Word
  em : BitVec 8
  /-- Endpoint-table index of each bound endpoint c0 to c15 (04 R82). -/
  cs : SMap Nat
  pc : Word
  cir : BitVec 8
  paddr : Word
  retry : BitVec 24
  chtmo : BitVec 32
  bartmo : BitVec 32
  tpc : Word
  tcause : Word
  taddr : Word
  tscratch : Word
  tmode : Bool
  issued : Word
  /-- RECADDR. -/
  recaddr : Word
  /-- Serial of the launch whose record the context runs. -/
  serial : Word
  /-- Number of the dispatch: it tells the run of the record apart, wherever an eviction takes it. -/
  run : Nat
  arrival : Option Arrival
  held : Option Held
  pend : List Pend
  /-- The schedule lets relaxed and posted accesses stay in flight (07 R137, R138; log 1, DESIGN CHOICE). -/
  weak : Bool
  /-- The schedule lets the replies of plain loads come later (07 R137; log 1, DESIGN CHOICE). -/
  slow : Bool
  /-- Prefix bytes of the instruction at issue and whether RLX precedes it (02 R25); set by the step. -/
  pfx : Nat
  rlx : Bool
  /-- Cycle of the last issue (04 R60), and the first cycle in which the thread may issue after a wake event or its dispatch (04 R63, R85). -/
  lastIssue : Option Nat
  readyAt : Nat
  /-- What the GETC at hand read in its issue cycle (06 R130). -/
  got : Option Word
  /-- RSTOREs awaiting acknowledgement, and the detail of a refusal, 0 for none (13 R288, 07 R166). -/
  rstores : Nat
  refused : Nat
  /-- Lens tags issued since dispatch (14 R323). -/
  lensTags : BitVec 8
  /-- Single step in progress (10 R220). -/
  stepping : Bool
  /-- Cycle at which the context was stopped: its counts stand still from there (10 R208). -/
  stopAt : Nat
  /-- SUSPEND (0), YIELD (1) or RETIRE (2) waiting for its write-back (04 R86). -/
  susp : Option Nat
  /-- Of a pair's leader: its issue that the trailer has yet to make. -/
  ahead : Option Ahead
  /-- The thread has had vector or lens commands accepted since its dispatch: what it needs of its core's window and lens port
  (04 R87; 14 R305; log 93, DESIGN CHOICE). -/
  needs : Bool
deriving DecidableEq, Repr

/-- A page-table entry that translation may still use after the tables have changed (08 R176): root, 64 KiB page, entry and
log2 of its page size, and whether the next access uses it. -/
structure TlbEntry where
  root : Nat
  page : Nat
  entry : Nat
  size : Nat
  used : Bool
deriving DecidableEq, Repr

/-- A continuation recorded outside the Condenser: its record, launch and partition. -/
structure Cont where
  addr : Word
  serial : Word
  die : Nat
  tier : Nat
  /-- Physical key of the record. -/
  key : Nat
  /-- Cycle of its core at which a barrier waiter's timeout is over (07 R164). -/
  left : Nat
deriving DecidableEq, Repr

/-- Full/empty state of a banked word with its waiters (07 R142, R146), the requests parked at the bank, oldest first
(R145), and the threads parked in BAR.WAIT on it. -/
structure FeWord where
  full : Bool
  /-- The bit is lost: state POISONED (07 R147). -/
  lost : Bool
  readers : List Cont
  writers : List Cont
  bars : List Cont
  parked : List ThreadId
  barPark : List ThreadId
deriving DecidableEq, Repr

/-- Bytes of a cached line, as a mask, that stores of a launch through a virtual 64 KiB page wrote last. -/
structure Writer where
  mask : BitVec 64
  serial : Word
  page : Nat
deriving DecidableEq, Repr

/-- A 64-byte line of a cluster cache (08 R184): per-byte validity and dirtiness, poison per word. -/
structure CLine where
  valid : BitVec 64
  dirty : BitVec 64
  data : List Byte
  poison : BitVec 8
  /-- Launch whose store last wrote the line (08 R185). -/
  owner : Word
  /-- Who wrote its dirty bytes (01 R9), and through which pages (08 R176), in the order of the last stores. -/
  writers : List Writer
  /-- Filled by prefetch and not yet demanded (08 R186). -/
  pf : Bool
deriving DecidableEq, Repr

/-- A cluster's cache and prefetch counters (08 R184, R186). -/
structure Cluster where
  lines : SMap CLine
  /-- Lines that a prefetch has asked for and not yet brought (08 R186), and those that their sets evict next. -/
  fetching : List Nat
  victims : List Nat
  pfctl : BitVec 8
  pflines : BitVec 32
  pfused : BitVec 32
  pfearly : BitVec 32
  /-- Temperature in degrees and the hot flag (22 R433). -/
  celsius : BitVec 8
  hot : Bool
deriving DecidableEq, Repr

/-- An error report for a launch's completion entry (10 R216). -/
structure Report where
  cls : Nat
  detail : Nat
  engine : Nat
  ctx : Nat
  unit : Nat
  addr : Word
deriving DecidableEq, Repr

/-- A completion entry waiting to be written (10 R216; 22 R444). -/
structure CqEntry where
  cq : Nat
  rep : Report
  serial : Word
  cookie : BitVec 32
  errcnt : Nat
  interim : Bool
  degr : Bool
  rerun : Bool
deriving DecidableEq, Repr

/-- Life of a launch (16 R343, R345, R358): `ending` after a fatal error, `done` when its final entry waits to be written,
`rejected` when it was never admitted and its final entry waits (22 R444). -/
inductive LaunchState where
  | waiting | admitted | saving | saved | restoring | ending | done | rejected
deriving DecidableEq, Repr

/-- A launch (16 R335 to R345). -/
structure Launch where
  serial : Word
  st : LaunchState
  /-- The 128 bytes of the launch record, and of the extension block once read (16 R335, R340). -/
  record : List Byte
  ext : List Byte
  /-- Submission queue of a host launch. -/
  queue : Option Nat
  /-- Parent and launching die of a device-side launch. -/
  parent : Option Word
  die : Nat
  /-- Address of the record of a device-side launch (04 R77). -/
  recva : Word
  /-- Entries taken from the parent's budget (16 R363). -/
  fromBudget : Bool
  /-- Unused child budget on each die (16 R342). -/
  budget : SMap Nat
  /-- Pool entry on each die it spans (16 R333 LPIX). -/
  lpix : SMap Nat
  live : Nat
  /-- Records of the expansion already written and posted, and those waiting for replay (16 R344, R447). -/
  expanded : Nat
  stalled : List Nat
  /-- Reports (10 R217). -/
  first : Option Report
  silent : Option Report
  errcnt : Nat
  fatal : Option Report
  degr : Bool
  rerun : Bool
  /-- Time used against TLIMIT, microseconds (16 R337). -/
  used : Nat
  /-- Admission or completion waits for a replay (16 R447). -/
  waitReplay : Bool
  /-- Spill frames in use (16 R334). -/
  frames : List Nat
  /-- Held while DBGCTL.HOLD of this core (by its key) is 1 (10 R220), and the thread that launched it, with its dispatch. -/
  hold : Option Nat
  launcher : Option (ThreadId × Nat)
  /-- Cores asked to stop and not yet stopped (10 R208), by key. -/
  stopReq : List Nat
  /-- Store footprint offset on each core it is admitted to, by core key (04 R79). -/
  lsbase : SMap Nat
  /-- The launch that pre-empts this one, and cheap pre-emption in force (16 R357). -/
  preemptor : Option Word
  cheap : Bool
  /-- Save and restore (10 R211 to R215): cores done, cores faulted, 256-byte units written by a core that faulted. -/
  saveDone : List Nat
  /-- Cores that a restore has come back to. -/
  restored : List Nat
  saveFault : SMap Nat
  saveAt : SMap Nat
  savestat : Word
  /-- Waiter entries of each core's footprint at its stop cycle (10 R211). -/
  saveW0 : SMap Nat
  /-- Physical keys of DONECTR and of the DONEREC record, translated before the final entry (16 R345, R447). -/
  doneCtr : Option Nat
  doneRec : Option Nat
deriving DecidableEq, Repr

/-- A held entry of a Condenser partition (16 R348 to R355). -/
structure CEntry where
  addr : Word
  serial : Word
  /-- The 64 bytes of the record as held. -/
  bytes : List Byte
  /-- Arrival number (order), and cycle of the tier's clock at arrival. -/
  order : Nat
  since : Nat
  /-- Current priority, promotions so far (16 R354). -/
  prio : Nat
  aged : Nat
  /-- The hint has waited 1,024 cycles (16 R355). -/
  hintOver : Bool
  folded : Bool
deriving DecidableEq, Repr

/-- A post travelling to its partition: the record's address, bytes and launch. -/
structure Transit where
  addr : Word
  serial : Word
  bytes : List Byte
  /-- A successor or DONEREC post: a new entry counts in the launch's live count (16 R345). -/
  newLive : Bool
  /-- What posted it: two posts of one source arrive in order. -/
  src : Nat
deriving DecidableEq, Repr

/-- A partition of the Condenser (16 R348). -/
structure Part where
  entries : List CEntry
  next : Nat
  transit : List Transit
  /-- POSTs parked while full, in order, with the record each hands over (16 R353, R361). -/
  posts : List (ThreadId × Transit)
deriving DecidableEq, Repr

/-- An evicted record's held operation (10 R213 offset 0x1D8; the word's encoding is open, log 17, DESIGN CHOICE) and outcome. -/
inductive Outcome1 where
  /-- Nothing recorded: present again. -/
  | again
  /-- A trap of a class and detail. -/
  | trap (cls detail : Nat)
  /-- The bank or the reply gave the held load its value, with the marks of its words (04 R87, 07 R146). -/
  | value (data : List Byte) (marks : List Bool)
  /-- The bank performed the held store (07 R146). -/
  | stored
deriving DecidableEq, Repr

/-- Side table of evicted records. -/
structure Spill where
  addr : Word
  serial : Word
  /-- The context at its eviction, and which one it was. What the spill frame holds is restored from there. -/
  ctx : Ctx
  thread : ThreadId
  out : Outcome1
  /-- CIR bits that engines set meanwhile, and the first address of poison met. -/
  cir : BitVec 8
  paddr : Word
  /-- Values of VMOVX that arrived meanwhile: register, value and mark (11 R249). -/
  late : List (Nat × Word × Bool)
  /-- Frame number in the launch's arena. -/
  frame : Nat
  /-- The request is off its bank and the continuation recorded (07 R146). -/
  recorded : Bool
  /-- The frame and the record are written; the wake event has come (and the record is posted once it is written). -/
  written : Bool
  woken : Bool
deriving DecidableEq, Repr

end Sys2Proof.Machine
end

