-- ==== Sys2Proof/Machine/Units.lean ====
section
/-! DEFINITION. The parts of the state that the engines of a core and of a die use: vector unit, matrix unit, copy engine,
streams, lens ports, channels, Halo. Plain data only. -/

namespace Sys2Proof.Machine

/-- A vector register: 64 lanes, format tag, mark per lane (11 R229). -/
structure VReg where
  lanes : List (BitVec 32)
  tag : BitVec 8
  marks : BitVec 64
deriving DecidableEq, Repr

/-- A vector window (04 R69). -/
structure Window where
  vs : SMap VReg
  ms : SMap Word
  /-- Port of each bound stream register v12 to v15 (11 R252). -/
  binds : SMap Nat
  owner : Option Word
deriving DecidableEq, Repr

/-- An accepted vector command (11 R230): the instruction and the scalar values handed over. -/
structure VuCmd where
  instr : Instr
  thread : ThreadId
  serial : Word
  run : Nat
  win : Nat
  xa : Word
  xb : Word
  xam : Bool
  /-- Physical keys of the elements of a memory form, translated at acceptance (11 R237), with their virtual addresses. -/
  keys : List (Nat × Nat × Word)
  /-- Blocks claimed from input ports: register, port, sequence, tag; ports of output registers (11 R252, 13 R299). -/
  ins : List (Nat × Nat × Nat × BitVec 8)
  outs : List (Nat × Nat)
deriving DecidableEq, Repr

/-- An accumulator (04 R68, 12 R272). -/
structure Acc where
  bits : List (BitVec 32)
  tag : BitVec 8
  poison : Bool
deriving DecidableEq, Repr

/-- A copy of a range of local store held in the MXU (12 R261). -/
structure MxBuf where
  valid : Bool
  data : List Byte
  poison : Bool
  src : Nat
  len : Nat
deriving DecidableEq, Repr

/-- The operand latch (12 R264). -/
structure Latch where
  valid : Bool
  data : List Byte
  poison : Bool
  src : Nat
  k : Nat
  fb : Nat
deriving DecidableEq, Repr

/-- A queued matrix command with its snapshot (12 R256). -/
structure MxCmd where
  bytes : List Byte
  snap : BitVec 16
  thread : ThreadId
  serial : Word
  run : Nat
deriving DecidableEq, Repr

/-- A local-store write of a command that is not performed yet (12 R269): key, bytes of one word, mark and address. -/
structure MxWrite where
  key : Nat
  data : List Byte
  mark : Bool
  addr : Word
  cmd : MxCmd
deriving DecidableEq, Repr

/-- The matrix unit (12 R255 to R261, R275). -/
structure Mxu where
  queue : List MxCmd
  cfg : BitVec 16
  accs : SMap Acc
  abuf : MxBuf
  scale : MxBuf
  latch : Latch
  rot : Nat
  /-- The head MROT's tile has been taken; the incoming tile, with the number of its MROT. -/
  sent : Bool
  incoming : Option (Nat × Latch)
  /-- The MROT at the head waits for a ring neighbour; the numbers of the MROTs that a neighbour's disagreed with on RING. -/
  ringw : Bool
  ringBad : List Nat
  /-- RING of the MROTs that have ended, by their numbers: a paired MROT may still come (R264). -/
  rings : List (Nat × Nat)
  /-- Local-store writes still to be performed, oldest first, and whether the schedule lets them come late (R269). -/
  writes : List MxWrite
  late : Bool
  lasttag : BitVec 32
  errs : BitVec 8
  errcls : BitVec 4
  /-- A command waits for a grant. -/
  resw : Bool
deriving DecidableEq, Repr

/-- State of a tag (13 R276). -/
inductive TagState where
  | idle | running | complete | cancelled
deriving DecidableEq, Repr

/-- A copy or lens tag with its status (13 R278, 14 R322). -/
structure Tag where
  st : TagState
  gen : BitVec 16
  /-- Cycle of its core in which its last operation was completed or cancelled, of a copy tag (06 R130). -/
  doneAt : Nat
  cls : BitVec 4
  detail : BitVec 8
  frec : Bool
  pois : Bool
  done : Nat
  addr : Word
deriving DecidableEq, Repr

/-- A copy in progress (13 R280 to R285). -/
structure CopyOp where
  tag : Nat
  /-- 0 CPY, 1 CPY.t8, 2 CPY.t16, 3 CPYS, 4 CPYG. -/
  kind : Nat
  dst : Word
  src : Word
  len : Word
  e0 : Word
  e1 : Word
  e2 : Word
  w : Nat
  thread : ThreadId
  serial : Word
  run : Nat
  /-- Destination words already written, by their place in the copy order. -/
  written : List Nat
  cancel : Bool
  /-- Numbers of the thread's accesses that the copy's reads come after (13 R284). -/
  after : List Nat
  /-- Held by FREEZE (10 R220); waits for a grant, and the 64 KiB parts it has grants for (13 R284). -/
  frozen : Bool
  resw : Bool
  granted : Nat
  /-- Tags of other cores that take the final state (22 R434). -/
  redirect : List (CoreId × Nat)
deriving DecidableEq, Repr

/-- A lens operation (14 R314 to R318). -/
structure LensOp where
  tag : Nat
  /-- The form's q: 0 to 3 RESTRICT, 8 to 10 PROLONG, 16 LWLOAD. -/
  kind : Nat
  dst : Word
  src : Word
  size : Word
  lmode : Word
  lfine : Word
  lcoarse : Word
  thread : ThreadId
  serial : Word
  run : Nat
  /-- Destination elements passed, those written without error before the first error, the reads made for the next one with
  their marks, and whether the operation waits on a SYNC read. -/
  at_ : Nat
  done : Nat
  got : List (Nat × Bool)
  waiting : Bool
  /-- What the bank gave a waiting SYNC read: the word's bytes, its poison, and whether a reconstruction fault was met. -/
  arrived : Option (List Byte × Bool × Bool)
  cancel : Bool
  frozen : Bool
  /-- Numbers of the thread's accesses that the reads come after (R319). -/
  after : List Nat
deriving DecidableEq, Repr

/-- A lens port (14 R305). -/
structure Lens where
  lmode : Word
  lfine : Word
  lcoarse : Word
  ws : SMap (BitVec 32)
  wm : BitVec 64
  tags : SMap Tag
  ops : List LensOp
  errs : BitVec 8
  errcls : BitVec 4
deriving DecidableEq, Repr

/-- A 256-byte block of a stream port, with its sequence number (13 R292). -/
structure Block where
  seq : Nat
  lanes : List (BitVec 32)
  marks : BitVec 64
deriving DecidableEq, Repr

/-- A SKIP or STOP decision waiting for block C − 1 (13 R299). -/
structure Decision where
  stop : Bool
  level : Nat
  c : Nat
deriving DecidableEq, Repr

/-- A stream port (13 R289 to R300). -/
structure Port where
  bound : Bool
  out : Bool
  scb : List Byte
  scbAddr : Word
  serial : Word
  /-- Loop variables l0 to l3 of the generator's next block, its sequence number, and whether it has ended. -/
  ls : List Nat
  seq : Nat
  gend : Bool
  /-- The port has ended: STRM.END took effect, or its hart ended. -/
  ended : Bool
  /-- Blocks queued, oldest first. -/
  queue : List Block
  /-- Coordinates of generated blocks by sequence number, and those whose index was poisoned (R292, R299). -/
  gen : SMap (List Nat)
  badIdx : List Nat
  /-- Blocks claimed by accepted commands and taken by executed ones; sequence of the last SB.NEXT still valid. -/
  claim : Nat
  taken : Nat
  held : Option Nat
  dec : Nat
  late : List Decision
  /-- DATA words of the back queue, oldest first. -/
  back : List Word
  err : Bool
  errcls : BitVec 4
  /-- A block was pushed after the output hart ended (13 R297: reported once). -/
  overrun : Bool
  tag : BitVec 8
  /-- Numbers of the binding thread's accesses that the port's reads come after (R293); handled at a gang stop (R303). -/
  after : List Nat
  paused : Bool
deriving DecidableEq, Repr

/-- A loader or storer hart (13 R289, R295). -/
structure Hart where
  xs : SMap Word
  pc : Nat
  ended : Bool
  /-- Stalled on a translation fault until replay. -/
  stalled : Bool
deriving DecidableEq, Repr

/-- An entry of the core's endpoint table (10 R213; 07 R153 to R160). -/
structure Ep where
  desc : Word
  bound : Bool
  met : Bool
  resync : Bool
  /-- Detail of the CHANNEL error that broke the channel: 0 none, else 0x03 or 0x04 (07 R159). A message of the end has been
  returned, which its next operation traps for (07 R156). -/
  broken : Nat
  returned : Bool
  free : Nat
  sent : BitVec 16
  consumed : BitVec 16
  received : BitVec 16
  rpos : Nat
  wpos : Nat
  /-- Core-local words in flight with marks, held at the receiving end (07 R155). A sending end whose receiving end has left keeps the
  channel: these words, the counters and ring positions, and the descriptor of the end that left (log 95, DEDUCED). -/
  words : List (Word × Bool)
  ring : Word
  /-- Endpoint-table place of the peer end: core key and index. -/
  peer : Option (Nat × Nat)
  /-- Messages sent, the SEQ of the next one (07 R157). -/
  seq : BitVec 32
  /-- Binding order on the device, launch, and owner: context and record. -/
  order : Nat
  serial : Word
  ctx : Nat
deriving DecidableEq, Repr

/-- A message class of a core (07 R158). -/
structure ClassB where
  bound : Bool
  binding : Word
  serial : Word
  rpos : Nat
  wpos : Nat
  msgs : Nat
  seq : BitVec 32
  /-- Cycle of its core in which the last message arrived, and how many arrived in it (06 R130). -/
  lastAt : Nat
  fresh : Nat
deriving DecidableEq, Repr

/-- A message in the network for a ring (07 R156). -/
structure Msg where
  dst : CoreId
  src : CoreId
  srcCtx : Nat
  /-- Class number, or the endpoint-table entry of the receiving end. -/
  cls : Bool
  target : Nat
  srcEp : Nat
  seq : Nat
  words : List (Word × Bool)
  serial : Word
  /-- Binding order of the sending end. -/
  srcOrder : Nat
  /-- Cycle of the receiving core's tier from which it is held there; none while it is under way. -/
  since : Option Nat
  tmo : Nat
deriving DecidableEq, Repr

/-- A data operation of a Halo schedule (20 R408 to R416). -/
structure HaloOp where
  /-- Chunk opcode 0 SEND, 1 RECV, 2 REDUCE, 3 COPY. -/
  kind : Nat
  va : Word
  src : Word
  len : Nat
  even : Bool
  ev : Nat
  peer : Nat
  ch : Nat
  opr : Nat
  order : Nat
  /-- Match number on the operation's key (20 R416), and the index of its chunk instruction (R407). -/
  num : Nat
  at_ : Nat
  /-- The loss of a Lemuf-I link has interrupted the transfer, which waits for a route (20 R421). -/
  rerouting : Bool
  /-- Waits for replay of a translation fault. -/
  stalled : Bool
deriving DecidableEq, Repr

/-- A running schedule (20 R404). -/
structure Sched where
  code : Word
  bases : SMap Word
  evs : SMap (BitVec 32)
  lcs : SMap Nat
  pcix : Nat
  comm : Nat
  thread : ThreadId
  serial : Word
  run : Nat
  ops : List HaloOp
  /-- Operations started on each key: direction, peer and channel (20 R416). -/
  cnts : SMap Nat
  /-- The schedule waits in H.WAIT; its H.SIGNAL is not yet applied or held (20 R412, R413). -/
  evw : Bool
  sig : Bool
  /-- Peer of that H.SIGNAL. -/
  sigTo : Nat
  /-- H.END reached, stopped by an error, or cancelled: no further chunk instruction. -/
  stopped : Bool
  cancel : Bool
  frozen : Bool
  /-- Numbers of the issuing thread's accesses that the engine's reads come after (20 R404). -/
  after : List Nat
  /-- The chunk instruction that the engine has reached and not yet passed (20 R405). -/
  word : Option Word
  /-- The final state of a schedule whose launch is saved: the die holds it until restore (10 R210). -/
  endedAs : Option TagState
deriving DecidableEq, Repr

/-- A Halo tag (20 R402, R407). -/
structure HTag where
  st : TagState
  gen : BitVec 16
  cls : BitVec 4
  detail : BitVec 8
  pcix : Nat
  sched : Option Sched
deriving DecidableEq, Repr

/-- A signal travelling to a die (20 R412), and the sending schedule of this package: die, tag and generation. -/
structure HSig where
  comm : Nat
  ev : Nat
  value : BitVec 32
  src : Option (Nat × Nat × BitVec 16)
deriving DecidableEq, Repr

/-- A core (04, 11, 12, 13, 14). -/
structure Core where
  /-- The last context to issue, and the cycle of that issue (04 R60). -/
  lastCtx : Nat
  issuedIn : Option Nat
  ctxs : SMap Ctx
  wins : SMap Window
  vq : List VuCmd
  /-- A command waits for a grant (11 R231); contexts parked on the VU, in order. -/
  vuResw : Bool
  vuWait : List Nat
  mxu : Mxu
  mxWait : List Nat
  fmt : SMap (BitVec 32)
  fmtset : BitVec 16
  tags : SMap Tag
  copies : List CopyOp
  /-- Contexts held for a copy tag or a lens tag, in order (13 R276). -/
  tagWait : List Nat
  lens : Lens
  eps : SMap Ep
  classes : SMap ClassB
  ports : SMap Port
  /-- Harts: loader 0 to 3, storer 4 to 7. -/
  harts : SMap Hart
  /-- Launch parts of the private stores, from offset 0x0100 (13 R290). -/
  loaderImg : List Byte
  storerImg : List Byte
  rkey : BitVec 128
  /-- Contexts whose SAMP or SPEC instruction the unit has still to serve, in the order of issue (18 R394), and the words that it has read
  for the first: offset, value, mark. -/
  sampWait : List Nat
  sampGot : List (Nat × Nat × Bool)
  /-- Constant-window copy (words 0x00 to 0xEF, 0xF0, 0xF6, 0xF8 to 0xFF) and the words of each launch (04 R77, 06 R123). -/
  cw : SMap Word
  /-- Words of the copy that fail their parity (06 R123). -/
  cwBad : List Nat
  ident : SMap (SMap Word)
  /-- Resident launches by serial, in order of admission. -/
  residents : List Word
  /-- Launches a gang stop has stopped on this core, and the cycle of each stop by serial. -/
  stopped : List Word
  stopCyc : SMap Nat
  dbgctl : BitVec 4
  gscycle : Word
  gssent : Word
  gsrecv : Word
  msgSent : SMap Nat
  msgRecv : SMap Nat
  savestat : Word
  /-- Parity counters of the local store (08 R183). -/
  recon : BitVec 16
  rfaults : BitVec 16
  /-- Halfwords of code that the instruction cache holds in an older form, and whether the next fetch gets that one (08 R448). -/
  icache : SMap (Nat × Bool)
deriving DecidableEq, Repr

/-- A die (16 R333, R342; 20; 22 R434). -/
structure Die where
  parts : SMap Part
  /-- Launch-pool entries taken: LPIX to serial; entries held or reserved in all. -/
  pool : SMap Word
  used : Nat
  htags : SMap HTag
  /-- Held-signal table: COMM × 8 + counter to the sum (20 R412). -/
  sigs : SMap (BitVec 32)
  sigIn : List HSig
  haloWait : List ThreadId
  /-- Moved-record table: addresses, each with the microsecond of its move (22 R434). -/
  moved : List (Word × Nat)
  /-- The port that each lens engine served last, by core key (14 R328). -/
  lensLast : SMap Nat
  recon : BitVec 16
  rfaults : BitVec 16
  /-- Match numbers given up by withdrawn operations, with their keys (20 R419). -/
  gave : List (Nat × Nat)
deriving DecidableEq, Repr

/-- A pending fence of a submission queue (16 R347). -/
structure Fence where
  cq : Nat
  ptroot : Word
  tmo : Nat
  since : Nat
  counters : List (Word × Word)
deriving DecidableEq, Repr

/-- A submission queue (22 R444). -/
structure SubQ where
  base : Word
  en : Bool
  halt : Bool
  compat : Bool
  log2n : Nat
  prod : Nat
  cons : Nat
  fence : Option Fence
  /-- Compatibility queue: the launch whose admission it awaits. -/
  waits : Option Word
deriving DecidableEq, Repr

/-- A completion queue (22 R444, 10 R216). -/
structure CplQ where
  base : Word
  en : Bool
  log2n : Nat
  prod : Nat
  cons : Nat
  seq : BitVec 16
  phase : Bool
  /-- COMPAT of CTL, which only a submission queue uses (22 R444). -/
  compat : Bool
  /-- Entries that wait to be written, oldest first. -/
  waiting : List CqEntry
deriving DecidableEq, Repr

/-- A page migration in progress (08 R187). -/
structure Mig where
  src : Nat
  dst : Nat
  done : Bool
  /-- The host has ended it; writes already addressed to the old frame are still to be performed. -/
  ending : Bool
deriving DecidableEq, Repr

/-- The host interface (22 R443 to R446). -/
structure HostIf where
  fqbase : Word
  fqlog : Nat
  fqhead : Nat
  fqtail : Nat
  fqheld : List (List Byte)
  /-- Granules with a record outstanding: serial and virtual granule (08 R175). -/
  granules : List (Word × Nat)
  sqs : SMap SubQ
  cqs : SMap CplQ
  tlbacks : BitVec 32
  tlbovf : Bool
  tlbpend : List Word
  migsrc : Word
  migdst : Word
  attnonce : BitVec 256
  attbuf : Word
  attdone : Bool
  attbusy : Bool
  dbgnonce : BitVec 256
  dbgtoken : List Byte
  partser : Word
  partres : Nat
  /-- The launch on which a partition command is still in progress (22 R446). -/
  partbusy : Option Word
  reclen : Nat
  rstat : Nat
  recimg : SMap Byte
  wins : SMap Word
  msix : List Nat
deriving DecidableEq, Repr

/-- Power, thermal and security state of the package (22 R427 to R442) and the repair record (10 R228). -/
structure Dev where
  powered : Bool
  slew : Bool
  pserr : Nat
  pscur : Nat
  psreq : Nat
  pstarget : Nat
  capavg : Nat
  cappeak : Nat
  p1 : Nat
  p10 : Nat
  defer : Nat
  /-- Requests that wait for a grant, oldest first: core, unit (0 VU, 1 MXU, 2 and the tag for a copy) and launch; grants given to them and
  not yet used (22 R431). -/
  deferred : List (CoreId × Nat × Word)
  grants : List (CoreId × Nat × Word)
  /-- Charge of a grant in watts, by kind of unit × 4 and power state (22 R431; log 18, DESIGN CHOICE). -/
  charge : SMap Nat
  thermmig : BitVec 32
  bcause : Nat
  rfail : Nat
  dbg : Nat
  sstate : Nat
  token : Option Nat
  /-- SHAKE256 digests of the two boot images (22 R437, R438). -/
  fwDigest : BitVec 512
  devDigest : BitVec 512
  /-- Microseconds since reset. -/
  time : Nat
  xlost : BitVec 16
  ilost : BitVec 12
  /-- Retired HBM frames (10 R228). -/
  pages : List Nat
  /-- Retired data banks (bank keys) and uncorrectable-error counts (08 R179, R181). -/
  retired : List Nat
  bankErrs : SMap Nat
  /-- Words that the patrol scrub has rewritten after an uncorrectable error: 1, or 2 when found in error again (08 R179). -/
  scrubbed : SMap Nat
deriving DecidableEq, Repr

/-- An RSTORE sent and not yet acknowledged (13 R288, 20 R424). -/
structure RSt where
  thread : ThreadId
  serial : Word
  run : Nat
  /-- Number of the store; held by FREEZE (10 R220); the detail of its answer, 0 for an acknowledgement, that the die holds until its
  launch is restored (10 R210). -/
  ord : Nat
  frozen : Bool
  answer : Option Nat
  port : Nat
  page : Nat
  off : Nat
  data : List Byte
  marks : List Bool
deriving DecidableEq, Repr

/-- Which agent moves next (log 1, DESIGN CHOICE): one indivisible step of the device each. -/
inductive Turn where
  /-- A core's rotation: the next issue of one instruction (04 R59, R60). -/
  | core (c : CoreId)
  /-- The matrix unit performs the command at the head of its queue. -/
  | mxu (c : CoreId)
  /-- The ring transfer of the matrix unit's next MROT starts (12 R264). -/
  | mxSend (c : CoreId)
  /-- The matrix unit's writes come late, or no longer do; one of them is performed, or its first 32 bits (12 R269). -/
  | mxLate (c : CoreId) (on : Bool)
  | mxWrite (c : CoreId) (n : Nat) (half : Bool)
  /-- The SAMP unit reads a word, by its offset, for the instruction that it serves (18 R378). -/
  | samp (c : CoreId) (off : Nat)
  /-- A Halo schedule's next chunk instruction. -/
  | halo (die tag : Nat)
  /-- A loader or storer hart's next instruction. -/
  | hart (h : HartId)
  /-- An event of the device or of the host. -/
  | event (i : Instr)
  /-- The device lets the context's relaxed and posted accesses stay in flight, or no longer does. -/
  | weak (t : ThreadId) (on : Bool)
  /-- The replies of the context's plain accesses come later, each with its wake event, or no longer do (07 R137). -/
  | slow (t : ThreadId) (on : Bool)
  /-- An access in flight is performed. -/
  | perform (t : ThreadId) (n : Nat)
  /-- A cluster cache chooses the line that its set evicts next, to make room for a fill (09 R197). -/
  | evictLine (cluster line : Nat)
  /-- The stream prefetcher asks for a line, or a line asked for arrives (08 R186). -/
  | prefetch (cluster line : Nat)
  /-- A copy writes one destination word. -/
  | copyWord (c : CoreId) (tag n : Nat)
  /-- Cycles of a tier's clock pass without an issue; microseconds pass on the device. -/
  | tick (tier n : Nat)
  | micros (n : Nat)
  /-- The power estimates are updated (22 R431), and the charge of a kind of unit in a power state. -/
  | power (p1 p10 : Nat)
  | charge (unit ps n : Nat)
  /-- An uncorrectable error comes about: banked word, HBM line, cached line, vector lane, register bit. -/
  | wordError (word : Nat)
  | hbmError (line : Nat)
  | cacheError (cluster line : Nat)
  | laneError (c : CoreId) (win v lane : Nat)
  | bitFlip (t : ThreadId) (x b : Nat)
  /-- A correctable error comes about in a banked word (08 R178). -/
  | softError (word : Nat)
  /-- The bank of a word is busy in the cycle of the word's next read (08 R178, R183). -/
  | busy (word : Nat)
  /-- A channel counter fails its parity (07 R159). -/
  | counterParity (c : CoreId) (ep : Nat)
  /-- A word of a core's window copy fails its parity (06 R123). -/
  | copyParity (c : CoreId) (word : Nat)
  /-- The instruction cache takes a halfword and goes on giving it, or gives memory's form (08 R448). -/
  | icache (c : CoreId) (half : Nat) (old : Bool)
  /-- Translation of a page keeps the entry of now and goes on using it, or reads the tables (08 R176). -/
  | tlb (root va : Nat) (old : Bool)
  /-- The host writes its own memory at a bus address, or HBM at a physical address (08 R187: host writes). -/
  | hostMem (a : Nat) (b : List Byte)
  | hostHbm (pa : Nat) (b : List Byte)
  /-- A signal arrives from another package (20 R412). -/
  | extSignal (die port comm ev : Nat) (value : BitVec 32)
  /-- The far end of a port takes, or refuses, the H.SIGNAL that a schedule waits at (20 R412). -/
  | signalAnswer (die tag : Nat) (taken : Bool)
deriving DecidableEq, Repr

end Sys2Proof.Machine
end

