-- ==== Sys2Proof/Machine/State.lean ====
section
/-! DEFINITION. The whole machine as plain data, why a step can stop, and the state after reset. -/

namespace Sys2Proof.Machine

/-- Why the machine stops with a fault. -/
inductive Fault where
  /-- Raised by an HBM access whose page-table frame names a physical address that no stack holds (01 R7, 08 R173: 8 stacks of
  48 GB, stack s at s × 2^36); the spec gives no effect there. Safe: the model stops where the part may go on. -/
  | noMemory (address : Nat)
deriving DecidableEq, Repr

/-- Why the model gives an instruction no meaning. -/
inductive Refusal where
  /-- Raised by an arm of `exec` that has no meaning yet, by its mnemonic. Safe: the model stops. -/
  | notModelled (mnemonic : String)
deriving DecidableEq, Repr

/-- The machine. The first six fields are the model's own: which agent `exec` speaks of, the schedule, the threads whose held
instruction is presented again, the counter of free values (log 1, DESIGN CHOICE, log 2, DESIGN CHOICE), and the address of an access that met no memory. -/
structure State where
  cur : ThreadId
  curHart : HartId
  curHalo : Nat × Nat
  sched : List Turn
  resume : List ThreadId
  freeCnt : Nat
  hole : Option Nat
  /-- Every byte of HBM, local stores, Nimbus and host memory by physical key (Ops: `keyLs`, `keyNm`, `keyHost`). -/
  mem : List Host.Cell
  /-- Full/empty words (07 R142) and poison marks (10 R218) by word key. -/
  fe : SMap FeWord
  poison : SMap Bool
  /-- Condition of banked words, as the sum of 1 for an uncorrectable error, 2 for a correctable one, 4 when the bank is busy at the next
  read (08 R178); a row's parity word stands at 2^60 and the row's key (log 86, DEDUCED). -/
  badWords : SMap Nat
  /-- STALE rows of parity groups (08 R177). -/
  stale : List Nat
  clusters : SMap Cluster
  tlb : List TlbEntry
  cores : SMap Core
  dies : SMap Die
  launches : List Launch
  nextSerial : Word
  /-- Cycles of each tier's clock since reset (01 R13; 04 R72). -/
  clocks : SMap Nat
  /-- Mismatches in succession of a pair's record, by launch and physical key (10 R227): serial × 2^64 + key. -/
  pairMis : SMap Nat
  /-- Records, by launch and address, whose binding to a core the device set under 13 R286 and no other rule (22 R434). -/
  bound286 : List (Word × Word)
  /-- Arrival numbers of bindings, Halo operations and waiting launches. -/
  nextOrder : Nat
  spills : List Spill
  migs : SMap Mig
  net : List Msg
  rst : List RSt
  /-- What the part keeps of a saved core beside its block (10 R215): serial × 8192 + core key. -/
  savedCores : SMap Core
  host : HostIf
  dev : Dev
deriving DecidableEq, Repr

/-- A context after reset (04 R57; values without a reset value are their dispatch value, log 7, DESIGN CHOICE). -/
def Ctx.reset : Ctx :=
  { st := .free, prev := .free, xs := [], xm := 0, ps := 1, pm := 0, hs := [], es := [], em := 0, cs := [], pc := 0,
    cir := 0, paddr := 0, retry := 4096, chtmo := 65536, bartmo := 1048576, tpc := 0, tcause := 0, taddr := 0,
    tscratch := 0, tmode := false, issued := 0, recaddr := 0, serial := 0, run := 0, arrival := none, held := none, pend := [],
    weak := false, slow := false, pfx := 0, rlx := false, lastIssue := none, readyAt := 0, got := none, rstores := 0, refused := 0, lensTags := 0,
    stepping := false, stopAt := 0, susp := none, ahead := none, needs := false }

/-- A full/empty word after reset: EMPTY, no waiter (15 R331; log 3, DESIGN CHOICE). -/
def FeWord.reset : FeWord :=
  { full := false, lost := false, readers := [], writers := [], bars := [], parked := [], barPark := [] }

/-- A cluster after reset (08 R186; log 4, DESIGN CHOICE, log 13, DESIGN CHOICE). -/
def Cluster.reset : Cluster :=
  { lines := [], fetching := [], victims := [], pfctl := 0x41, pflines := 0, pfused := 0, pfearly := 0, celsius := 0, hot := false }

/-- A vector register after reset: tag NONE (03 R43) (DESIGN CHOICE, log 7). -/
def VReg.reset : VReg := { lanes := List.replicate 64 0, tag := 0, marks := 0 }

/-- A window after reset (DESIGN CHOICE, log 7). -/
def Window.reset : Window := { vs := [], ms := [], binds := [], owner := none }

/-- An accumulator after reset: tag NONE (DESIGN CHOICE, log 7). -/
def Acc.reset : Acc := { bits := List.replicate 256 0, tag := 0, poison := false }

/-- A buffer that holds nothing. -/
def MxBuf.reset : MxBuf := { valid := false, data := [], poison := false, src := 0, len := 0 }

/-- An invalid latch. -/
def Latch.reset : Latch := { valid := false, data := [], poison := false, src := 0, k := 0, fb := 0 }

/-- The matrix unit after reset: RING 0b11 (12 R255, R256, R259). -/
def Mxu.reset : Mxu :=
  { queue := [], cfg := 0xC000, accs := [], abuf := .reset, scale := .reset, latch := .reset, rot := 0, sent := false,
    incoming := none, ringw := false, ringBad := [], rings := [], writes := [], late := false, lasttag := 0, errs := 0, errcls := 0, resw := false }

/-- A tag after reset: IDLE, generation 0 (13 R276). -/
def Tag.reset : Tag :=
  { st := .idle, gen := 0, doneAt := 0, cls := 0, detail := 0, frec := false, pois := false, done := 0, addr := 0 }

/-- A lens port after reset (14 R305). -/
def Lens.reset : Lens :=
  { lmode := 0, lfine := 0, lcoarse := 0, ws := [], wm := 0, tags := [], ops := [], errs := 0, errcls := 0 }

/-- A stream port that is not bound (13 R300). -/
def Port.reset : Port :=
  { bound := false, out := false, scb := [], scbAddr := 0, serial := 0, ls := [0, 0, 0, 0], seq := 0, gend := false,
    ended := true, queue := [], gen := [], badIdx := [], claim := 0, taken := 0, held := none, dec := 0, late := [],
    back := [], err := false, errcls := 0, overrun := false, tag := 0,
    after := [], paused := false }

/-- A hart after reset: ended (DESIGN CHOICE, log 7). -/
def Hart.reset : Hart := { xs := [], pc := 0, ended := true, stalled := false }

/-- An endpoint-table entry that binds nothing. -/
def Ep.reset : Ep :=
  { desc := 0, bound := false, met := false, resync := false, broken := 0, returned := false, free := 0, sent := 0, consumed := 0, received := 0,
    rpos := 0, wpos := 0, words := [], ring := 0, peer := none, seq := 0, order := 0, serial := 0, ctx := 0 }

/-- A message class that is not bound. -/
def ClassB.reset : ClassB := { bound := false, binding := 0, serial := 0, rpos := 0, wpos := 0, msgs := 0, seq := 0, lastAt := 0, fresh := 0 }

/-- A Halo tag after reset. -/
def HTag.reset : HTag := { st := .idle, gen := 0, cls := 0, detail := 0, pcix := 0, sched := none }

/-- A core after reset (DESIGN CHOICE, log 7). -/
def Core.reset : Core :=
  { lastCtx := 15, issuedIn := none, ctxs := [], wins := [], vq := [], vuResw := false, vuWait := [], mxu := .reset, mxWait := [],
    fmt := [], fmtset := 0, tags := [], copies := [], tagWait := [], lens := .reset, eps := [], classes := [], ports := [],
    harts := [], loaderImg := [], storerImg := [], rkey := 0, sampWait := [], sampGot := [], cw := [], cwBad := [], ident := [], residents := [], stopped := [], stopCyc := [],
    dbgctl := 0, gscycle := 0, gssent := 0, gsrecv := 0, msgSent := [], msgRecv := [], savestat := 0, recon := 0,
    rfaults := 0, icache := [] }

/-- A partition of the Condenser after reset: empty. -/
def Part.reset : Part := { entries := [], next := 0, transit := [], posts := [] }

/-- A die after reset. -/
def Die.reset : Die :=
  { parts := [], pool := [], used := 0, htags := [], sigs := [], sigIn := [], haloWait := [], moved := [], lensLast := [], recon := 0,
    rfaults := 0, gave := [] }

/-- A submission queue after reset (DESIGN CHOICE, log 11). -/
def SubQ.reset : SubQ :=
  { base := 0, en := false, halt := false, compat := false, log2n := 0, prod := 0, cons := 0, fence := none, waits := none }

/-- A completion queue after reset (DESIGN CHOICE, log 11). -/
def CplQ.reset : CplQ :=
  { base := 0, en := false, log2n := 0, prod := 0, cons := 0, seq := 0, phase := true, compat := false, waiting := [] }

/-- The host interface after reset (DESIGN CHOICE, log 11). -/
def HostIf.reset : HostIf :=
  { fqbase := 0, fqlog := 0, fqhead := 0, fqtail := 0, fqheld := [], granules := [], sqs := [], cqs := [], tlbacks := 0,
    tlbovf := false, tlbpend := [], migsrc := 0, migdst := 0, attnonce := 0, attbuf := 0, attdone := false, attbusy := false,
    dbgnonce := 0, dbgtoken := [], partser := 0, partres := 0, partbusy := none, reclen := 0, rstat := 0, recimg := [],
    wins := [], msix := [] }

/-- Power, thermal and security state after reset: PS0 and its caps (22 R427, R428), BOOT and Locked (R439) (DESIGN CHOICE, log 6). -/
def Dev.reset : Dev :=
  { powered := true, slew := false, pserr := 0, pscur := 0, psreq := 0, pstarget := 0, capavg := 2600, cappeak := 3400,
    p1 := 0, p10 := 0, defer := 0, deferred := [], grants := [], charge := [], thermmig := 0, bcause := 0, rfail := 0,
    dbg := 0, sstate := 0, token := none, fwDigest := 0, devDigest := 0, time := 0, xlost := 0, ilost := 0, pages := [], retired := [], bankErrs := [],
    scrubbed := [] }

/-- The machine right after reset: every field at the value the spec gives for reset, or at the value a log entry names. -/
def State.reset : State :=
  { cur := ⟨0, 0, 0, 0⟩, curHart := ⟨⟨0, 0, 0⟩, false, 0⟩, curHalo := (0, 0), sched := [], resume := [], freeCnt := 0,
    hole := none, mem := [], fe := [], poison := [], badWords := [], stale := [], clusters := [], tlb := [], cores := [], dies := [],
    launches := [], nextSerial := 1, clocks := [], pairMis := [], bound286 := [], nextOrder := 0, spills := [], migs := [], net := [], rst := [], savedCores := [], host := .reset,
    dev := .reset }

end Sys2Proof.Machine
end

