-- ==== Sys2Proof/Machine/Access.lean ====
section
/-! DEFINITION. Named reads and writes of the parts of the state: bytes and fields, cores, contexts and their registers,
launches and their records, error reports. -/

namespace Sys2Proof.Machine

/-- The outcome of a meaning. -/
abbrev Res := Host.Outcome State Fault Refusal

/-! Bytes and bits. -/

/-- A little-endian number from bytes. -/
def leNat : List Byte → Nat
  | [] => 0
  | b :: t => b.toNat + 256 * leNat t

/-- The `n` little-endian bytes of a number. -/
def leBytes : Nat → Nat → List Byte
  | 0, _ => []
  | n + 1, v => BitVec.ofNat 8 v :: leBytes n (v / 256)

/-- A field of a byte list: `n` bytes at `off`. -/
def leAt (l : List Byte) (off n : Nat) : Nat := leNat ((l.drop off).take n)

/-- Overwrite bytes of a list from an offset. -/
def patch (l : List Byte) (off : Nat) (b : List Byte) : List Byte := l.take off ++ b ++ l.drop (off + b.length)

/-- Bits `lo + w - 1 . lo` of a number. -/
abbrev fld (v lo w : Nat) : Nat := (v / 2 ^ lo) % 2 ^ w

/-- Replace bits of a number. -/
def setFld (v lo w x : Nat) : Nat := v - fld v lo w * 2 ^ lo + x % 2 ^ w * 2 ^ lo

/-- Write one bit. -/
def setBit (v : BitVec n) (i : Nat) (b : Bool) : BitVec n :=
  if b then v ||| (1#n <<< i) else v &&& ~~~(1#n <<< i)

/-- Sign-extension of an instruction field to 64 bits (05 R92). -/
abbrev sx (v : BitVec n) : Word := v.signExtend 64

/-- Saturating 16-bit count. -/
def satInc (v : BitVec n) : BitVec n := if v = BitVec.allOnes n then v else v + 1

/-! Cores, contexts, dies, clusters. -/

/-- Number of a core in the package. -/
def coreKey (c : CoreId) : Nat := (c.die * 4 + c.tier) * 256 + c.idx

/-- The core of a number. -/
def coreOf (k : Nat) : CoreId := ⟨k / 1024, k / 256 % 4, k % 256⟩

/-- Number of a cluster in the package (01 R12). -/
def clusterOf (c : CoreId) : Nat := (c.die * 4 + c.tier) * 16 + c.idx / 16

/-- Cores of a tier of one die (01 R11). -/
def coresOf (tier : Nat) : Nat := match tier with | 0 => 256 | 1 => 64 | 2 => 16 | _ => 4

/-- Every core of a tier of a die. -/
def tierCores (d t : Nat) : List CoreId := (List.range (coresOf t)).map fun i => ⟨d, t, i⟩

/-- Every core of a die. -/
def dieCores (d : Nat) : List CoreId := (List.range 4).flatMap fun t => tierCores d t

def State.core (s : State) (c : CoreId) : Core := mget .reset s.cores (coreKey c)
def State.setCore (s : State) (c : CoreId) (k : Core) : State := { s with cores := mset s.cores (coreKey c) k }
def State.updCore (s : State) (c : CoreId) (f : Core → Core) : State := s.setCore c (f (s.core c))

def Core.ctx (k : Core) (i : Nat) : Ctx := mget .reset k.ctxs i
def Core.setCtx (k : Core) (i : Nat) (c : Ctx) : Core := { k with ctxs := mset k.ctxs i c }

def State.ctx (s : State) (t : ThreadId) : Ctx := (s.core t.core).ctx t.ctx
def State.setCtx (s : State) (t : ThreadId) (c : Ctx) : State := s.updCore t.core fun k => k.setCtx t.ctx c
def State.updCtx (s : State) (t : ThreadId) (f : Ctx → Ctx) : State := s.setCtx t (f (s.ctx t))

/-- The context that `exec` speaks of. -/
def State.me (s : State) : Ctx := s.ctx s.cur
/-- Change it. -/
def State.updMe (s : State) (f : Ctx → Ctx) : State := s.updCtx s.cur f

def State.die (s : State) (d : Nat) : Die := mget .reset s.dies d
def State.updDie (s : State) (d : Nat) (f : Die → Die) : State := { s with dies := mset s.dies d (f (s.die d)) }
def Die.part (d : Die) (t : Nat) : Part := mget .reset d.parts t
def State.part (s : State) (d t : Nat) : Part := (s.die d).part t
def State.updPart (s : State) (d t : Nat) (f : Part → Part) : State :=
  s.updDie d fun x => { x with parts := mset x.parts t (f (x.part t)) }
def State.cluster (s : State) (n : Nat) : Cluster := mget .reset s.clusters n
def State.updCluster (s : State) (n : Nat) (f : Cluster → Cluster) : State :=
  { s with clusters := mset s.clusters n (f (s.cluster n)) }
def State.cq (s : State) (n : Nat) : CplQ := mget .reset s.host.cqs n
def State.updCq (s : State) (n : Nat) (f : CplQ → CplQ) : State :=
  { s with host := { s.host with cqs := mset s.host.cqs n (f (s.cq n)) } }
def State.sq (s : State) (n : Nat) : SubQ := mget .reset s.host.sqs n
def State.updSq (s : State) (n : Nat) (f : SubQ → SubQ) : State :=
  { s with host := { s.host with sqs := mset s.host.sqs n (f (s.sq n)) } }

/-- PLACE of a core (04 R74), and the UNIT field of reports (10 R216). -/
def place (c : CoreId) : Nat := c.die * 2 ^ 24 + c.tier * 2 ^ 16 + c.idx / 16 * 256 + c.idx

/-- The core a PLACE word names. -/
def coreOfPlace (v : Nat) : CoreId := ⟨fld v 24 3, fld v 16 2, fld v 0 8⟩

/-- UNIT of a die-wide unit: DIE alone. -/
def unitDie (d : Nat) : Nat := d * 2 ^ 24

/-! Registers of a context (04 R68, R71). -/

/-- x register; x0 reads 0. -/
def Ctx.x (c : Ctx) (r : Nat) : Word := if r = 0 then 0 else mget 0 c.xs r
/-- Poison mark of an x register; x0 has none. -/
def Ctx.xp (c : Ctx) (r : Nat) : Bool := r != 0 && bit c.xm r
/-- Write an x register and its mark; a write to x0 is discarded. -/
def Ctx.setX (c : Ctx) (r : Nat) (v : Word) (mark : Bool) : Ctx :=
  if r = 0 then c else { c with xs := mset c.xs r v, xm := setBit c.xm r mark }
/-- Predicate; p0 reads true. -/
def Ctx.p (c : Ctx) (r : Nat) : Bool := r == 0 || bit c.ps r
def Ctx.pp (c : Ctx) (r : Nat) : Bool := r != 0 && bit c.pm r
/-- Write a predicate and its mark; a write to p0 is discarded. -/
def Ctx.setP (c : Ctx) (r : Nat) (v mark : Bool) : Ctx :=
  if r = 0 then c else { c with ps := setBit c.ps r v, pm := setBit c.pm r mark }
/-- Handle register. -/
def Ctx.h (c : Ctx) (r : Nat) : BitVec 32 := mget 0 c.hs r
def Ctx.setH (c : Ctx) (r : Nat) (v : BitVec 32) : Ctx := { c with hs := mset c.hs r v }
/-- Operand-extension register and its mark. -/
def Ctx.e (c : Ctx) (r : Nat) : Word := mget 0 c.es r
def Ctx.ep (c : Ctx) (r : Nat) : Bool := bit c.em r
def Ctx.setE (c : Ctx) (r : Nat) (v : Word) (mark : Bool) : Ctx :=
  { c with es := mset c.es r v, em := setBit c.em r mark }

/-- Consuming marked data that came from no address sets CIR bit 0 (06 R113, 10 R218). -/
def Ctx.consume (c : Ctx) (m : Bool) : Ctx := if m then { c with cir := c.cir ||| 1 } else c

/-- Consuming poisoned data from an address: CIR bit 0, and PADDR when bit 0 was clear or PADDR is 0 (10 R202, R218). -/
def Ctx.consumeAt (c : Ctx) (m : Bool) (a : Word) : Ctx :=
  if m then { c with cir := c.cir ||| 1, paddr := if c.paddr = 0 then a else c.paddr } else c

/-- Set CIR bits. -/
def Ctx.cirSet (c : Ctx) (m : BitVec 8) : Ctx := { c with cir := c.cir ||| m }

/-- Address of the instruction's own first halfword: the A of 05 R103. -/
def Ctx.at_ (c : Ctx) : Word := c.pc + w64 c.pfx

/-- Go on after an instruction of `n` bytes. -/
def Ctx.next (c : Ctx) (n : Nat) : Ctx := { c with pc := c.pc + w64 (c.pfx + n), pfx := 0, rlx := false, held := none }

/-- Go on at a target. -/
def Ctx.goto (c : Ctx) (a : Word) : Ctx := { c with pc := a, pfx := 0, rlx := false, held := none }

/-- Is a wait context running, that is READY, or stopped from READY? -/
def Ctx.live (c : Ctx) : Bool := c.st != .free && c.st != .killed

/-- Enter or leave PARKED, under a stop as well (04 R58). -/
def Ctx.setWait (c : Ctx) (st : CtxState) : Ctx := if c.st = .stopped then { c with prev := st } else { c with st := st }

/-- Is the context parked, or stopped while parked? -/
def Ctx.parked (c : Ctx) : Bool := c.st == .parked || (c.st == .stopped && c.prev == .parked)

/-- A context leaves PARKED in a cycle of its core: it is READY from the next one (04 R63). -/
def Ctx.wake (c : Ctx) (now : Nat) : Ctx := { c.setWait .ready with readyAt := if c.parked then now + 1 else c.readyAt }

/-! Launches and their records (16 R335 to R340). -/

/-- A launch that holds nothing: what an unknown serial reads as. -/
def Launch.empty : Launch :=
  { serial := 0, st := .waiting, record := [], ext := [], queue := none, parent := none, die := 0, recva := 0,
    fromBudget := false, budget := [], lpix := [], live := 0, expanded := 0, stalled := [], first := none, silent := none,
    errcnt := 0, fatal := none, degr := false, rerun := false, used := 0, waitReplay := false, frames := [], hold := none, launcher := none, stopReq := [],
    lsbase := [], preemptor := none, cheap := false, saveDone := [], restored := [], saveFault := [], saveAt := [], savestat := 0, saveW0 := [],
    doneCtr := none, doneRec := none }

def Launch.ctrl (l : Launch) : Nat := leAt l.record 0 8
def Launch.prio (l : Launch) : Nat := fld l.ctrl 0 3
def Launch.pclass (l : Launch) : Nat := fld l.ctrl 4 2
def Launch.priv (l : Launch) : Bool := fld l.ctrl 6 1 == 1
def Launch.tier (l : Launch) : Nat := fld l.ctrl 8 2
def Launch.kind (l : Launch) : Nat := fld l.ctrl 10 2
def Launch.firstDie (l : Launch) : Nat := fld l.ctrl 12 3
def Launch.fmtset (l : Launch) : BitVec 16 := BitVec.ofNat 16 (fld l.ctrl 16 16)
def Launch.cookie (l : Launch) : BitVec 32 := BitVec.ofNat 32 (fld l.ctrl 32 32)
def Launch.fmtImage (l : Launch) (n : Nat) : BitVec 32 := BitVec.ofNat 32 (leAt l.record (0x40 + 4 * n) 4)
def Launch.nestByte (l : Launch) (n : Nat) : Nat := leAt l.record (8 + n) 1
def Launch.extent (l : Launch) (n : Nat) : Nat := leAt l.record (0x10 + 2 * n) 2
def Launch.extaddr (l : Launch) : Word := w64 (leAt l.record 0x20 8)
def Launch.memw (l : Launch) : Nat := leAt l.record 0x28 8
def Launch.nmbase (l : Launch) : Nat := fld l.memw 0 19 * 64
def Launch.nmsize (l : Launch) : Nat := fld l.memw 20 20 * 64
def Launch.lssize (l : Launch) : Nat := fld l.memw 40 6 * 65536
def Launch.qw (l : Launch) : Nat := leAt l.record 0x30 8
def Launch.cqn (l : Launch) : Nat := fld l.qw 0 16
def Launch.budgetN (l : Launch) : Nat := fld l.qw 16 12
def Launch.tlimit (l : Launch) : Nat := fld l.qw 32 32
def Launch.ptroot (l : Launch) : Nat := leAt l.record 0x38 8
def Launch.ext64 (l : Launch) (off : Nat) : Word := w64 (leAt l.ext off 8)
def Launch.tvec (l : Launch) (t : Nat) : Word := l.ext64 (8 * t)
def Launch.savearea (l : Launch) : Word := l.ext64 0x20
def Launch.spillbase (l : Launch) : Word := l.ext64 0x28
def Launch.spilln (l : Launch) : Nat := leAt l.ext 0x30 4
def Launch.recbase (l : Launch) : Word := l.ext64 0x38
def Launch.donerec (l : Launch) : Word := l.ext64 0x40
def Launch.vwinNibble (l : Launch) (k : Nat) : Nat := fld (leAt l.ext 0x48 8) (4 * k) 4
def Launch.cwimg (l : Launch) : Word := l.ext64 0x70
def Launch.donectr (l : Launch) : Word := l.ext64 0x78
def Launch.entry (l : Launch) (t k : Nat) : Word := l.ext64 (0x80 + 128 * t + 8 * k)
/-- A tier has a section when its row holds a non-zero entry (16 R339). -/
def Launch.hasSection (l : Launch) (t : Nat) : Bool := (List.range 16).any fun k => l.entry t k != 0
/-- Present nest levels, outermost first: domain, scope and extent (16 R338). -/
def Launch.levels (l : Launch) : List (Nat × Nat × Nat) :=
  ((List.range 8).filter fun n => fld (l.nestByte n) 7 1 == 1).map fun n =>
    (fld (l.nestByte n) 0 3, fld (l.nestByte n) 3 3, l.extent n)
def Launch.hasDomain (l : Launch) (d : Nat) : Bool := l.levels.any fun x => x.1 == d
/-- The nest holds PAIR (10 R222). -/
def Launch.isPair (l : Launch) : Bool := l.hasDomain 5
/-- Dies the launch spans (16 R338). -/
def Launch.dies (l : Launch) : List Nat :=
  match l.levels.find? (fun x => x.1 == 1) with
  | some x => (List.range x.2.2).map (· + l.firstDie)
  | none => if l.hasDomain 0 then List.range 8 else [l.firstDie]

def State.launch (s : State) (serial : Word) : Launch :=
  match s.launches.find? (fun l => l.serial == serial) with
  | some l => l
  | none => .empty
/-- Is there a launch with this serial? -/
def State.known (s : State) (serial : Word) : Bool := s.launches.any fun l => l.serial == serial
def State.updLaunch (s : State) (serial : Word) (f : Launch → Launch) : State :=
  { s with launches := s.launches.map fun l => if l.serial = serial then f l else l }
/-- Launch of the record a context runs. -/
def State.launchOf (s : State) (t : ThreadId) : Launch := s.launch (s.ctx t).serial
/-- LSBASE of a launch on a core (04 R79). -/
def Launch.base (l : Launch) (c : CoreId) : Nat := mget 0 l.lsbase (coreKey c)
/-- Is the launch resident on a core with a footprint? -/
def Launch.on (l : Launch) (c : CoreId) : Bool := (mfind l.lsbase (coreKey c)).isSome

/-- The thread runs at privilege (10, before R202). -/
def State.privileged (s : State) (t : ThreadId) : Bool := (s.ctx t).tmode || (s.launchOf t).priv

/-- VWIN of a context: 0 to 3, or 0xF; a pair runs on its leader's window (04 R69, 11 R253). -/
def State.vwin (s : State) (t : ThreadId) : Nat :=
  let l := s.launchOf t
  l.vwinNibble (if l.isPair && decide (8 ≤ t.ctx) then t.ctx - 8 else t.ctx)

/-! Reports (10 R216, R217). -/

/-- An error report reaches the launch: it counts in ERRCNT and the first one is kept. -/
def Launch.report (l : Launch) (r : Report) : Launch :=
  let l := { l with errcnt := l.errcnt + 1 }
  if r.cls = 2 then { l with silent := l.silent.or (some r), rerun := true }
  else if r.cls = 0 then l
  else { l with first := l.first.or (some r) }

def State.report (s : State) (serial : Word) (r : Report) : State := s.updLaunch serial fun l => l.report r

/-- Queue a completion entry for its completion queue (22 R444). -/
def State.pushCq (s : State) (e : CqEntry) : State := s.updCq e.cq fun q => { q with waiting := q.waiting ++ [e] }

/-- An interim entry of a launch (10 R216). -/
def State.interim (s : State) (l : Launch) (r : Report) : State :=
  s.pushCq { cq := l.cqn, rep := r, serial := l.serial, cookie := l.cookie, errcnt := l.errcnt, interim := true,
             degr := l.degr, rerun := l.rerun }

/-- A report by an engine of a core for a thread. -/
def engReport (eng : Nat) (t : ThreadId) (cls det : Nat) (a : Word) : Report :=
  { cls := cls, detail := det, engine := eng, ctx := t.ctx, unit := place t.core, addr := a }

/-- The context that runs a dispatch of a record now: the one it started in, or where an eviction has taken it. -/
def State.runner (s : State) (t : ThreadId) (run : Nat) : Option ThreadId :=
  let is (x : Ctx) : Bool := x.live && x.st != .evicting && x.run == run
  if is (s.ctx t) then some t
  else s.cores.findSome? fun k => (k.2.ctxs.find? fun x => is x.2).map fun x => (coreOf k.1).thread x.1

/-- What an engine marks in the thread that started its operation: its context, or its evicted record; nothing once the thread has
suspended or retired (13 R285). CIR bits `m`, and the address of poison, 0 for none. What a schedule marks in a thread of a saved launch
reaches it at its restore. -/
def State.engMark (s : State) (t : ThreadId) (run : Nat) (m : BitVec 8) (a : Word) : State :=
  match s.runner t run with
  | some u => s.updCtx u fun c => { c.cirSet m with paddr := if c.paddr = 0 then a else c.paddr }
  | none =>
      let mark (x : Ctx) : Ctx :=
        if x.live && x.run == run then { x.cirSet m with paddr := if x.paddr = 0 then a else x.paddr } else x
      { s with
        spills := s.spills.map fun (x : Spill) =>
          if x.ctx.run = run then { x with cir := x.cir ||| m, paddr := if x.paddr = 0 then a else x.paddr } else x
        savedCores := s.savedCores.map fun k => (k.1, { k.2 with ctxs := k.2.ctxs.map fun x => (x.1, mark x.2) }) }

/-- Has the thread that started an operation neither suspended nor retired? -/
def State.stays (s : State) (t : ThreadId) (run : Nat) : Bool :=
  (s.runner t run).isSome || (s.spills.any fun x => x.ctx.run == run) ||
    s.savedCores.any fun k => k.2.ctxs.any fun x => x.2.live && x.2.run == run

/-- Set CIR bits of the thread that started an operation. -/
def State.engCir (s : State) (t : ThreadId) (run : Nat) (m : BitVec 8) : State := s.engMark t run m 0

/-- Do the tiers run and is HBM reachable: in PS3 the tiers are stopped, and HBM is in self-refresh (01 R7; 22 R427)? -/
def State.hbmUp (s : State) : Bool := s.dev.pscur != 3

/-! Outcomes. -/

/-- Next state, or the fault of an access that met no memory. -/
def State.out (s : State) : Res := match s.hole with | none => .next s | some a => .fault (.noMemory a)

/-- The cycle count of a core: its tier's clock (01 R13; 04 R72). -/
def State.cyc (s : State) (c : CoreId) : Nat := mget 0 s.clocks c.tier

/-- The cycle count at a thread's core. -/
def State.cycleOf (s : State) (t : ThreadId) : Nat := s.cyc t.core

/-- Draw a free value (DESIGN CHOICE, log 2). -/
def State.draw (s : State) : Word × State := (Config.freeWord s.freeCnt, { s with freeCnt := s.freeCnt + 1 })

/-- Draw several. -/
def State.drawList (s : State) (n : Nat) : List Word × State :=
  ((List.range n).map fun i => Config.freeWord (s.freeCnt + i), { s with freeCnt := s.freeCnt + n })

/-- Take a fresh arrival number. -/
def State.fresh (s : State) : Nat × State := (s.nextOrder, { s with nextOrder := s.nextOrder + 1 })

end Sys2Proof.Machine
end

