-- ==== Sys2Proof/Machine/Flags.lean ====
section
/-! DEFINITION. Conditions and the integer functions of the scalar instructions: what 06 R114 to R120 and R125 say a result
is. No integer operation sets a flag (R112); predicates are the only condition state. -/

namespace Sys2Proof.Machine

/-- A condition code on two words (06 R125). -/
def condition (cc : BitVec 3) (a b : Word) : Bool :=
  match cc.toNat with
  | 0 => a == b
  | 1 => a != b
  | 2 => decide (a.toInt < b.toInt)
  | 3 => decide (a.toNat < b.toNat)
  | 4 => decide (b.toInt ≤ a.toInt)
  | _ => decide (b.toNat ≤ a.toNat)

/-- Shift left by bits 5:0 of the count (06 R114). -/
def shl (a b : Word) : Word := a <<< (b.toNat % 64)
/-- Logical shift right. -/
def shr (a b : Word) : Word := a >>> (b.toNat % 64)
/-- Arithmetic shift right. -/
def sar (a b : Word) : Word := a.sshiftRight (b.toNat % 64)

/-- Signed and unsigned minimum and maximum: `a` only where it is strictly better (06 R114). -/
def minS (a b : Word) : Word := if a.toInt < b.toInt then a else b
def maxS (a b : Word) : Word := if b.toInt < a.toInt then a else b
def minU (a b : Word) : Word := if a.toNat < b.toNat then a else b
def maxU (a b : Word) : Word := if b.toNat < a.toNat then a else b

/-- Number of 0 bits above the highest 1 bit (06 R116). -/
def countLead (a : Word) : Word := w64 (((List.range 64).find? fun i => bit a (63 - i)).getD 64)
/-- Number of 0 bits below the lowest 1 bit. -/
def countTrail (a : Word) : Word := w64 (((List.range 64).find? fun i => bit a i).getD 64)
/-- Number of 1 bits. -/
def countOnes (a : Word) : Word := w64 ((List.range 64).filter fun i => bit a i).length

/-- Bits 127:64 of the exact signed product (06 R115). -/
def mulHigh (a b : Word) : Word := BitVec.ofInt 64 (a.toInt * b.toInt / 2 ^ 64)
/-- Bits 127:64 of the exact unsigned product. -/
def mulHighU (a b : Word) : Word := w64 (a.toNat * b.toNat / 2 ^ 64)

/-- Signed quotient (06 R115): all ones for a zero divisor; −2^63 / −1 wraps to −2^63. -/
def divS (a b : Word) : Word := if b = 0 then BitVec.allOnes 64 else BitVec.ofInt 64 (a.toInt.tdiv b.toInt)
/-- Unsigned quotient. -/
def divU (a b : Word) : Word := if b = 0 then BitVec.allOnes 64 else w64 (a.toNat / b.toNat)
/-- Signed remainder, with the sign of the dividend; the dividend for a zero divisor. -/
def remS (a b : Word) : Word := if b = 0 then a else BitVec.ofInt 64 (a.toInt.tmod b.toInt)
/-- Unsigned remainder. -/
def remU (a b : Word) : Word := if b = 0 then a else w64 (a.toNat % b.toNat)

/-- BEXT: the field of `wm + 1` bits at `lsb`, extended (06 R119). -/
def bitField (a : Word) (sgn : Bool) (lsb wm : Nat) : Word :=
  let f := a.toNat / 2 ^ lsb % 2 ^ (wm + 1)
  if sgn && f / 2 ^ wm % 2 == 1 then BitVec.ofInt 64 ((f : Int) - 2 ^ (wm + 1)) else w64 f

/-- BINS: the low `wm + 1` bits of `a` put into `old` at `lsb` (06 R119). -/
def bitInsert (old a : Word) (lsb wm : Nat) : Word :=
  let m : Word := w64 ((2 ^ (wm + 1) - 1) * 2 ^ lsb)
  (old &&& ~~~m) ||| ((a <<< lsb) &&& m)

end Sys2Proof.Machine
end

