-- ==== Sys2Proof/Machine/Float.lean ====
section
/-! DEFINITION. Number formats, exact values, rounding and conversion (03 R29 to R40), the approximations VRCP and VRSQ
(R53 to R56) and the correctly rounded VEXP2, VLOG2, VTANH (11 R243). -/

namespace Sys2Proof.Machine

/-- A format: integer (signed or not, a width) or floating point (sign, width, exponent width, bias, policy of R36). -/
structure Fmt where
  isInt : Bool
  signed : Bool
  width : Nat
  ew : Nat
  bias : Int
  spec : Nat
deriving DecidableEq, Repr

/-- FP32 (R29). -/
def Fmt.fp32 : Fmt := ⟨false, true, 32, 8, 127, 0⟩
/-- FP16 (R29). -/
def Fmt.fp16 : Fmt := ⟨false, true, 16, 5, 15, 0⟩
/-- BF16 (R29). -/
def Fmt.bf16 : Fmt := ⟨false, true, 16, 8, 127, 0⟩
/-- An integer format (R30). -/
def Fmt.int (signed : Bool) (w : Nat) : Fmt := ⟨true, signed, w, 0, 0, 0⟩
/-- E4M3 (R37). -/
def Fmt.e4m3 : Fmt := ⟨false, true, 8, 4, 7, 1⟩

/-- The format of a class code other than MF (R29, R30, R37). -/
def Fmt.ofClass (c : Nat) : Option Fmt :=
  match c with
  | 0 => some .fp32
  | 1 => some .fp16
  | 2 => some .bf16
  | 3 => some (.int true 32)
  | 4 => some (.int false 32)
  | 5 => some (.int true 16)
  | 6 => some (.int false 16)
  | 7 => some (.int true 8)
  | 8 => some (.int false 8)
  | 9 => some (.int true 4)
  | 10 => some (.int false 4)
  | 12 => some .e4m3
  | _ => none

/-- The format that a format-register image denotes (R34). -/
def Fmt.ofImage (w : BitVec 32) : Option Fmt :=
  if bits w 31 28 = 11 then
    some ⟨false, bit w 23, bits w 27 24, bits w 22 20, (BitVec.ofNat 8 (bits w 19 12)).toInt, bits w 11 10⟩
  else Fmt.ofClass (bits w 31 28)

/-- RM of a format-register image (R34). -/
def imageRm (w : BitVec 32) : Nat := bits w 9 8

/-- Fraction bits (R35). -/
def Fmt.frac (f : Fmt) : Nat := f.width - b2n f.signed - f.ew

/-- Container width in bits: 32, 16, 8 or 4 (R39). -/
def Fmt.cont (f : Fmt) : Nat := if f.width ≤ 4 then 4 else if f.width ≤ 8 then 8 else f.width

/-- Is a format-register image valid (R38)? `set` is its FMTSET bit. -/
def imageValid (w : BitVec 32) (set : Bool) : Bool :=
  if !set then w == 0
  else if bits w 31 28 ≥ 13 then false
  else if bits w 31 28 ≠ 11 then bits w 27 10 == 0 && bits w 7 0 == 0
  else
    let wd := bits w 27 24
    let s := b2n (bit w 23)
    let ew := bits w 22 20
    let sp := bits w 11 10
    decide (2 ≤ wd ∧ wd ≤ 8 ∧ 1 ≤ ew ∧ ew ≤ wd - s ∧ sp ≠ 3 ∧ bits w 7 0 = 0 ∧ (sp = 0 → 2 ≤ ew ∧ 1 ≤ wd - s - ew) ∧
      (sp = 1 → 2 ≤ wd - s))

/-- An exact value: NaN, infinity, or (−1)^neg × mant × 2^exp. -/
inductive Val where
  | nan
  | inf (neg : Bool)
  | fin (neg : Bool) (mant : Nat) (exp : Int)
deriving DecidableEq, Repr

/-- Codes of the exponent and fraction fields. -/
def Fmt.expAll (f : Fmt) : Nat := 2 ^ f.ew - 1
def Fmt.fracAll (f : Fmt) : Nat := 2 ^ f.frac - 1

/-- Largest finite code without its sign (R36). -/
def Fmt.maxCode (f : Fmt) : Nat :=
  match f.spec with
  | 0 => (f.expAll - 1) * 2 ^ f.frac + f.fracAll
  | 1 => f.expAll * 2 ^ f.frac + f.fracAll - 1
  | _ => f.expAll * 2 ^ f.frac + f.fracAll

/-- Canonical NaN (R29, R36). -/
def Fmt.nanCode (f : Fmt) : Nat :=
  if f.spec = 0 then f.expAll * 2 ^ f.frac + 2 ^ (f.frac - 1) else f.expAll * 2 ^ f.frac + f.fracAll

/-- The value of a code (R29, R30, R35, R36). Unused container bits are ignored (R39). -/
def Fmt.decode (f : Fmt) (code : Nat) : Val :=
  if f.isInt then
    let c := code % 2 ^ f.width
    if f.signed && decide (2 ^ (f.width - 1) ≤ c) then .fin true (2 ^ f.width - c) 0 else .fin false c 0
  else
    let c := code % 2 ^ f.width
    let neg := f.signed && decide (2 ^ (f.width - 1) ≤ c)
    let e := (c / 2 ^ f.frac) % 2 ^ f.ew
    let m := c % 2 ^ f.frac
    if f.spec = 0 ∧ e = f.expAll then (if m = 0 then .inf neg else .nan)
    else if f.spec = 1 ∧ e = f.expAll ∧ m = f.fracAll then .nan
    else if e = 0 then .fin neg m (1 - f.bias - f.frac)
    else .fin neg (2 ^ f.frac + m) (e - f.bias - f.frac)

/-- Round `m × 2^e` (m > 0 allowed to be 0) to a multiple of `2^q` under a mode (R31); the result in units of `2^q` (DESIGN CHOICE, log 91). -/
def roundUnits (rm : Nat) (neg : Bool) (m : Nat) (e q : Int) : Nat :=
  if q ≤ e then m * 2 ^ (e - q).toNat
  else
    let sh := (q - e).toNat
    let big := decide (m.log2 + 3 < sh)
    let fl := if big then 0 else m / 2 ^ sh
    let rem := if big then b2n (m ≠ 0) else m % 2 ^ sh
    let half := if big then 2 else 2 ^ (sh - 1)
    let up : Bool :=
      match rm with
      | 0 => decide (half < rem) || (decide (rem = half) && decide (fl % 2 = 1))
      | 1 => false
      | 2 => neg && decide (rem ≠ 0)
      | _ => !neg && decide (rem ≠ 0)
    if up then fl + 1 else fl

/-- Put a sign on a code. -/
def Fmt.withSign (f : Fmt) (neg : Bool) (code : Nat) : Nat := if neg && f.signed then code + 2 ^ (f.width - 1) else code

/-- Overflow result (R31, R40). -/
def Fmt.overflow (f : Fmt) (rm : Nat) (neg : Bool) : Nat :=
  let infinite : Bool := f.spec == 0 && (rm == 0 || (rm == 2 && neg) || (rm == 3 && !neg))
  f.withSign neg (if infinite then f.expAll * 2 ^ f.frac else f.maxCode)

/-- Round an exact value to a floating-point format (R31, R40). -/
def Fmt.roundF (f : Fmt) (rm : Nat) (v : Val) : Nat :=
  match v with
  | .nan => if f.spec = 2 then 0 else f.nanCode
  | .inf neg => if neg && !f.signed then 0 else
      f.withSign neg (if f.spec = 0 then f.expAll * 2 ^ f.frac else f.maxCode)
  | .fin neg m e =>
      if neg && !f.signed then 0
      else if m = 0 then f.withSign neg 0
      else
        let top : Int := e + m.log2
        let emin : Int := 1 - f.bias
        let q : Int := max top emin - f.frac
        let code := (q - (emin - f.frac)).toNat * 2 ^ f.frac + roundUnits rm neg m e q
        if f.maxCode < code then f.overflow rm neg else f.withSign neg code

/-- Round an exact value to an integer format with clamping (R40). -/
def Fmt.roundI (f : Fmt) (rm : Nat) (v : Val) : Nat :=
  let hi := if f.signed then 2 ^ (f.width - 1) - 1 else 2 ^ f.width - 1
  let lo := if f.signed then 2 ^ (f.width - 1) else 0
  match v with
  | .nan => 0
  | .inf neg => if neg then lo else hi
  | .fin neg m e =>
      let u := if m = 0 then 0 else if 64 < e + m.log2 then 2 ^ 64 else roundUnits rm neg m e 0
      if neg then (if f.signed then (2 ^ f.width - min u lo) % 2 ^ f.width else 0) else min u hi

/-- Round an exact value to any format (R40). -/
def Fmt.round (f : Fmt) (rm : Nat) (v : Val) : Nat := if f.isInt then f.roundI rm v else f.roundF rm v

/-- Signed mantissa. -/
def signed (neg : Bool) (m : Nat) : Int := if neg then -(m : Int) else m

/-- Exact sum; the sign of a zero sum follows R33 under the mode. -/
def Val.add (rm : Nat) (a b : Val) : Val :=
  match a, b with
  | .nan, _ => .nan
  | _, .nan => .nan
  | .inf x, .inf y => if x = y then .inf x else .nan
  | .inf x, .fin .. => .inf x
  | .fin .., .inf y => .inf y
  | .fin n1 m1 e1, .fin n2 m2 e2 =>
      if m1 = 0 ∧ m2 = 0 then .fin (if n1 = n2 then n1 else decide (rm = 2)) 0 0
      else if m1 = 0 then .fin n2 m2 e2
      else if m2 = 0 then .fin n1 m1 e1
      else
        let e := min e1 e2
        let s := signed n1 m1 * 2 ^ (e1 - e).toNat + signed n2 m2 * 2 ^ (e2 - e).toNat
        if s = 0 then .fin (decide (rm = 2)) 0 0 else .fin (decide (s < 0)) s.natAbs e

/-- Exact product (R33). -/
def Val.mul (a b : Val) : Val :=
  match a, b with
  | .nan, _ => .nan
  | _, .nan => .nan
  | .inf x, .inf y => .inf (x ^^ y)
  | .inf x, .fin y m _ => if m = 0 then .nan else .inf (x ^^ y)
  | .fin x m _, .inf y => if m = 0 then .nan else .inf (x ^^ y)
  | .fin n1 m1 e1, .fin n2 m2 e2 => .fin (n1 ^^ n2) (m1 * m2) (e1 + e2)

/-- Negation. -/
def Val.neg (a : Val) : Val :=
  match a with
  | .nan => .nan
  | .inf x => .inf !x
  | .fin n m e => .fin (!n) m e

/-- `a < b` as numbers; false with a NaN; −0 = +0. -/
def Val.lt (a b : Val) : Bool :=
  match a, b with
  | .nan, _ => false
  | _, .nan => false
  | .inf x, .inf y => x && !y
  | .inf x, .fin .. => x
  | .fin .., .inf y => !y
  | .fin n1 m1 e1, .fin n2 m2 e2 =>
      let e := min e1 e2
      decide (signed n1 m1 * 2 ^ (e1 - e).toNat < signed n2 m2 * 2 ^ (e2 - e).toNat)

/-- Is the value a NaN? -/
def Val.isNan (a : Val) : Bool := match a with | .nan => true | _ => false

/-- Equal as numbers. -/
def Val.eq (a b : Val) : Bool := !a.isNan && !b.isNan && !a.lt b && !b.lt a

/-- Sign of a value. -/
def Val.sign (a : Val) : Bool := match a with | .nan => false | .inf n => n | .fin n _ _ => n

/-- Order used by maximum, minimum and sorting: −0 below +0 (R33). -/
def Val.below (a b : Val) : Bool := a.lt b || (a.eq b && a.sign && !b.sign)

/-- Maximum and minimum (R33). -/
def Val.max (a b : Val) : Val := if a.isNan || b.isNan then .nan else if a.below b then b else a
def Val.min (a b : Val) : Val := if a.isNan || b.isNan then .nan else if b.below a then b else a

/-- FP32 helpers on codes. -/
def f32 (c : BitVec 32) : Val := Fmt.fp32.decode c.toNat
def r32 (v : Val) : BitVec 32 := BitVec.ofNat 32 (Fmt.fp32.roundF 0 v)
def fadd32 (a b : BitVec 32) : BitVec 32 := r32 ((f32 a).add 0 (f32 b))
def fmul32 (a b : BitVec 32) : BitVec 32 := r32 ((f32 a).mul (f32 b))
def fma32 (a b c : BitVec 32) : BitVec 32 := r32 (((f32 a).mul (f32 b)).add 0 (f32 c))
def fsub32 (a b : BitVec 32) : BitVec 32 := r32 ((f32 a).add 0 (f32 b).neg)
def fmax32 (a b : BitVec 32) : BitVec 32 := r32 ((f32 a).max (f32 b))
def fmin32 (a b : BitVec 32) : BitVec 32 := r32 ((f32 a).min (f32 b))
/-- BF16 sum, subnormals kept (20 R411). -/
def bf16Add (a b : BitVec 16) : BitVec 16 :=
  BitVec.ofNat 16 (Fmt.bf16.roundF 0 ((Fmt.bf16.decode a.toNat).add 0 (Fmt.bf16.decode b.toNat)))

/-- Integer square root by bits, from the top: `n` rounds on a root below `2^n`. -/
def isqrt (x : Nat) : Nat → Nat → Nat
  | 0, r => r
  | n + 1, r => let t := r + 2 ^ n; isqrt x n (if t * t ≤ x then t else r)

/-- Reciprocal table (R53). -/
def rtab (i : Nat) : Nat := (2 ^ 25 + 257 + 2 * i) / (2 * (257 + 2 * i))

/-- Reciprocal square root table (R53): the nearest integer to `2^16 / √q`. -/
def qtab (i : Nat) : Nat :=
  let twice := if i < 64 then isqrt (2 ^ 34 * 128 / (129 + 2 * i)) 20 0 else isqrt (2 ^ 34 * 64 / (129 + 2 * (i - 64))) 20 0
  (twice + 1) / 2

/-- VRCP of one lane (R54, R56). -/
def vrcp32 (a : BitVec 32) : BitVec 32 :=
  let s := a.toNat / 2 ^ 31
  let e := bits a 30 23
  let f := bits a 22 0
  if e = 255 ∧ f ≠ 0 then 0x7FC00000
  else if e = 255 then BitVec.ofNat 32 (s * 2 ^ 31)
  else if e = 0 then BitVec.ofNat 32 (s * 2 ^ 31 + 0x7F800000)
  else
    let y0 := rtab (f / 2 ^ 16)
    let q := y0 * (2 ^ 40 - (2 ^ 23 + f) * y0)
    let ex : Int := 127 - (e : Int) - 55
    if ex + q.log2 < -126 then BitVec.ofNat 32 (s * 2 ^ 31)
    else BitVec.ofNat 32 (s * 2 ^ 31 + Fmt.fp32.roundF 0 (.fin false q ex))

/-- VRSQ of one lane (R55, R56). -/
def vrsq32 (a : BitVec 32) : BitVec 32 :=
  let s := a.toNat / 2 ^ 31
  let e := bits a 30 23
  let f := bits a 22 0
  if e = 255 ∧ f ≠ 0 then 0x7FC00000
  else if e = 255 then BitVec.ofNat 32 (s * 2 ^ 31)
  else if e = 0 then BitVec.ofNat 32 (s * 2 ^ 31 + 0x7F800000)
  else if s = 1 then 0x7FC00000
  else
    let odd := decide (e % 2 = 1)
    let m := if odd then 2 ^ 23 + f else 2 * (2 ^ 23 + f)
    let k : Int := if odd then ((e : Int) - 127) / 2 else ((e : Int) - 128) / 2
    let i := if odd then f / 2 ^ 17 else 64 + f / 2 ^ 17
    let y0 := qtab i
    let q := y0 * (3 * 2 ^ 55 - m * y0 * y0)
    BitVec.ofNat 32 (Fmt.fp32.roundF 0 (.fin false q (-72 - k)))

/-! Fixed-point numbers with `fp` fraction bits, for the correctly rounded functions of R243. -/

/-- Fraction bits of the working precision. -/
def fp : Nat := 320

/-- Taylor sum of e^z: term, index and remaining terms. -/
def expSum (z : Nat) : Nat → Nat → Nat → Nat → Nat
  | 0, _, _, acc => acc
  | n + 1, k, t, acc => let t' := t * z / (2 ^ fp * k); expSum z n (k + 1) t' (acc + t')

/-- e^z for 0 ≤ z < 1 in fixed point. -/
def expFix (z : Nat) : Nat := expSum z 80 1 (2 ^ fp) (2 ^ fp)

/-- Series of atanh: z + z³/3 + z⁵/5 + … -/
def atanhSum (z2 : Nat) : Nat → Nat → Nat → Nat → Nat
  | 0, _, _, acc => acc
  | n + 1, k, t, acc => let t' := t * z2 / 2 ^ fp; atanhSum z2 n (k + 2) t' (acc + t' / k)

/-- ln(a / b) for 1 ≤ a/b ≤ 2 in fixed point. -/
def lnFix (a b : Nat) : Nat :=
  let z := (a - b) * 2 ^ fp / (a + b)
  2 * atanhSum (z * z / 2 ^ fp) 110 3 z z

/-- ln 2 in fixed point. -/
def ln2Fix : Nat := lnFix 2 1

/-- A value with a fraction that no format holds: one more bit, set, below the computed ones. -/
def sticky (neg : Bool) (m : Nat) (e : Int) : Val := .fin neg (2 * m + 1) (e - 1)

/-- 2^a (R243). -/
def Val.exp2 (a : Val) : Val :=
  match a with
  | .nan => .nan
  | .inf n => if n then .fin false 0 0 else .inf false
  | .fin n m e =>
      if m = 0 then .fin false 1 0
      else if 12 < e + m.log2 then (if n then .fin false 1 (-100000) else .fin false 1 100000)
      else if e + m.log2 < -200 then sticky false (if n then 2 ^ 201 - 1 else 2 ^ 201) (-201)
      else
        -- numerator over 2^200: exact, since every format's exponent is above −200 here
        let u : Int := signed n (m * 2 ^ (e + 200).toNat)
        let ip : Int := u / 2 ^ 200
        let fr : Nat := (u % 2 ^ 200).toNat
        if fr = 0 then .fin false 1 ip
        else sticky false (expFix (fr * ln2Fix / 2 ^ 200)) (ip - fp)

/-- log2 a (R243). -/
def Val.log2 (a : Val) : Val :=
  match a with
  | .nan => .nan
  | .inf n => if n then .nan else .inf false
  | .fin n m e =>
      if m = 0 then .inf true
      else if n then .nan
      else
        let k : Int := e + m.log2
        if m = 2 ^ m.log2 then (if k = 0 then .fin false 0 0 else .fin (decide (k < 0)) k.natAbs 0)
        else
          let v : Int := k * 2 ^ fp + (lnFix m (2 ^ m.log2) * 2 ^ fp / ln2Fix : Nat)
          if v < 0 then sticky true (v.natAbs - 1) (-fp) else sticky false v.natAbs (-fp)

/-- Square `n` times in fixed point. -/
def sqTimes : Nat → Nat → Nat
  | 0, t => t
  | n + 1, t => sqTimes n (t * t / 2 ^ fp)

/-- tanh a (R243). -/
def Val.tanh (a : Val) : Val :=
  match a with
  | .nan => .nan
  | .inf n => .fin n 1 0
  | .fin n m e =>
      if m = 0 then .fin n 0 0
      else if e + m.log2 < -20 then .fin n (m * 2 ^ 64 - 1) (e - 64)
      else if 6 ≤ e + m.log2 then .fin n (2 ^ 64 - 1) (-64)
      else
        let z := if 0 ≤ e + fp + 1 then m * 2 ^ (e + fp + 1).toNat else m / 2 ^ (-(e + fp + 1)).toNat
        let t := sqTimes 8 (expFix (z / 2 ^ 8))
        sticky n ((t - 2 ^ fp) * 2 ^ fp / (t + 2 ^ fp)) (-fp)

/-! Elements of a 256-byte block (R41): 64 lanes of 32 bits. -/

/-- Lane `k` of a list of lanes. -/
def laneAt (l : List (BitVec 32)) (k : Nat) : BitVec 32 := l.getD k 0

/-- Lane and low bit of element `k` in a container of `c` bits (R41). -/
def elemPos (c k : Nat) : Nat × Nat :=
  match c with
  | 32 => (k, 0)
  | 16 => (k / 2, 16 * (k % 2))
  | 8 => (k % 64, 8 * (k / 64))
  | _ => (k % 64, 4 * (k / 64))

/-- Element `k` of a block. -/
def elemAt (c : Nat) (l : List (BitVec 32)) (k : Nat) : Nat :=
  let p := elemPos c k
  ((laneAt l p.1).toNat / 2 ^ p.2) % 2 ^ c

/-- Replace the bits of one element in a lane. -/
def insBits (v : BitVec 32) (lo w x : Nat) : BitVec 32 :=
  let n := v.toNat
  BitVec.ofNat 32 (n - (n / 2 ^ lo) % 2 ^ w * 2 ^ lo + x % 2 ^ w * 2 ^ lo)

/-- Elements of container `c` in one lane: their numbers (R41). -/
def laneElems (c lane : Nat) : List Nat :=
  match c with
  | 32 => [lane]
  | 16 => [2 * lane, 2 * lane + 1]
  | 8 => (List.range 4).map fun j => lane + 64 * j
  | _ => (List.range 8).map fun j => lane + 64 * j

end Sys2Proof.Machine
end

