-- ==== Sys2Proof/Machine/Banks.lean ====
section
/-! DEFINITION. Memory: cells, physical keys, banks with their parity groups, the HBM controller with page migration, the
cluster caches, and the address translation of region 0x00 (01 R9; 08 R169 to R196). -/

namespace Sys2Proof.Machine

/-! Cells in canonical form: addresses strictly rising, no entry equal to 0, which an unlisted address reads as (log 3, DESIGN CHOICE). -/

/-- The byte at a key (DESIGN CHOICE, log 3). -/
def memGet (m : List Host.Cell) (k : Nat) : Byte := mget 0 m k

/-- Write a byte, keeping the canonical form. -/
def memPut (m : List Host.Cell) (k : Nat) (b : Byte) : List Host.Cell :=
  if b = 0 then m.filter fun c => c.1 != k else mset m k b

/-- Read `n` bytes. -/
def memRead (m : List Host.Cell) (k : Nat) : Nat → List Byte
  | 0 => []
  | n + 1 => memGet m k :: memRead m (k + 1) n

/-- Write bytes at consecutive keys. -/
def memWrite (m : List Host.Cell) (k : Nat) : List Byte → List Host.Cell
  | [] => m
  | b :: t => memWrite (memPut m k b) (k + 1) t

/-- The canonical form. -/
def Memory.wf (m : List Host.Cell) : Bool :=
  match m with
  | [] => true
  | (_, v) :: [] => v != 0
  | (a, v) :: (b, w) :: t => v != 0 && decide (a < b) && Memory.wf ((b, w) :: t)

/-! Physical keys. HBM: the physical address, stack s at s × 2^36 (08 R173). -/

/-- Bytes of one HBM stack: 48 GB (01 R7), taken as 48 × 2^30 (PRESUMED, log 20). -/
def stackBytes : Nat := 48 * 2 ^ 30
def keyLs (c : CoreId) (off : Nat) : Nat := 2 ^ 60 + coreKey c * 2 ^ 21 + off
def keyNm (d off : Nat) : Nat := 2 ^ 61 + d * 2 ^ 25 + off
def keyHost (a : Nat) : Nat := 2 ^ 62 + a

def State.rd (s : State) (k n : Nat) : List Byte := memRead s.mem k n
def State.wr (s : State) (k : Nat) (b : List Byte) : State := { s with mem := memWrite s.mem k b }
/-- Poison mark of a 64-bit word. -/
def State.pz (s : State) (w : Nat) : Bool := mget false s.poison w
def State.setPz (s : State) (w : Nat) (b : Bool) : State :=
  if mget false s.poison w = b then s else { s with poison := mset s.poison w b }
def State.feAt (s : State) (w : Nat) : FeWord := mget .reset s.fe w
def State.setFe (s : State) (w : Nat) (f : FeWord) : State := { s with fe := mset s.fe w f }

/-! Banks (04 R78, 08 R170, R177). The word key is the key divided by 8. -/

/-- Unit, word number in the unit and number of banks of a banked word: local store of a core, or Nimbus of a die. -/
def bankUnit (w : Nat) : Option (Nat × Nat × Nat) :=
  if 2 ^ 57 ≤ w ∧ w < 2 ^ 57 + 8192 * 2 ^ 18 then
    let u := (w - 2 ^ 57) / 2 ^ 18
    some (u, (w - 2 ^ 57) % 2 ^ 18, if (coreOf u).tier = 3 then 32 else 16)
  else if 2 ^ 58 ≤ w ∧ w < 2 ^ 58 + 8 * 2 ^ 22 then some (8192 + (w - 2 ^ 58) / 2 ^ 22, (w - 2 ^ 58) % 2 ^ 22, 32)
  else none

/-- Bank key: unit × 32 + bank. -/
def bankKey (w : Nat) : Nat := match bankUnit w with | some (u, n, b) => u * 32 + n % b | none => 0
/-- Row key of the parity group of a word. -/
def rowKey (w : Nat) : Nat := match bankUnit w with | some (u, n, b) => (u * 8 + n % b / 4) * 2 ^ 20 + n / b | none => 0

/-- Retired banks in the group of a bank: 0 NORMAL, 1 DEGRADED, more BROKEN (08 R177). -/
def State.groupRetired (s : State) (bank : Nat) : Nat := (s.dev.retired.filter fun b => b / 4 == bank / 4).length

/-- Count a reconstruction fault on the unit of a word (08 R183). -/
def State.countRfault (s : State) (w : Nat) : State :=
  match bankUnit w with
  | some (u, _, _) =>
      if u < 8192 then s.updCore (coreOf u) fun k => { k with rfaults := satInc k.rfaults }
      else s.updDie (u - 8192) fun d => { d with rfaults := satInc d.rfaults }
  | none => s

/-- Count a conflict read served by reconstruction (08 R183). -/
def State.countRecon (s : State) (w : Nat) : State :=
  match bankUnit w with
  | some (u, _, _) =>
      if u < 8192 then s.updCore (coreOf u) fun k => { k with recon := satInc k.recon }
      else s.updDie (u - 8192) fun d => { d with recon := satInc d.recon }
  | none => s

/-- UNIT of a bank's report. -/
def bankPlace (w : Nat) : Nat :=
  match bankUnit w with
  | some (u, _, _) => if u < 8192 then place (coreOf u) else unitDie (u - 8192)
  | none => 0

/-- Key under which `badWords` lists the parity word of a banked word's row (DEDUCED, log 86). -/
def parityKey (w : Nat) : Nat := 2 ^ 60 + rowKey w

/-- Bits of a word's condition (08 R178). -/
def State.condition (s : State) (w : Nat) : Nat := mget 0 s.badWords w
def State.setCondition (s : State) (w n : Nat) : State :=
  { s with badWords := if n = 0 then merase s.badWords w else mset s.badWords w n }
/-- Has the word an uncorrectable error? -/
def State.inError (s : State) (w : Nat) : Bool := s.condition w % 2 == 1

/-- Is one of the other words that a reconstruction of a word reads in error: the parity word of its row, or the row's word in another
bank of the group (08 R178)? The four words of a row of a group are consecutive words of the unit (04 R78, 08 R170). -/
def State.rowBad (s : State) (w : Nat) : Bool :=
  s.inError (parityKey w) ||
    (List.range 4).any fun j => w / 4 * 4 + j != w && s.inError (w / 4 * 4 + j) && !s.dev.retired.contains (bankKey (w / 4 * 4 + j))

/-- The requests parked at a word are satisfied by its POISONED state (07 R145, R147): they are presented to it again, oldest first; a
record being evicted is posted. -/
def State.recall (s : State) (w : Nat) : State :=
  let f := s.feAt w
  if f.parked.isEmpty then s
  else
    let out (t : ThreadId) : Bool := (s.ctx t).st == .evicting
    { s.setFe w { f with parked := [] } with
      resume := s.resume ++ f.parked.filter fun t => decide (t.ctx < 16) && !out t
      spills := s.spills.map fun (x : Spill) => if f.parked.contains x.thread && out x.thread && !x.written then { x with woken := true } else x }

/-- The word becomes POISONED, the poison is also written to it, and its bits are a free value (08 R180; log 2, DESIGN CHOICE). -/
def State.loseWord (s : State) (w : Nat) : State :=
  let r := s.draw
  ((((r.2.wr (8 * w) (leBytes 8 r.1.toNat)).setFe w { s.feAt w with lost := true }).setPz w true).setCondition w 0).recall w

/-- A direct read of a live bank's word (08 R178). A correctable error is corrected and the word rewritten. An uncorrectable one is rebuilt
and rewritten in a NORMAL group whose other words of the row are sound; otherwise a reconstruction fault is met. -/
def State.directRead (s : State) (w : Nat) : State × Bool :=
  let b := bankKey w
  if s.condition w = 0 then (s, false)
  else if !s.inError w then (s.setCondition w 0, false)
  else if s.groupRetired b = 0 ∧ !s.rowBad w then
    ({ s.setCondition w 0 with dev := { s.dev with bankErrs := mset s.dev.bankErrs b (mget 0 s.dev.bankErrs b + 1) } }, false)
  else ((s.loseWord w).countRfault w, true)

/-- The bank's part of a read of a word (08 R178, R180): the state after it, and whether its result is poisoned with class PARITY.
The word of a retired bank is rebuilt in a DEGRADED group whose other words of the row are sound, and lost in a BROKEN one. A live
bank's word is read directly; when the bank is busy, by reconstruction where the group is NORMAL and the row CLEAN (DEDUCED, log 86). -/
def State.bankRead (s : State) (w : Nat) : State × Bool :=
  match bankUnit w with
  | none => (s, false)
  | some _ =>
      let r := s.groupRetired (bankKey w)
      if s.dev.retired.contains (bankKey w) then
        if 2 ≤ r then (s.loseWord w, true)
        else if s.rowBad w then ((s.loseWord w).countRfault w, true)
        else (s, false)
      else if 4 ≤ s.condition w then
        let s := s.setCondition w (s.condition w % 4)
        if r ≠ 0 ∨ s.stale.contains (rowKey w) then s.directRead w
        else if s.rowBad w then ((s.loseWord w).countRfault w, true)
        else (s.countRecon w, false)
      else s.directRead w

/-- Reads of several words: state after, and the words at which a reconstruction fault was met. -/
def State.bankReads (s : State) : List Nat → State × List Nat
  | [] => (s, [])
  | w :: t =>
      let r := s.bankRead w
      let q := r.1.bankReads t
      (q.1, if r.2 then w :: q.2 else q.2)

/-- Does a write of the word reach its bank (08 R178: a retired bank of a BROKEN group discards it)? -/
def State.bankTakes (s : State) (w : Nat) : Bool :=
  match bankUnit w with
  | none => true
  | some _ => !(s.dev.retired.contains (bankKey w) && decide (2 ≤ s.groupRetired (bankKey w)))

/-- Mark a row STALE (08 R177). -/
def State.markStale (s : State) (w : Nat) : State :=
  match bankUnit w with
  | none => s
  | some _ => if s.stale.contains (rowKey w) then s else { s with stale := rowKey w :: s.stale }

/-- A word of a row has been written: the row's parity word is written with it (DEDUCED, log 86), and the row is STALE (08 R177). -/
def State.rowWritten (s : State) (w : Nat) : State :=
  (if s.condition (parityKey w) ≠ 0 then s.setCondition (parityKey w) 0 else s).markStale w

/-- A write of bytes inside one word at a bank: data, poison (07 R134, R147), STALE row. `none`: discarded (DEDUCED, log 25). -/
def State.bankWrite (s : State) (k : Nat) (b : List Byte) (mark : Bool) : Option State :=
  let w := k / 8
  if s.bankTakes w then
    let s := s.wr k b
    let s := if mark then s.setPz w true else if b.length = 8 then s.setPz w false else s
    let s := if b.length = 8 ∧ s.condition w ≠ 0 then s.setCondition w 0 else s
    some (s.rowWritten w)
  else none

/-! Routes (01 R8, R9; 10 R228). -/

/-- Number of the Lemuf-I link of die `d` along dimension `k` (10 R228). -/
def linkIx (d k : Nat) : Nat :=
  let lo := if fld d k 1 = 1 then d - 2 ^ k else d
  4 * k + (match k with | 0 => lo / 2 | 1 => lo / 4 * 2 + lo % 2 | _ => lo % 4)

/-- Is the Lemuf-I link of die `d` along dimension `k` up? -/
def State.linkUp (s : State) (d k : Nat) : Bool := !bit s.dev.ilost (linkIx d k)

/-- The first path of `n` links that are up between two dies, as the list of its dimensions, in lexicographic order. -/
def State.pathOf (s : State) : Nat → Nat → Nat → Option (List Nat)
  | 0, a, b => if a = b then some [] else none
  | n + 1, a, b => [0, 1, 2].findSome? fun k =>
      if s.linkUp a k then (State.pathOf s n (a ^^^ 2 ^ k) b).map (k :: ·) else none

/-- The route from one die to another (01 R9): a shortest path, and of those the first in lexicographic order. -/
def State.route (s : State) (a b : Nat) : Option (List Nat) := (List.range 8).findSome? fun n => s.pathOf n a b

/-- Does a route from a die cross a link? -/
def crosses (link : Nat) : Nat → List Nat → Bool
  | _, [] => false
  | a, k :: t => linkIx a k == link || crosses link (a ^^^ 2 ^ k) t

/-- Dies reached from a set over links that are up, after a number of hops. -/
def State.reach (s : State) : Nat → List Nat → List Nat
  | 0, l => l
  | n + 1, l => s.reach n ((List.range 8).filter fun d => l.contains d ||
      (List.range 3).any fun k => s.linkUp d k && l.contains (d ^^^ 2 ^ k))

/-- Is there a route between two dies? -/
def State.routed (s : State) (a b : Nat) : Bool := a == b || (s.reach 7 [a]).contains b

/-! The HBM controller with dual writes of a migration (08 R187). -/

/-- Addresses a write to `pa` lands at: the new frame's too, which the controller of the old frame's stack reaches over Lemuf-I (log 67, DEDUCED,
DEDUCED). -/
def State.dual (s : State) (pa : Nat) : List Nat :=
  pa :: (s.migs.filterMap fun m =>
    if m.2.src ≤ pa ∧ pa < m.2.src + 65536 ∧ s.routed (m.2.src / 2 ^ 36) (m.2.dst / 2 ^ 36) then some (m.2.dst + (pa - m.2.src)) else none)

/-- Is a write already addressed to a frame still to be performed at its controller: an access in flight, an accepted vector store, or dirty
bytes of a cluster cache (DEDUCED, log 67)? -/
def State.addressed (s : State) (frame : Nat) : Bool :=
  let stores (c : VuCmd) : Bool := match c.instr with | .vst .. => true | .vstx .. => true | _ => false
  let pends (x : Ctx) : Bool := x.pend.any fun p => !p.load && p.key.any fun a => a / 65536 == frame
  (s.spills.any fun x => pends x.ctx) || (s.cores.any fun k => (k.2.ctxs.any fun x => pends x.2) ||
      k.2.vq.any fun c => stores c && c.keys.any fun x => x.2.1 / 65536 == frame) ||
  s.clusters.any fun c => c.2.lines.any fun l => l.1 / 1024 == frame && l.2.dirty != 0

/-- Migrations that the host has ended are over once no such write is left (08 R187). -/
def State.migsOver (s : State) : State :=
  if s.migs.any fun m => m.2.ending then
    { s with migs := s.migs.filter fun m => !(m.2.ending && !s.addressed (m.2.src / 65536)) }
  else s

/-- A write at the controller of bytes inside one 64-bit word. `mark` as at a bank. -/
def State.hbmWrite1 (s : State) (pa : Nat) (b : List Byte) (mark : Bool) : State :=
  (s.dual pa).foldl (fun s a =>
    let s := s.wr a b
    if mark then s.setPz (a / 8) true else if b.length = 8 then s.setPz (a / 8) false else s) s

/-- Split bytes at the boundaries of 64-bit words: address and bytes of each part. -/
def wordParts (k : Nat) (b : List Byte) : Nat → List (Nat × List Byte)
  | 0 => []
  | n + 1 =>
      if b.isEmpty then []
      else
        let m := 8 - k % 8
        (k, b.take m) :: wordParts (k + m) (b.drop m) n

/-- A write at the controller, of any length; `marks` says which parts are poisoned, in order. -/
def State.hbmWrite (s : State) (pa : Nat) (b : List Byte) (marks : List Bool) : State :=
  ((wordParts pa b b.length).zipIdx).foldl (fun s p => s.hbmWrite1 p.1.1 p.1.2 (marks.getD p.2 false)) s

/-- Poison marks of the words that cover a range. -/
def State.marksOf (s : State) (k n : Nat) : List Bool :=
  (List.range ((k + n + 7) / 8 - k / 8)).map fun i => s.pz (k / 8 + i)

/-! Cluster caches (08 R184, R191). -/

def CLine.empty : CLine :=
  { valid := 0, dirty := 0, data := List.replicate 64 0, poison := 0, owner := 0, writers := [], pf := false }

/-- Fill the invalid bytes of a line from the controller. -/
def CLine.fill (l : CLine) (d : List Byte) (p : BitVec 8) : CLine :=
  { l with
    data := (List.range 64).map fun i => if bit l.valid i then l.data.getD i 0 else d.getD i 0
    poison := (List.range 8).foldl (fun q w =>
      let v := fld l.valid.toNat (8 * w) 8
      setBit q w (if v = 255 then bit l.poison w else if v = 0 then bit p w else bit l.poison w || bit p w)) 0
    valid := BitVec.allOnes 64 }

/-- Poison bits of a line at the controller. -/
def State.linePoison (s : State) (pa : Nat) : BitVec 8 :=
  (List.range 8).foldl (fun q w => setBit q w (s.pz (pa / 8 + w))) 0

/-- Is the line wholly valid over the bytes `o . o + n - 1`? -/
def CLine.has (l : CLine) (o n : Nat) : Bool := (List.range n).all fun i => bit l.valid (o + i)

/-- Mask of `n` bits from `o`. -/
def maskBits (o n : Nat) : BitVec 64 := BitVec.ofNat 64 ((2 ^ n - 1) * 2 ^ o)

/-- Write back the dirty bytes of one line (08 R184, R191). A stack without a route discards them, and the launches whose stores wrote them
get the report (01 R9), with CTX 0x1F, the cluster's die as UNIT and ADDR 0 (DESIGN CHOICE, log 92). -/
def State.writeBack (s : State) (cl line : Nat) : State :=
  let l := mget .empty (s.cluster cl).lines line
  if l.dirty = 0 then s
  else if !s.routed (cl / 64) (line * 64 / 2 ^ 36) then
    let lost := ((l.writers.filter fun w => w.mask &&& l.dirty != 0).map (·.serial)).eraseDups
    let s := lost.foldl (fun s x =>
      s.report x { cls := 12, detail := 2, engine := 10, ctx := 0x1F, unit := unitDie (cl / 64), addr := 0 }) s
    (s.updCluster cl fun c => { c with lines := mset c.lines line { l with dirty := 0, writers := [], valid := l.valid &&& ~~~l.dirty } }).migsOver
  else
    let s := (List.range 64).foldl (fun s i =>
      if bit l.dirty i then
        let s := (s.dual (line * 64 + i)).foldl (fun s a => s.wr a [l.data.getD i 0]) s
        -- the last byte of each word settles its poison
        if i % 8 = 7 ∨ !(List.range (7 - i % 8)).any (fun j => bit l.dirty (i + 1 + j)) then
          if bit l.poison (i / 8) then (s.dual (line * 64 + i)).foldl (fun s a => s.setPz (a / 8) true) s
          else if fld l.dirty.toNat (8 * (i / 8)) 8 = 255 then
            (s.dual (line * 64 + i)).foldl (fun s a => s.setPz (a / 8) false) s
          else s
        else s
      else s) s
    (s.updCluster cl fun c => { c with lines := mset c.lines line { l with dirty := 0, writers := [] } }).migsOver

/-- Write back and drop one line: before an engine write or an atomic at the controller (08 R193, R194). -/
def State.flushLine (s : State) (cl line : Nat) : State :=
  (s.writeBack cl line).updCluster cl fun c => { c with lines := merase c.lines line }

/-- Sets of a cluster's cache: 16 ways of 64-byte lines in 1 MiB at T0 and T1, in 2 MiB at T2 and T3 (01 R7; 08 R184). -/
def cacheSets (cl : Nat) : Nat := if cl / 16 % 4 < 2 then 1024 else 2048

/-- Lines that a cluster's cache holds in the set of a line: the number of a line modulo that of the sets (DESIGN CHOICE, log 4). -/
def State.setLines (s : State) (cl line : Nat) : List Nat :=
  ((s.cluster cl).lines.map (·.1)).filter fun n => n % cacheSets cl == line % cacheSets cl

/-- Is there room for a line without an eviction? -/
def State.roomy (s : State) (cl line : Nat) : Bool :=
  (s.setLines cl line).contains line || decide ((s.setLines cl line).length < 16)

/-- Make room for a line: a full set evicts one, which the schedule names or a free value does (09 R197; log 4, DESIGN CHOICE). -/
def State.room (s : State) (cl line : Nat) : State :=
  if s.roomy cl line then s
  else
    let l := s.setLines cl line
    match l.find? (s.cluster cl).victims.contains with
    | some v => (s.flushLine cl v).updCluster cl fun c => { c with victims := c.victims.erase v }
    | none => let r := s.draw; r.2.flushLine cl ((l[r.1.toNat % l.length]?).getD line)

/-- Bring in the bytes of a line that the cache does not hold. -/
def State.fillLine (s : State) (cl line : Nat) (pf : Bool) : State :=
  let s := s.room cl line
  let l := mget .empty (s.cluster cl).lines line
  let l := l.fill (s.rd (line * 64) 64) (s.linePoison (line * 64))
  s.updCluster cl fun c => { c with lines := mset c.lines line { l with pf := pf } }

/-- The line that a prefetch has asked for arrives, and counts in PFLINES (08 R186). -/
def State.fetched (s : State) (cl line : Nat) (pf : Bool) : State :=
  (s.fillLine cl line pf).updCluster cl fun c => { c with fetching := c.fetching.erase line, pflines := satInc c.pflines }

/-- A prefetch asks for a line that is neither there nor under way. -/
def Cluster.ask (c : Cluster) (line : Nat) : Cluster :=
  if (mfind c.lines line).isSome || c.fetching.contains line then c else { c with fetching := c.fetching ++ [line] }

/-- A demand meets a line: one that a prefetch has brought counts in PFUSED and PFEARLY, one in flight in PFUSED alone, and it has arrived
(08 R186). -/
def State.demandMeet (s : State) (cl line : Nat) : State :=
  if (s.cluster cl).fetching.contains line then
    (s.fetched cl line false).updCluster cl fun c => { c with pfused := satInc c.pfused }
  else
    let l := mget .empty (s.cluster cl).lines line
    if l.pf then s.updCluster cl fun c =>
      { c with lines := mset c.lines line { l with pf := false }, pfused := satInc c.pfused, pfearly := satInc c.pfearly }
    else s

/-- A demand for `n` bytes at `o` of a line: a miss brings the line in. -/
def State.demand (s : State) (cl line o n : Nat) : State :=
  let s := s.demandMeet cl line
  if (mget .empty (s.cluster cl).lines line).has o n then s else s.fillLine cl line false

/-- Read bytes of one line through a cluster's cache: bytes and the marks of the words. -/
def State.cacheRead (s : State) (cl pa n : Nat) : State × List Byte × List Bool :=
  let s := s.demand cl (pa / 64) (pa % 64) n
  let l := mget .empty (s.cluster cl).lines (pa / 64)
  (s, (l.data.drop (pa % 64)).take n,
    (List.range ((pa % 8 + n + 7) / 8)).map fun i => bit l.poison (pa % 64 / 8 + i))

/-- A store of a launch through a page writes the bytes of a mask: they are its own now. -/
def wroteLine (l : List Writer) (mask : BitVec 64) (serial : Word) (page : Nat) : List Writer :=
  let is (w : Writer) : Bool := w.serial == serial && w.page == page
  let rest := l.filterMap fun w =>
    let m := w.mask &&& ~~~mask
    if is w || m == 0 then none else some { w with mask := m }
  rest ++ [{ mask := mask ||| ((l.find? is).map (·.mask)).getD 0, serial := serial, page := page }]

/-- Store bytes of one line into a cluster's cache, without fetching the line: a store of a launch at a virtual address. -/
def State.cacheWrite (s : State) (cl pa : Nat) (b : List Byte) (marks : List Bool) (owner va : Word) : State :=
  let o := pa % 64
  ((s.demandMeet cl (pa / 64)).room cl (pa / 64)).updCluster cl fun c =>
    let l := mget .empty c.lines (pa / 64)
    let p := (List.range ((o % 8 + b.length + 7) / 8)).foldl (fun q i =>
      if marks.getD i false then setBit q (o / 8 + i) true
      else if 8 ≤ b.length then setBit q (o / 8 + i) false else q) l.poison
    let m := maskBits o b.length
    let l' : CLine := { l with
      valid := l.valid ||| m, dirty := l.dirty ||| m, data := patch l.data o b, poison := p, owner := owner
      writers := wroteLine l.writers m owner (va.toNat / 65536 % 2 ^ 36), pf := false }
    { c with lines := mset c.lines (pa / 64) l' }

/-- Write back every dirty line of a cluster's cache. -/
def State.writeBackAll (s : State) (cl : Nat) : State :=
  ((s.cluster cl).lines.map (·.1)).foldl (fun s n => s.writeBack cl n) s

/-- Drop clean data: every clean byte becomes invalid (08 R191). -/
def State.dropClean (s : State) (cl : Nat) : State :=
  s.updCluster cl fun c => { c with lines := c.lines.filterMap fun p =>
    if p.2.dirty = 0 then none else some (p.1, { p.2 with valid := p.2.dirty }) }

/-- Read at the controller; bytes still dirty in the own cluster's cache are the thread's own latest (07 R137; log 21, DEDUCED). -/
def State.ctrlRead (s : State) (cl pa n : Nat) : List Byte × List Bool :=
  let l := mget .empty (s.cluster cl).lines (pa / 64)
  ((List.range n).map fun i => if bit l.dirty (pa % 64 + i) then l.data.getD (pa % 64 + i) 0 else memGet s.mem (pa + i),
   (List.range ((pa % 8 + n + 7) / 8)).map fun i =>
     (fld l.dirty.toNat (8 * (pa % 64 / 8 + i)) 8 != 0 && bit l.poison (pa % 64 / 8 + i)) || s.pz (pa / 8 + i))

/-- Write at the controller, dropping the covered bytes from the own cluster's cache. -/
def State.ctrlWrite (s : State) (cl pa : Nat) (b : List Byte) (marks : List Bool) : State :=
  (s.flushLine cl (pa / 64)).hbmWrite pa b marks

/-! Translation (08 R171 to R174, 20 R422). -/

/-- What an access is, for permissions and for fault records (08 R175). -/
inductive Acc1 where
  | load | store | amo | fetch | engRead | engWrite
deriving DecidableEq, Repr

/-- KIND of a fault record. -/
def Acc1.code (k : Acc1) : Nat :=
  match k with | .load => 0 | .store => 1 | .amo => 2 | .fetch => 3 | .engRead => 4 | .engWrite => 5

/-- Where an address leads. -/
inductive Loc where
  | hbm (pa : Nat)
  | hostMem (key : Nat)
  | peer (port page off : Nat)
  | bank (key : Nat)
  | mmio (off : Nat)
  | trap (cls detail : Nat)
  /-- V = 0: a translation fault. -/
  | xfault
  /-- A frame that no stack holds (Fault.noMemory). -/
  | hole (pa : Nat)
deriving DecidableEq, Repr

/-- The physical key of a location of memory. -/
def Loc.key (l : Loc) : Option Nat := match l with | .hbm k => some k | .bank k => some k | .hostMem k => some k | _ => none

/-- Leaf permissions and kind (08 R173, R174). `sz` is the log2 of the page size (DESIGN CHOICE, log 91). -/
def leafLoc (s : State) (die : Nat) (e va sz : Nat) (k : Acc1) : Loc :=
  let kind := fld e 8 2
  let r := fld e 2 1 == 1
  let w := fld e 3 1 == 1
  if fld e 52 12 ≠ 0 ∨ fld e 10 6 ≠ 0 ∨ fld e 6 2 ≠ 0 ∨ fld e 16 (sz - 16) ≠ 0 ∨ kind = 3 ∨ (w && !r) = true ∨
      (kind = 2 ∧ fld e 28 20 ≠ 0) then .trap 5 0
  else
    let ok : Bool :=
      match k with
      | .load => r | .engRead => r | .store => w | .engWrite => w | .fetch => fld e 4 1 == 1
      | .amo => r && w && fld e 5 1 == 1 && kind == 0
    if kind = 2 then (if w then .peer (fld e 48 4) (fld e 16 12) (va % 65536) else .trap 6 6)
    else if !ok then .trap 6 6
    else
      let pa := fld e 16 36 * 2 ^ 16 + va % 2 ^ sz
      if kind = 1 then .hostMem (keyHost pa)
      else if 8 * 2 ^ 36 ≤ pa ∨ stackBytes ≤ pa % 2 ^ 36 then .hole pa
      else if s.routed die (pa / 2 ^ 36) then .hbm pa else .trap 12 2

/-- A non-leaf entry's reserved bits; `al` says that the next table is 4 KiB aligned. -/
def badNode (e : Nat) (al : Bool) : Bool :=
  fld e 52 12 != 0 || fld e 2 6 != 0 || (al && fld e 8 4 != 0)

/-- What a walk of the tables ends in: V = 0, a malformed entry, a table that the walking die does not reach, or a leaf with the log2 of its
page size. -/
inductive Leaf where
  | fault
  | bad
  | lost
  | leaf (e sz : Nat)
deriving DecidableEq, Repr

/-- The four-level walk (08 R172), of tables at the addresses that `ok` allows: one that the walking die does not reach ends the walk as a page
there does (DESIGN CHOICE, log 82). -/
def State.leafOf (s : State) (ok : Nat → Bool) (root va : Nat) : Leaf :=
  let ent (base idx : Nat) : Nat := leNat (s.rd (base + 8 * idx) 8)
  let next (e : Nat) : Nat := fld e 8 44 * 256
  let t3 := fld root 16 36 * 65536
  let e3 := ent t3 (fld va 39 13)
  if !ok t3 then .lost
  else if fld e3 0 1 = 0 then .fault
  else if fld e3 1 1 = 1 ∨ badNode e3 true then .bad
  else
    let e2 := ent (next e3) (fld va 30 9)
    if !ok (next e3) then .lost
    else if fld e2 0 1 = 0 then .fault
    else if fld e2 1 1 = 1 then .leaf e2 30
    else if badNode e2 true then .bad
    else
      let e1 := ent (next e2) (fld va 21 9)
      if !ok (next e2) then .lost
      else if fld e1 0 1 = 0 then .fault
      else if fld e1 1 1 = 1 then .leaf e1 21
      else if badNode e1 false then .bad
      else
        let e0 := ent (next e1) (fld va 16 5)
        if !ok (next e1) then .lost
        else if fld e0 0 1 = 0 then .fault
        else if fld e0 1 1 = 0 then .bad
        else .leaf e0 16

/-- Does a die reach the stack of a table (01 R8)? -/
def State.reaches (s : State) (die pa : Nat) : Bool := decide (8 * 2 ^ 36 ≤ pa) || s.routed die (pa / 2 ^ 36)

/-- Translation of a virtual address: by an entry still in use (08 R176), or by the tables. A table on a stack without a route from the die
that walks gives what a page there gives (DESIGN CHOICE, log 82). -/
def State.walk (s : State) (die root va : Nat) (k : Acc1) : Loc :=
  match s.tlb.find? fun x => x.used && x.root == root && x.page == va / 65536 with
  | some x => leafLoc s die x.entry va x.size k
  | none =>
      match s.leafOf (s.reaches die) root va with
      | .fault => .xfault
      | .bad => .trap 5 0
      | .lost => .trap 12 2
      | .leaf e sz => leafLoc s die e va sz k

/-- Translation keeps the entry of now for a page, and uses it or not (DEDUCED, log 9). -/
def State.keepEntry (s : State) (root va : Nat) (old : Bool) : State :=
  let is (x : TlbEntry) : Bool := x.root == root && x.page == va / 65536
  if s.tlb.any is then { s with tlb := s.tlb.map fun x => if is x then { x with used := old } else x }
  else match s.leafOf (fun _ => true) root va with
    | .leaf e sz => { s with tlb := { root := root, page := va / 65536, entry := e, size := sz, used := old } :: s.tlb }
    | _ => s

/-- An access that may not reach a peer window gets PERM 0x06 there (20 R422). -/
def Loc.noPeer (l : Loc) : Loc := match l with | .peer .. => .trap 6 6 | l => l

/-- Region and range checks of an access of `n` bytes by a launch on a core (04 R76, R79, R80; 08 R169, R170), then
translation. Alignment is checked before. -/
def State.locate (s : State) (l : Launch) (c : CoreId) (a : Word) (n : Nat) (k : Acc1) : Loc :=
  let v := a.toNat
  let wr : Bool := match k with | .store => true | .amo => true | .engWrite => true | _ => false
  match v / 2 ^ 56 with
  | 0x00 =>
      if fld v 52 4 ≠ 0 then .trap 6 1 else s.walk c.die l.ptroot v k
  | 0x7F =>
      let o := fld v 0 21
      if fld v 21 35 ≠ 0 then .trap 6 1
      else if wr && decide (o < 0x800) then .trap 6 3
      else if o + n ≤ 0x800 then .bank (keyLs c o)
      else if l.on c ∧ l.base c ≤ o ∧ o + n ≤ l.base c + l.lssize then .bank (keyLs c o) else .trap 6 2
  | 0x7C =>
      let o := fld v 0 21
      let tc : CoreId := ⟨c.die, c.tier, fld v 48 8⟩
      if fld v 21 27 ≠ 0 then .trap 6 1
      else if coresOf c.tier ≤ tc.idx then .trap 6 2
      else if wr && decide (o < 0x800) then .trap 6 3
      else if o + n ≤ 0x800 then .bank (keyLs tc o)
      else if l.on tc ∧ l.base tc ≤ o ∧ o + n ≤ l.base tc + l.lssize then .bank (keyLs tc o) else .trap 6 2
  | 0x7E =>
      let o := fld v 0 25
      if fld v 25 31 ≠ 0 then .trap 6 1
      else if l.nmbase ≤ o ∧ o + n ≤ l.nmbase + l.nmsize then .bank (keyNm c.die o) else .trap 6 2
  | 0x7D => .mmio (fld v 0 56)
  | _ => .trap 6 1

/-- Is a banked word one of a constant window (04 R76)? -/
def isWindowWord (w : Nat) : Bool :=
  match bankUnit w with | some (u, n, _) => decide (u < 8192 ∧ n < 256) | none => false

/-- Is the word banked? -/
def isBanked (w : Nat) : Bool := (bankUnit w).isSome

end Sys2Proof.Machine
end

