-- ==== Sys2Proof/Machine/Thermal.lean ====
section
/-! DEFINITION. Continuation records as bytes (16 R333, R334), the device's accesses through a launch's page tables, and the
moves of records from hot cores (22 R434). -/

namespace Sys2Proof.Machine

/-! Fields of a record (16 R333). -/

def rfld (b : List Byte) (lo w : Nat) : Nat := fld (leNat b) lo w
def rset (b : List Byte) (lo w x : Nat) : List Byte := leBytes 64 (setFld (leNat b) lo w x)
def recKey (b : List Byte) : Nat := rfld b 0 48
def recOp (b : List Byte) : Nat := rfld b 48 4
def recPrio (b : List Byte) : Nat := rfld b 52 3
def recTier (b : List Byte) : Nat := rfld b 55 2
def recWait (b : List Byte) : Bool := rfld b 57 1 == 1
def recDie (b : List Byte) : Nat := rfld b 58 3
def recDone (b : List Byte) : Bool := rfld b 61 1 == 1
/-- PC of a record. Bit 0, which no rule checks, stays as it is (05 R88; DESIGN CHOICE, log 102). -/
def recPc (b : List Byte) : Word := w64 (rfld b 64 52)
def recLpix (b : List Byte) : Nat := rfld b 116 11
def recCir (b : List Byte) : Nat := rfld b 128 8
def recScount (b : List Byte) : Nat := rfld b 136 8
def recAffc (b : List Byte) : Nat := rfld b 144 8
def recAffx (b : List Byte) : Nat := rfld b 152 4
def recAffk (b : List Byte) : Nat := rfld b 156 2
def recSpill (b : List Byte) : Bool := rfld b 159 1 == 1
def recSlist (b : List Byte) : Word := w64 (rfld b 192 48 * 16)
def recPcount (b : List Byte) : Nat := rfld b 240 16
def recPayload (b : List Byte) (n : Nat) : Word := w64 (rfld b (256 + 64 * n) 64)

/-- Bind a record to a core of its tier (16 R355). -/
def bindRec (b : List Byte) (idx : Nat) : List Byte := rset (rset b 156 2 2) 144 8 idx

/-- The device's access of `n` bytes in region 0x00 through a launch's tables, from a die. -/
def State.devLoc (s : State) (l : Launch) (die : Nat) (a : Word) (n : Nat) (k : Acc1) : Loc :=
  if a.toNat / 2 ^ 56 ≠ 0 then .trap 6 1 else (s.locate l ⟨die, 0, 0⟩ a n k).noPeer

/-! Moves of records (22 R434). -/

/-- Copy tags that the handles of a spill frame name and that run on a core, with their places. -/
def runningHandles (k : Core) (frame : List Byte) : List (Nat × Nat) :=
  (List.range 16).filterMap fun n =>
    let h := leAt frame (0x140 + 4 * n) 4
    let x : Tag := mget .reset k.tags (fld h 0 6)
    if fld h 8 2 = 1 ∧ x.st = .running ∧ x.gen.toNat = fld h 16 16 then some (n, fld h 0 6) else none

/-- The coolest core of the tier whose cluster reads at least 8 degrees below the source's; ties go to the lowest index. -/
def State.coolTarget (s : State) (c : CoreId) : Option CoreId :=
  let heat (d : CoreId) : Nat := (s.cluster (clusterOf d)).celsius.toNat
  let ok := (tierCores c.die c.tier).filter fun d => decide (heat d + 8 ≤ heat c)
  ok.find? fun d => ok.all fun e => decide (heat d ≤ heat e)

/-- Take a tag on the target core for a running copy, held there or redirected from another core before, and let the copy's end settle it. -/
def State.redirectCopy (s : State) (c d : CoreId) (tag new : Nat) : State :=
  let s := s.updCore d fun k =>
    let x : Tag := mget .reset k.tags new
    { k with tags := mset k.tags new { Tag.reset with st := .running, gen := x.gen + 1 } }
  { s with cores := s.cores.map fun k => (k.1, { k.2 with copies := k.2.copies.map fun o =>
    if (k.1 = coreKey c ∧ o.tag = tag) ∨ o.redirect.contains (c, tag) then { o with redirect := o.redirect ++ [(d, new)] } else o }) }

/-- Move the copies of an evicted record's handles, and write the new handles into the frame at a key. -/
def State.redirectAll (s : State) (c d : CoreId) (frameKey : Nat) : List (Nat × Nat) → List Nat → State
  | (n, tag) :: hs, new :: ts =>
      let s := s.redirectCopy c d tag new
      let g : Tag := mget .reset (s.core d).tags new
      let h := g.gen.toNat * 65536 + 256 + new
      (s.hbmWrite (frameKey + 0x140 + 4 * n) (leBytes 4 h) []).redirectAll c d frameKey hs ts
  | _, _ => s

/-- Is an entry of the table of moved records still there at a microsecond: its 5 ms have not passed (R434)? -/
def movedStays (x : Word × Nat) (now : Nat) : Bool := decide (now < x.2 + 5000)

/-- The move of a record that is written back at a suspension point, or posted after an eviction: its bytes after it. `spilled`: its handles are in a spill frame, whose key is `frame` (DEDUCED, log 46). -/
def State.thermalMove (s : State) (die tier : Nat) (serial addr : Word) (b : List Byte) (spilled : Bool)
    (frame : Option Nat) :
    State × List Byte :=
  let c : CoreId := ⟨die, tier, recAffc b⟩
  let moved := (s.die die).moved.filter fun x => movedStays x s.dev.time
  if !(s.cluster (clusterOf c)).hot || (moved.any fun x => x.1 == addr) || decide (256 ≤ moved.length) then (s, b)
  else if !(recAffk b == 1 || (recAffk b == 2 && s.bound286.contains (serial, addr))) then (s, b)
  else match s.coolTarget c with
    | none => (s, b)
    | some d =>
        let go (s : State) : State × List Byte :=
          ({ s.updDie die fun x => { x with moved := moved ++ [(addr, s.dev.time)] } with
             dev := { s.dev with thermmig := s.dev.thermmig + 1 } }, rset b 144 8 d.idx)
        if recAffk b = 1 ∨ !spilled then go s
        else match frame with
          | none => (s, b)
          | some fk =>
              let hs := runningHandles (s.core c) (s.rd fk 512)
              let free := (List.range 64).filter fun n => (mget Tag.reset (s.core d).tags n).st != .running
              if free.length < hs.length then (s, b) else go (s.redirectAll c d fk hs free)

end Sys2Proof.Machine
end

