-- ==== Sys2Proof/Machine/Arrival.lean ====
section
/-! DEFINITION. Records that arrive at a Condenser partition, and the fold (16 R348, R349, R351, R353). -/

namespace Sys2Proof.Machine

/-- Entries of a partition (R348). -/
def partSize (tier : Nat) : Nat := match tier with | 0 => 4096 | 1 => 1024 | _ => 256

/-! The fold algebra (R349). -/

/-- One lane of an operator: held, arriving; the result and whether OVF is set. -/
def foldLane (op i x y : Nat) : Nat × Bool :=
  match op with
  | 0x1 => ((x + y) % 2 ^ 64, decide (2 ^ 64 ≤ x + y))
  | 0x2 =>
      let v := (BitVec.ofNat 32 x).toInt + (BitVec.ofNat 32 y).toInt
      let w := max (-(2 ^ 31)) (min (2 ^ 31 - 1) v)
      ((BitVec.ofInt 32 w).toNat, v != w)
  | 0x3 => ((fadd32 (BitVec.ofNat 32 x) (BitVec.ofNat 32 y)).toNat, false)
  | 0x4 => ((maxS (w64 x) (w64 y)).toNat, false)
  | 0x5 => ((minS (w64 x) (w64 y)).toNat, false)
  | 0x6 => (max x y, false)
  | 0x7 => (min x y, false)
  | 0x8 => (x ||| y, false)
  | 0x9 => (x &&& y, false)
  | 0xA => (x ^^^ y, false)
  | 0xB => (y, false)
  | 0xD => if i = 0 then ((x + 1) % 2 ^ 64, decide (x + 1 = 2 ^ 64)) else (x, false)
  | _ => (x, false)

/-- Width of an operator's lanes. -/
def foldWidth (op : Nat) : Nat := if op = 2 ∨ op = 3 then 32 else 64

/-- Fold an arriving payload into a held one, both of 256 bits. -/
def foldPayload (op h a : Nat) : Nat × Bool :=
  let w := foldWidth op
  (List.range (256 / w)).foldl (fun r i =>
    let v := foldLane op i (fld h (w * i) w) (fld a (w * i) w)
    (r.1 + v.1 * 2 ^ (w * i), r.2 || v.2)) (0, false)

/-- The bytes of a held record after a fold. -/
def foldRec (h a : List Byte) : List Byte :=
  let r := foldPayload (recOp h) (rfld h 256 256) (rfld a 256 256)
  let b := rset (rset h 256 256 r.1) 52 3 (max (recPrio h) (recPrio a))
  if r.2 then rset b 158 1 1 else b

/-- Records that never match (R351). -/
def recAlone (b : List Byte) : Bool := recOp b == 0 || recSpill b || recWait b

/-! Arrival (R348, R351, R353). -/

/-- What an arrival comes to. -/
inductive Arrived where
  | queued | folded | rejected | full
deriving DecidableEq, Repr

/-- Does a held entry match an arrival? One launch has one LPIX on a die. -/
def CEntry.matches_ (e : CEntry) (x : Transit) : Bool :=
  e.serial == x.serial && recKey e.bytes == recKey x.bytes && !recAlone e.bytes && !recAlone x.bytes

/-- A record arrives at its partition; `own` says that the post is the device's (DEDUCED, log 43). -/
def State.arrive (s : State) (die tier : Nat) (x : Transit) (own : Bool) : State × Arrived :=
  let p := s.part die tier
  match p.entries.find? fun e => e.matches_ x with
  | some e =>
      if recOp e.bytes ≠ recOp x.bytes then
        (s.report x.serial { cls := 14, detail := 0, engine := 7, ctx := 0x1F, unit := unitDie die + tier * 2 ^ 16, addr := x.addr },
          .rejected)
      else
        (s.updPart die tier fun p => { p with entries := p.entries.map fun y =>
          if y.order = e.order then
            { y with bytes := foldRec y.bytes x.bytes, prio := max y.prio (recPrio x.bytes), folded := true }
          else y }, .folded)
  | none =>
      if !own && decide (partSize tier ≤ p.entries.length) then (s, .full)
      else
        let e : CEntry := { addr := x.addr, serial := x.serial, bytes := x.bytes, order := p.next, prio := recPrio x.bytes,
                            since := mget 0 s.clocks tier,
                            aged := 0, hintOver := false, folded := false }
        let s := s.updPart die tier fun p => { p with entries := p.entries ++ [e], next := p.next + 1 }
        (if x.newLive then s.updLaunch x.serial fun l => { l with live := l.live + 1 } else s, .queued)

end Sys2Proof.Machine
end

