-- ==== Sys2Proof/Machine/Ops.lean ====
section
/-! DEFINITION. The named operations of a thread and of the device: posting, fault records, full/empty words, loads and
stores, parking, taking a trap and returning from one, and the fatal partition error. -/

namespace Sys2Proof.Machine

/-! Posts (16 R353, R66). -/

/-- A post sets out for a partition. -/
def State.post (s : State) (die tier : Nat) (x : Transit) : State :=
  s.updPart die tier fun p => { p with transit := p.transit ++ [x] }

/-- Bytes of a record with WAIT (16 R333, bit 57) and its wait-link (R334, bits 383:320) cleared. -/
def clearWait (b : List Byte) : List Byte := patch (patch b 7 [b.getD 7 0 &&& 0xFD]) 40 (leBytes 8 0)

/-- Write the wait-link of a record (16 R334). -/
def State.setLink (s : State) (key : Nat) (next : Word) : State := s.hbmWrite (key + 40) (leBytes 8 next.toNat) []

/-- Take a record out of a chain of recorded waiters: its predecessor's wait-link passes over it. -/
def State.unchain (s : State) (l : List Cont) (k : Cont) : State :=
  match (l.zip (l.drop 1)).find? fun p => p.2 == k with
  | some p => s.setLink p.1.key (((l.dropWhile (· != k)).drop 1).head?.map (·.addr) |>.getD 0)
  | none => s

/-- Take a barrier waiter off its word. -/
def State.unlinkBar (s : State) (w : Nat) (k : Cont) : State :=
  let f := s.feAt w
  (s.unchain f.bars k).setFe w { f with bars := f.bars.erase k }

/-- Change the evicted record of an address and launch. -/
def State.updSpill (s : State) (addr serial : Word) (f : Spill → Spill) : State :=
  { s with spills := s.spills.map fun x => if x.addr = addr ∧ x.serial = serial then f x else x }

/-- The device posts an evicted record (04 R66): its WAIT and wait-link are cleared, and a record bound to a hot core may move
(22 R434). -/
def State.postKey (s : State) (die tier key : Nat) (addr serial : Word) (src : Nat) : State :=
  let b := clearWait (s.rd key 64)
  let r :=
    match s.spills.find? fun x => x.addr == addr && x.serial == serial with
    | some x =>
        let l := s.launch serial
        s.thermalMove die tier serial addr b true (s.devLoc l die (l.spillbase + w64 (512 * x.frame)) 512 .engWrite).key
    | none => (s, b)
  (r.1.hbmWrite key r.2 (s.marksOf key 64)).post die tier
    { addr := addr, serial := serial, bytes := r.2, newLive := false, src := src }

/-- The wake event of a continuation recorded against word `w` (07 R144, R146): it is posted, now or when its write-back is
done. -/
def State.postCont (s : State) (w : Nat) (k : Cont) : State :=
  let s' := s.updSpill k.addr k.serial fun x => { x with woken := true }
  if s.spills.any fun x => x.addr == k.addr && x.serial == k.serial && !x.written then s'
  else s'.postKey k.die k.tier k.key k.addr k.serial w

/-! Fault records (08 R175). -/

/-- A message-signalled interrupt of a vector (22 R443) (DEDUCED, log 70). -/
def State.msi (s : State) (v : Nat) : State := { s with host := { s.host with msix := s.host.msix ++ [v] } }

/-- Write a fault record to the host's fault queue, or hold it while the queue is full. -/
def State.fqWrite (s : State) (b : List Byte) : State :=
  let h := s.host
  let n := 2 ^ h.fqlog
  if (h.fqtail + 1) % n = h.fqhead then { s with host := { h with fqheld := h.fqheld ++ [b] } }
  else (({ s with host := { h with fqtail := (h.fqtail + 1) % n } }).wr (keyHost (h.fqbase.toNat + 32 * h.fqtail)) b).msi 64

/-- The 32 bytes of a fault record. -/
def faultBytes (va : Word) (unit kind ctx : Nat) (serial : Word) (cycle : Nat) : List Byte :=
  leBytes 8 va.toNat ++ leBytes 3 unit ++ leBytes 1 kind ++ leBytes 1 ctx ++ leBytes 3 0 ++ leBytes 8 serial.toNat ++
    leBytes 4 cycle ++ leBytes 4 0

/-- UNIT of a fault record: PLACE with its fields moved down. -/
def faultUnit (c : CoreId) : Nat := c.die * 2 ^ 16 + c.tier * 2 ^ 12 + c.idx / 16 * 256 + c.idx

/-- A translation fault posts one record per 64 KiB granule and launch until replay. -/
def State.postFault (s : State) (unit : Nat) (serial : Word) (ctx kind cycle : Nat) (va : Word) : State :=
  let g := fld va.toNat 16 36
  if s.host.granules.contains (serial, g) then s
  else ({ s with host := { s.host with granules := (serial, g) :: s.host.granules } }).fqWrite
    (faultBytes va unit kind ctx serial cycle)

/-- Key of a record's count of mismatches: launch and physical key of the record. -/
def misKey (serial : Word) (key : Nat) : Nat := serial.toNat * 2 ^ 64 + key

/-! Redundant pairs: the trailer mirrors its leader but for its own copies of the registers (10 R222, R223). -/

/-- The trailer of a leader, when the launch holds PAIR. -/
def State.trailer (s : State) (t : ThreadId) : Option ThreadId :=
  if (s.launchOf t).isPair ∧ t.ctx < 8 then some { t with ctx := t.ctx + 8 } else none

/-- After the leader completed an instruction: the trailer takes the leader's values for the destinations named and the
leader's context otherwise, keeping its own copy of every other register. -/
def State.pairSync (s : State) (t : ThreadId) (xd pd hd : List Nat) : State :=
  match s.trailer t with
  | none => s
  | some u =>
      let c := s.ctx t
      let d := s.ctx u
      s.setCtx u { c with
        xs := xd.foldl (fun m r => mset m r (mget 0 c.xs r)) d.xs
        xm := xd.foldl (fun m r => setBit m r (bit c.xm r)) d.xm
        ps := pd.foldl (fun m r => setBit m r (bit c.ps r)) d.ps
        pm := pd.foldl (fun m r => setBit m r (bit c.pm r)) d.pm
        hs := hd.foldl (fun m r => mset m r (mget 0 c.hs r)) d.hs
        es := d.es, em := d.em, lastIssue := d.lastIssue }

/-! POSTs that wait for a full partition (16 R353). -/

/-- Entries freed: the POSTs parked there are accepted in the order they parked. -/
def State.acceptPosts : Nat → State → Nat → Nat → State
  | 0, s, _, _ => s
  | n + 1, s, die, tier =>
      match (s.part die tier).posts with
      | [] => s
      | (t, x) :: rest =>
          let r := s.arrive die tier x false
          if r.2 = .full then s
          else
            let s := r.1.updPart die tier fun p => { p with posts := rest }
            State.acceptPosts n ((s.updCtx t fun c => (c.wake (s.cycleOf t)).next 4).pairSync t [] [] []) die tier

/-! Acquire and release actions on the cluster cache (08 R191). -/

/-- Scope of the cache actions: tier or wider. -/
def wide (sc : Nat) : Bool := decide (2 ≤ sc)

/-- A release at a scope: dirty lines are written back at tier or wider. -/
def State.release (s : State) (t : ThreadId) (sc : Nat) : State :=
  if wide sc then s.writeBackAll (clusterOf t.core) else s

/-- After an acquire at a scope: clean data is dropped at tier or wider. -/
def State.acquire (s : State) (t : ThreadId) (sc : Nat) : State :=
  if wide sc then s.dropClean (clusterOf t.core) else s

/-! Loads and stores at a location. -/

/-- Report a reconstruction fault or a discarded write at a word to a launch (08 R178, R180). -/
def State.parityReport (s : State) (serial : Word) (w : Nat) (a : Word) : State :=
  s.report serial { cls := 3, detail := 0, engine := 9, ctx := 0x1F, unit := bankPlace w, addr := a }

/-- Words of a banked access. -/
def wordsOf (k n : Nat) : List Nat := (List.range ((k + n + 7) / 8 - k / 8)).map (k / 8 + ·)

/-- A load of `n` bytes by a thread: state, bytes, marks of the words. `acq`: the scope of an acquire. -/
def State.loadLoc (s : State) (t : ThreadId) (loc : Loc) (a : Word) (n : Nat) (acq : Option Nat) :
    State × List Byte × List Bool :=
  match loc with
  | .bank k =>
      let r := s.bankReads (wordsOf k n)
      let s := r.2.foldl (fun s w =>
        (s.parityReport (s.ctx t).serial w (a - w64 (k % 8) + w64 (8 * (w - k / 8)))).updCtx t fun c => c.cirSet 2) r.1
      (s, s.rd k n, s.marksOf k n)
  | .hbm pa =>
      if wide (acq.getD 0) then
        let r := s.ctrlRead (clusterOf t.core) pa n
        (s, r.1, r.2)
      else s.cacheRead (clusterOf t.core) pa n
  | .hostMem k => (s, s.rd k n, s.marksOf k n)
  | _ => (s, List.replicate n 0, [])

/-- Write the registers of a completed load: one register, or an octet. `base`: the address register was marked. -/
def Ctx.loadRegs (c : Ctx) (rt n : Nat) (b : List Byte) (marks : List Bool) (base : Bool) (a : Word) : Ctx :=
  if n = 64 then
    (List.range 8).foldl (fun c i =>
      (c.setX (rt + i) (w64 (leAt b (8 * i) 8)) (marks.getD i false || base)).consumeAt (marks.getD i false) (a + w64 (8 * i))) c
  else (c.setX rt (w64 (leNat b)) (marks.getD 0 false || base)).consumeAt (marks.getD 0 false) a

/-- Scope named by a held form's ord and sc: some when ord is not plain. -/
def scopeOf (o : BitVec 2) (sc : BitVec 3) : Option Nat := if o = 0 then none else some sc.toNat

/-- A load or a full/empty form that may be held: first register, bytes, scope of its ordering, base register, address and length. -/
structure Form where
  rt : Nat
  n : Nat
  sc : Option Nat
  base : Bool
  addr : Word
  len : Nat

/-- The fields of an atomic: its function, which of them compares unsigned, xd, xa, xb, its width, and its ordering. -/
structure Amo where
  fn : Nat
  u : Bool
  d : Nat
  a : Nat
  b : Nat
  n : Nat
  o : BitVec 2
  sc : BitVec 3

/-- The atomics (07 R149). -/
def Instr.amoOf (i : Instr) : Option Amo :=
  let mk (fn : Nat) (u : Bool) (d a b : BitVec 5) (w : BitVec 1) (o : BitVec 2) (sc : BitVec 3) : Option Amo :=
    some ⟨fn, u, d.toNat, a.toNat, b.toNat, if w = 0 then 4 else 8, o, sc⟩
  match i with
  | .amoadd d a b w o sc => mk 0 false d a b w o sc
  | .amomin d a b u w o sc => mk 1 (u == 1) d a b w o sc
  | .amomax d a b u w o sc => mk 2 (u == 1) d a b w o sc
  | .amoand d a b w o sc => mk 3 false d a b w o sc
  | .amoor d a b w o sc => mk 4 false d a b w o sc
  | .amoxor d a b w o sc => mk 5 false d a b w o sc
  | .amoswp d a b w o sc => mk 6 false d a b w o sc
  | .amocas d a b w o sc => mk 7 false d a b w o sc
  | _ => none

/-- Is a source of an atomic marked: the address, rb, or e0 of a compare and swap? -/
def Ctx.amoMark (c : Ctx) (fn rb : Nat) (base : Bool) : Bool := base || c.xp rb || (fn == 7 && c.ep 0)

/-- The form of an instruction with the registers of a context; of an atomic, the mark is that of its sources. -/
def Instr.form (i : Instr) (c : Ctx) : Form :=
  let off (b : BitVec 5) (f : BitVec 8) (n : Nat) : Word := c.x b.toNat + sx f * w64 n
  match Instr.amoOf i with
  | some m => ⟨m.d, m.n, if m.o = 1 then some m.sc.toNat else none, c.amoMark m.fn m.b (c.xp m.a), c.x m.a, 4⟩
  | none =>
  match i with
  | .ldfKeep t b o sc f => ⟨t.toNat, 8, scopeOf o sc, c.xp b.toNat, off b f 8, 4⟩
  | .ldfTake t b o sc f => ⟨t.toNat, 8, scopeOf o sc, c.xp b.toNat, off b f 8, 4⟩
  | .stf t b o sc f => ⟨t.toNat, 8, scopeOf o sc, c.xp b.toNat, off b f 8, 4⟩
  | .ld t b w o sc f => ⟨t.toNat, 2 ^ w.toNat, scopeOf o sc, c.xp b.toNat, off b f (2 ^ w.toNat), 4⟩
  | .ldq q b o sc f => ⟨8 * q.toNat, 64, scopeOf o sc, c.xp b.toNat, off b f 64, 4⟩
  | .cLd t b f => ⟨t.toNat, 8, none, c.xp (8 + b.toNat), c.x (8 + b.toNat) + sx f * 8, 2⟩
  | _ => ⟨0, 8, none, false, 0, 4⟩

/-- Complete a held load with what its bank or its reply gives (04 R64, R87): registers, marks, the acquire, and on. -/
def State.finishLoad (s : State) (t : ThreadId) (i : Instr) (b : List Byte) (marks : List Bool) : State :=
  let x := Instr.form i (s.ctx t)
  let s := s.updCtx t fun c => ((((c.consume x.base).loadRegs x.rt x.n b marks x.base x.addr).wake (s.cycleOf t)).next x.len)
  let s := match x.sc with | some sc => s.acquire t sc | none => s
  s.pairSync t ((List.range (if x.n = 64 then 8 else 1)).map (x.rt + ·)) [] []

/-- Complete a held STF that its bank has performed: CIR of a marked datum or address, and on. -/
def State.finishStf (s : State) (t : ThreadId) (i : Instr) : State :=
  let x := Instr.form i (s.ctx t)
  (s.updCtx t fun c => ((if c.xp x.rt || x.base then c.cirSet 5 else c).wake (s.cycleOf t)).next 4).pairSync t [] [] []

/-- Is a thread being evicted with its request still at the bank (07 R146)? -/
def State.leaving (s : State) (t : ThreadId) : Bool := (s.ctx t).st == .evicting

/-- The bank serves a request that is being withdrawn: the result goes to the spill frame, and the record is posted (07 R146). -/
def State.spillOut (s : State) (t : ThreadId) (o : Outcome1) : State :=
  { s with spills := s.spills.map fun (x : Spill) => if x.thread = t ∧ !x.written then { x with out := o, woken := true } else x }

/-- Write a whole banked word, ignoring its full/empty state. -/
def State.putWord (s : State) (w : Nat) (v : Word) (mark : Bool) (serial : Word) (a : Word) : State :=
  match s.bankWrite (8 * w) (leBytes 8 v.toNat) mark with
  | some s' => s'
  | none => s.parityReport serial w a

/-- The place of a core's lens port among the requests parked at a bank (14 R318). -/
def lensSeat (c : CoreId) : ThreadId := c.thread 16

/-- The bank gives a waiting SYNC read of a lens port the word, as an LDF.keep (14 R318). -/
def State.serveLens (s : State) (w : Nat) (c : CoreId) : State :=
  let r := s.bankRead w
  let v := (r.1.rd (8 * w) 8, r.1.pz w, r.2)
  r.1.updCore c fun k => { k with lens := { k.lens with
    ops := k.lens.ops.map fun o => if o.waiting then { o with waiting := false, arrived := some v } else o } }

/-- Does a parked request want a word in this state (07 R144, R147)? -/
def State.wants (s : State) (f : FeWord) (t : ThreadId) : Bool :=
  if t.ctx = 16 then f.lost || f.full
  else match (s.ctx t).held with
  | some h => (match h.cause with | .fe _ write _ => f.lost || write != f.full | _ => false)
  | none => false

/-- The bank performs a parked STF of a thread. Answers whether the word has become FULL: a write that its bank discards leaves it as it is
(08 R178). -/
def State.serveStf (s : State) (w : Nat) (t : ThreadId) (i : Instr) : State × Bool :=
  let c := s.ctx t
  let x := Instr.form i c
  let takes := s.bankTakes w
  let s := match x.sc with | some sc => s.release t sc | none => s
  let s := s.putWord w (c.x x.rt) (c.xp x.rt || x.base) c.serial x.addr
  let s := if takes then s.setFe w { s.feAt w with full := true, lost := false } else s
  (if s.leaving t then s.spillOut t .stored else s.finishStf t i, takes)

/-- The bank performs a parked LDF of a thread. Answers whether the word has become EMPTY: an LDF.take empties it, unless the read loses it
(07 R147). -/
def State.serveLdf (s : State) (w : Nat) (t : ThreadId) (i : Instr) (take : Bool) : State × Bool :=
  let c := s.ctx t
  let r := s.bankRead w
  let s := if r.2 then (r.1.parityReport c.serial w (Instr.form i c).addr).engCir t c.run 2 else r.1
  let d := s.rd (8 * w) 8
  let m := [s.pz w]
  let s := if s.leaving t then s.spillOut t (.value d m) else s.finishLoad t i d m
  if take && !(s.feAt w).lost then ((s.rowWritten w).setFe w { s.feAt w with full := false }, true) else (s, false)

/-- Serve the requests parked at a word, oldest first, that its state satisfies (07 R145). Answers the state and whether
some change made the word full, or empty. -/
def State.serve : Nat → State → Nat → State × Bool × Bool
  | 0, s, _ => (s, false, false)
  | n + 1, s, w =>
      let f := s.feAt w
      match f.parked.find? (s.wants f) with
      | none => (s, false, false)
      | some t =>
          let s := s.setFe w { f with parked := f.parked.erase t }
          match (if t.ctx = 16 then none else (s.ctx t).held) with
          | none => State.serve n (s.serveLens w t.core) w
          | some h =>
              match h.cause with
              | .fe _ true _ =>
                  let q := s.serveStf w t h.instr
                  let r := State.serve n q.1 w
                  (r.1, q.2 || r.2.1, r.2.2)
              | .fe _ false take =>
                  let q := s.serveLdf w t h.instr take
                  let r := State.serve n q.1 w
                  (r.1, r.2.1, q.2 || r.2.2)
              | _ => (s, false, false)

/-- After a change of a word's state: serve parked requests, then post the recorded continuations of each kind that a
change from empty to full, or from full to empty, calls for (07 R144, R145). -/
def State.settleWord (s : State) (w : Nat) (madeFull madeEmpty : Bool) : State :=
  let r := State.serve ((s.feAt w).parked.length) s w
  let f := r.1.feAt w
  let rd := if madeFull || r.2.1 then f.readers else []
  let wrs := if madeEmpty || r.2.2 then f.writers else []
  let s := if rd.isEmpty ∧ wrs.isEmpty then r.1 else
    r.1.setFe w { f with readers := if madeFull || r.2.1 then [] else f.readers,
                         writers := if madeEmpty || r.2.2 then [] else f.writers }
  (rd ++ wrs).foldl (fun s k => s.postCont w k) s

/-- Set a word FULL, as a full/empty write or an engine write does. A constant-window word is always full. -/
def State.setFull (s : State) (w : Nat) : State :=
  if !isBanked w || isWindowWord w then s
  else
    let f := s.feAt w
    if f.full ∧ !f.lost then s else (s.setFe w { f with full := true, lost := false }).settleWord w true false

/-- Set a word EMPTY. Its bit is part of the stored word (08 R177). -/
def State.setEmpty (s : State) (w : Nat) : State :=
  let f := s.feAt w
  let s := s.rowWritten w
  if !f.full ∧ !f.lost then s else (s.setFe w { f with full := false, lost := false }).settleWord w false true

/-- A change of GEN releases the waiters: parked BAR.WAITs complete, recorded ones are posted (07 R163, R164). -/
def State.releaseBarrier (s : State) (w : Nat) : State :=
  let f := s.feAt w
  if f.bars.isEmpty ∧ f.barPark.isEmpty then s
  else
    let s := (f.barPark.filter s.leaving).foldl (fun s t => s.spillOut t .again)
      { s.setFe w { f with bars := [], barPark := [] } with resume := s.resume ++ f.barPark.filter fun t => !s.leaving t }
    f.bars.foldl (fun s k => s.postCont w k) s

/-- A store of bytes inside one banked word by a thread or engine, not touching the full/empty state, except that a
whole-word write to a POISONED word makes it FULL (07 R147). A change of a barrier's GEN releases its waiters (R163). -/
def State.bankStore (s : State) (serial : Word) (k : Nat) (b : List Byte) (mark : Bool) (a : Word) : State :=
  match s.bankWrite k b mark with
  | none => s.parityReport serial (k / 8) a
  | some s' =>
      let w := k / 8
      let s' := if b.length = 8 ∧ (s'.feAt w).lost then s'.setFull w else s'
      if s.rd (8 * w + 4) 2 = s'.rd (8 * w + 4) 2 then s' else s'.releaseBarrier w

/-- A store by a thread. `rel`: the scope of a release; its cache actions come first (08 R191). -/
def State.storeLoc (s : State) (t : ThreadId) (loc : Loc) (a : Word) (b : List Byte) (marks : List Bool)
    (rel : Option Nat) : State :=
  let s := match rel with | some sc => s.release t sc | none => s
  match loc with
  | .bank k =>
      ((wordParts k b b.length).zipIdx).foldl (fun s p =>
        s.bankStore (s.ctx t).serial p.1.1 p.1.2 (marks.getD p.2 false) (a + w64 (p.1.1 - k))) s
  | .hbm pa =>
      if wide (rel.getD 0) then s.ctrlWrite (clusterOf t.core) pa b marks
      else s.cacheWrite (clusterOf t.core) pa b marks (s.ctx t).serial a
  | .hostMem k =>
      ((wordParts k b b.length).zipIdx).foldl (fun s p =>
        let s := s.wr p.1.1 p.1.2
        if marks.getD p.2 false then s.setPz (p.1.1 / 8) true
        else if p.1.2.length = 8 then s.setPz (p.1.1 / 8) false else s) s
  | _ => s

/-! Accesses in flight (07 R137 to R139). -/

/-- Relaxed accesses in flight, VMOVX destinations among them (R138; 11 R249). -/
def Ctx.relaxed (c : Ctx) : Nat := (c.pend.filter fun p => p.relaxed).length

/-- The location of a physical key. -/
def keyLoc (k : Nat) : Loc := if k < 2 ^ 60 then .hbm k else if k < 2 ^ 62 then .bank k else .hostMem k

/-- Where an access in flight leads: as translated at issue, or as its page is now. -/
def State.pendLoc (s : State) (t : ThreadId) (p : Pend) : Loc :=
  match p.key with
  | some k => keyLoc k
  | none => (s.locate (s.launchOf t) t.core p.va p.len (if p.load then .load else .store)).noPeer

/-- Perform one access in flight at its location. -/
def State.performAt (s : State) (t : ThreadId) (p : Pend) (loc : Loc) : State :=
  if p.load then
    let r := s.loadLoc t loc p.va p.len none
    (r.1.updCtx t fun c => c.loadRegs p.dest p.len r.2.1 r.2.2 (p.marks.getD 0 false) p.va).pairSync t
      ((List.range (if p.len = 64 then 8 else 1)).map (p.dest + ·)) [] []
  else s.storeLoc t loc p.va p.data p.marks p.rel

/-- Perform one access in flight. `none`: it waits for its page (the page is not resident, or is resident without the
permission, for which R139 names no trap). -/
def State.perform (s : State) (t : ThreadId) (p : Pend) : Option State :=
  if p.len = 0 then none
  else
    match s.pendLoc t p with
    | .hole pa => some { s with hole := some pa }
    | .hbm k => some (s.performAt t p (.hbm k))
    | .bank k => some (s.performAt t p (.bank k))
    | .hostMem k => some (s.performAt t p (.hostMem k))
    | _ => none

/-- May an access in flight touch bytes that an access of `n` bytes at `a` touches, whose physical key is `key`? An access whose page was not
resident at its issue has no physical address yet: it meets another at the same virtual addresses (DEDUCED, log 24). -/
def Pend.meets (p : Pend) (key : Option Nat) (a : Word) (n : Nat) : Bool :=
  p.len != 0 && match p.key, key with
    | some x, some y => decide (x < y + n ∧ y < x + p.len)
    | _, _ => decide (p.va.toNat < a.toNat + n ∧ a.toNat < p.va.toNat + p.len)

/-- Is an access performed before a later one of its thread: they touch the same bytes, or the later one is a release (07 R136, R137)? -/
def Pend.before (p q : Pend) : Bool := p.len != 0 && (q.rel.isSome || p.meets q.key q.va q.len)

/-- The accesses in flight, oldest first, that go with those `q` picks: each one that is performed before one of them, too. -/
def picked (q : Pend → Bool) : List Pend → List (Pend × Bool)
  | [] => []
  | p :: t =>
      let r := picked q t
      (p, q p || r.any fun x => x.2 && p.before x.1) :: r

/-- Perform the accesses marked, in order, but for those that cannot be performed or come after one that is left; `left` holds the
ones before. -/
def State.performMarked (s : State) (t : ThreadId) (left : List Pend) : List (Pend × Bool) → State × List Pend
  | [] => (s, left)
  | (p, m) :: rest =>
      match (if m && !(left.any fun e => e.before p) then s.perform t p else none) with
      | some s' => s'.performMarked t left rest
      | none => s.performMarked t (left ++ [p]) rest

/-- Perform the accesses in flight of a context that `q` picks, each behind those it comes after; VMOVX destinations (length 0) and
accesses that wait for a page remain. -/
def State.drainIf (s : State) (t : ThreadId) (q : Pend → Bool) : State :=
  if (s.ctx t).pend.isEmpty then s
  else
    let r := s.performMarked t [] (picked q (s.ctx t).pend)
    (r.1.updCtx t fun c => { c with pend := r.2 }).migsOver

/-- Perform every access in flight of a context. -/
def State.drain (s : State) (t : ThreadId) : State := s.drainIf t fun _ => true

/-- The first access in flight that one which `q` picks waits for: it waits for its page. -/
def Ctx.waitsFor (c : Ctx) (q : Pend → Bool) : Option Pend := ((picked q c.pend).find? fun x => x.2 && x.1.len != 0).map (·.1)

/-- Is every access of a list of numbers performed? It is in flight in no context and in no evicted record. -/
def State.performed (s : State) (after : List Nat) : Bool :=
  let none_ (c : Ctx) : Bool := c.pend.all fun p => !after.contains p.ord
  after.isEmpty || ((s.cores.all fun k => k.2.ctxs.all fun c => none_ c.2) && s.spills.all fun x => none_ x.ctx)

/-- The numbers of a thread's accesses in flight: an engine operation issued now reads nothing before they are performed. -/
def Ctx.inFlight (c : Ctx) : List Nat := (c.pend.filter fun p => p.len != 0).map (·.ord)

/-- The first access in flight that waits for a page. -/
def Ctx.faulting (c : Ctx) : Option Pend := c.pend.find? fun p => p.len != 0

/-! Parking (04 R62). -/

/-- Causes at which eviction under R65 applies. -/
def Cause.blocking (c : Cause) : Bool :=
  match c with
  | .recv _ => true | .recvt _ => true | .send _ => true | .fe .. => true | .bar _ => true | .postFull .. => true
  | .xlate _ => true | .reply b => b | _ => false

/-- What an instruction takes from its core at issue: RKEY, and LMODE, LFINE and LCOARSE (14 R308; 18 R373). -/
def Core.snap (k : Core) : List Word :=
  [k.rkey.truncate 64, (k.rkey >>> 64).truncate 64, k.lens.lmode, k.lens.lfine, k.lens.lcoarse]

/-- What the executing instruction took at its issue, now or when it was held. -/
def State.snap (s : State) : List Word :=
  match s.me.held with | some h => h.snap | none => (s.core s.cur.core).snap

/-- The instruction parks its thread: it is held, with the prefixes it was issued with. Held again for the same cause, it
keeps its count (04 R65). -/
def State.park (s : State) (i : Instr) (cause : Cause) : State :=
  let n := s.cycleOf s.cur
  let snap := s.snap
  let s := s.updMe fun c =>
    let fresh : Held := { instr := i, cause := cause, since := n, retryAt := n, snap := snap, pfx := c.pfx, rlx := c.rlx, left := none,
                          fetch := false }
    let new : Held := match c.held with
      | some h => if h.cause = cause then { fresh with since := h.since, retryAt := h.retryAt, left := h.left } else fresh
      | none => fresh
    { c.setWait .parked with held := some new }
  s.pairSync s.cur [] [] []

/-- A translation fault of a thread's access: a fault record, and the thread parks until replay. -/
def State.parkX (s : State) (i : Instr) (a : Word) (k : Acc1) : State :=
  let t := s.cur
  (s.postFault (faultUnit t.core) s.me.serial t.ctx k.code (s.cycleOf t) a).park i (.xlate a)

/-- The executing thread's SAMP or SPEC instruction takes its place in the unit's order, that of issue (18 R394). -/
def State.sampJoin (s : State) : State :=
  s.updCore s.cur.core fun k => { k with sampWait := if k.sampWait.contains s.cur.ctx then k.sampWait else k.sampWait ++ [s.cur.ctx] }

/-- A thread's SAMP or SPEC instruction leaves the unit; the next one in order is presented again (18 R394). -/
def State.sampLeave (s : State) (t : ThreadId) : State :=
  if !(s.core t.core).sampWait.contains t.ctx then s
  else
    let s := s.updCore t.core fun k => { k with sampWait := k.sampWait.erase t.ctx, sampGot := [] }
    match (s.core t.core).sampWait with
    | [] => s
    | n :: _ =>
        let u := t.core.thread n
        let own : Bool := match (s.ctx u).held with | some h => h.cause == .own | none => false
        if own && (s.ctx u).parked && !s.resume.contains u then { s with resume := s.resume ++ [u] } else s

/-- Take a thread's parked request off every list that holds it. -/
def State.withdraw (s : State) (t : ThreadId) : State :=
  let s := match (s.ctx t).held with
    | some h =>
        (match h.cause with
        | .fe w _ _ => s.setFe w { s.feAt w with parked := (s.feAt w).parked.erase t }
        | .bar w => s.setFe w { s.feAt w with barPark := (s.feAt w).barPark.erase t }
        | .postFull d p => s.updPart d p fun x => { x with posts := x.posts.filter fun y => y.1 != t }
        | _ => s)
    | none => s
  let s := s.updCore t.core fun k =>
    { k with vuWait := k.vuWait.erase t.ctx, mxWait := k.mxWait.erase t.ctx, tagWait := k.tagWait.erase t.ctx }
  let s := (s.sampLeave t).updDie t.die fun d => { d with haloWait := d.haloWait.erase t }
  { s with resume := s.resume.filter (· != t) }

/-! Gang stop and the fatal partition error (10 R208, R209). -/

/-- A context becomes FREE. -/
def Ctx.toFree (c : Ctx) : Ctx :=
  { c with st := .free, prev := .free, held := none, pend := [], susp := none, stepping := false, ahead := none, pfx := 0, rlx := false }

/-- Contexts of a launch on a core. -/
def State.ctxsOf (s : State) (c : CoreId) (serial : Word) : List ThreadId :=
  ((List.range 16).filter fun i =>
    let x := (s.core c).ctx i
    x.serial == serial && x.st != .free && x.st != .killed).map fun i => c.thread i

/-- One core carries out a gang stop of a launch: issue ends, counters are written, accesses in flight are performed. An
EVICTING context finishes its write-back first and is not stopped. -/
def State.gangStop (s : State) (c : CoreId) (serial : Word) : State :=
  let s := (s.ctxsOf c serial).foldl (fun s t =>
    (s.drain t).updCtx t fun x =>
      if x.st = .ready ∨ x.st = .parked then
        { x with prev := x.st, st := .stopped, stepping := false, susp := none, ahead := none, stopAt := s.cycleOf t } else x) s
  s.updCore c fun k =>
    { k with stopped := if k.stopped.contains serial then k.stopped else serial :: k.stopped,
             stopCyc := if k.stopped.contains serial then k.stopCyc else mset k.stopCyc serial.toNat (s.cyc c),
             gscycle := w64 (s.cyc c), gssent := w64 (mget 0 k.msgSent serial.toNat),
             gsrecv := w64 (mget 0 k.msgRecv serial.toNat) }

/-- A context leaves STOPPED: the state before the stop, or READY when its wake event has come; its counts go on (10 R208,
04 R58). -/
def Ctx.resumeAt (c : Ctx) (now : Nat) : Ctx :=
  if c.st = .stopped then
    { c with st := c.prev, held := c.held.map fun h => { h with since := h.since + (now - c.stopAt), retryAt := h.retryAt + (now - c.stopAt) } }
  else c

/-- A gang stop is asked of cores of a launch. -/
def State.askStop (s : State) (serial : Word) (cores : List CoreId) : State :=
  s.updLaunch serial fun l =>
    { l with stopReq := (cores.filter fun c => l.on c).foldl (fun q c =>
        if q.contains (coreKey c) then q else coreKey c :: q) l.stopReq }

/-- Cores of a launch. -/
def Launch.cores (l : Launch) : List CoreId := l.lsbase.map fun p => coreOf p.1

/-- The refusal of an RSTORE that no FFDONE has met is reported as its context becomes FREE (10 R217); of a pair, its leader's. -/
def State.reportRefused (s : State) (c : Ctx) (t : ThreadId) : State :=
  if c.refused = 0 ∨ (8 ≤ t.ctx ∧ (s.launch c.serial).isPair) then s
  else s.report c.serial { cls := 12, detail := c.refused, engine := 3, ctx := t.ctx, unit := place t.core, addr := 0 }

/-- Key under which the part keeps a core of a saved launch. -/
def savedKey (serial : Word) (c : CoreId) : Nat := serial.toNat * 8192 + coreKey c

/-- Free every context and pending record of a launch (10 R209 step 3), those of its saved cores among them; the POSTs that wait for the
entries are accepted (16 R353). -/
def State.freeLaunch (s : State) (serial : Word) : State :=
  let l := s.launch serial
  let s := l.cores.foldl (fun s c =>
    let kept := (mfind s.savedCores (savedKey serial c)).getD Core.reset
    let s := kept.ctxs.foldl (fun s x => if x.2.serial = serial ∧ x.2.st ≠ .free then s.reportRefused x.2 (c.thread x.1) else s) s
    (s.ctxsOf c serial).foldl (fun s t => ((s.reportRefused (s.ctx t) t).withdraw t).updCtx t Ctx.toFree)
      { s with savedCores := merase s.savedCores (savedKey serial c) }) s
  let s := (s.spills.filter fun x => x.serial == serial).foldl (fun s x => s.reportRefused x.ctx x.thread) s
  let keep (k : Cont) : Bool := k.serial != serial
  let s := { s with
    dies := s.dies.map fun d => (d.1, { d.2 with parts := d.2.parts.map fun p => (p.1, { p.2 with
      entries := p.2.entries.filter fun e => e.serial != serial
      transit := p.2.transit.filter fun e => e.serial != serial
      posts := p.2.posts.filter fun e => e.2.serial != serial }) })
    fe := s.fe.map fun f => (f.1, { f.2 with
      readers := f.2.readers.filter keep, writers := f.2.writers.filter keep, bars := f.2.bars.filter keep })
    spills := s.spills.filter fun x => x.serial != serial }
  (List.range 8).foldl (fun s d => (List.range 4).foldl (fun s n => s.acceptPosts (s.part d n).posts.length d n) s) s

/-- A waiting SYNC read of a core's lens port is withdrawn from its bank (14 R324). -/
def State.unseat (s : State) (c : CoreId) : State :=
  let s := { s with fe := s.fe.map fun (f : Nat × FeWord) => (f.1, { f.2 with parked := f.2.parked.erase (lensSeat c) }) }
  s.updCore c fun k => { k with lens := { k.lens with ops := k.lens.ops.map fun (o : LensOp) => { o with waiting := false } } }

/-- Cancel the operation of a core's lens port that waits on a SYNC read. -/
def State.cancelSync (s : State) (c : CoreId) : State :=
  (s.updCore c fun k => { k with lens := { k.lens with
    ops := k.lens.ops.map fun o => if o.waiting then { o with cancel := true } else o } }).unseat c

/-- Engine operations of a launch end: waiting SYNC reads and Halo schedules are cancelled (14 R326, 20 R419). -/
def State.cancelEngines (s : State) (serial : Word) : State :=
  let s := (s.cores.filter fun k => k.2.lens.ops.any fun o => o.serial == serial && o.waiting).foldl
    (fun s k => s.cancelSync (coreOf k.1)) s
  { s with
    dies := s.dies.map fun d => (d.1, { d.2 with htags := d.2.htags.map fun h => (h.1, { h.2 with
      sched := h.2.sched.map fun c => if c.serial = serial then { c with cancel := true, stopped := true, evw := false } else c }) }) }

/-- A compatibility queue that waits for a launch parses on (16 R346). -/
def State.settled (s : State) (serial : Word) : State :=
  { s with host := { s.host with sqs := s.host.sqs.map fun q =>
      (q.1, if q.2.waits = some serial then { q.2 with waits := none } else q.2) } }

/-- A partition command on a launch has its effect: BUSY clears with result 0 (22 R446). -/
def State.cmdDone (s : State) (serial : Word) : State :=
  if s.host.partbusy = some serial then { s with host := { s.host with partbusy := none, partres := 0 } } else s

/-- A launch is never admitted: its final entry waits for its completion queue, and its pool entries are freed as that entry is
written (16 R341; 22 R444). -/
def State.reject (s : State) (l : Launch) (r : Report) : State :=
  let s := s.pushCq { cq := l.cqn, rep := r, serial := l.serial, cookie := l.cookie, errcnt := 1, interim := false,
                      degr := false, rerun := false }
  (s.updLaunch l.serial fun l => { l with st := .rejected }).settled l.serial

/-- Fatal partition error of a launch: gang stop, nothing saved, contexts and records freed, children not yet admitted
discarded; the launch then completes with the fatal report (LAUNCH_COMPLETION). -/
def State.fatal (s : State) (serial : Word) (r : Report) : State :=
  let l := s.launch serial
  let s := l.cores.foldl (fun s c => s.gangStop c serial) s
  let s := ((s.freeLaunch serial).cancelEngines serial).cmdDone serial
  let s := (s.launches.filter fun x => x.parent == some serial && x.st == .waiting).foldl (fun s x =>
    s.reject x { cls := 9, detail := 0x21, engine := 12, ctx := 0x1F, unit := unitDie x.die, addr := 0 }) s
  s.updLaunch serial fun l =>
    { l with st := .ending, fatal := l.fatal.or (some r), errcnt := l.errcnt + 1, live := 0 }

/-! Taking a trap, and returning from one (10 R204, R205). -/

/-- TCAUSE of a cause (10 R203). -/
def tcauseOf (cls detail src code : Nat) : Word := w64 (code * 2 ^ 22 + src * 2 ^ 20 + detail * 256 + cls)

/-- A trap at a thread with its cause, address and trap PC: into the launch's handler, or a fatal partition error whose
report is `r`. -/
def State.trapTo (s : State) (t : ThreadId) (cause : Word) (addr tpc : Word) (r : Report) : State :=
  let v := (s.launchOf t).tvec t.tier
  if !(s.ctx t).tmode && v != 0 then
    let s := s.withdraw t
    let s := s.updCtx t fun c =>
      { (c.wake (s.cycleOf t)).goto v with tpc := tpc, tcause := cause, taddr := addr, tmode := true }
    s.pairSync t [] [] []
  else s.fatal (s.ctx t).serial r

/-- A hardware trap of a class and detail, precise at the thread's instruction. -/
def State.trapAt (s : State) (t : ThreadId) (cls det : Nat) (addr : Word) : State :=
  s.trapTo t (tcauseOf cls det 0 0) addr (s.ctx t).pc (engReport 0 t cls det addr)

/-- The executing thread traps. -/
def State.trap (s : State) (cls det : Nat) (addr : Word) : State := s.trapAt s.cur cls det addr

/-- TRET's effect: leave the handler. -/
def State.trapReturn (s : State) : State := s.updMe fun c => { (c.goto c.tpc) with tmode := false }

/-! The checks of an address (07 R134). -/

/-- ALIGN, then PERM and translation (DEDUCED, log 30). -/
def State.checkAcc (s : State) (t : ThreadId) (a : Word) (n al : Nat) (k : Acc1) : Loc :=
  if a.toNat % al ≠ 0 then .trap 8 1 else (s.locate (s.launchOf t) t.core a n k).noPeer

/-- Make an access of the executing thread: trap, park on a translation fault, or go on at the location. An access that
reaches the MMIO region in a form it does not take raises PERM 0x07 (R141). -/
def State.access (s : State) (i : Instr) (a : Word) (n al : Nat) (k : Acc1) (f : Loc → Res) : Res :=
  match s.checkAcc s.cur a n al k with
  | .trap c d => .next (s.trap c d a)
  | .xfault => .next (s.parkX i a k)
  | .hole pa => .fault (.noMemory pa)
  | .mmio _ => .next (s.trap 6 7 a)
  | loc => f loc

/-! Waits for the thread's own accesses (07 R136 to R139; 08 R188; DEDUCED, log 23). -/

/-- The trap that an access in flight meets where its page has become resident without the permission or the route that it needs: R139 names
none, and the instruction that waits for it raises it (DESIGN CHOICE, log 97). -/
def State.pendTrap (s : State) (t : ThreadId) (p : Pend) : Option (Nat × Nat) :=
  match s.pendLoc t p with | .trap c d => some (c, d) | _ => none

/-- Go on after the accesses in flight that `q` picks: those that the device can perform are performed now; while one waits for its page the
thread parks as `parks` says. -/
def State.afterIf (s : State) (q : Pend → Bool) (parks : State → Pend → State) (f : State → Res) : Res :=
  let s := s.drainIf s.cur q
  match s.hole, s.me.waitsFor q with
  | some a, _ => .fault (.noMemory a)
  | none, none => f s
  | none, some p =>
      match s.pendTrap s.cur p with
      | some (c, d) => .next ((s.updMe fun x => { x with pend := x.pend.erase p }).trap c d p.va)
      | none => .next (parks s p)

/-- Wait until the thread's accesses in flight are performed: one whose page is not resident parks the thread under its translation fault
(07 R139). -/
def State.settle (s : State) (i : Instr) (f : State → Res) : Res :=
  s.afterIf (fun _ => true) (fun s p => s.parkX i p.va (if p.load then .load else .store)) f

/-- Wait until they are performed, parked for a cause of the instruction's own. -/
def State.afterOwn (s : State) (i : Instr) (cause : Cause) (f : State → Res) : Res :=
  s.afterIf (fun _ => true) (fun s _ => s.park i cause) f

/-- An access of `n` bytes at `a`, with physical key `key`, comes after the thread's earlier accesses to the same bytes (R137): it waits for
its reply meanwhile. -/
def State.ordered (s : State) (i : Instr) (key : Option Nat) (a : Word) (n : Nat) (blocking : Bool) (f : State → Res) : Res :=
  s.afterIf (fun p => p.meets key a n) (fun s _ => s.park i (.reply blocking)) f

/-- The reply of an access comes later, where the schedule lets it (07 R137): the thread parks until then (04 R62). -/
def State.replied (s : State) (i : Instr) (blocking : Bool) (f : State → Res) : Res :=
  if s.me.slow && !(s.me.held.any fun h => h.cause == .reply blocking) then .next (s.park i (.reply blocking)) else f s

end Sys2Proof.Machine
end

