-- ==== Sys2Proof/Machine/Operands.lean ====
section
/-! DEFINITION. The operand forms: results into x and p registers with their poison marks, memory operands, octets, branch
targets, and window words (05 R92, R101 to R103; 06 R112, R113). -/

namespace Sys2Proof.Machine

/-- Write an x register from sources whose marks are joined in `m`, and go on after `n` bytes (06 R112, R113). -/
def State.toX (s : State) (d : Nat) (v : Word) (m : Bool) (n : Nat) : Res :=
  .next (s.updMe fun c => ((c.consume m).setX d v m).next n)

/-- The same for a predicate. -/
def State.toP (s : State) (d : Nat) (v m : Bool) (n : Nat) : Res :=
  .next (s.updMe fun c => ((c.consume m).setP d v m).next n)

/-- One source register. -/
def State.alu1 (s : State) (d a : Nat) (f : Word → Word) (n : Nat) : Res :=
  s.toX d (f (s.me.x a)) (s.me.xp a) n

/-- Two source registers. -/
def State.alu2 (s : State) (d a b : Nat) (f : Word → Word → Word) (n : Nat) : Res :=
  s.toX d (f (s.me.x a) (s.me.x b)) (s.me.xp a || s.me.xp b) n

/-- Byte offset of a branch field: a signed count of halfwords (05 R92). -/
def offset2 (o : BitVec n) : Word := 2 * sx o

/-- Target of a branch whose first halfword is at `A` (05 R103). -/
def Ctx.target (c : Ctx) (o : BitVec n) : Word := c.at_ + offset2 o

/-- Access width in bytes of the code wd (02 R21). -/
def widthOf (w : BitVec 2) : Nat := 2 ^ w.toNat

/-- Address of the M format: base plus the signed offset times the scale (07 R135). -/
def Ctx.addr (c : Ctx) (b : BitVec 5) (f : BitVec 8) (scale : Nat) : Word := c.x b.toNat + sx f * w64 scale

/-- First register of an octet (05 R92). -/
def octet (q : BitVec 2) : Nat := q.toNat * 8

/-- The bytes of an octet, low register first. -/
def Ctx.octetBytes (c : Ctx) (o n : Nat) : List Byte := (List.range n).flatMap fun i => leBytes 8 (c.x (o + i)).toNat

/-- Poison marks of an octet's registers. -/
def Ctx.octetMarks (c : Ctx) (o n : Nat) : List Bool := (List.range n).map fun i => c.xp (o + i)

/-- The constant-window indices that belong to one launch (04 R77). -/
def perLaunch (k : Nat) : Bool := (decide (0xF1 ≤ k) && decide (k ≤ 0xF5)) || k == 0xF7

/-- A word of the copy of the constant window beside the pipeline, for a launch (06 R123). -/
def Core.window (k : Core) (serial : Word) (i : Nat) : Word :=
  if perLaunch i then mget 0 (mget [] k.ident serial.toNat) i else mget 0 k.cw i

/-- Privilege failure of a system form: PERM 0x04 (10 R206). -/
def State.needPriv (s : State) (f : Res) : Res :=
  if s.privileged s.cur then f else .next (s.trap 6 4 0)

end Sys2Proof.Machine
end

