-- ==== Sys2Proof/Machine/Engines.lean ====
section
/-! DEFINITION. What the engines share: who reports, engine reads and writes of banked and HBM memory (07 R144; 08 R178,
R193), and waiting for a thread's accesses in flight (07 R139). -/

namespace Sys2Proof.Machine

/-- On whose behalf an engine acts, and the ENGINE, CTX and UNIT of its reports (10 R216). -/
structure By where
  eng : Nat
  ctx : Nat
  unit : Nat
  serial : Word
  thread : ThreadId
  run : Nat
deriving DecidableEq, Repr

/-- An engine of the thread's own core. -/
def byThread (eng : Nat) (t : ThreadId) (serial : Word) (run : Nat) : By :=
  { eng := eng, ctx := t.ctx, unit := place t.core, serial := serial, thread := t, run := run }

/-- A report. -/
def By.rep (b : By) (cls det : Nat) (a : Word) : Report :=
  { cls := cls, detail := det, engine := b.eng, ctx := b.ctx, unit := b.unit, addr := a }

def State.byReport (s : State) (b : By) (cls det : Nat) (a : Word) : State := s.report b.serial (b.rep cls det a)
def State.byCir (s : State) (b : By) (m : BitVec 8) : State := s.engCir b.thread b.run m

/-- The report of a reconstruction fault at a word, or of a write that its bank discards (08 R178, R180): the bank is the reporting unit. The
vector unit, the SAMP unit and the lens engine give their own ENGINE (11 R238; 18 R385; 14 R325), the copy engine and Halo their UNIT as
well (13 R285; 20 R420). -/
def State.byParity (s : State) (b : By) (w : Nat) (a : Word) : State :=
  if b.eng = 2 then s.parityReport b.serial w a
  else s.report b.serial { b.rep 3 0 a with unit := if b.eng = 3 ∨ b.eng = 8 then b.unit else bankPlace w }

/-- What an engine's read gives: state, bytes, marks of the words, and the words at which a reconstruction fault was met. -/
structure Got where
  st : State
  data : List Byte
  marks : List Bool
  bad : List Nat
deriving DecidableEq, Repr

/-- Any poison among the words read. -/
def Got.poison (g : Got) : Bool := g.marks.any id

/-- Virtual address of a word of an access at `a` whose key is `k`. -/
def wordAddr (a : Word) (k w : Nat) : Word := a - w64 (k % 8) + w64 (8 * (w - k / 8))

/-- An engine's read of banked bytes, without the report of a reconstruction fault. -/
def State.engReadRaw (s : State) (k n : Nat) : Got :=
  let r := s.bankReads (wordsOf k n)
  { st := r.1, data := r.1.rd k n, marks := r.1.marksOf k n, bad := r.2 }

/-- The same with its report: PARITY and CIR bit 1 (08 R180). -/
def State.engRead (s : State) (b : By) (k n : Nat) (a : Word) : Got :=
  let g := s.engReadRaw k n
  { g with st := g.bad.foldl (fun s w => (s.byParity b w (wordAddr a k w)).byCir b 2) g.st }

/-- An engine's write of bytes inside one banked word: the word becomes FULL and its waiters are posted (07 R144); a
discarded write reports PARITY (08 R178). A changed GEN releases a barrier's waiters (07 R163) (DEDUCED, log 25). -/
def State.engPut (s : State) (b : By) (k : Nat) (d : List Byte) (mark : Bool) (a : Word) : State :=
  match s.bankWrite k d mark with
  | none => s.byParity b (k / 8) a
  | some s' =>
      let w := k / 8
      let s'' := s'.setFull w
      if s.rd (8 * w + 4) 2 = s''.rd (8 * w + 4) 2 then s'' else s''.releaseBarrier w

/-- An engine's write of banked bytes, word by word. -/
def State.engWrite (s : State) (b : By) (k : Nat) (d : List Byte) (marks : List Bool) (a : Word) : State :=
  ((wordParts k d d.length).zipIdx).foldl (fun s p =>
    s.engPut b p.1.1 p.1.2 (marks.getD p.2 false) (a + w64 (p.1.1 - k))) s

/-- The local-store location of an engine's access in region 0x7F: key, or class and detail of the failure. -/
def State.lsLoc (s : State) (serial : Word) (c : CoreId) (a : Word) (n : Nat) (k : Acc1) : Except (Nat × Nat) Nat :=
  if a.toNat / 2 ^ 56 ≠ 0x7F then .error (6, 1)
  else match s.locate (s.launch serial) c a n k with
    | .bank key => .ok key
    | .trap cls det => .error (cls, det)
    | _ => .error (6, 1)

/-! Current reservations (22 R431). -/

/-- P1 exceeds 99 % of the average cap. -/
def Dev.overAverage (d : Dev) : Bool := decide (99 * d.capavg < 100 * d.p1)

/-- Charge of a unit's grant in the present power state (DESIGN CHOICE, log 18). -/
def Dev.chargeOf (d : Dev) (unit : Nat) : Nat := mget 0 d.charge (min unit 2 * 4 + d.pscur)

/-- P10 and the charge exceed the peak cap. -/
def Dev.overPeak (d : Dev) (unit : Nat) : Bool := decide (d.cappeak < d.p10 + d.chargeOf unit)

/-- Is a grant to a unit deferred now? -/
def Dev.defers (d : Dev) (unit : Nat) : Bool := d.overAverage || d.overPeak unit

/-- RESW of a unit of a core: the VU, the MXU, or the copy of a tag. -/
def Core.setResw (k : Core) (unit : Nat) (b : Bool) : Core :=
  match unit with
  | 0 => { k with vuResw := b }
  | 1 => { k with mxu := { k.mxu with resw := b } }
  | n + 2 => { k with copies := k.copies.map fun o => if o.tag = n then { o with resw := b } else o }

/-- A grant is charged to the estimate. -/
def State.charged (s : State) (unit : Nat) : State := { s with dev := { s.dev with p10 := s.dev.p10 + s.dev.chargeOf unit } }

/-- A unit of a core asks its cluster's arbiter for a reservation for a launch's command: the state after, and whether it holds the grant.
A request that waited uses the grant it was given. A new one waits when it is deferred, which DEFER counts, or when a request of its
cluster with no lower PRIO waits before it (DESIGN CHOICE, log 18). -/
def State.request (s : State) (c : CoreId) (unit : Nat) (serial : Word) : State × Bool :=
  let d := s.dev
  let x := (c, unit, serial)
  if d.grants.contains x then ({ s with dev := { d with grants := d.grants.erase x } }, true)
  else if d.deferred.contains x then (s.updCore c fun k => k.setResw unit true, false)
  else if d.defers unit then
    ({ s with dev := { d with deferred := d.deferred ++ [x], defer := min (d.defer + 1) (2 ^ 28 - 1) } }.updCore c
      fun k => k.setResw unit true, false)
  else if d.deferred.any fun y => clusterOf y.1 == clusterOf c && decide ((s.launch serial).prio ≤ (s.launch y.2.2).prio) then
    ({ s with dev := { d with deferred := d.deferred ++ [x] } }.updCore c fun k => k.setResw unit true, false)
  else (s.charged unit, true)

/-! Engine accesses of virtual addresses, one word or part of a word at a time (01 R9; 08 R178, R193; 13 R284). -/

/-- What an engine's access meets: done, with the bytes, their mark and whether a reconstruction fault was met; a
translation fault; an error; or an address that no memory holds. -/
inductive EngAcc where
  | done (st : State) (data : List Byte) (mark parity : Bool)
  | xlate
  | err (cls det : Nat)
  | hole (pa : Nat)

/-- An engine of a core reads bytes inside one word. HBM is read through the cluster's cache. -/
def State.engLoad (s : State) (b : By) (c : CoreId) (a : Word) (n : Nat) : EngAcc :=
  match (s.locate (s.launch b.serial) c a n .engRead).noPeer with
  | .bank k => let g := s.engReadRaw k n; .done g.st g.data g.poison (!g.bad.isEmpty)
  | .hbm pa => let r := s.cacheRead (clusterOf c) pa n; .done r.1 r.2.1 (r.2.2.any id) false
  | .hostMem k => .done s (s.rd k n) ((s.marksOf k n).any id) false
  | .trap cls det => .err cls det
  | .xfault => .xlate
  | .hole pa => .hole pa
  | _ => .err 6 7

/-- An engine of a core writes bytes inside one word: at the bank, or at the controller (R193). -/
def State.engStore (s : State) (b : By) (c : CoreId) (a : Word) (d : List Byte) (mark : Bool) : EngAcc :=
  match (s.locate (s.launch b.serial) c a d.length .engWrite).noPeer with
  | .bank k => .done (s.engPut b k d mark a) [] false false
  | .hbm pa => .done (s.ctrlWrite (clusterOf c) pa d [mark]) [] false false
  | .hostMem k =>
      let s := s.wr k d
      .done (if mark then s.setPz (k / 8) true else if d.length = 8 then s.setPz (k / 8) false else s) [] false false
  | .trap cls det => .err cls det
  | .xfault => .xlate
  | .hole pa => .hole pa
  | _ => .err 6 7

/-- The words of a range read in order, up to the first that fails. -/
inductive EngAll where
  | done (st : State) (data : List Byte) (marks : List Bool) (parity : List Word)
  | stop (st : State) (why : EngAcc) (at_ : Word)

/-- Read `n` words of eight bytes from `a`. -/
def State.engLoadAll (s : State) (b : By) (c : CoreId) (a : Word) : Nat → EngAll
  | 0 => .done s [] [] []
  | n + 1 =>
      match s.engLoad b c a 8 with
      | .done s1 d m p =>
          (match s1.engLoadAll b c (a + 8) n with
          | .done s2 ds ms ps => .done s2 (d ++ ds) (m :: ms) (if p then a :: ps else ps)
          | e => e)
      | e => .stop s e a

/-- Write words of eight bytes from `a`, up to the first that fails. -/
def State.engStoreAll (s : State) (b : By) (c : CoreId) (a : Word) : List (List Byte × Bool) → EngAll
  | [] => .done s [] [] []
  | (d, m) :: t =>
      match s.engStore b c a d m with
      | .done s1 .. => s1.engStoreAll b c (a + 8) t
      | e => .stop s e a

/-- Split bytes into words. -/
def words8 (d : List Byte) : Nat → List (List Byte)
  | 0 => []
  | n + 1 => d.take 8 :: words8 (d.drop 8) n

/-- A fault record for an engine's access (08 R175). -/
def State.engFault (s : State) (serial : Word) (c : CoreId) (k : Acc1) (a : Word) : State :=
  s.postFault (faultUnit c) serial 0xFF k.code (s.cyc c) a

end Sys2Proof.Machine
end

