-- ==== Sys2Proof/Machine/Matrix.lean ====
section
/-! DEFINITION. The matrix unit (12): acceptance of pushes, MXSTAT, and the commands at the head of its queue. -/

namespace Sys2Proof.Machine

/-! Acceptance (R256). -/

/-- The static checks that depend on values: detail 0x07. `cfg` is the configuration at acceptance. -/
def mxStaticOk (i : Instr) (cfg : BitVec 16) : Bool :=
  let ckOk (acc : BitVec 2) : Bool := !(bit cfg 12 && acc.toNat == bits cfg 11 10)
  let kOk (k : BitVec 12) : Bool := decide (4 ≤ k.toNat ∧ k.toNat ≤ 1024 ∧ k.toNat % 4 = 0)
  match i with
  | .mma acc _ _ k _ => kOk k && ckOk acc
  | .mmaS acc _ _ k _ _ _ _ => kOk k && k.toNat % 32 == 0 && ckOk acc
  | .mrotLd k _ => kOk k
  | .mchk acc acc2 _ => acc != acc2
  | .mzero mask _ => mask != 0
  | .mloada dest _ len =>
      decide (len.toNat % 64 = 0 ∧ 64 ≤ len.toNat ∧ len.toNat ≤ if dest then 16384 else 8192)
  | .mcfg x => x.toNat / 65536 == 0 && !bit x 13 && bits x 9 8 == 0
  | _ => true

/-- Check a record: the command, or the detail of ILLEGAL. -/
def mxCheck (v : Nat) (cfg : BitVec 16) : Except Nat Instr :=
  match decodeMxu v with
  | .error r => .error r.detail.toNat
  | .ok i => if mxStaticOk i cfg then .ok i else .error 7

/-- Accept a checked record: queue it with its snapshot; MCFG takes effect now (R259). -/
def State.mxAccept (s : State) (t : ThreadId) (bytes : List Byte) (i : Instr) : State :=
  let c := s.ctx t
  s.updCore t.core fun k =>
    let m := k.mxu
    let q : MxCmd := { bytes := bytes, snap := m.cfg, thread := t, serial := c.serial, run := c.run }
    { k with mxu := { m with
        queue := m.queue ++ [q], cfg := match i with | .mcfg x => x.truncate 16 | _ => m.cfg },
             mxWait := k.mxWait.erase t.ctx }

/-- Does the MXU accept a push of the context: room in the queue, and no context waits before it? -/
def Core.mxAccepts (k : Core) (ctx : Nat) : Bool :=
  decide (k.mxu.queue.length < 16) && (match k.mxWait with | [] => true | x :: _ => x == ctx)

/-- MXSTAT (R255). -/
def Mxu.stat (m : Mxu) : Word :=
  w64 (m.lasttag.toNat * 2 ^ 32 + m.errs.toNat * 2 ^ 24 + m.errcls.toNat * 2 ^ 20 + m.queue.length * 2 ^ 8 +
    b2n m.ringw * 4 + b2n (16 ≤ m.queue.length) * 2 + b2n m.resw)

/-! Completion and errors (R271). -/

/-- The head command is complete. -/
def State.mxPop (s : State) (c : CoreId) : State :=
  s.updCore c fun k => { k with mxu := { k.mxu with queue := k.mxu.queue.drop 1 } }

/-- The head command completes with an error. -/
def State.mxFail (s : State) (c : CoreId) (q : MxCmd) (cls det : Nat) (a : Word) : State :=
  let s := s.byReport (byThread 2 q.thread q.serial q.run) cls det a
  (s.updCore c fun k => { k with mxu := { k.mxu with
    errs := satInc k.mxu.errs
    errcls := if k.mxu.errs = 0 then BitVec.ofNat 4 cls else k.mxu.errcls } }).mxPop c

/-- An error of a command: class, detail, address. -/
abbrev MxErr := Nat × Nat × Word

/-- Perform the head command of the executing core, once it holds its grant (R270). -/
def State.mxRun (s : State) (f : CoreId → MxCmd → State → Except MxErr State) : Res :=
  let c := s.cur.core
  let m := (s.core c).mxu
  match m.queue with
  | [] => .next s
  | q :: _ =>
      let r := s.request c 1 q.serial
      if !r.2 then .next r.1
      else match f c q r.1 with
        | .ok s' => (s'.mxPop c).out
        | .error (cls, det, a) => .next (r.1.mxFail c q cls det a)

/-- The report's owner of a command. -/
def MxCmd.by_ (q : MxCmd) : By := byThread 2 q.thread q.serial q.run

/-- A local-store address of a command: alignment, then region and footprint. -/
def State.mxAddr (s : State) (c : CoreId) (q : MxCmd) (a : Word) (n al det : Nat) (k : Acc1) : Except MxErr Nat :=
  if a.toNat % al ≠ 0 then .error (8, det, a)
  else match s.lsLoc q.serial c a n k with
    | .ok key => .ok key
    | .error (cls, d) => .error (cls, d, a)

/-- An engine read by a command: reconstruction faults are reported, poison sets CIR bit 0 where `consume` (R272) (DESIGN CHOICE, log 35). The command
still completes, and such a fault is not counted in ERRS and ERRCLS: R271 has them record the commands that fail (DESIGN CHOICE, log 98). -/
def State.mxRead (s : State) (q : MxCmd) (k n : Nat) (a : Word) (consume : Bool) : Got :=
  let g := s.engRead q.by_ k n a
  if g.poison && consume then { g with st := g.st.byCir q.by_ 1 } else g

/-- Write a mutable part of the executing core's MXU. -/
def State.updMxu (s : State) (c : CoreId) (f : Mxu → Mxu) : State := s.updCore c fun k => { k with mxu := f k.mxu }

/-- An engine write by a command of data that is poisoned as a whole or not: performed now, or later where the schedule lets it (R269). -/
def State.mxWrite (s : State) (q : MxCmd) (k : Nat) (d : List Byte) (p : Bool) (a : Word) : State :=
  let c := q.thread.core
  let s :=
    if (s.core c).mxu.late then s.updMxu c fun m => { m with writes := m.writes ++ (wordParts k d d.length).map fun x =>
      { key := x.1, data := x.2, mark := p, addr := a + w64 (x.1 - k), cmd := q } }
    else s.engWrite q.by_ k d (List.replicate (d.length / 8 + 1) p) a
  if p then s.byCir q.by_ 8 else s

/-- Perform one late write. -/
def State.mxPut (s : State) (w : MxWrite) : State := s.engPut w.cmd.by_ w.key w.data w.mark w.addr

/-- Perform every late write of a core's MXU, in order. -/
def State.mxFlush (s : State) (c : CoreId) : State :=
  (s.core c).mxu.writes.foldl (fun s w => s.mxPut w) (s.updMxu c fun m => { m with writes := [] })

/-- The first late write to the word of the n-th one is performed, or its first 32 bits: the MXU writes 32-bit words (R265). -/
def State.mxWriteTurn (s : State) (c : CoreId) (n : Nat) (half : Bool) : State :=
  let l := (s.core c).mxu.writes
  match l[n]?.bind fun x => l.find? fun y => y.key / 8 == x.key / 8 with
  | none => s
  | some w =>
      let i := l.idxOf w
      if half && w.data.length == 8 then
        (s.updMxu c fun m => { m with writes := l.set i { w with key := w.key + 4, data := w.data.drop 4, addr := w.addr + 4 } }).mxPut
          { w with data := w.data.take 4 }
      else (s.updMxu c fun m => { m with writes := l.eraseIdx i }).mxPut w

/-! Formats of operands (R260, R271). -/

/-- The format that an FMT register of a core holds. -/
def Core.fmtOf (k : Core) (n : Nat) : Option Fmt := if bit k.fmtset n then Fmt.ofImage (mget 0 k.fmt n) else none

/-- A format that an operand may have. -/
def operandFmt (f : Fmt) : Bool := f.cont == 4 || f.cont == 8 || (f.cont == 16 && !f.isInt)

/-- Is K within the container's limit and unit (R260)? -/
def kFits (f : Fmt) (k : Nat) : Bool :=
  match f.cont with
  | 16 => decide (k ≤ 256)
  | 8 => decide (k ≤ 512 ∧ k % 16 = 0)
  | _ => decide (k ≤ 1024 ∧ k % 32 = 0)

/-- Bytes of an operand of reduction length K. -/
def operandBytes (f : Fmt) (k : Nat) : Nat := 16 * k * f.cont / 8

/-- Alignment of an operand, and the detail of ALIGN. -/
def operandAlign (f : Fmt) : Nat × Nat := if f.cont = 16 then (64, 1) else (256, 3)

/-- Element `e` of an operand (R41, R42). -/
def operandElem (f : Fmt) (d : List Byte) (e : Nat) : Nat :=
  let at_ (o : Nat) : Nat := (d.getD o 0).toNat
  match f.cont with
  | 16 => at_ (2 * e) + 256 * at_ (2 * e + 1)
  | 8 => at_ (e / 256 * 256 + 4 * (e % 64) + e % 256 / 64)
  | _ => at_ (e / 512 * 256 + 4 * (e % 64) + e % 512 / 128) / 16 ^ (e % 512 / 64 % 2) % 16

/-! Accumulators. -/

def Mxu.acc (m : Mxu) (n : Nat) : Acc := mget .reset m.accs n
def Mxu.setAcc (m : Mxu) (n : Nat) (a : Acc) : Mxu := { m with accs := mset m.accs n a }
def Acc.at_ (a : Acc) (i j : Nat) : BitVec 32 := a.bits.getD (16 * i + j) 0
def Acc.put (a : Acc) (i j : Nat) (v : BitVec 32) : Acc := { a with bits := a.bits.set (16 * i + j) v }
def Acc.zero (a : Acc) : Acc := { a with bits := List.replicate 256 0 }
/-- A tag is not NONE (03 R43): V, no reserved bit, a class code of the table, or a format register whose image is set. -/
def Core.tagSet (k : Core) (tag : BitVec 8) : Bool :=
  let n := bits tag 3 0
  bit tag 7 && bits tag 5 4 == 0 && (if bit tag 6 then n != 0xB && decide (n < 0xD) else bit k.fmtset n)

/-- The format a tag denotes (03 R44); none for NONE. -/
def Core.tagFmt (k : Core) (t : BitVec 8) : Option Fmt :=
  if !bit t 7 || bits t 5 4 != 0 then none
  else if bit t 6 then Fmt.ofClass (bits t 3 0) else k.fmtOf (bits t 3 0)

/-- 4 × 4 × … sums of one MMA (03 R47, R48; R262): the exact group sum of element (i, j). -/
def groupSum (fa fb : Fmt) (a b sa sb : List Byte) (kk g i j : Nat) : Val :=
  let scale (m : List Byte) (idx : Nat) : Val := Fmt.e4m3.decode (m.getD idx 0).toNat
  let term (k : Nat) : Val :=
    let p := (fa.decode (operandElem fa a (i * kk + k))).mul (fb.decode (operandElem fb b (j * kk + k)))
    if sa.isEmpty then p
    else (p.mul (scale sa (i * (kk / 32) + k / 32))).mul (scale sb (j * (kk / 32) + k / 32))
  (((term (4 * g)).add 0 (term (4 * g + 1))).add 0 (term (4 * g + 2))).add 0 (term (4 * g + 3))

/-- The integer value of an exact integer. -/
def Val.toInt (v : Val) : Int := match v with | .fin n m e => signed n (m * 2 ^ e.toNat) | _ => 0

/-- add(x, s) of R262: integer modulo 2^32, or two roundings with the tensor scale. -/
def accAdd (int : Bool) (t : Val) (x : BitVec 32) (v : Val) : BitVec 32 :=
  if int then x + BitVec.ofInt 32 v.toInt else r32 ((f32 x).add 0 (f32 (r32 (t.mul v))))

/-- Fold a function over row and column indices. -/
def forIJ (f : Nat → Nat → α → α) (x : α) : α :=
  (List.range 16).foldl (fun x i => (List.range 16).foldl (fun x j => f i j x) x) x

/-- Multiply and accumulate: the accumulator and the checksum accumulator after all groups. -/
def mmaAccs (int ck : Bool) (t : Val) (sum : Nat → Nat → Nat → Val) (groups : Nat) (a c : Acc) : Acc × Acc :=
  (List.range groups).foldl (fun (p : Acc × Acc) g =>
    let a' := forIJ (fun i j (x : Acc) => x.put i j (accAdd int t (x.at_ i j) (sum g i j))) p.1
    let total (f : Nat → Val) : Val := (List.range 15).foldl (fun v n => v.add 0 (f (n + 1))) (f 0)
    let c' := if ck then
        let c1 := (List.range 16).foldl (fun (x : Acc) j => x.put 0 j (accAdd int t (x.at_ 0 j) (total fun i => sum g i j))) p.2
        (List.range 16).foldl (fun (x : Acc) i => x.put 1 i (accAdd int t (x.at_ 1 i) (total fun j => sum g i j))) c1
      else p.2
    (a', c')) (a, c)

/-- MMA and MMA.S (R262). `scaled`: tensor scale and the offsets of the scales (DESIGN CHOICE, log 35). -/
def State.mma (s : State) (c : CoreId) (q : MxCmd) (acc : Nat) (init asrc : Bool) (k : Nat) (addr : Word)
    (scaled : Option (Val × Nat × Nat)) : Except MxErr State :=
  let co := s.core c
  let m := co.mxu
  let ck := bit q.snap 12
  let cn := bits q.snap 11 10
  match co.fmtOf (bits q.snap 3 0), co.fmtOf (bits q.snap 7 4) with
  | some fa, some fb =>
      let reads := !init
      if reads && (!co.tagSet (m.acc acc).tag || (ck && !co.tagSet (m.acc cn).tag)) then .error (7, 2, 0)
      else
        let int := fa.isInt
        let tag : BitVec 8 := if int then 0xC3 else 0xC0
        let size := operandBytes fa k
        if !operandFmt fa || !operandFmt fb || fa.isInt != fb.isInt || (scaled.isSome && int) ||
            (reads && ((m.acc acc).tag != tag || (ck && (m.acc cn).tag != tag))) ||
            (m.latch.valid && m.latch.fb != bits q.snap 7 4) then .error (7, 1, 0)
        else if !kFits fa k || !kFits fb k || !m.latch.valid || m.latch.k != k ||
            (asrc && (!m.abuf.valid || decide (m.abuf.len < size))) ||
            (match scaled with
             | some (_, sa, sb) => decide (16384 < sa + 16 * (k / 32)) || decide (16384 < sb + 16 * (k / 32))
             | none => false) then .error (9, 7, 0)
        else
          let al := operandAlign fa
          let src : Except MxErr (State × List Byte × Bool) :=
            if asrc then .ok (s, m.abuf.data, m.abuf.poison)
            else match s.mxAddr c q addr size al.1 al.2 .engRead with
              | .error e => .error e
              | .ok key => let g := s.mxRead q key size addr false; .ok (g.st, g.data, g.poison)
          match src with
          | .error e => .error e
          | .ok (s, a, pa) =>
              let sa := match scaled with | some (_, o, _) => (m.scale.data.drop o) ++ List.replicate 512 0 | none => []
              let sb := match scaled with | some (_, _, o) => (m.scale.data.drop o) ++ List.replicate 512 0 | none => []
              let p := pa || m.latch.poison || (scaled.isSome && m.scale.poison)
              let s := if p then s.byCir q.by_ 1 else s
              let a0 := if init then (m.acc acc).zero else m.acc acc
              let c0 := if init then (m.acc cn).zero else m.acc cn
              let t := match scaled with | some (t, _, _) => t | none => .fin false 1 0
              let r := mmaAccs int ck t (fun g i j => groupSum fa fb a m.latch.data sa sb k g i j) (k / 4) a0 c0
              .ok (s.updMxu c fun m =>
                let m := m.setAcc acc { r.1 with tag := tag, poison := r.1.poison || p }
                if ck then m.setAcc cn { r.2 with tag := tag, poison := r.2.poison || p } else m)
  | _, _ => .error (7, 2, 0)

/-! The ring exchange (R264). -/

/-- Ring group length of a configuration. -/
def ringLen (cfg : BitVec 16) : Nat := 2 ^ (bits cfg 15 14 + 1)

/-- The core at offset `d` in the group of a core: ring positions are places in the cluster (01 R12). -/
def ringCore (c : CoreId) (g d : Nat) : CoreId :=
  let p := c.idx % 16
  { c with idx := c.idx - p + p / g * g + (p % g + d) % g }

/-- Is a queued command an MROT of MODE 0? -/
def MxCmd.isRot (q : MxCmd) : Bool := match decodeMxu (leNat q.bytes) with | .ok (.mrot _) => true | _ => false

/-- RING of a command's snapshot. -/
def MxCmd.ring (q : MxCmd) : Nat := bits q.snap 15 14

/-- The queued MROT with a number, counted since the reset of R256: the MROTs of that number of neighbours are paired. -/
def Mxu.rotAt (m : Mxu) (n : Nat) : Option MxCmd := if n < m.rot then none else (m.queue.filter MxCmd.isRot)[n - m.rot]?

/-- Is the MROT of a number known, that is queued or complete? -/
def Mxu.rotKnown (m : Mxu) (n : Nat) : Bool := decide (n < m.rot) || (m.rotAt n).isSome

/-- Does the MROT of a number, queued or ended, disagree on RING? -/
def Mxu.disagrees (m : Mxu) (n ring : Nat) : Bool :=
  match m.rotAt n with
  | some q => q.ring != ring
  | none => (m.rings.find? fun x => x.1 == n).any fun x => x.2 != ring

/-- The MROT at the head ends, with or without an exchange. -/
def Mxu.rotDone (m : Mxu) : Mxu :=
  { m with rot := m.rot + 1, sent := false, ringw := false, ringBad := m.ringBad.filter fun n => m.rot < n
           rings := m.rings ++ (m.queue.take 1).map fun q => (m.rot, q.ring)
           incoming := match m.incoming with | some x => if x.1 = m.rot then none else some x | none => none }

/-- Can the tile of a core's next MROT leave: it has left, its successor's MROT of that number is complete, or the successor's incoming buffer
is free and that MROT known? -/
def State.rotLeaves (s : State) (c succ : CoreId) : Bool :=
  let m := (s.core c).mxu
  m.sent || decide (m.rot < (s.core succ).mxu.rot) || ((s.core succ).mxu.incoming.isNone && (s.core succ).mxu.rotKnown m.rot)

/-- The tile of a core's next MROT goes to its successor, once: into a free incoming buffer, or nowhere when the successor's MROT of that
number is complete. -/
def State.rotSend (s : State) (c succ : CoreId) : State :=
  let m := (s.core c).mxu
  if m.sent then s
  else if m.rot < (s.core succ).mxu.rot then s.updMxu c fun x => { x with sent := true }
  else if (s.core succ).mxu.incoming.isSome || !(s.core succ).mxu.rotKnown m.rot then s
  else (s.updMxu succ fun x => { x with incoming := some (m.rot, m.latch) }).updMxu c fun x => { x with sent := true }

/-- A queued command that writes the latch. -/
def MxCmd.latches (q : MxCmd) : Bool :=
  match decodeMxu (leNat q.bytes) with | .ok (.mrot _) => true | .ok (.mrotLd _ _) => true | _ => false

/-- The outgoing transfer of the next MROT starts once every earlier latch-writing command has completed, even while earlier commands still
run (R264), towards a successor that agrees on RING in a group of its launch (DEDUCED, log 36). -/
def State.rotEarly (s : State) (c : CoreId) : State :=
  match (s.core c).mxu.queue.find? MxCmd.latches with
  | some q =>
      let g := ringLen q.snap
      let succ := ringCore c g 1
      if !q.isRot || (s.core succ).mxu.disagrees (s.core c).mxu.rot q.ring ||
        (List.range g).any fun d => !(s.core (ringCore c g d)).residents.contains q.serial then s
      else s.rotSend c succ
  | none => s

/-- The tile that has come for the MROT at the head. -/
def Mxu.tile (m : Mxu) : Option Latch := m.incoming.bind fun x => if x.1 = m.rot then some x.2 else none

/-- Is the MROT at the head of a core's queue under way: its tile has come, and both MROTs it is paired with are known (R275)? -/
def State.rotStarted (s : State) (c : CoreId) : Bool :=
  let m := (s.core c).mxu
  match m.queue with
  | q :: _ =>
      let g := ringLen q.snap
      q.isRot && m.tile.isSome && (s.core (ringCore c g 1)).mxu.rotKnown m.rot && (s.core (ringCore c g (g - 1))).mxu.rotKnown m.rot
  | [] => false

/-- Is that MROT under way and able to end? Its own tile leaves only for a free buffer: where the successor's still holds the tile before, the
MROT and the tile that came for it are saved as they stand (DEDUCED, log 36). -/
def State.rotEnds (s : State) (c : CoreId) : Bool :=
  s.rotStarted c && match (s.core c).mxu.queue with
    | q :: _ => s.rotLeaves c (ringCore c (ringLen q.snap) 1)
    | [] => false

/-- MROT of MODE 0, in the order of R271: a pair that disagrees on RING fails on both sides, a group with a member of another launch fails,
and otherwise the tiles are exchanged. An MROT that fails still hands its latch to a successor that agrees (DEDUCED, log 36). -/
def execMrot (addr : Word) (s : State) : Res :=
  let c := s.cur.core
  match (s.core c).mxu.queue with
  | [] => .next s
  | q :: _ =>
      let r := s.request c 1 q.serial
      if !r.2 then .next r.1
      else
        let s := r.1
        let n := (s.core c).mxu.rot
        let g := ringLen q.snap
        let succ := ringCore c g 1
        let pred := ringCore c g (g - 1)
        let wait (s : State) : Res :=
          .next ({ s with dev := { s.dev with grants := s.dev.grants ++ [(c, 1, q.serial)] } }.updMxu c fun x => { x with ringw := true })
        let fail (s : State) (cls det : Nat) (a : Word) : Res := .next ((s.updMxu c Mxu.rotDone).mxFail c q cls det a)
        let bad (d : CoreId) : Bool := (s.core d).mxu.disagrees n q.ring
        if (s.core c).mxu.ringBad.contains n || bad succ || bad pred then
          let tell (s : State) (d : CoreId) : State :=
            if bad d && ((s.core d).mxu.rotAt n).isSome then s.updMxu d fun x => { x with ringBad := if x.ringBad.contains n then x.ringBad else x.ringBad ++ [n] } else s
          let s := tell (tell s succ) pred
          let s := if bad succ then s.updMxu c fun x => { x with sent := true } else s.rotSend c succ
          if (s.core c).mxu.sent then fail s 9 7 0 else wait s
        else if (List.range g).any fun d => !(s.core (ringCore c g d)).residents.contains q.serial then fail s 6 2 0
        else if !(s.core succ).mxu.rotKnown n || !(s.core pred).mxu.rotKnown n then wait s
        else
          let s := s.rotSend c succ
          let m := (s.core c).mxu
          match m.sent, m.tile with
          | true, some tile =>
              if !tile.valid then .next ((s.updMxu c fun x => { x.rotDone with latch := tile }).mxPop c)
              else
                let al := match (s.core c).fmtOf tile.fb with | some f => operandAlign f | none => (64, 1)
                match s.mxAddr c q addr tile.data.length al.1 al.2 .engWrite with
                | .error (cls, det, a) => fail s cls det a
                | .ok key =>
                    let s := s.mxWrite q key tile.data tile.poison addr
                    ((s.updMxu c fun x => { x.rotDone with latch := { tile with src := key % 2 ^ 21 } }).mxPop c).out
          | _, _ => wait s

/-! The commands (R258, R262 to R268). -/

def execMnop (s : State) : Res :=
  let c := s.cur.core
  match (s.core c).mxu.queue with | [] => .next s | _ => .next (s.mxPop c)
def execMma (acc : BitVec 2) (init asrc : Bool) (k : BitVec 12) (addr : Word) (s : State) : Res :=
  s.mxRun fun c q s => s.mma c q acc.toNat init asrc k.toNat addr none
def execMmaS (acc : BitVec 2) (init asrc : Bool) (k : BitVec 12) (addr xval : Word) (sa sb : BitVec 14) (s : State) : Res :=
  s.mxRun fun c q s => s.mma c q acc.toNat init asrc k.toNat addr
    (some (Fmt.fp32.decode (xval.toNat % 2 ^ 32), sa.toNat, sb.toNat))
def execMloada (dest : Bool) (addr len : Word) (s : State) : Res :=
  s.mxRun fun c q s =>
    match s.mxAddr c q addr len.toNat 64 1 .engRead with
    | .error e => .error e
    | .ok key =>
        let g := s.mxRead q key len.toNat addr false
        let b : MxBuf := { valid := true, data := g.data, poison := g.poison, src := key % 2 ^ 21, len := len.toNat }
        .ok (g.st.updMxu c fun m => if dest then { m with scale := b } else { m with abuf := b })
def execMrotLd (k : BitVec 12) (addr : Word) (s : State) : Res :=
  s.mxRun fun c q s =>
    let n := bits q.snap 7 4
    match (s.core c).fmtOf n with
    | none => .error (7, 2, 0)
    | some f =>
        if !operandFmt f then .error (7, 1, 0)
        else if !kFits f k.toNat then .error (9, 7, 0)
        else
          let size := operandBytes f k.toNat
          let al := operandAlign f
          match s.mxAddr c q addr size al.1 al.2 .engRead with
          | .error e => .error e
          | .ok key =>
              let g := s.mxRead q key size addr false
              .ok (g.st.updMxu c fun m => { m with latch :=
                { valid := true, data := g.data, poison := g.poison, src := key % 2 ^ 21, k := k.toNat, fb := n } })
def execMaccLd (acc : BitVec 2) (int : Bool) (addr : Word) (s : State) : Res :=
  s.mxRun fun c q s =>
    match s.mxAddr c q addr 1024 64 1 .engRead with
    | .error e => .error e
    | .ok key =>
        let g := s.mxRead q key 1024 addr true
        .ok (g.st.updMxu c fun m => m.setAcc acc.toNat
          { bits := (List.range 256).map fun i => BitVec.ofNat 32 (leAt g.data (4 * i) 4),
            tag := if int then 0xC3 else 0xC0, poison := g.poison })
def execMaccSt (acc : BitVec 2) (clr conv : Bool) (ofmt : BitVec 4) (addr : Word) (s : State) : Res :=
  s.mxRun fun c q s =>
    let co := s.core c
    let a := co.mxu.acc acc.toNat
    let fin (bytes : List Byte) : Except MxErr State :=
      match s.mxAddr c q addr bytes.length 64 1 .engWrite with
      | .error e => .error e
      | .ok key =>
          let s := s.mxWrite q key bytes a.poison addr
          .ok (if clr then s.updMxu c fun m => m.setAcc acc.toNat (m.acc acc.toNat).zero else s)
    if !co.tagSet a.tag then .error (7, 2, 0)
    else if !conv then fin (a.bits.flatMap fun v => leBytes 4 v.toNat)
    else match co.fmtOf ofmt.toNat with
      | none => .error (7, 2, 0)
      | some f =>
          let rm := imageRm (mget 0 co.fmt ofmt.toNat)
          let src := (co.tagFmt a.tag).getD .fp32
          if f.cont ≠ 32 ∧ f.cont ≠ 16 then .error (7, 1, 0)
          else fin (a.bits.flatMap fun v => leBytes (f.cont / 8) (f.round rm (src.decode v.toNat)))
def execMcfg (_xval : Word) (s : State) : Res := execMnop s
/-- MCHK. Tags match when they denote one format (03 R44); the arithmetic is given for FP32 and INT32, and the residuals of another format, which
only a restore can leave in a tag, are free values (DESIGN CHOICE, log 35). -/
def execMchk (acc acc2 : BitVec 2) (addr : Word) (s : State) : Res :=
  s.mxRun fun c q s =>
    let co := s.core c
    let m := co.mxu
    let a := m.acc acc.toNat
    let k := m.acc acc2.toNat
    if !(s.core c).tagSet a.tag || !(s.core c).tagSet k.tag then .error (7, 2, 0)
    else if co.tagFmt a.tag != co.tagFmt k.tag then .error (7, 1, 0)
    else match s.mxAddr c q addr 8 8 1 .engWrite with
      | .error e => .error e
      | .ok key =>
          let int := co.tagFmt a.tag == some (.int true 32)
          let known := int || co.tagFmt a.tag == some .fp32
          let r := if known then ([], s) else s.drawList 32
          let s := r.2
          let residual (n : Nat) (v : BitVec 32) : BitVec 32 := if known then v else (r.1.getD n 0).truncate 32
          let add (x y : BitVec 32) : BitVec 32 := if int then x + y else fadd32 x y
          let sub (x y : BitVec 32) : BitVec 32 := if int then x - y else fsub32 x y
          let sum (f : Nat → BitVec 32) : BitVec 32 := (List.range 16).foldl (fun t i => add t (f i)) 0
          let k1 := (List.range 16).foldl (fun (x : Acc) j => x.put 2 j (residual j (sub (x.at_ 0 j) (sum fun i => a.at_ i j)))) k
          let k2 := (List.range 16).foldl (fun (x : Acc) i => x.put 8 i (residual (16 + i) (sub (x.at_ 1 i) (sum fun j => a.at_ i j)))) k1
          let non (v : BitVec 32) : Nat := b2n (if int then v != 0 else v != 0 && v != 0x80000000)
          let mask (row : Nat) : Nat := (List.range 16).foldl (fun t j => t + non (k2.at_ row j) * 2 ^ j) 0
          let p := a.poison || k.poison
          let s := s.mxWrite q key (leBytes 8 (mask 2 + mask 8 * 65536)) p addr
          .ok (s.updMxu c fun m => m.setAcc acc2.toNat k2)
def execMzero (mask : BitVec 4) (int : Bool) (s : State) : Res :=
  s.mxRun fun c _ s =>
    .ok (s.updMxu c fun m => (List.range 4).foldl (fun (m : Mxu) n =>
      if bit mask n then m.setAcc n { bits := List.replicate 256 0, tag := if int then 0xC3 else 0xC0, poison := false }
      else m) m)
/-- MFENCE: no later command reads local store before the earlier commands' writes are performed (R268). -/
def execMfence (s : State) : Res :=
  let c := s.cur.core
  match (s.core c).mxu.queue with | [] => .next s | _ => ((s.mxFlush c).mxPop c).out
/-- MTAG waits for no grant (R270); the earlier commands' writes are performed before its own (R268). -/
def execMtag (addr xval : Word) (s : State) : Res :=
  let c := s.cur.core
  match (s.core c).mxu.queue with
  | [] => .next s
  | q :: _ =>
      let s := s.mxFlush c
      match s.mxAddr c q addr 8 8 1 .engWrite with
      | .error (cls, det, a) => .next (s.mxFail c q cls det a)
      | .ok key =>
          let s := s.engWrite q.by_ key (leBytes 8 xval.toNat) [] addr
          ((s.updMxu c fun m => { m with lasttag := xval.truncate 32 }).mxPop c).out

end Sys2Proof.Machine
end

