-- ==== Sys2Proof/Machine/VectorOps.lean ====
section
/-! DEFINITION. The vector unit's machinery (11 R229 to R241, R252): tags and their view, stream registers, acceptance of
commands with their address checks, and the reading and writing of registers when a command executes. -/

namespace Sys2Proof.Machine

/-! Tags (03 R43, R44). -/

/-- Rounding mode that R241 gives a tag. -/
def Core.tagRm (k : Core) (t : BitVec 8) : Nat := if bit t 6 then 0 else imageRm (mget 0 k.fmt (bits t 3 0))

/-- The tag that names an FMT register. -/
def fmtTag (n : BitVec 4) : BitVec 8 := 0x80 ||| n.zeroExtend 8

/-- Format groups (11, notation). -/
def inF (f : Fmt) : Bool := f == .fp32 || f == .fp16 || f == .bf16
def inF32 (f : Fmt) : Bool := f == .fp32
def inI (f : Fmt) : Bool := f.isInt && (f.width == 32 || f.width == 16)
def inI32 (f : Fmt) : Bool := f.isInt && f.width == 32
def inW32 (f : Fmt) : Bool := inF32 f || inI32 f
def inFI (f : Fmt) : Bool := inF f || inI f
def inNar (f : Fmt) : Bool := f.cont != 32
def inAny (_ : Fmt) : Bool := true

/-- R241: every source in the group and matching; the class and detail of the failure. -/
def Core.tagsOk (k : Core) (g : Fmt → Bool) (ts : List (BitVec 8)) : Option (Nat × Nat) :=
  let fs := ts.map k.tagFmt
  if fs.any Option.isNone then some (7, 2)
  else match fs with
    | some f :: _ => if fs.all (fun x => match x with | some y => g y && y == f | none => false) then none else some (7, 1)
    | _ => none

/-! Shapes of vector instructions: the registers read and written, for streams and tags. -/

/-- Registers an instruction reads, in the number a group needs (`gp` for VPACK). -/
def vsources (i : Instr) (gp : Nat) : List Nat :=
  let two (a b : BitVec 4) := [a.toNat, b.toNat]
  match i with
  | .vst v .. => [v.toNat] | .vldx _ _ x .. => [x.toNat] | .vstx v _ x .. => two v x
  | .vadd _ a b .. => two a b | .vsub _ a b .. => two a b | .vmul _ a b .. => two a b
  | .vfma _ a b c .. => [a.toNat, b.toNat, c.toNat] | .vfms _ a b c .. => [a.toNat, b.toNat, c.toNat]
  | .vmin _ a b .. => two a b | .vmax _ a b .. => two a b
  | .vabs _ a .. => [a.toNat] | .vneg _ a .. => [a.toNat] | .vrcp _ a .. => [a.toNat] | .vrsq _ a .. => [a.toNat]
  | .vexp2 _ a .. => [a.toNat] | .vlog2 _ a .. => [a.toNat] | .vtanh _ a .. => [a.toNat]
  | .vand _ a b .. => two a b | .vor _ a b .. => two a b | .vxor _ a b .. => two a b
  | .vshl _ a b .. => two a b | .vshr _ a b .. => two a b | .viadd _ a b .. => two a b | .vimul _ a b .. => two a b
  | .vsel _ a b _ => two a b
  | .vcmpEq _ a b .. => two a b | .vcmpNe _ a b .. => two a b | .vcmpLt _ a b .. => two a b
  | .vcmpLtu _ a b .. => two a b | .vcmpGe _ a b .. => two a b | .vcmpGeu _ a b .. => two a b
  | .vred _ a .. => [a.toNat] | .vscan _ a .. => [a.toNat] | .vperm _ a b .. => two a b | .vsort _ a b .. => two a b
  | .vcvt _ a .. => [a.toNat] | .vunpack _ a .. => [a.toNat]
  | .vpack _ a .. => (List.range gp).map (a.toNat + ·)
  | .vmovx v .. => [v.toNat] | .vrot _ a .. => [a.toNat] | .vscale _ a .. => [a.toNat]
  | _ => []

/-- Registers an instruction writes (`gu` for VUNPACK). -/
def vdests (i : Instr) (gu : Nat) : List Nat :=
  match i with
  | .vld v .. => [v.toNat] | .vlds v .. => [v.toNat] | .vldx v .. => [v.toNat]
  | .vadd d .. => [d.toNat] | .vsub d .. => [d.toNat] | .vmul d .. => [d.toNat] | .vfma d .. => [d.toNat]
  | .vfms d .. => [d.toNat] | .vmin d .. => [d.toNat] | .vmax d .. => [d.toNat] | .vabs d .. => [d.toNat]
  | .vneg d .. => [d.toNat] | .vrcp d .. => [d.toNat] | .vrsq d .. => [d.toNat] | .vexp2 d .. => [d.toNat]
  | .vlog2 d .. => [d.toNat] | .vtanh d .. => [d.toNat] | .vand d .. => [d.toNat] | .vor d .. => [d.toNat]
  | .vxor d .. => [d.toNat] | .vshl d .. => [d.toNat] | .vshr d .. => [d.toNat] | .viadd d .. => [d.toNat]
  | .vimul d .. => [d.toNat] | .vsel d .. => [d.toNat] | .vred d .. => [d.toNat] | .vscan d .. => [d.toNat]
  | .vperm d .. => [d.toNat] | .vsort d .. => [d.toNat, d.toNat + 1] | .vcvt d .. => [d.toNat] | .vpack d .. => [d.toNat]
  | .vunpack d .. => (List.range gu).map (d.toNat + ·)
  | .vbcast d .. => [d.toNat] | .vrot d .. => [d.toNat] | .vscale d .. => [d.toNat] | .vsetf d _ => [d.toNat]
  | _ => []

/-- Registers per group of a narrow format: 2, 4 or 8 (11 R246). -/
def groupOf (f : Option Fmt) : Nat := match f with | some f => 32 / f.cont | none => 1

/-- Tags after a command, from the tags before it (11 R230 tag view). -/
def Core.tagAfter (k : Core) (c : VuCmd) (view : Nat → BitVec 8) : Nat → BitVec 8 :=
  let src (r : Nat) : BitVec 8 := match c.ins.find? (fun x => x.1 == r) with | some x => x.2.2.2 | none => view r
  let put (d : Nat) (t : BitVec 8) (v : Nat → BitVec 8) : Nat → BitVec 8 :=
    if c.outs.any (fun x => x.1 == d) then v else fun r => if r = d then t else v r
  match c.instr with
  | .vld v _ f .. => put v.toNat (fmtTag f) view
  | .vlds v _ _ f .. => put v.toNat (fmtTag f) view
  | .vldx v _ _ f .. => put v.toNat (fmtTag f) view
  | .vcvt d _ n .. => put d.toNat (fmtTag n) view
  | .vpack d _ n .. => put d.toNat (fmtTag n) view
  | .vunpack d a n .. => (List.range (groupOf (k.tagFmt (src a.toNat)))).foldl (fun v j => put (d.toNat + j) (fmtTag n) v) view
  | .vsetf d n => put d.toNat (fmtTag n) view
  | .vsort d a b .. => put (d.toNat + 1) (src b.toNat) (put d.toNat (src a.toNat) view)
  | .vbcast .. => view
  | i =>
      match vdests i 0, vsources i 1 with
      | [d], a :: _ => put d (src a) view
      | _, _ => view

def Core.win (k : Core) (w : Nat) : Window := mget .reset k.wins w
def Window.v (w : Window) (n : Nat) : VReg := mget .reset w.vs n
def Window.m (w : Window) (n : Nat) : Word := mget 0 w.ms n
def Core.port (k : Core) (p : Nat) : Port := mget .reset k.ports p
def Core.setPort (k : Core) (p : Nat) (x : Port) : Core := { k with ports := mset k.ports p x }
def State.updPort (s : State) (c : CoreId) (p : Nat) (f : Port → Port) : State :=
  s.updCore c fun k => k.setPort p (f (k.port p))
def State.updWin (s : State) (c : CoreId) (w : Nat) (f : Window → Window) : State :=
  s.updCore c fun k => { k with wins := mset k.wins w (f (k.win w)) }

/-- The tag view of a window: the tags once every accepted command has completed. -/
def Core.tagView (k : Core) (w : Nat) : Nat → BitVec 8 :=
  k.vq.foldl (fun v c => if c.win = w then k.tagAfter c v else v) (fun r => ((k.win w).v r).tag)

/-- The port an input register, or an output register, is bound to. -/
def Core.boundTo (k : Core) (w r : Nat) (out : Bool) : Option Nat :=
  match mfind (k.win w).binds r with
  | some p => if (k.port p).out = out then some p else none
  | none => none

/-- The tag a source register shows at acceptance: the port's for an input register. -/
def Core.srcTag (k : Core) (w : Nat) (r : Nat) : BitVec 8 :=
  match k.boundTo w r false with | some p => (k.port p).tag | none => k.tagView w r

/-- The block that claim `n` of a port takes, if it has arrived; the poisoned zero block once the port has ended with an
empty queue (13 R297). -/
def Port.block (p : Port) (n : Nat) : Option Block :=
  match p.queue[n - p.taken]? with
  | some b => some b
  | none => if p.ended then some { seq := n, lanes := List.replicate 64 0, marks := BitVec.allOnes 64 } else none

/-- Stream registers on which a command waits: an input block not arrived, an output port that is full (11 R252). -/
def Core.strwOf (k : Core) (c : VuCmd) : List Nat :=
  (c.ins.filterMap fun x => if ((k.port x.2.1).block x.2.2.1).isNone then some x.1 else none) ++
  (c.outs.filterMap fun x => if !(k.port x.2).ended ∧ 8 ≤ (k.port x.2).queue.length then some x.1 else none)

/-- The oldest command waits on a stream register. -/
def Core.strw (k : Core) : List Nat := match k.vq with | c :: _ => k.strwOf c | [] => []

/-- Can the VU accept a command of a context (11 R231)? `empty`: the command asks that no earlier one is held. -/
def Core.vuTakes (k : Core) (ctx : Nat) (empty : Bool) : Bool :=
  decide (k.vq.length < 8) && !k.vuResw && k.strw.isEmpty && (!empty || k.vq.isEmpty) &&
    (match k.vuWait with | [] => true | x :: _ => x == ctx)

/-- VUSTAT (11 R232). -/
def Core.vuStat (k : Core) : Word :=
  let busy : Bool := decide (8 ≤ k.vq.length) || k.vuResw || !k.strw.isEmpty || !k.vuWait.isEmpty
  w64 (k.vq.length * 2 ^ 12 + b2n busy * 2 ^ 8 +
    (List.range 4).foldl (fun t j => t + b2n (k.strw.contains (12 + j)) * 2 ^ (4 + j)) 0 + b2n k.vuResw)

/-! Acceptance. -/

/-- The thread parks until the VU can accept its command. -/
def State.vuPark (s : State) (i : Instr) : State :=
  (s.updCore s.cur.core fun k =>
    { k with vuWait := if k.vuWait.contains s.cur.ctx then k.vuWait else k.vuWait ++ [s.cur.ctx] }).park i .vu

/-- Mask of a form: is lane `L` active under the window's masks? -/
def Window.active (w : Window) (m : BitVec 3) (e : BitVec 1) (lane : Nat) : Bool := e == 0 || bit (w.m m.toNat) lane

/-- Lanes of a register for a check at acceptance: the next block of an input register. -/
def Core.peek (k : Core) (w r : Nat) : Option (List (BitVec 32)) :=
  match k.boundTo w r false with
  | some p => ((k.port p).block (k.port p).claim).map (·.lanes)
  | none => some ((k.win w).v r).lanes

/-- Memory part of a command: the elements of active lanes with their addresses. Alignment is checked `step` bytes per
element below the address: at the base of a block. -/
structure VMem where
  store : Bool
  size : Nat
  align : Nat
  step : Nat
  detail : Nat
  elems : List (Nat × Word)
deriving DecidableEq, Repr

/-- What the acceptance of a command asks. -/
structure VForm where
  /-- Accepted only when the VU holds no earlier command (R234). -/
  empty : Bool
  /-- May not name a bound register. -/
  plain : Bool
  /-- A check needs a stream block that has not arrived. -/
  wait : Bool
  srcs : List Nat
  dsts : List Nat
  xa : Nat
  xb : Nat
  /-- Class and detail of the first failing check of the entry, if any. -/
  bad : Option (Nat × Nat)
  mem : Option VMem
deriving DecidableEq, Repr

/-- Check and translate one element of a memory form: ALIGN first, then as R134 orders the rest. -/
def State.vuKey (s : State) (m : VMem) (x : Nat × Word) : Loc :=
  if (x.2 - w64 (x.1 * m.step)).toNat % m.align ≠ 0 then .trap 8 m.detail
  else match s.checkAcc s.cur x.2 m.size 1 (if m.store then .store else .load) with | .mmio _ => .trap 6 7 | l => l

/-- Translate the elements of a memory form: the failure of the first element in lane order that has one (R237), or the keys. -/
def State.vuKeys (s : State) (m : VMem) : Except (Nat × Nat × Word) (List (Nat × Loc × Word)) :=
  let locs := m.elems.map fun x => (x.1, s.vuKey m x, x.2)
  match locs.findSome? fun x => match x.2.1 with | .trap c d => some (c, d, x.2.2) | _ => none with
  | some e => .error e
  | none => .ok locs

/-- Accept a command: claim stream blocks, queue it, and let the thread go on. -/
def State.vuAccept (s : State) (i : Instr) (f : VForm) (w : Nat) (keys : List (Nat × Nat × Word)) : State :=
  let t := s.cur
  let c := s.me
  let k := s.core t.core
  let ins := f.srcs.eraseDups.filterMap fun r => (k.boundTo w r false).map fun p =>
    (r, p, (k.port p).claim, (k.port p).tag)
  let outs := f.dsts.eraseDups.filterMap fun r => (k.boundTo w r true).map fun p => (r, p)
  let cmd : VuCmd :=
    { instr := i, thread := t, serial := c.serial, run := c.run, win := w, xa := c.x f.xa, xb := c.x f.xb,
      xam := c.xp f.xa || c.xp f.xb, keys := keys, ins := ins, outs := outs }
  let s := s.updCore t.core fun k => { k with vq := k.vq ++ [cmd], vuWait := k.vuWait.erase t.ctx }
  let s := ins.foldl (fun s x => s.updPort t.core x.2.1 fun p => { p with claim := p.claim + 1 }) s
  s.updMe fun c => { (c.consume cmd.xam).next 4 with needs := true }

/-- Issue a vector instruction (11 R230, R231; 05 R99). One whose index register is an input stream with no block yet waits
unaccepted, so that HELD does not count it and STRW is clear (DEDUCED, log 31). -/
def State.vuIssue (s : State) (i : Instr) (form : State → VForm) (fin : State → State) : Res :=
  let t := s.cur
  let w := s.vwin t
  if w = 15 then .next (s.trap 6 5 0)
  else
    let go (s : State) : Res :=
      let k := s.core t.core
      let f := form s
      if f.wait || !k.vuTakes t.ctx f.empty then .next (s.vuPark i)
      else if (f.srcs.any fun r => (k.boundTo w r true).isSome) || (f.dsts.any fun r => (k.boundTo w r false).isSome) ||
          (f.plain && (f.srcs ++ f.dsts).any fun r => (mfind (k.win w).binds r).isSome) then .next (s.trap 6 5 0)
      else match f.bad with
        | some (c, d) => .next (s.trap c d 0)
        | none =>
            match f.mem with
            | none => .next (fin (s.vuAccept i f w []))
            | some m =>
                match s.vuKeys m with
                | .error (c, d, a) => .next (s.trap c d a)
                | .ok locs =>
                    match locs.find? (fun x => x.2.1 == .xfault) with
                    | some x =>
                        .next ((s.updCore t.core fun k => { k with vuWait := k.vuWait.erase t.ctx }).parkX i x.2.2
                          (if m.store then .store else .load))
                    | none =>
                        match locs.findSome? (fun x => match x.2.1 with | .hole pa => some pa | _ => none) with
                        | some pa => .fault (.noMemory pa)
                        | none => .next (fin (s.vuAccept i f w (locs.filterMap fun x =>
                            match x.2.1 with
                            | .hbm pa => some (x.1, pa, x.2.2)
                            | .bank key => some (x.1, key, x.2.2)
                            | .hostMem key => some (x.1, key, x.2.2)
                            | _ => none)))
    -- a memory form waits for its thread's earlier accesses (R239), and the VU is busy meanwhile
    if (form s).mem.isNone then go s else s.afterIf (fun _ => true) (fun s _ => s.vuPark i) go

/-! Execution. -/

/-- A data error met by an accepted command: CIR bits and PADDR of the issuing thread; once it has suspended or retired, a count in the
launch's ERRCNT (R238): one for each poisoned element read, each marked element stored and each command that read a mark, since the rule says only
that the error is counted (DESIGN CHOICE, log 100). -/
def State.vuMark (s : State) (b : By) (m : BitVec 8) (va : Word) : State :=
  if s.stays b.thread b.run then s.engMark b.thread b.run m va
  else s.updLaunch b.serial fun l => { l with errcnt := l.errcnt + 1 }

/-- One element's read by the VU (11 R238): state, bytes, mark; PADDR takes the address of the element's word. A reconstruction fault is
counted by its report. -/
def State.vuLoad (s : State) (b : By) (key n : Nat) (va : Word) : State × List Byte × Bool :=
  let word := va &&& ~~~7
  match keyLoc key with
  | .bank k =>
      let g := s.engRead b k n va
      (if !g.poison then g.st else if g.bad.isEmpty then g.st.vuMark b 1 word else g.st.engMark b.thread b.run 1 word, g.data, g.poison)
  | .hbm pa =>
      let r := s.cacheRead (clusterOf b.thread.core) pa n
      (if r.2.2.any id then r.1.vuMark b 1 word else r.1, r.2.1, r.2.2.any id)
  | _ =>
      let m := (s.marksOf key n).any id
      (if m then s.vuMark b 1 word else s, s.rd key n, m)

/-- One element's write by the VU. -/
def State.vuStore (s : State) (b : By) (key : Nat) (d : List Byte) (mark : Bool) (va : Word) : State :=
  let s := match keyLoc key with
    | .bank k => s.bankStore b.serial k d mark va
    | .hbm pa => s.cacheWrite (clusterOf b.thread.core) pa d [mark] b.serial va
    | _ => let s := s.wr key d; if mark then s.setPz (key / 8) true else s
  if mark then s.vuMark b 4 0 else s

/-- A command's result: registers and masks written, whether marked data was consumed, and a scalar result. -/
structure VOut where
  regs : List (Nat × VReg)
  masks : List (Nat × Word)
  used : Bool
  x : Option (Word × Bool)
deriving DecidableEq, Repr

/-- The registers a command reads: claimed blocks for input registers. -/
def Core.cmdReg (k : Core) (c : VuCmd) (r : Nat) : VReg :=
  match c.ins.find? (fun x => x.1 == r) with
  | some (_, p, seq, tag) =>
      (match (k.port p).block seq with
      | some b => { lanes := b.lanes, tag := tag, marks := b.marks }
      | none => .reset)
  | none => (k.win c.win).v r

/-- The old value of a destination: zero for an output register, whose inactive lanes push zero. -/
def Core.cmdOld (k : Core) (c : VuCmd) (d : Nat) : VReg :=
  if c.outs.any (fun x => x.1 == d) then .reset else (k.win c.win).v d

/-- Lane-wise result: active lanes from `f`, marked when a source lane is; inactive lanes stay (R233, R238). -/
def laneWise (old : VReg) (act : Nat → Bool) (srcs : List VReg) (xm : Bool) (tag : BitVec 8) (f : Nat → BitVec 32) : VReg :=
  let mk (l : Nat) : Bool := xm || srcs.any fun r => bit r.marks l
  { lanes := (List.range 64).map fun l => if act l then f l else laneAt old.lanes l
    tag := tag
    marks := (List.range 64).foldl (fun m l => if act l then setBit m l (mk l) else m) old.marks }

/-- Did an active lane read a mark? -/
def anyMark (act : Nat → Bool) (srcs : List VReg) : Bool :=
  (List.range 64).any fun l => act l && srcs.any fun r => bit r.marks l

/-- Build a lane from its elements (R41). -/
def perElem (c : Nat) (f : Nat → Nat) (lane : Nat) : BitVec 32 :=
  BitVec.ofNat 32 ((laneElems c lane).zipIdx.foldl (fun t p => t + f p.1 % 2 ^ c * 2 ^ (c * p.2)) 0)

/-- Commit a command's result and remove it from the queue: registers, pushed blocks, masks, consumed blocks. A block pushed after the storer hart
has ended is discarded and reported once (13 R297); one that was queued before it ended stays there, unwritten (DEDUCED, log 88). -/
def State.vuCommit (s : State) (co : CoreId) (c : VuCmd) (o : VOut) : State :=
  let s := s.updCore co fun k => { k with vq := k.vq.drop 1 }
  let s := o.regs.foldl (fun s p =>
    match c.outs.find? (fun x => x.1 == p.1) with
    | some (_, q) =>
        let port := (s.core co).port q
        if port.ended then
          if port.overrun then s
          else
            let s := s.updPort co q fun x => { x with overrun := true, err := true, errcls := if x.err then x.errcls else 9 }
            s.report c.serial { cls := 9, detail := 7, engine := 5, ctx := 0x1F, unit := place co, addr := 0 }
        else s.updPort co q fun x =>
          { x with queue := x.queue ++ [{ seq := 0, lanes := p.2.lanes, marks := p.2.marks }] }
    | none => s.updWin co c.win fun w => { w with vs := mset w.vs p.1 p.2 }) s
  let s := o.masks.foldl (fun s p => s.updWin co c.win fun w => { w with ms := mset w.ms p.1 p.2 }) s
  let dead := c.ins.any fun x => ((s.core co).port x.2.1).queue.isEmpty
  let s := c.ins.foldl (fun s x => s.updPort co x.2.1 fun p => { p with queue := p.queue.drop 1, taken := p.taken + 1 }) s
  (if o.used || dead then s.vuMark (byThread 1 c.thread c.serial c.run) 1 0 else s).migsOver

end Sys2Proof.Machine
end

