-- ==== Sys2Proof/Machine/Vector.lean ====
section
/-! DEFINITION. The vector instructions: what each asks at acceptance, and what it does when the VU executes it
(03 R49, R50; 11 R233 to R251). -/

namespace Sys2Proof.Machine

/-! Results of executed commands. -/

/-- An element-wise result in the format of the first source's tag; `f` takes the format, the rounding mode and the
elements in the same position (R241). -/
def Core.vElems (k : Core) (c : VuCmd) (d : Nat) (srcs : List Nat) (m : BitVec 3) (e : BitVec 1) (xm : Bool)
    (f : Fmt → Nat → List Nat → Nat) : VOut :=
  let act := (k.win c.win).active m e
  let rs := srcs.map (k.cmdReg c)
  let tag := (rs.headD .reset).tag
  let old := k.cmdOld c d
  let reg := match k.tagFmt tag with
    | some fm => laneWise old act rs xm tag (perElem fm.cont fun n => f fm (k.tagRm tag) (rs.map fun r => elemAt fm.cont r.lanes n))
    | none => old
  { regs := [(d, reg)], masks := [], used := anyMark act rs, x := none }

/-- A lane-wise result on lane bits, which copies the first source's tag. -/
def Core.vBits (k : Core) (c : VuCmd) (d : Nat) (srcs : List Nat) (m : BitVec 3) (e : BitVec 1)
    (f : BitVec 32 → BitVec 32 → BitVec 32) : VOut :=
  let act := (k.win c.win).active m e
  let rs := srcs.map (k.cmdReg c)
  let a := rs.headD .reset
  let b := rs.getD 1 .reset
  { regs := [(d, laneWise (k.cmdOld c d) act rs false a.tag fun l => f (laneAt a.lanes l) (laneAt b.lanes l))]
    masks := [], used := anyMark act rs, x := none }

/-- Two operands of an element operation. -/
def on2 (f : Nat → Nat → Nat) (l : List Nat) : Nat := f (l.getD 0 0) (l.getD 1 0)

/-- A floating-point operation on exact values, rounded once. -/
def fl1 (f : Val → Val) (fm : Fmt) (rm : Nat) (l : List Nat) : Nat := fm.round rm (f (fm.decode (l.getD 0 0)))
def fl2 (f : Nat → Val → Val → Val) (fm : Fmt) (rm : Nat) (l : List Nat) : Nat :=
  fm.round rm (f rm (fm.decode (l.getD 0 0)) (fm.decode (l.getD 1 0)))
def fl3 (f : Nat → Val → Val → Val → Val) (fm : Fmt) (rm : Nat) (l : List Nat) : Nat :=
  fm.round rm (f rm (fm.decode (l.getD 0 0)) (fm.decode (l.getD 1 0)) (fm.decode (l.getD 2 0)))

/-- Absolute value and negation: integers wrap, floats change only the sign (R242). -/
def vAbs (fm : Fmt) (_rm : Nat) (l : List Nat) : Nat :=
  let a := l.getD 0 0
  if fm.isInt then (if (fm.decode a).sign then (2 ^ fm.width - a) % 2 ^ fm.width else a)
  else fm.round 0 (match fm.decode a with | .fin _ m x => .fin false m x | .inf _ => .inf false | .nan => .nan)
def vNeg (fm : Fmt) (_rm : Nat) (l : List Nat) : Nat :=
  let a := l.getD 0 0
  if fm.isInt then (2 ^ fm.width - a) % 2 ^ fm.width else fm.round 0 (fm.decode a).neg

/-- Shifts of R244. -/
def vShl (fm : Fmt) (_rm : Nat) : List Nat → Nat := on2 fun a b => a * 2 ^ (b % fm.width)
def vShr (fm : Fmt) (_rm : Nat) : List Nat → Nat := on2 fun a b =>
  let n := b % fm.width
  if fm.signed && decide (2 ^ (fm.width - 1) ≤ a) then a / 2 ^ n + (2 ^ n - 1) * 2 ^ (fm.width - n) else a / 2 ^ n

/-- Conditions of VCMP (R245). -/
inductive VCond where
  | eq | ne | lt | ltu | ge | geu
deriving DecidableEq, Repr

/-- A VCMP condition on two elements. -/
def VCond.test (q : VCond) (fm : Fmt) (a b : Nat) : Bool :=
  let x := fm.decode a
  let y := fm.decode b
  match q with
  | .eq => x.eq y
  | .ne => !x.eq y
  | .lt => x.lt y
  | .ltu => decide (a < b)
  | .ge => y.lt x || x.eq y
  | .geu => decide (b ≤ a)

/-- A compare's mask: active bits written. -/
def Core.vCompare (k : Core) (c : VuCmd) (q : VCond) (d : BitVec 3) (a b : BitVec 4) (m : BitVec 3) (e : BitVec 1) : VOut :=
  let w := k.win c.win
  let act := w.active m e
  let x := k.cmdReg c a.toNat
  let y := k.cmdReg c b.toNat
  let fm := (k.tagFmt x.tag).getD .fp32
  { regs := []
    masks := [(d.toNat, (List.range 64).foldl (fun v l =>
      if act l then setBit v l (q.test fm (laneAt x.lanes l).toNat (laneAt y.lanes l).toNat) else v) (w.m d.toNat))]
    used := anyMark act [x, y], x := none }

/-- Mask logic: inactive bits keep their value (R251). -/
def Core.vMask (k : Core) (c : VuCmd) (d a b m : BitVec 3) (e : BitVec 1) (f : Bool → Bool → Bool) : VOut :=
  let w := k.win c.win
  { regs := [], used := false, x := none
    masks := [(d.toNat, (List.range 64).foldl (fun v l =>
      if w.active m e l then setBit v l (f (bit (w.m a.toNat) l) (bit (w.m b.toNat) l)) else v) (w.m d.toNat))] }

/-! Reductions and scans (R248; 03 R49, R50). -/

/-- The operator of `op` on two lanes of a format. -/
def redOp (op : Nat) (fm : Fmt) (a b : BitVec 32) : BitVec 32 :=
  match op with
  | 0 => fadd32 a b
  | 1 => fmax32 a b
  | 2 => fmin32 a b
  | 3 => a + b
  | 4 => if fm.signed then (if a.toInt < b.toInt then b else a) else if a.toNat < b.toNat then b else a
  | _ => if fm.signed then (if b.toInt < a.toInt then b else a) else if b.toNat < a.toNat then b else a

/-- Its identity. -/
def redId (op : Nat) (fm : Fmt) : BitVec 32 :=
  match op with
  | 0 => 0
  | 1 => 0xFF800000
  | 2 => 0x7F800000
  | 3 => 0
  | 4 => if fm.signed then 0x80000000 else 0
  | _ => if fm.signed then 0x7FFFFFFF else 0xFFFFFFFF

/-- One level of the tree. -/
def redLevel (f : BitVec 32 → BitVec 32 → BitVec 32) : List (Option (BitVec 32)) → List (Option (BitVec 32))
  | some a :: some b :: t => some (f a b) :: redLevel f t
  | some a :: none :: t => some a :: redLevel f t
  | none :: b :: t => b :: redLevel f t
  | l => l

/-- Six levels. -/
def redTree (f : BitVec 32 → BitVec 32 → BitVec 32) : Nat → List (Option (BitVec 32)) → Option (BitVec 32)
  | 0, l => l.headD none
  | n + 1, l => redTree f n (redLevel f l)

/-- Running values of a scan. -/
def scanList (f : BitVec 32 → BitVec 32 → BitVec 32) (id : BitVec 32) (run : Option (BitVec 32)) :
    List (Option (BitVec 32)) → List (BitVec 32)
  | [] => []
  | v :: t =>
      let run := match run, v with | some r, some x => some (f r x) | none, x => x | r, none => r
      run.getD id :: scanList f id run t

/-- Lanes that enter a reduction, scan or sort: inactive ones as zero with `.z`, else absent (R234). -/
def entering (act : Nat → Bool) (z : BitVec 1) (l : List (BitVec 32)) : List (Option (BitVec 32)) :=
  (List.range 64).map fun n => if act n then some (laneAt l n) else if z = 1 then some 0 else none

/-- Marks of the active lanes up to each lane. -/
def scanMarks (act : Nat → Bool) (mk : BitVec 64) : BitVec 64 :=
  ((List.range 64).foldl (fun (p : BitVec 64 × Bool) l =>
    let on := p.2 || (act l && bit mk l)
    (setBit p.1 l on, on)) (0, false)).1

/-! Sorting (R250). -/

/-- Sort position: NaN last; then the value as an integer that orders as the format does; then the source lane. -/
def sortKey (fm : Fmt) (desc : Bool) (v : BitVec 32) : Bool × Int :=
  let x : Int :=
    if fm.isInt then (if fm.signed then v.toInt else v.toNat)
    else if v.msb then -1 - (v.toNat % 2 ^ 31 : Nat) else v.toNat
  (!fm.isInt && (fm.decode v.toNat).isNan, if desc then -x else x)

/-- Does an entry stand before another? -/
def sortBefore (a b : (Bool × Int) × Nat) : Bool :=
  if a.1.1 != b.1.1 then b.1.1
  else if !a.1.1 && a.1.2 != b.1.2 then decide (a.1.2 < b.1.2)
  else decide (a.2 ≤ b.2)

/-- Place an entry into a sorted list. -/
def sortInsert (x : (Bool × Int) × Nat) : List ((Bool × Int) × Nat) → List ((Bool × Int) × Nat)
  | [] => [x]
  | y :: t => if sortBefore x y then x :: y :: t else y :: sortInsert x t

/-- Source lanes in sorted order. -/
def sortLanes (fm : Fmt) (desc : Bool) (keys : List (BitVec 32)) : List Nat :=
  ((keys.zipIdx.map fun p => (sortKey fm desc p.1, p.2)).foldl (fun l x => sortInsert x l) []).map (·.2)

/-- The result of one executed command that accesses no memory (DEDUCED, log 51). -/
def Core.vuEval (k : Core) (c : VuCmd) : VOut :=
  let none1 : VOut := { regs := [], masks := [], used := false, x := none }
  let w := k.win c.win
  let el (d a b : BitVec 4) (m : BitVec 3) (e : BitVec 1) := k.vElems c d.toNat [a.toNat, b.toNat] m e false
  let e1 (d a : BitVec 4) (m : BitVec 3) (e : BitVec 1) := k.vElems c d.toNat [a.toNat] m e false
  let bits2 (d a b : BitVec 4) (m : BitVec 3) (e : BitVec 1) := k.vBits c d.toNat [a.toNat, b.toNat] m e
  match c.instr with
  | .vadd d a b m e => el d a b m e (fl2 Val.add)
  | .vsub d a b m e => el d a b m e (fl2 fun rm x y => x.add rm y.neg)
  | .vmul d a b m e => el d a b m e (fl2 fun _ x y => x.mul y)
  | .vfma d a b x m e => k.vElems c d.toNat [a.toNat, b.toNat, x.toNat] m e false (fl3 fun rm p q r => (p.mul q).add rm r)
  | .vfms d a b x m e => k.vElems c d.toNat [a.toNat, b.toNat, x.toNat] m e false (fl3 fun rm p q r => r.add rm (p.mul q).neg)
  | .vmin d a b m e => el d a b m e (fl2 fun _ x y => x.min y)
  | .vmax d a b m e => el d a b m e (fl2 fun _ x y => x.max y)
  | .vabs d a m e => e1 d a m e vAbs
  | .vneg d a m e => e1 d a m e vNeg
  | .vrcp d a m e => k.vBits c d.toNat [a.toNat] m e fun x _ => vrcp32 x
  | .vrsq d a m e => k.vBits c d.toNat [a.toNat] m e fun x _ => vrsq32 x
  | .vexp2 d a m e => e1 d a m e fun fm _ l => fl1 Val.exp2 fm 0 l
  | .vlog2 d a m e => e1 d a m e fun fm _ l => fl1 Val.log2 fm 0 l
  | .vtanh d a m e => e1 d a m e fun fm _ l => fl1 Val.tanh fm 0 l
  | .vand d a b m e => bits2 d a b m e (· &&& ·)
  | .vor d a b m e => bits2 d a b m e (· ||| ·)
  | .vxor d a b m e => bits2 d a b m e (· ^^^ ·)
  | .vshl d a b m e => el d a b m e vShl
  | .vshr d a b m e => el d a b m e vShr
  | .viadd d a b m e => el d a b m e fun _ _ => on2 (· + ·)
  | .vimul d a b m e => el d a b m e fun _ _ => on2 (· * ·)
  | .vsel d a b m =>
      let x := k.cmdReg c a.toNat
      let y := k.cmdReg c b.toNat
      let pick (l : Nat) : VReg := if bit (w.m m.toNat) l then x else y
      { none1 with
        regs := [(d.toNat, laneWise (k.cmdOld c d.toNat) (fun _ => true) [x, y] false x.tag fun l => laneAt (pick l).lanes l)]
        used := anyMark (fun _ => true) [x, y] }
  | .vcmpEq d a b m e => k.vCompare c .eq d a b m e
  | .vcmpNe d a b m e => k.vCompare c .ne d a b m e
  | .vcmpLt d a b m e => k.vCompare c .lt d a b m e
  | .vcmpLtu d a b m e => k.vCompare c .ltu d a b m e
  | .vcmpGe d a b m e => k.vCompare c .ge d a b m e
  | .vcmpGeu d a b m e => k.vCompare c .geu d a b m e
  | .vred d a op m e z =>
      let x := k.cmdReg c a.toNat
      let act := w.active m e
      let fm := (k.tagFmt x.tag).getD .fp32
      let r := (redTree (redOp op.toNat fm) 6 (entering act z x.lanes)).getD (redId op.toNat fm)
      { none1 with
        regs := [(d.toNat, { lanes := r :: List.replicate 63 0, tag := x.tag, marks := if anyMark act [x] then 1 else 0 })]
        used := anyMark act [x] }
  | .vscan d a op m e z =>
      let x := k.cmdReg c a.toNat
      let act := w.active m e
      let fm := (k.tagFmt x.tag).getD .fp32
      { none1 with
        regs := [(d.toNat, { lanes := scanList (redOp op.toNat fm) (redId op.toNat fm) none (entering act z x.lanes),
                             tag := x.tag, marks := scanMarks act x.marks })]
        used := anyMark act [x] }
  | .vperm d a b m e _ =>
      let x := k.cmdReg c a.toNat
      let y := k.cmdReg c b.toNat
      let act := w.active m e
      let old := k.cmdOld c d.toNat
      let idx (l : Nat) : Nat := (laneAt y.lanes l).toNat % 64
      let mk (l : Nat) : Bool := bit y.marks l || (act (idx l) && bit x.marks (idx l))
      { none1 with
        regs := [(d.toNat,
          { lanes := (List.range 64).map fun l =>
              if act l then (if act (idx l) then laneAt x.lanes (idx l) else 0) else laneAt old.lanes l
            tag := x.tag
            marks := (List.range 64).foldl (fun v l => if act l then setBit v l (mk l) else v) old.marks })]
        used := (List.range 64).any fun l => act l && mk l }
  | .vsort d a b dir m e _ =>
      let x := k.cmdReg c a.toNat
      let y := k.cmdReg c b.toNat
      let act := w.active m e
      let fm := (k.tagFmt x.tag).getD .fp32
      let zero (l : List (BitVec 32)) : List (BitVec 32) := (List.range 64).map fun n => if act n then laneAt l n else 0
      let keys := zero x.lanes
      let pay := zero y.lanes
      let order := sortLanes fm (dir == 0) keys
      let canon (v : BitVec 32) : BitVec 32 := if !fm.isInt && (fm.decode v.toNat).isNan then 0x7FC00000 else v
      let mk := anyMark act [x]
      let mp := mk || anyMark act [y]
      let marks (on : Bool) : BitVec 64 := if on then BitVec.allOnes 64 else 0
      { none1 with
        regs := [(d.toNat, { lanes := order.map fun n => canon (laneAt keys n), tag := x.tag, marks := marks mk }),
                 (d.toNat + 1, { lanes := order.map (laneAt pay ·), tag := y.tag, marks := marks mp })]
        used := mp }
  | .vcvt d a n m e =>
      let x := k.cmdReg c a.toNat
      let act := w.active m e
      match k.tagFmt x.tag, k.fmtOf n.toNat with
      | some fs, some fd =>
          { none1 with
            regs := [(d.toNat, laneWise (k.cmdOld c d.toNat) act [x] false (fmtTag n)
              (perElem fd.cont fun j => fd.round (imageRm (mget 0 k.fmt n.toNat)) (fs.decode (elemAt fs.cont x.lanes j))))]
            used := anyMark act [x] }
      | _, _ => none1
  | .vpack d a n m e =>
      let act := w.active m e
      match k.fmtOf n.toNat with
      | some fd =>
          let g := groupOf (some fd)
          let rs := (List.range g).map fun i => k.cmdReg c (a.toNat + i)
          let src (j : Nat) : VReg := rs.getD (j / 64) .reset
          let val (j : Nat) : Nat :=
            if act (j % 64) then
              (match k.tagFmt (src j).tag with
               | some fs => fd.round (imageRm (mget 0 k.fmt n.toNat)) (fs.decode (laneAt (src j).lanes (j % 64)).toNat)
               | none => 0)
            else 0
          { none1 with
            regs := [(d.toNat,
              { lanes := (List.range 64).map (perElem fd.cont val), tag := fmtTag n
                marks := (List.range 64).foldl (fun v l =>
                  setBit v l ((laneElems fd.cont l).any fun j => act (j % 64) && bit (src j).marks (j % 64))) 0 })]
            used := anyMark act rs }
      | none => none1
  | .vunpack d a n m e =>
      let x := k.cmdReg c a.toNat
      let act := w.active m e
      match k.tagFmt x.tag, k.fmtOf n.toNat with
      | some fs, some fd =>
          let mk (j : Nat) : Bool := bit x.marks (elemPos fs.cont j).1
          { none1 with
            regs := (List.range (groupOf (some fs))).map fun i =>
              let old := k.cmdOld c (d.toNat + i)
              (d.toNat + i,
                { lanes := (List.range 64).map fun l =>
                    if act l then BitVec.ofNat 32 (fd.round (imageRm (mget 0 k.fmt n.toNat))
                      (fs.decode (elemAt fs.cont x.lanes (64 * i + l))))
                    else laneAt old.lanes l
                  tag := fmtTag n
                  marks := (List.range 64).foldl (fun v l => if act l then setBit v l (mk (64 * i + l)) else v) old.marks })
            used := (List.range (64 * groupOf (some fs))).any fun j => act (j % 64) && mk j }
      | _, _ => none1
  | .mand d a b m e => k.vMask c d a b m e (· && ·)
  | .mor d a b m e => k.vMask c d a b m e (· || ·)
  | .mnot d a m e => k.vMask c d a a m e fun x _ => !x
  | .vbcast d _ m e =>
      let old := k.cmdOld c d.toNat
      { none1 with
        regs := [(d.toNat, laneWise old (w.active m e) [] c.xam ((w.v d.toNat).tag) fun _ => c.xa.truncate 32)] }
  | .vmovx v _ _ =>
      let r := k.cmdReg c v.toNat
      let l := c.xb.toNat % 64
      { none1 with used := bit r.marks l, x := some ((laneAt r.lanes l).zeroExtend 64, bit r.marks l || c.xam) }
  | .vrot d a _ m e =>
      let x := k.cmdReg c a.toNat
      let act := w.active m e
      let old := k.cmdOld c d.toNat
      let from_ (l : Nat) : Nat := (l + c.xa.toNat % 64) % 64
      { none1 with
        regs := [(d.toNat,
          { lanes := (List.range 64).map fun l => if act l then laneAt x.lanes (from_ l) else laneAt old.lanes l
            tag := x.tag
            marks := (List.range 64).foldl (fun v l =>
              if act l then setBit v l (c.xam || bit x.marks (from_ l)) else v) old.marks })]
        used := (List.range 64).any fun l => act l && bit x.marks (from_ l) }
  | .vscale d a _ m e =>
      let n : Int := (c.xa.truncate 32 : BitVec 32).toInt
      k.vElems c d.toNat [a.toNat] m e c.xam
        (fl1 fun v => match v with | .fin s x y => if x = 0 then v else .fin s x (y + n) | v => v)
  | .vsetf d n => { none1 with regs := [(d.toNat, { w.v d.toNat with tag := fmtTag n })] }
  | _ => none1

/-! Execution of the memory forms (R235, R238). -/

/-- Read the elements of a load into a register. -/
def State.vuReadElems (s : State) (b : By) (n : Nat) (keys : List (Nat × Nat × Word)) (old : VReg) (tag : BitVec 8)
    (xm : Nat → Bool) : State × VReg :=
  let lane (e : Nat) : Nat := if n = 2 then e / 2 else e
  let clear := keys.foldl (fun v x => setBit v (lane x.1) (xm (lane x.1))) old.marks
  keys.foldl (fun (p : State × VReg) x =>
    let r := p.1.vuLoad b x.2.1 n x.2.2
    let l := lane x.1
    (r.1, { p.2 with
      lanes := p.2.lanes.set l (insBits (laneAt p.2.lanes l) (if n = 2 then 16 * (x.1 % 2) else 0) (8 * n) (leNat r.2.1))
      marks := if r.2.2 then setBit p.2.marks l true else p.2.marks })) (s, { lanes := (List.range 64).map (laneAt old.lanes), tag := tag, marks := clear })

/-- Write the elements of a store. -/
def State.vuWriteElems (s : State) (b : By) (n : Nat) (keys : List (Nat × Nat × Word)) (r : VReg) : State :=
  keys.foldl (fun s x =>
    let l := if n = 2 then x.1 / 2 else x.1
    let v := (laneAt r.lanes l).toNat / 2 ^ (if n = 2 then 16 * (x.1 % 2) else 0)
    s.vuStore b x.2.1 (leBytes n v) (bit r.marks l) x.2.2) s

/-- Element size of a block access in a format: lanes, or 16-bit elements. -/
def blockSize (f : Option Fmt) : Nat := match f with | some f => if f.cont = 16 then 2 else 4 | none => 4

/-- The value of a VMOVX arrives in its destination. -/
def Ctx.arrived (c : Ctx) (r : Nat) (v : Word) (mark : Bool) : Ctx :=
  { (c.setX r v mark) with pend := c.pend.eraseP fun p => p.len == 0 && p.dest == r }

/-- Execute the oldest command of a core's VU. -/
def State.vuExecute (s : State) (co : CoreId) (c : VuCmd) : State :=
  let k := s.core co
  let b := byThread 1 c.thread c.serial c.run
  let load (v : BitVec 4) (f : BitVec 4) (n : Nat) : State :=
    let r := s.vuReadElems b n c.keys (k.cmdOld c v.toNat) (fmtTag f) fun _ => c.xam
    r.1.vuCommit co c { regs := [(v.toNat, r.2)], masks := [], used := false, x := none }
  let store (v : BitVec 4) (n : Nat) (used : Bool) : State :=
    (s.vuWriteElems b n c.keys (k.cmdReg c v.toNat)).vuCommit co c { regs := [], masks := [], used := used, x := none }
  match c.instr with
  | .vld v _ f _ _ => load v f (blockSize (k.fmtOf f.toNat))
  | .vlds v _ _ f _ _ => load v f (blockSize (k.fmtOf f.toNat))
  | .vldx v _ i f m e => 
      let r := s.vuReadElems b 4 c.keys (k.cmdOld c v.toNat) (fmtTag f) fun l => c.xam || bit (k.cmdReg c i.toNat).marks l
      r.1.vuCommit co c { regs := [(v.toNat, r.2)], masks := [], x := none
                          used := anyMark ((k.win c.win).active m e) [k.cmdReg c i.toNat] }
  | .vst v _ _ _ => store v (blockSize (k.tagFmt (k.cmdReg c v.toNat).tag)) false
  | .vstx v _ i m e => store v 4 (anyMark ((k.win c.win).active m e) [k.cmdReg c i.toNat])
  | .vmovx _ d _ =>
      let o := k.vuEval c
      let s := s.vuCommit co c o
      match o.x with
      | some (v, mark) =>
          (match s.runner c.thread c.run with
          | some t =>
              (s.updCtx t fun x => x.arrived d.toNat v mark).pairSync t [d.toNat] [] []
          | none => { s with spills := s.spills.map fun (x : Spill) =>
              if x.ctx.run = c.run then { x with late := x.late ++ [(d.toNat, v, mark)] } else x })
      | none => s
  | _ => s.vuCommit co c (k.vuEval c)

/-! What each instruction asks at acceptance. -/

/-- A form with sources and destinations and a failing check. -/
def VForm.of (srcs dsts : List Nat) (bad : Option (Nat × Nat)) : VForm :=
  { empty := false, plain := false, wait := false, srcs := srcs, dsts := dsts, xa := 0, xb := 0, bad := bad, mem := none }

/-- Tag check of source registers of the executing thread's window (DEDUCED, log 96). -/
def State.vTags (s : State) (g : Fmt → Bool) (rs : List Nat) : Option (Nat × Nat) :=
  let k := s.core s.cur.core
  k.tagsOk g (rs.map (k.srcTag (s.vwin s.cur)))

/-- Format of a register at acceptance, and of an FMT register. -/
def State.vFmt (s : State) (r : Nat) : Option Fmt :=
  let k := s.core s.cur.core
  k.tagFmt (k.srcTag (s.vwin s.cur) r)
def State.vImg (s : State) (n : BitVec 4) : Option Fmt := (s.core s.cur.core).fmtOf n.toNat

/-- Masks of the executing thread's window: is a lane active? -/
def State.vActive (s : State) (m : BitVec 3) (e : BitVec 1) (l : Nat) : Bool :=
  ((s.core s.cur.core).win (s.vwin s.cur)).active m e l

/-- Issue a form whose sources are numbers of a group. -/
def State.vArith (s : State) (i : Instr) (g : Fmt → Bool) (srcs : List Nat) (d : List Nat) : Res :=
  s.vuIssue i (fun s => VForm.of srcs d (s.vTags g srcs)) id

/-- Issue a form that checks no tag. -/
def State.vPlain (s : State) (i : Instr) (srcs : List Nat) (d : List Nat) : Res :=
  s.vuIssue i (fun _ => VForm.of srcs d none) id

/-- Addresses of a block's active elements. -/
def State.vBlock (s : State) (store : Bool) (f : Option Fmt) (a : Word) (m : BitVec 3) (e : BitVec 1) : VMem :=
  let n := blockSize f
  let small : Bool := match f with | some f => decide (f.cont < 16) | none => false
  { store := store, size := n, align := if small then 256 else n, step := n, detail := if small then 3 else 1
    elems := ((List.range (256 / n)).filter fun j => s.vActive m e (if n = 2 then j / 2 else j)).map fun j => (j, a + w64 (n * j)) }

/-- Addresses of an indexed form's active lanes. -/
def State.vIndexed (s : State) (store : Bool) (a : Word) (i : Nat) (m : BitVec 3) (e : BitVec 1) : VMem :=
  let lanes := ((s.core s.cur.core).peek (s.vwin s.cur) i).getD []
  let sg : Bool := match s.vFmt i with | some f => f.signed | none => false
  { store := store, size := 4, align := 4, step := 0, detail := 1
    elems := ((List.range 64).filter fun l => s.vActive m e l).map fun l =>
      let v := laneAt lanes l
      (l, a + 4 * (if sg then v.signExtend 64 else v.zeroExtend 64)) }

/-- Join checks: the first failure. -/
def firstBad (l : List (Option (Nat × Nat))) : Option (Nat × Nat) := l.findSome? id

/-- A check that raises FORMAT. -/
def fmtBad (ok : Bool) (d : Nat) : Option (Nat × Nat) := if ok then none else some (7, d)

/-! Memory forms (R235, R236). -/

def execVld (v : BitVec 4) (a : BitVec 5) (f : BitVec 4) (m : BitVec 3) (e : BitVec 1) (s : State) : Res :=
  s.vuIssue (.vld v a f m e) (fun s =>
    { VForm.of [] [v.toNat] (fmtBad (s.vImg f).isSome 2) with
      empty := e == 1, xa := a.toNat, mem := some (s.vBlock false (s.vImg f) (s.me.x a.toNat) m e) }) id
def execVst (v : BitVec 4) (a : BitVec 5) (m : BitVec 3) (e : BitVec 1) (s : State) : Res :=
  s.vuIssue (.vst v a m e) (fun s =>
    { VForm.of [v.toNat] [] (fmtBad (s.vFmt v.toNat).isSome 2) with
      empty := e == 1, xa := a.toNat, mem := some (s.vBlock true (s.vFmt v.toNat) (s.me.x a.toNat) m e) }) id
def execVlds (v : BitVec 4) (a b : BitVec 5) (f : BitVec 4) (m : BitVec 3) (e : BitVec 1) (s : State) : Res :=
  s.vuIssue (.vlds v a b f m e) (fun s =>
    let n := blockSize (s.vImg f)
    { VForm.of [] [v.toNat] (firstBad [fmtBad (s.vImg f).isSome 2,
        fmtBad (match s.vImg f with | some x => decide (16 ≤ x.cont) | none => false) 1]) with
      empty := e == 1, xa := a.toNat, xb := b.toNat
      mem := some { store := false, size := n, align := n, step := 0, detail := 1
                    elems := ((List.range (256 / n)).filter fun j => s.vActive m e (if n = 2 then j / 2 else j)).map fun j =>
                      (j, s.me.x a.toNat + w64 j * s.me.x b.toNat) } }) id
def execVldx (v : BitVec 4) (a : BitVec 5) (i f : BitVec 4) (m : BitVec 3) (e : BitVec 1) (s : State) : Res :=
  s.vuIssue (.vldx v a i f m e) (fun s =>
    { VForm.of [i.toNat] [v.toNat] (firstBad [fmtBad (s.vImg f).isSome 2,
        fmtBad (match s.vImg f with | some x => inW32 x | none => false) 1,
        s.vTags inI32 [i.toNat] |>.map fun _ => (7, 1)]) with
      empty := true, wait := ((s.core s.cur.core).peek (s.vwin s.cur) i.toNat).isNone, xa := a.toNat
      mem := some (s.vIndexed false (s.me.x a.toNat) i.toNat m e) }) id
def execVstx (v : BitVec 4) (a : BitVec 5) (i : BitVec 4) (m : BitVec 3) (e : BitVec 1) (s : State) : Res :=
  s.vuIssue (.vstx v a i m e) (fun s =>
    { VForm.of [v.toNat, i.toNat] [] (firstBad [s.vTags inW32 [v.toNat],
        s.vTags inI32 [i.toNat] |>.map fun _ => (7, 1)]) with
      empty := true, wait := ((s.core s.cur.core).peek (s.vwin s.cur) i.toNat).isNone, xa := a.toNat
      mem := some (s.vIndexed true (s.me.x a.toNat) i.toNat m e) }) id

/-! Lane-wise arithmetic (R242, R243). -/

def execVadd (d a b : BitVec 4) (m : BitVec 3) (e : BitVec 1) (s : State) : Res :=
  s.vArith (.vadd d a b m e) inF [a.toNat, b.toNat] [d.toNat]
def execVsub (d a b : BitVec 4) (m : BitVec 3) (e : BitVec 1) (s : State) : Res :=
  s.vArith (.vsub d a b m e) inF [a.toNat, b.toNat] [d.toNat]
def execVmul (d a b : BitVec 4) (m : BitVec 3) (e : BitVec 1) (s : State) : Res :=
  s.vArith (.vmul d a b m e) inF [a.toNat, b.toNat] [d.toNat]
def execVfma (d a b c : BitVec 4) (m : BitVec 3) (e : BitVec 1) (s : State) : Res :=
  s.vArith (.vfma d a b c m e) inF [a.toNat, b.toNat, c.toNat] [d.toNat]
def execVfms (d a b c : BitVec 4) (m : BitVec 3) (e : BitVec 1) (s : State) : Res :=
  s.vArith (.vfms d a b c m e) inF [a.toNat, b.toNat, c.toNat] [d.toNat]
def execVmin (d a b : BitVec 4) (m : BitVec 3) (e : BitVec 1) (s : State) : Res :=
  s.vArith (.vmin d a b m e) inFI [a.toNat, b.toNat] [d.toNat]
def execVmax (d a b : BitVec 4) (m : BitVec 3) (e : BitVec 1) (s : State) : Res :=
  s.vArith (.vmax d a b m e) inFI [a.toNat, b.toNat] [d.toNat]
def execVabs (d a : BitVec 4) (m : BitVec 3) (e : BitVec 1) (s : State) : Res :=
  s.vArith (.vabs d a m e) inFI [a.toNat] [d.toNat]
def execVneg (d a : BitVec 4) (m : BitVec 3) (e : BitVec 1) (s : State) : Res :=
  s.vArith (.vneg d a m e) inFI [a.toNat] [d.toNat]
def execVrcp (d a : BitVec 4) (m : BitVec 3) (e : BitVec 1) (s : State) : Res :=
  s.vArith (.vrcp d a m e) inF32 [a.toNat] [d.toNat]
def execVrsq (d a : BitVec 4) (m : BitVec 3) (e : BitVec 1) (s : State) : Res :=
  s.vArith (.vrsq d a m e) inF32 [a.toNat] [d.toNat]
def execVexp2 (d a : BitVec 4) (m : BitVec 3) (e : BitVec 1) (s : State) : Res :=
  s.vArith (.vexp2 d a m e) inF [a.toNat] [d.toNat]
def execVlog2 (d a : BitVec 4) (m : BitVec 3) (e : BitVec 1) (s : State) : Res :=
  s.vArith (.vlog2 d a m e) inF [a.toNat] [d.toNat]
def execVtanh (d a : BitVec 4) (m : BitVec 3) (e : BitVec 1) (s : State) : Res :=
  s.vArith (.vtanh d a m e) inF [a.toNat] [d.toNat]

/-! Integer, logic, compare and select (R244, R245). -/

def execVand (d a b : BitVec 4) (m : BitVec 3) (e : BitVec 1) (s : State) : Res :=
  s.vPlain (.vand d a b m e) [a.toNat, b.toNat] [d.toNat]
def execVor (d a b : BitVec 4) (m : BitVec 3) (e : BitVec 1) (s : State) : Res :=
  s.vPlain (.vor d a b m e) [a.toNat, b.toNat] [d.toNat]
def execVxor (d a b : BitVec 4) (m : BitVec 3) (e : BitVec 1) (s : State) : Res :=
  s.vPlain (.vxor d a b m e) [a.toNat, b.toNat] [d.toNat]
def execVshl (d a b : BitVec 4) (m : BitVec 3) (e : BitVec 1) (s : State) : Res :=
  s.vArith (.vshl d a b m e) inI [a.toNat, b.toNat] [d.toNat]
def execVshr (d a b : BitVec 4) (m : BitVec 3) (e : BitVec 1) (s : State) : Res :=
  s.vArith (.vshr d a b m e) inI [a.toNat, b.toNat] [d.toNat]
def execViadd (d a b : BitVec 4) (m : BitVec 3) (e : BitVec 1) (s : State) : Res :=
  s.vArith (.viadd d a b m e) inI [a.toNat, b.toNat] [d.toNat]
def execVimul (d a b : BitVec 4) (m : BitVec 3) (e : BitVec 1) (s : State) : Res :=
  s.vArith (.vimul d a b m e) inI [a.toNat, b.toNat] [d.toNat]
def execVsel (d a b : BitVec 4) (m : BitVec 3) (s : State) : Res :=
  s.vArith (.vsel d a b m) inAny [a.toNat, b.toNat] [d.toNat]
def execVcmpEq (k : BitVec 3) (a b : BitVec 4) (m : BitVec 3) (e : BitVec 1) (s : State) : Res :=
  s.vArith (.vcmpEq k a b m e) inW32 [a.toNat, b.toNat] []
def execVcmpNe (k : BitVec 3) (a b : BitVec 4) (m : BitVec 3) (e : BitVec 1) (s : State) : Res :=
  s.vArith (.vcmpNe k a b m e) inW32 [a.toNat, b.toNat] []
def execVcmpLt (k : BitVec 3) (a b : BitVec 4) (m : BitVec 3) (e : BitVec 1) (s : State) : Res :=
  s.vArith (.vcmpLt k a b m e) inW32 [a.toNat, b.toNat] []
def execVcmpLtu (k : BitVec 3) (a b : BitVec 4) (m : BitVec 3) (e : BitVec 1) (s : State) : Res :=
  s.vArith (.vcmpLtu k a b m e) inI32 [a.toNat, b.toNat] []
def execVcmpGe (k : BitVec 3) (a b : BitVec 4) (m : BitVec 3) (e : BitVec 1) (s : State) : Res :=
  s.vArith (.vcmpGe k a b m e) inW32 [a.toNat, b.toNat] []
def execVcmpGeu (k : BitVec 3) (a b : BitVec 4) (m : BitVec 3) (e : BitVec 1) (s : State) : Res :=
  s.vArith (.vcmpGeu k a b m e) inI32 [a.toNat, b.toNat] []

/-! Reductions, scans and lane movement (R248 to R250). -/

/-- Group of an operator of VRED and VSCAN. -/
def redGroup (op : BitVec 4) : Fmt → Bool := if op.toNat < 3 then inF32 else inI32

def execVred (d a o : BitVec 4) (m : BitVec 3) (e z : BitVec 1) (s : State) : Res :=
  s.vuIssue (.vred d a o m e z) (fun s =>
    { VForm.of [a.toNat] [d.toNat] (s.vTags (redGroup o) [a.toNat]) with plain := true }) id
def execVscan (d a o : BitVec 4) (m : BitVec 3) (e z : BitVec 1) (s : State) : Res :=
  s.vuIssue (.vscan d a o m e z) (fun s =>
    { VForm.of [a.toNat] [d.toNat] (s.vTags (redGroup o) [a.toNat]) with plain := true }) id
/-- VPERM without `.z`: an active lane that names an inactive one raises ILLEGAL 0x07 (R234). -/
def execVperm (d a b : BitVec 4) (m : BitVec 3) (e z : BitVec 1) (s : State) : Res :=
  s.vuIssue (.vperm d a b m e z) (fun s =>
    let idx := (s.core s.cur.core).peek (s.vwin s.cur) b.toNat
    let strict : Bool := e == 1 && z == 0
    let act := s.vActive m e
    let lost : Bool := (List.range 64).any fun l => act l && !act ((laneAt (idx.getD []) l).toNat % 64)
    { VForm.of [a.toNat, b.toNat] [d.toNat] (firstBad [s.vTags inI32 [b.toNat],
        if strict && lost then some (9, 7) else none]) with
      empty := strict, wait := strict && idx.isNone }) id
def execVsort (d a b : BitVec 4) (c : BitVec 1) (m : BitVec 3) (e z : BitVec 1) (s : State) : Res :=
  s.vuIssue (.vsort d a b c m e z) (fun s =>
    let strict : Bool := e == 1 && z == 0
    { VForm.of [a.toNat, b.toNat] [d.toNat, d.toNat + 1] (firstBad [
        if d.toNat % 2 = 1 then some (9, 7) else none, s.vTags inW32 [a.toNat],
        if strict && (List.range 64).any (fun l => !s.vActive m e l) then some (9, 7) else none]) with
      plain := true, empty := strict }) id
def execVrot (d a : BitVec 4) (x : BitVec 5) (m : BitVec 3) (e : BitVec 1) (s : State) : Res :=
  s.vuIssue (.vrot d a x m e) (fun _ => { VForm.of [a.toNat] [d.toNat] none with xa := x.toNat }) id
def execVbcast (d : BitVec 4) (a : BitVec 5) (m : BitVec 3) (e : BitVec 1) (s : State) : Res :=
  s.vuIssue (.vbcast d a m e) (fun _ => { VForm.of [] [d.toNat] none with xa := a.toNat }) id

/-- VMOVX: its destination counts as a relaxed load's; with eight of them in flight the thread parks for the value itself (R249; 07 R138). -/
def execVmovx (v : BitVec 4) (d b : BitVec 5) (s : State) : Res :=
  let i : Instr := .vmovx v d b
  let c := s.me
  let form (_ : State) : VForm := { VForm.of [v.toNat] [] none with xb := b.toNat }
  let value (relaxed : Bool) : Pend :=
    { load := true, relaxed := relaxed, va := 0, len := 0, dest := d.toNat, data := [], marks := [], key := none, rel := none, ord := 0 }
  if c.held.any fun h => h.cause == .reply false then
    if c.pend.any fun p => p.len == 0 && p.dest == d.toNat then .next (s.park i (.reply false))
    else .next ((s.updMe fun c => c.next 4).pairSync s.cur [d.toNat] [] [])
  else if c.relaxed < 8 then s.vuIssue i form fun s => s.updMe fun c => { c with pend := c.pend ++ [value true] }
  else
    s.vuIssue i form fun s =>
      (s.updMe fun x => { x with pc := c.pc, pfx := c.pfx, rlx := c.rlx, pend := x.pend ++ [value false] }).park i (.reply false)

/-! Conversions, packing and scaling (R246, R247). -/

def execVcvt (d a n : BitVec 4) (m : BitVec 3) (e : BitVec 1) (s : State) : Res :=
  s.vuIssue (.vcvt d a n m e) (fun s =>
    VForm.of [a.toNat] [d.toNat] (firstBad [s.vTags inAny [a.toNat], fmtBad (s.vImg n).isSome 2,
      fmtBad (decide ((s.vFmt a.toNat).map (·.cont) = (s.vImg n).map (·.cont))) 1])) id
def execVpack (d a n : BitVec 4) (m : BitVec 3) (e : BitVec 1) (s : State) : Res :=
  s.vuIssue (.vpack d a n m e) (fun s =>
    let g := groupOf (s.vImg n)
    let nar : Bool := match s.vImg n with | some f => inNar f | none => true
    let srcs := if a.toNat % g = 0 then (List.range g).map (a.toNat + ·) else [a.toNat]
    VForm.of srcs [d.toNat] (firstBad [
      if a.toNat % g ≠ 0 then some (9, 7) else none, fmtBad (s.vImg n).isSome 2, s.vTags inW32 srcs, fmtBad nar 1])) id
def execVunpack (d a n : BitVec 4) (m : BitVec 3) (e : BitVec 1) (s : State) : Res :=
  s.vuIssue (.vunpack d a n m e) (fun s =>
    let g := groupOf (s.vFmt a.toNat)
    let wide : Bool := match s.vImg n with | some f => inW32 f | none => true
    let dsts := if d.toNat % g = 0 then (List.range g).map (d.toNat + ·) else [d.toNat]
    VForm.of [a.toNat] dsts (firstBad [
      if d.toNat % g ≠ 0 then some (9, 7) else none, s.vTags inNar [a.toNat], fmtBad (s.vImg n).isSome 2, fmtBad wide 1])) id
def execVscale (d a : BitVec 4) (x : BitVec 5) (m : BitVec 3) (e : BitVec 1) (s : State) : Res :=
  s.vuIssue (.vscale d a x m e) (fun s => { VForm.of [a.toNat] [d.toNat] (s.vTags inF [a.toNat]) with xa := x.toNat }) id
def execVsetf (d n : BitVec 4) (s : State) : Res :=
  s.vuIssue (.vsetf d n) (fun _ => { VForm.of [] [d.toNat] none with plain := true }) id

/-! Masks (R251) and VFENCE (R240). -/

def execMand (d a b m : BitVec 3) (e : BitVec 1) (s : State) : Res := s.vPlain (.mand d a b m e) [] []
def execMor (d a b m : BitVec 3) (e : BitVec 1) (s : State) : Res := s.vPlain (.mor d a b m e) [] []
def execMnot (d a m : BitVec 3) (e : BitVec 1) (s : State) : Res := s.vPlain (.mnot d a m e) [] []
/-- VFENCE completes at acceptance, by an empty VU. -/
def execVfence (s : State) : Res :=
  let t := s.cur
  if s.vwin t = 15 then .next (s.trap 6 5 0)
  else if !(s.core t.core).vuTakes t.ctx true then .next (s.vuPark .vfence)
  else .next ((s.updCore t.core fun k => { k with vuWait := k.vuWait.erase t.ctx }).updMe fun c => c.next 4)

end Sys2Proof.Machine
end

