-- ==== Sys2Proof/Machine/Streams.lean ====
section
/-! DEFINITION. Streams (13 R289 to R303): ports and their pattern generators, STRM.BIND and STRM.END, decisions sent back,
the stream instructions of the loader and storer harts, and the execution of the VU's oldest command. -/

namespace Sys2Proof.Machine

/-! Harts. -/

/-- Number of a hart in its core's map: loader 0 to 3, storer 4 to 7. -/
def hartKey (h : HartId) : Nat := if h.storer then 4 + h.n else h.n
def Core.hart (k : Core) (n : Nat) : Hart := mget .reset k.harts n
def State.hartOf (s : State) (h : HartId) : Hart := (s.core h.core).hart (hartKey h)
def State.updHart (s : State) (h : HartId) (f : Hart → Hart) : State :=
  s.updCore h.core fun k => { k with harts := mset k.harts (hartKey h) (f (k.hart (hartKey h))) }
def Hart.x (h : Hart) (r : Nat) : Word := if r = 0 then 0 else mget 0 h.xs r
def Hart.setX (h : Hart) (r : Nat) (v : Word) : Hart := if r = 0 then h else { h with xs := mset h.xs r v }

/-- On whose behalf a hart acts: no thread's, so that no dispatch has its number. -/
def State.hartBy (s : State) (h : HartId) : By :=
  { eng := if h.storer then 5 else 4, ctx := 0x1F, unit := place h.core, serial := ((s.core h.core).port h.n).serial,
    thread := h.core.thread 0, run := 2 ^ 64 }

/-- A port records its first error. -/
def Port.fail (p : Port) (cls : Nat) : Port :=
  { p with err := true, errcls := if p.err then p.errcls else BitVec.ofNat 4 cls }

/-- An error of a stream: recorded in the port and reported to the launch (R301). The bank is the reporting unit of a PARITY, and Nimbus has
no core (08 R180). -/
def State.streamErr (s : State) (h : HartId) (p cls det : Nat) (a : Word) : State :=
  let b := s.hartBy h
  (s.updPort h.core p fun x => x.fail cls).byReport
    (if cls = 3 ∧ a.toNat / 2 ^ 56 = 0x7E then { b with unit := unitDie h.core.die } else b) cls det a

/-- The hart ends, and its port with it. -/
def State.hartEnd (s : State) (h : HartId) : State :=
  (s.updHart h fun x => { x with ended := true }).updPort h.core h.n fun p =>
    if p.out = h.storer then { p with ended := true } else p

/-- A hart trap (R301): the hart ends and the generator ends. -/
def State.hartTrap (s : State) (h : HartId) (cls det : Nat) (a : Word) : State :=
  ((s.streamErr h h.n cls det a).hartEnd h).updPort h.core h.n fun p =>
    if p.out = h.storer then { p with gend := true } else p

/-- The hart stalls on a translation fault until replay (R295). -/
def State.hartStall (s : State) (h : HartId) (k : Acc1) (a : Word) : State :=
  (s.engFault (s.hartBy h).serial h.core k a).updHart h fun x => { x with stalled := true }

/-- Go on after a hart instruction of `n` bytes. -/
def State.hartNext (s : State) (h : HartId) (n : Nat) (f : Hart → Hart) : State :=
  s.updHart h fun x => { (f x) with pc := x.pc + n }

/-- A hart that may issue. -/
def State.hartOn (s : State) (f : HartId → State) : Res :=
  let h := s.curHart
  let x := s.hartOf h
  if x.ended || x.stalled then .next s else (f h).out

/-! The pattern generator (R291, R292). -/

def Port.control (p : Port) : Nat := leAt p.scb 0 8
def Port.base (p : Port) : Word := w64 (leAt p.scb 8 8)
def Port.ibase (p : Port) : Word := w64 (leAt p.scb 16 8)
def Port.level (p : Port) (n : Nat) : Nat := leAt p.scb (24 + 8 * n) 8
def Port.count (p : Port) (n : Nat) : Nat := fld (p.level n) 48 16
def Port.stride (p : Port) (n : Nat) : Word := (BitVec.ofNat 48 (p.level n)).signExtend 64
def Port.ind (p : Port) : Bool := fld p.control 3 1 == 1
def Port.ilev (p : Port) : Nat := fld p.control 4 2

/-- Increment loop `n` of the coordinates, carrying outwards; none past level 3. Inner loops are set to 0. -/
def Port.bump (p : Port) (ls : List Nat) : Nat → Nat → Option (List Nat)
  | 0, _ => none
  | k + 1, n =>
      if ls.getD n 0 + 1 < p.count n then
        some ((List.range 4).map fun m => if m < n then 0 else if m = n then ls.getD n 0 + 1 else ls.getD m 0)
      else p.bump ls k (n + 1)

/-- Coordinates that follow `ls` in loop `n`. -/
def Port.follows (p : Port) (ls : List Nat) (n : Nat) : Option (List Nat) := p.bump ls (4 - n) n

/-- Address of the block at coordinates whose indirect level holds `t`. -/
def Port.addrAt (p : Port) (ls : List Nat) (t : Option Nat) : Word :=
  (List.range 4).foldl (fun a n =>
    a + w64 (match t with | some v => if n = p.ilev then v else ls.getD n 0 | none => ls.getD n 0) * p.stride n) p.base

/-- Apply a decision to a generator that has generated at least C blocks (R299 items 2 and 3) (DEDUCED, log 53). -/
def Port.decided (p : Port) (d : Decision) : Port :=
  let ref := if d.c = 0 then mget p.ls p.gen 0 else mget p.ls p.gen (d.c - 1)
  let p := { p with
    queue := p.queue.filter fun b => decide (b.seq < d.c)
    held := match p.held with | some n => if n < d.c then some n else none | none => none
    gen := p.gen.filter fun g => decide (g.1 < d.c), badIdx := p.badIdx.filter fun n => decide (n < d.c)
    seq := d.c }
  if d.stop then { p with gend := true }
  else match p.follows ref d.level with
    | some ls => { p with ls := ls, gend := false }
    | none => { p with gend := true }

/-- Apply the late decisions that the blocks generated so far allow; a generator that has ended voids the rest (item 4). -/
def Port.settleLate : Nat → Port → Port
  | 0, p => p
  | n + 1, p =>
      match p.late with
      | [] => p
      | d :: t =>
          if d.c ≤ p.seq then Port.settleLate n (({ p with late := t }).decided d)
          else if p.gend then { p with late := [] }
          else p

/-- A SKIP or STOP takes effect. -/
def Port.decision (p : Port) (stop : Bool) (level : Nat) : Port :=
  let p := { p with dec := p.dec + 1, late := p.late ++ [{ stop := stop, level := level, c := p.claim }] }
  Port.settleLate p.late.length p

/-! Decisions and data sent back (R298). -/

/-- An input port takes an SBQ word: what the store does, or the class and detail of its failure. -/
inductive SbqOut where
  | done (s : State)
  | trap (cls det : Nat)
  | wait

/-- A store of a word to SBQp of a core. -/
def State.sbq (s : State) (c : CoreId) (p : Nat) (v : Word) : SbqOut :=
  let port := (s.core c).port p
  let cmd := bits v 63 62
  let level := bits v 61 60
  let value := bits v 59 0
  if cmd = 3 ∨ (cmd ≠ 1 ∧ level ≠ 0) ∨ (cmd ≠ 0 ∧ value ≠ 0) then .trap 9 7
  else if !port.bound || port.out then .trap 6 7
  else match cmd with
    | 0 =>
        if 8 ≤ port.back.length then .wait
        else .done (s.updPort c p fun x => { x with back := x.back ++ [w64 value] })
    | 1 => .done (s.updPort c p fun x => x.decision false level)
    | _ => .done (s.updPort c p fun x => x.decision true 0)

/-- STRMSTATp (R300). -/
def Core.strmStat (k : Core) (p : Nat) : Word :=
  let x := k.port p
  let ended := (k.hart (if x.out then 4 + p else p)).ended && !x.scb.isEmpty
  w64 (x.claim % 65536 * 2 ^ 48 + x.dec % 65536 * 2 ^ 32 + x.errcls.toNat * 2 ^ 20 + x.queue.length % 16 * 2 ^ 16 +
    b2n x.err * 16 + b2n ended * 8 + b2n (x.gend || (x.out && x.ended)) * 4 + b2n x.out * 2 + b2n x.bound)

/-! STRM.BIND and STRM.END (R293, R294). -/

/-- The limits that R293 puts on an SCB. -/
def scbOk (b : List Byte) : Bool :=
  let c := leAt b 0 8
  let rest := c / 2 ^ 30 == 0 && fld c 12 4 == 0 && fld c 6 2 == 0
  let counts := (List.range 4).all fun n => leAt b (30 + 8 * n) 2 != 0
  rest && counts && fld c 16 1 == 0 && !(fld c 3 1 == 1 && leAt b 16 8 % 4 != 0) && !(fld c 2 1 == 1 && fld c 8 4 != 0)

/-- Bind a port to a register of a window and start its hart. -/
def State.bindPort (s : State) (t : ThreadId) (w r : Nat) (a : Word) (b : List Byte) (ls : List Nat) (claim : Nat) : State :=
  let c := leAt b 0 8
  let p := fld c 0 2
  let out : Bool := fld c 2 1 == 1
  let port : Port := { Port.reset with
    bound := true, out := out, scb := b, scbAddr := a, serial := (s.ctx t).serial, ls := ls, seq := claim, claim := claim
    taken := claim, ended := false, after := (s.ctx t).inFlight, tag := if out then 0 else 0x80 ||| BitVec.ofNat 8 (fld c 8 4) }
  let s := s.updCore t.core fun k => k.setPort p port
  let s := s.updWin t.core w fun x => { x with binds := mset x.binds r p }
  s.updHart ⟨t.core, out, p⟩ fun _ =>
    { xs := [(10, w64 p), (11, a)], pc := fld c 16 14, ended := false, stalled := false }

/-- May a register of a thread's window be bound to a port: a window, at T0 or T1 (R289), the register and the port unbound, and no hart
of the port running? -/
def State.bindable (s : State) (t : ThreadId) (r p : Nat) : Bool :=
  let k := s.core t.core
  s.vwin t != 15 && decide (t.tier < 2) && (mfind (k.win (s.vwin t)).binds r).isNone && !(k.port p).bound && (k.hart p).ended &&
    (k.hart (4 + p)).ended

/-- What STRM.BIND does with the SCB it has read: the first failure of R293's list, or the binding. That a T2 or T3 core has no ports (R289) is part
of the last check (DEDUCED, log 53). -/
def State.bindWith (s : State) (t : ThreadId) (r : Nat) (base : Bool) (at_ : Word) (b : List Byte) (poison : Bool) : Res :=
  let c := leAt b 0 8
  if !scbOk b then .next (s.trap 9 7 at_)
  else if fld c 2 1 = 0 ∧ ((s.core t.core).fmtOf (fld c 8 4)).isNone then .next (s.trap 7 2 at_)
  else if !s.bindable t r (fld c 0 2) then .next (s.trap 6 5 at_)
  else .next ((s.bindPort t (s.vwin t) r at_ b [0, 0, 0, 0] 0).updMe fun x => ((x.consumeAt poison at_).consume base).next 4)

/-- Has a port a STRM.END that is accepted and has not taken effect (R294)? -/
def Core.ending (k : Core) (p : Nat) : Bool :=
  k.vq.any fun m => match m.instr with | .strmEnd _ => (m.keys.map (·.1)).head? == some p | _ => false

/-- Does a STRM.BIND that nothing else fails wait for the port's STRM.END to take effect, after the commands that claimed its blocks
(DEDUCED, log 88)? -/
def State.bindWaits (s : State) (t : ThreadId) (r : Nat) (b : List Byte) : Bool :=
  let p := fld (leAt b 0 8) 0 2
  let k := s.core t.core
  scbOk b && (fld (leAt b 0 8) 2 1 == 1 || (k.fmtOf (fld (leAt b 0 8) 8 4)).isSome) && s.bindable t r p && k.ending p

/-- STRM.BIND: bound at acceptance; the VU reads the SCB after the thread's own accesses to it, and the thread keeps its place among those
parked meanwhile (11 R231; DEDUCED, log 53). -/
def execStrmBind (v : BitVec 2) (a : BitVec 5) (s : State) : Res :=
  let i : Instr := .strmBind v a
  let t := s.cur
  let at_ := s.me.x a.toNat
  let off (s : State) : State := s.updCore t.core fun k => { k with vuWait := k.vuWait.erase t.ctx }
  if !(s.core t.core).vuTakes t.ctx false then .next (s.vuPark i)
  else if at_.toNat / 2 ^ 56 ≠ 0 ∧ at_.toNat / 2 ^ 56 ≠ 0x7F then .next (s.trap 6 1 at_)
  else match s.checkAcc t at_ 64 64 .load with
    | .xfault => .next ((off s).parkX i at_ .load)
    | _ => s.access i at_ 64 64 .load fun loc =>
        s.afterIf (fun p => p.meets loc.key at_ 64) (fun s _ => s.vuPark i) fun s =>
          let g := s.loadLoc t loc at_ 64 none
          if g.1.bindWaits t (12 + v.toNat) g.2.1 then .next (g.1.vuPark i)
          else (off g.1).bindWith t (12 + v.toNat) (g.1.me.xp a.toNat) at_ g.2.1 (g.2.2.any id)

/-- STRM.END: unbound at acceptance; the port ends in command order. -/
def execStrmEnd (v : BitVec 2) (s : State) : Res :=
  let i : Instr := .strmEnd v
  let t := s.cur
  let w := s.vwin t
  let r := 12 + v.toNat
  if w = 15 then .next (s.trap 6 5 0)
  else if !(s.core t.core).vuTakes t.ctx false then .next (s.vuPark i)
  else match mfind ((s.core t.core).win w).binds r with
    | none => .next (s.trap 6 5 0)
    | some p =>
        let s := s.vuAccept i (VForm.of [] [] none) w [(p, 0, 0)]
        let s := s.updWin t.core w fun x => { x with binds := merase x.binds r }
        .next (s.updPort t.core p fun x => { x with bound := false })

/-- A port as an input port ends: generator ended, queue discarded. -/
def Port.finish (p : Port) : Port := { p with gend := true, ended := true, late := [], held := none, queue := [], bound := false }

/-- A port ends as STRM.END ends it. The hart of an output port runs on until it has drained the queue: its SB.NEXT gives addresses until
then (DEDUCED, log 88). -/
def State.endPort (s : State) (c : CoreId) (p : Nat) : State :=
  if ((s.core c).port p).out then s.updPort c p fun x => { x with ended := true, late := [] }
  else (s.updPort c p Port.finish).updHart ⟨c, false, p⟩ fun h => { h with ended := true, stalled := false }

/-- VU_COMMAND_EXECUTE (11 R231): the oldest command executes, unless it waits on a stream port or for its grant. -/
def execVuCommandExecute (c : CoreId) (s : State) : Res :=
  match (s.core c).vq with
  | [] => .next s
  | cmd :: _ =>
      if !(s.core c).strw.isEmpty then .next s
      else
        let r := s.request c 0 cmd.serial
        if !r.2 then .next r.1
        else
          let s := r.1.updCore c fun k => k.setResw 0 false
          match cmd.instr with
          | .strmEnd _ =>
              let s := s.updCore c fun k => { k with vq := k.vq.drop 1 }
              .next (match cmd.keys with | (p, _) :: _ => s.endPort c p | [] => s)
          | _ => (s.vuExecute c cmd).out

/-! The stream instructions of the harts (R296). -/

/-- Does a port serve a side: bound in its direction, or an output port whose hart still drains it? -/
def Core.serves (k : Core) (p : Nat) (storer : Bool) : Bool :=
  let x := k.port p
  x.out == storer && (x.bound || !(k.hart (if storer then 4 + p else p)).ended)

/-- Alignment of SQ.PUSH and SQ.POP. An output port names no format. -/
def Core.portAlign (k : Core) (p : Nat) : Nat :=
  match k.tagFmt (k.port p).tag with | some f => if f.cont < 16 then 256 else 8 | none => 8

/-- Generate the next block of a port: advance its coordinates and take up late decisions. -/
def Port.generate (p : Port) (bad : Bool) : Port :=
  let n := p.seq
  let p := { p with gen := mset p.gen n p.ls, badIdx := if bad then n :: p.badIdx else p.badIdx, held := some n, seq := n + 1 }
  let p := match p.follows p.ls 0 with | some ls => { p with ls := ls } | none => { p with gend := true }
  Port.settleLate p.late.length p

/-- SB.NEXT. The bits of an index that could not be read are a free value. A poisoned index yields a block with every lane poisoned; an index that cannot be read is handled as a read
error of SQ.PUSH (DESIGN CHOICE, log 52). -/
def execSbNext (a d : BitVec 5) (s : State) : Res :=
  s.hartOn fun h =>
    let k := s.core h.core
    let p := ((s.hartOf h).x a.toNat).toNat % 4
    let port := k.port p
    if !k.serves p h.storer then s.hartTrap h 9 1 (w64 (s.hartOf h).pc)
    else if port.gend || (port.ended && port.queue.isEmpty) then s.hartNext h 4 fun x => x.setX d.toNat (BitVec.allOnes 64)
    else if !port.ind then
      (s.updPort h.core p fun x => x.generate false).hartNext h 4 fun x => x.setX d.toNat (port.addrAt port.ls none)
    else if !s.performed port.after then s
    else
      let ia := port.ibase + w64 (4 * port.ls.getD port.ilev 0)
      let b := s.hartBy h
      match s.engLoad b h.core ia 4 with
      | .done s1 v m par =>
          let s1 := if par then s1.streamErr h p 3 0 ia else s1
          (s1.updPort h.core p fun x => x.generate m).hartNext h 4 fun x =>
            x.setX d.toNat (port.addrAt port.ls (some (leNat v)))
      | .xlate => s.hartStall h .engRead ia
      | .err cls det =>
          let r := s.draw
          ((r.2.streamErr h p cls det ia).updPort h.core p fun x => x.generate true).hartNext h 4 fun x =>
            x.setX d.toNat (port.addrAt port.ls (some (r.1.toNat % 2 ^ 32)))
      | .hole pa => { s with hole := some pa }

/-- SQ.PUSH. The lanes of a block that could not be read are free values, all marked (R292, R301) (DESIGN CHOICE, log 52). -/
def execSqPush (t a : BitVec 5) (s : State) : Res :=
  s.hartOn fun h =>
    let k := s.core h.core
    let x := s.hartOf h
    let p := (x.x t.toNat).toNat % 4
    let at_ := x.x a.toNat
    let port := k.port p
    let push (s : State) (n : Nat) (lanes : List (BitVec 32)) (marks : BitVec 64) : State :=
      (s.updPort h.core p fun q =>
        { q with queue := q.queue ++ [{ seq := n, lanes := lanes, marks := marks }], held := none }).hartNext h 4 id
    let poisoned (s : State) (n : Nat) : State :=
      let r := s.drawList 64
      push r.2 n (r.1.map fun v => v.truncate 32) (BitVec.allOnes 64)
    if !k.serves p h.storer || port.out then s.hartTrap h 9 1 (w64 x.pc)
    else if at_.toNat % k.portAlign p ≠ 0 then s.hartTrap h 8 1 at_
    else match port.held with
      | none => s.hartNext h 4 id
      | some n =>
          if 8 ≤ port.queue.length ∨ !s.performed port.after then s
          else if port.badIdx.contains n then poisoned s n
          else match s.engLoadAll (s.hartBy h) h.core at_ 32 with
            | .done s1 d ms par =>
                let s1 := par.foldl (fun s a => s.streamErr h p 3 0 a) s1
                push s1 n ((List.range 64).map fun l => BitVec.ofNat 32 (leAt d (4 * l) 4))
                  ((List.range 64).foldl (fun v l => setBit v l (ms.getD (l / 2) false)) 0)
            | .stop _ .xlate a => s.hartStall h .engRead a
            | .stop _ (.hole pa) _ => { s with hole := some pa }
            | .stop _ (.err cls det) a => poisoned (s.streamErr h p cls det a) n
            | .stop s1 _ _ => s1

/-- SQ.POP. A block whose write fails writes nothing: its words are checked first (DEDUCED, log 53). -/
def execSqPop (t a d : BitVec 5) (s : State) : Res :=
  s.hartOn fun h =>
    let k := s.core h.core
    let x := s.hartOf h
    let p := (x.x t.toNat).toNat % 4
    let at_ := x.x a.toNat
    let port := k.port p
    if !k.serves p h.storer || !port.out then s.hartTrap h 9 1 (w64 x.pc)
    else if at_.toNat % k.portAlign p ≠ 0 then s.hartTrap h 8 1 at_
    else match port.queue with
      | [] => if port.ended then s.hartNext h 4 fun y => y.setX d.toNat 1 else s
      | blk :: _ =>
          let done (s : State) : State :=
            (s.updPort h.core p fun q => { q with queue := q.queue.drop 1 }).hartNext h 4 fun y => y.setX d.toNat 0
          let words := (List.range 32).map fun n =>
            (leBytes 4 (laneAt blk.lanes (2 * n)).toNat ++ leBytes 4 (laneAt blk.lanes (2 * n + 1)).toNat,
             bit blk.marks (2 * n) || bit blk.marks (2 * n + 1))
          match s.engStoreAll (s.hartBy h) h.core at_ words with
          | .done s1 .. => done s1
          | .stop _ .xlate a => s.hartStall h .engWrite a
          | .stop _ (.hole pa) _ => { s with hole := some pa }
          | .stop _ (.err cls det) a => done (s.streamErr h p cls det a)
          | .stop s1 _ _ => s1

/-- BQ.WAIT. -/
def execBqWait (a d : BitVec 5) (s : State) : Res :=
  s.hartOn fun h =>
    let k := s.core h.core
    let p := ((s.hartOf h).x a.toNat).toNat % 4
    let port := k.port p
    if !k.serves p h.storer then s.hartTrap h 9 1 (w64 (s.hartOf h).pc)
    else match port.back with
      | v :: t => (s.updPort h.core p fun q => { q with back := t }).hartNext h 4 fun y => y.setX d.toNat v
      | [] => if port.ended then s.hartNext h 4 fun y => y.setX d.toNat (BitVec.allOnes 64) else s

/-- ECALL ends the hart's routine (R295). -/
def execEcall (s : State) : Res := s.hartOn fun h => (s.hartNext h 4 id).hartEnd h

/-! SBQ commands as events of a core's input port: the effect of an accepted store (R298, R299). -/

def State.sbqEvent (s : State) (p : BitVec 2) (v : Word) : Res :=
  match s.sbq s.cur.core p.toNat v with | .done s' => .next s' | _ => .next s
def execSbqData (port : BitVec 2) (value : BitVec 60) (s : State) : Res := s.sbqEvent port (value.zeroExtend 64)
def execSbqSkip (port level : BitVec 2) (s : State) : Res :=
  s.sbqEvent port (w64 (2 ^ 62 + level.toNat * 2 ^ 60))
def execSbqStop (port : BitVec 2) (s : State) : Res := s.sbqEvent port (w64 (2 ^ 63))

end Sys2Proof.Machine
end

