-- ==== Sys2Proof/Machine/Harts.lean ====
section
/-! DEFINITION. The loader and storer harts (13 R289, R290, R295, R297): their private stores and the instructions of
RV64IMC, whose meanings are those of the RISC-V standard that R295 names (log 15, PRESUMED). -/

namespace Sys2Proof.Machine

/-! Private stores (R290). -/

/-- Words of the standard routines of R297, which the model encodes with x5, x6 and x7 (DESIGN CHOICE, log 8). -/
def routineWords (storer : Bool) : List Nat :=
  if storer then [0x0005028B, 0xFFF00313, 0x00628863, 0x00A283AB, 0xFE0388E3, 0x00000073, 0x00000073]
  else [0x0005028B, 0xFFF00313, 0x00628663, 0x00A2900B, 0xFF1FF06F, 0x00000073]

/-- A byte of a hart's private store; none outside its 16 KiB. -/
def Core.privByte (k : Core) (storer : Bool) (off : Nat) : Option Byte :=
  if 16384 ≤ off then none
  else if off < 256 then some (BitVec.ofNat 8 ((routineWords storer).getD (off / 4) 0 / 256 ^ (off % 4)))
  else some ((if storer then k.storerImg else k.loaderImg).getD (off - 256) 0)

/-- A fetch of `n` bytes. -/
def Core.privFetch (k : Core) (storer : Bool) (off : Nat) : Nat → Option Nat
  | 0 => some 0
  | n + 1 =>
      match k.privByte storer off, k.privFetch storer (off + 1) n with
      | some b, some v => some (b.toNat + 256 * v)
      | _, _ => none

/-! Decoded forms. -/

/-- An RV64IM operation after decoding, compact or not. -/
inductive RvOp where
  | lui (d : Nat) (imm : Word)
  | auipc (d : Nat) (imm : Word)
  | jal (d : Nat) (off : Word)
  | jalr (d a : Nat) (off : Word)
  | branch (f3 a b : Nat) (off : Word)
  | load (f3 d a : Nat) (off : Word)
  /-- A store or an AMO: base register and offset. -/
  | store (a : Nat) (off : Word)
  | alui (f : Nat) (w : Bool) (d a : Nat) (imm : Word)
  | alu (f : Nat) (w : Bool) (d a b : Nat)
  | fence
  | illegal
deriving DecidableEq, Repr

/-- Sign-extend the low `n` bits of a number. -/
def sxn (n v : Nat) : Word := (BitVec.ofNat n v).signExtend 64

/-- Operation numbers: 0 ADD, 1 SLL, 2 SLT, 3 SLTU, 4 XOR, 5 SRL, 6 OR, 7 AND, 8 SUB, 13 SRA; 16 to 23 MUL, MULH, MULHSU,
MULHU, DIV, DIVU, REM, REMU (PRESUMED, log 15). -/
def rvAlu (f : Nat) (w : Bool) (x y : Word) : Word :=
  if w then
    let a : BitVec 32 := x.truncate 32
    let b : BitVec 32 := y.truncate 32
    let n := b.toNat % 32
    let r : BitVec 32 :=
      match f with
      | 0 => a + b
      | 1 => a <<< n
      | 5 => a >>> n
      | 8 => a - b
      | 13 => a.sshiftRight n
      | 16 => a * b
      | 20 => if b = 0 then BitVec.allOnes 32 else BitVec.ofInt 32 (a.toInt.tdiv b.toInt)
      | 21 => if b = 0 then BitVec.allOnes 32 else a / b
      | 22 => if b = 0 then a else BitVec.ofInt 32 (a.toInt.tmod b.toInt)
      | _ => if b = 0 then a else a % b
    r.signExtend 64
  else
    let n := y.toNat % 64
    match f with
    | 0 => x + y
    | 1 => x <<< n
    | 2 => if x.toInt < y.toInt then 1 else 0
    | 3 => if x.toNat < y.toNat then 1 else 0
    | 4 => x ^^^ y
    | 5 => x >>> n
    | 6 => x ||| y
    | 7 => x &&& y
    | 8 => x - y
    | 13 => x.sshiftRight n
    | 16 => x * y
    | 17 => BitVec.ofInt 64 (x.toInt * y.toInt / 2 ^ 64)
    | 18 => BitVec.ofInt 64 (x.toInt * (y.toNat : Int) / 2 ^ 64)
    | 19 => BitVec.ofNat 64 (x.toNat * y.toNat / 2 ^ 64)
    | 20 => if y = 0 then BitVec.allOnes 64 else BitVec.ofInt 64 (x.toInt.tdiv y.toInt)
    | 21 => if y = 0 then BitVec.allOnes 64 else x / y
    | 22 => if y = 0 then x else BitVec.ofInt 64 (x.toInt.tmod y.toInt)
    | _ => if y = 0 then x else x % y

/-- Is the branch of a funct3 taken? -/
def rvTaken (f3 : Nat) (x y : Word) : Bool :=
  match f3 with
  | 0 => x == y
  | 1 => x != y
  | 4 => decide (x.toInt < y.toInt)
  | 5 => !decide (x.toInt < y.toInt)
  | 6 => decide (x.toNat < y.toNat)
  | _ => !decide (x.toNat < y.toNat)

/-- A 32-bit word of RV64IM. -/
def rvWide (w : Nat) : RvOp :=
  let d := fld w 7 5
  let f3 := fld w 12 3
  let a := fld w 15 5
  let b := fld w 20 5
  let f7 := fld w 25 7
  let immI := sxn 12 (fld w 20 12)
  match fld w 0 7 with
  | 0x37 => .lui d (sxn 32 (fld w 12 20 * 4096))
  | 0x17 => .auipc d (sxn 32 (fld w 12 20 * 4096))
  | 0x6F => .jal d (sxn 21 (fld w 31 1 * 2 ^ 20 + fld w 12 8 * 4096 + fld w 20 1 * 2048 + fld w 21 10 * 2))
  | 0x67 => if f3 = 0 then .jalr d a immI else .illegal
  | 0x63 =>
      if f3 = 2 ∨ f3 = 3 then .illegal
      else .branch f3 a b (sxn 13 (fld w 31 1 * 4096 + fld w 7 1 * 2048 + fld w 25 6 * 32 + fld w 8 4 * 2))
  | 0x03 => if f3 = 7 then .illegal else .load f3 d a immI
  | 0x23 => if f3 < 4 then .store a (sxn 12 (fld w 25 7 * 32 + fld w 7 5)) else .illegal
  | 0x2F =>
      let f5 := fld w 27 5
      if (f3 = 2 ∨ f3 = 3) ∧ ([0, 1, 3, 4, 8, 12, 16, 20, 24, 28].contains f5 ∨ (f5 = 2 ∧ b = 0)) then .store a 0 else .illegal
  | 0x13 =>
      match f3 with
      | 1 => if fld w 26 6 = 0 then .alui 1 false d a (w64 (fld w 20 6)) else .illegal
      | 5 => if fld w 26 6 = 0 then .alui 5 false d a (w64 (fld w 20 6))
             else if fld w 26 6 = 16 then .alui 13 false d a (w64 (fld w 20 6)) else .illegal
      | f => .alui f false d a immI
  | 0x1B =>
      match f3 with
      | 0 => .alui 0 true d a immI
      | 1 => if f7 = 0 then .alui 1 true d a (w64 b) else .illegal
      | 5 => if f7 = 0 then .alui 5 true d a (w64 b) else if f7 = 32 then .alui 13 true d a (w64 b) else .illegal
      | _ => .illegal
  | 0x33 =>
      match f7 with
      | 0 => .alu f3 false d a b
      | 1 => .alu (16 + f3) false d a b
      | 32 => if f3 = 0 then .alu 8 false d a b else if f3 = 5 then .alu 13 false d a b else .illegal
      | _ => .illegal
  | 0x3B =>
      match f7 with
      | 0 => if f3 = 0 ∨ f3 = 1 ∨ f3 = 5 then .alu f3 true d a b else .illegal
      | 1 => if f3 = 0 ∨ 4 ≤ f3 then .alu (16 + f3) true d a b else .illegal
      | 32 => if f3 = 0 then .alu 8 true d a b else if f3 = 5 then .alu 13 true d a b else .illegal
      | _ => .illegal
  | 0x0F => if f3 < 2 then .fence else .illegal
  | _ => .illegal

/-- A 16-bit word of the C extension. -/
def rvHalf (w : Nat) : RvOp :=
  let f3 := fld w 13 3
  let d := fld w 7 5
  let b := fld w 2 5
  let dp := 8 + fld w 7 3
  let bp := 8 + fld w 2 3
  let i6 := fld w 12 1 * 32 + fld w 2 5
  match fld w 0 2 with
  | 0 =>
      match f3 with
      | 0 =>
          let u := fld w 11 2 * 16 + fld w 7 4 * 64 + fld w 6 1 * 4 + fld w 5 1 * 8
          if u = 0 then .illegal else .alui 0 false bp 2 (w64 u)
      | 2 => .load 2 bp dp (w64 (fld w 10 3 * 8 + fld w 6 1 * 4 + fld w 5 1 * 64))
      | 3 => .load 3 bp dp (w64 (fld w 10 3 * 8 + fld w 5 2 * 64))
      | 6 => .store dp (w64 (fld w 10 3 * 8 + fld w 6 1 * 4 + fld w 5 1 * 64))
      | 7 => .store dp (w64 (fld w 10 3 * 8 + fld w 5 2 * 64))
      | _ => .illegal
  | 1 =>
      match f3 with
      | 0 => .alui 0 false d d (sxn 6 i6)
      | 1 => if d = 0 then .illegal else .alui 0 true d d (sxn 6 i6)
      | 2 => .alui 0 false d 0 (sxn 6 i6)
      | 3 =>
          if d = 2 then
            let u := fld w 12 1 * 512 + fld w 6 1 * 16 + fld w 5 1 * 64 + fld w 3 2 * 128 + fld w 2 1 * 32
            if u = 0 then .illegal else .alui 0 false 2 2 (sxn 10 u)
          else if i6 = 0 then .illegal
          else .lui d (sxn 18 (i6 * 4096))
      | 4 =>
          match fld w 10 2 with
          | 0 => .alui 5 false dp dp (w64 i6)
          | 1 => .alui 13 false dp dp (w64 i6)
          | 2 => .alui 7 false dp dp (sxn 6 i6)
          | _ =>
              match fld w 12 1 * 4 + fld w 5 2 with
              | 0 => .alu 8 false dp dp bp
              | 1 => .alu 4 false dp dp bp
              | 2 => .alu 6 false dp dp bp
              | 3 => .alu 7 false dp dp bp
              | 4 => .alu 8 true dp dp bp
              | 5 => .alu 0 true dp dp bp
              | _ => .illegal
      | 5 => .jal 0 (sxn 12 (fld w 12 1 * 2048 + fld w 11 1 * 16 + fld w 9 2 * 256 + fld w 8 1 * 1024 + fld w 7 1 * 64 +
              fld w 6 1 * 128 + fld w 3 3 * 2 + fld w 2 1 * 32))
      | n => .branch (n - 6) dp 0 (sxn 9 (fld w 12 1 * 256 + fld w 10 2 * 8 + fld w 5 2 * 64 + fld w 3 2 * 2 + fld w 2 1 * 32))
  | 2 =>
      match f3 with
      | 0 => .alui 1 false d d (w64 i6)
      | 2 => if d = 0 then .illegal else .load 2 d 2 (w64 (fld w 12 1 * 32 + fld w 4 3 * 4 + fld w 2 2 * 64))
      | 3 => if d = 0 then .illegal else .load 3 d 2 (w64 (fld w 12 1 * 32 + fld w 5 2 * 8 + fld w 2 3 * 64))
      | 4 =>
          if fld w 12 1 = 0 then
            if b = 0 then (if d = 0 then .illegal else .jalr 0 d 0) else .alu 0 false d 0 b
          else if b = 0 then (if d = 0 then .illegal else .jalr 1 d 0)
          else .alu 0 false d d b
      | 6 => .store 2 (w64 (fld w 9 4 * 4 + fld w 7 2 * 64))
      | 7 => .store 2 (w64 (fld w 10 3 * 8 + fld w 7 3 * 64))
      | _ => .illegal
  | _ => .illegal

/-- A hart instruction's length: two bytes for a compact word. -/
def rvLen (w : BitVec 32) : Nat := if bits w 1 0 = 3 then 4 else 2

/-- The operation of a word (PRESUMED, log 15). -/
def rvDecode (w : BitVec 32) : RvOp := if bits w 1 0 = 3 then rvWide w.toNat else rvHalf (w.toNat % 65536)

/-- A value loaded under a funct3. -/
def rvExtend (f3 : Nat) (v : Nat) : Word :=
  match f3 with
  | 0 => sxn 8 v
  | 1 => sxn 16 v
  | 2 => sxn 32 v
  | _ => w64 v

/-- A program counter in the private store from a 64-bit target. -/
def rvGoto (s : State) (h : HartId) (d : Nat) (n : Nat) (target : Word) : State :=
  s.updHart h fun x => { (x.setX d (w64 (x.pc + n))) with pc := target.toNat }

/-- An RV64IMC instruction of a hart (R295) (PRESUMED, log 15). -/
def execRv64imc (w : BitVec 32) (s : State) : Res :=
  s.hartOn fun h =>
    let x := s.hartOf h
    let n := rvLen w
    let pc := w64 x.pc
    let put (d : Nat) (v : Word) : State := s.hartNext h n fun y => y.setX d v
    match rvDecode w with
    | .lui d imm => put d imm
    | .auipc d imm => put d (pc + imm)
    | .jal d off => rvGoto s h d n (pc + off)
    | .jalr d a off => rvGoto s h d n ((x.x a + off) &&& ~~~1)
    | .branch f3 a b off =>
        if rvTaken f3 (x.x a) (x.x b) then rvGoto s h 0 n (pc + off) else s.hartNext h n id
    | .load f3 d a off =>
        let at_ := x.x a + off
        let size := 2 ^ (f3 % 4)
        let r := at_.toNat / 2 ^ 56
        if at_.toNat % size ≠ 0 then s.hartTrap h 8 1 at_
        else if r ≠ 0 ∧ r ≠ 0x7E ∧ r ≠ 0x7F then s.hartTrap h 6 1 at_
        else match s.engLoad (s.hartBy h) h.core at_ size with
          | .done s1 v _ par =>
              let s1 := if par then s1.streamErr h h.n 3 0 at_ else s1
              s1.hartNext h n fun y => y.setX d (rvExtend f3 (leNat v))
          | .xlate => s.hartStall h .engRead at_
          | .err cls det => s.hartTrap h cls det at_
          | .hole pa => { s with hole := some pa }
    | .store a off => s.hartTrap h 6 1 (x.x a + off)
    | .alui f wd d a imm => put d (rvAlu f wd (x.x a) imm)
    | .alu f wd d a b => put d (rvAlu f wd (x.x a) (x.x b))
    | .fence => s.hartNext h n id
    | .illegal => s.hartTrap h 9 1 pc

/-- The instruction that a hart fetches next: none when the fetch leaves its private store. -/
def State.hartFetch (s : State) (h : HartId) : Option Instr :=
  let k := s.core h.core
  let pc := (s.hartOf h).pc
  match k.privFetch h.storer pc 2 with
  | none => none
  | some lo =>
      if lo % 4 ≠ 3 then some (.rv64imc (BitVec.ofNat 32 lo))
      else match k.privFetch h.storer pc 4 with
        | none => none
        | some w => some (decodeHart w)

end Sys2Proof.Machine
end

