-- ==== Sys2Proof/Machine/Handles.lean ====
section
/-! DEFINITION. Handles and tags: taking a tag, the test of a handle, the HND group and the waits on handles
(04 R71; 07 R166, R167; 13 R276, R277; 14 R310; 20 R402). -/

namespace Sys2Proof.Machine

/-- A handle of an engine (1 copy, 2 lens, 3 Halo), a tag and its generation. -/
def handleOf (eng tag : Nat) (gen : BitVec 16) : BitVec 32 := BitVec.ofNat 32 (gen.toNat * 65536 + eng * 256 + tag)

def Core.tag (k : Core) (n : Nat) : Tag := mget .reset k.tags n
def Lens.tag (l : Lens) (n : Nat) : Tag := mget .reset l.tags n
def Die.htag (d : Die) (n : Nat) : HTag := mget .reset d.htags n
def State.updTag (s : State) (c : CoreId) (n : Nat) (f : Tag → Tag) : State :=
  s.updCore c fun k => { k with tags := mset k.tags n (f (k.tag n)) }
def State.updLens (s : State) (c : CoreId) (f : Lens → Lens) : State := s.updCore c fun k => { k with lens := f k.lens }
def State.updLTag (s : State) (c : CoreId) (n : Nat) (f : Tag → Tag) : State :=
  s.updLens c fun l => { l with tags := mset l.tags n (f (l.tag n)) }
def State.updHTag (s : State) (d n : Nat) (f : HTag → HTag) : State :=
  s.updDie d fun x => { x with htags := mset x.htags n (f (x.htag n)) }

/-- State and generation of a tag of an engine, for a thread. -/
def State.tagOf (s : State) (t : ThreadId) (eng n : Nat) : TagState × BitVec 16 :=
  match eng with
  | 1 => let x := (s.core t.core).tag n; (x.st, x.gen)
  | 2 => let x := (s.core t.core).lens.tag n; (x.st, x.gen)
  | _ => let x := (s.die t.die).htag n; (x.st, x.gen)

/-- Is the operation that a handle names done (R277)? -/
def State.handleDone (s : State) (t : ThreadId) (h : BitVec 32) : Bool :=
  if bits h 9 8 = 0 then true
  else
    let x := s.tagOf t (bits h 9 8) (bits h 5 0)
    x.1 == .complete || x.1 == .cancelled || x.2.toNat != bits h 31 16

/-- Tags of an engine. -/
def tagCount (eng : Nat) : Nat := match eng with | 1 => 64 | 2 => 8 | _ => 16

/-- The lowest-numbered tag that is not RUNNING. -/
def State.freeTag (s : State) (t : ThreadId) (eng : Nat) : Option Nat :=
  (List.range (tagCount eng)).find? fun n => (s.tagOf t eng n).1 != .running

/-- Do the threads held for a tag of the engine come after this one (R276)? -/
def State.tagTurn (s : State) (t : ThreadId) (eng : Nat) : Bool :=
  let waits (u : ThreadId) : Bool := match (s.ctx u).held with | some h => h.cause == .tags eng | none => false
  if eng = 3 then (match (s.die t.die).haloWait.find? waits with | none => true | some u => u == t)
  else (match (s.core t.core).tagWait.find? (fun n => waits (t.core.thread n)) with | none => true | some n => n == t.ctx)

/-- Join, or leave, the line for a tag. -/
def State.tagLine (s : State) (t : ThreadId) (eng : Nat) (join : Bool) : State :=
  if eng = 3 then s.updDie t.die fun d =>
    { d with haloWait := if join then (if d.haloWait.contains t then d.haloWait else d.haloWait ++ [t]) else d.haloWait.erase t }
  else s.updCore t.core fun k =>
    { k with tagWait :=
        if join then (if k.tagWait.contains t.ctx then k.tagWait else k.tagWait ++ [t.ctx]) else k.tagWait.erase t.ctx }

/-- Take a tag for the executing thread, or hold the instruction until one is free. `f` gets the tag and its handle. -/
def State.takeTag (s : State) (i : Instr) (eng : Nat) (f : State → Nat → BitVec 32 → State) : Res :=
  let t := s.cur
  match s.freeTag t eng with
  | some n =>
      if s.tagTurn t eng then
        let s := s.tagLine t eng false
        let gen := (s.tagOf t eng n).2 + 1
        let s := match eng with
          | 1 => s.updTag t.core n fun _ => { Tag.reset with st := .running, gen := gen }
          | 2 => s.updLTag t.core n fun _ => { Tag.reset with st := .running, gen := gen }
          | _ => s.updHTag t.die n fun _ => { HTag.reset with st := .running, gen := gen }
        .next (f s n (handleOf eng n gen))
      else .next ((s.tagLine t eng true).park i (.tags eng))
  | none => .next ((s.tagLine t eng true).park i (.tags eng))

/-- FREEZE holds an engine operation issued by a stepped or stopped context (10 R220). -/
def State.frozenFor (s : State) (t : ThreadId) : Bool :=
  bit (s.core t.core).dbgctl 1 && ((s.ctx t).st == .stopped || (s.ctx t).stepping)

/-- Does the die hold what it has for the threads of a launch: completions of Halo tags and answers to RSTOREs, from its save until its
restore (10 R210)? -/
def State.heldFor (s : State) (serial : Word) : Bool :=
  match (s.launch serial).st with | .saving => true | .saved => true | .restoring => true | _ => false

/-- Is the Lemuf-X port of a peer lost, or its die, which has ports 2d and 2d + 1 (01 R8), without a route from a die (10 R228; 20 R400,
R421)? -/
def State.portLost (s : State) (d peer : Nat) : Bool :=
  decide (16 ≤ peer) && (bit s.dev.xlost (peer - 16) || !s.routed d ((peer - 16) / 2))

/-- The first error of a tag. -/
def Tag.fail (x : Tag) (cls det : Nat) (a : Word) : Tag :=
  if x.cls = 0 then { x with cls := BitVec.ofNat 4 cls, detail := BitVec.ofNat 8 det, addr := a } else x

/-- State code of a tag. -/
def TagState.code (x : TagState) : Nat := match x with | .idle => 0 | .running => 1 | .complete => 2 | .cancelled => 3

/-- CESTATn and LNSTATn (13 R278, 14 R322). -/
def Tag.stat (x : Tag) : Word :=
  w64 (x.gen.toNat * 2 ^ 48 + x.detail.toNat * 2 ^ 32 + x.cls.toNat * 2 ^ 28 + x.st.code * 2 ^ 26 + b2n x.frec * 2 ^ 25 +
    b2n x.pois * 2 ^ 24 + x.done % 2 ^ 24)

/-- TAGDONE (13 R277), as a GETC that issues in cycle `n` shows it: without the completions of that cycle (06 R130). -/
def Core.tagDone (k : Core) (n : Nat) : Word :=
  (List.range 64).foldl (fun v j =>
    let x := k.tag j
    setBit v j (x.st == .idle || (x.st != .running && decide (x.doneAt < n)))) 0

/-- Message classes of a core. -/
def Core.cls (k : Core) (n : Nat) : ClassB := mget .reset k.classes n
/-- MSGRDY of a context: the classes bound to it whose rings hold a message (07 R158), without the arrivals of cycle `n` (06 R130). -/
def Core.msgrdy (k : Core) (ctx n : Nat) : BitVec 16 :=
  (List.range 16).foldl (fun v j =>
    let c := k.cls j
    setBit v j (c.bound && bits c.binding 7 4 == ctx && decide (0 < c.msgs - if c.lastAt = n then c.fresh else 0))) 0
/-- Does a class bound to the context hold a message? -/
def Core.hasMsg (k : Core) (ctx : Nat) : Bool :=
  (List.range 16).any fun n => (k.cls n).bound && bits (k.cls n).binding 7 4 == ctx && decide (0 < (k.cls n).msgs)
/-- Is a class bound to the context? -/
def Core.hasClass (k : Core) (ctx : Nat) : Bool :=
  (List.range 16).any fun n => (k.cls n).bound && bits (k.cls n).binding 7 4 == ctx

/-- Change the copy that a tag of a core names: one of the core, or one of another core that a move of its record has redirected there
(22 R434). -/
def State.updCopies (s : State) (c : CoreId) (n : Nat) (f : CopyOp → CopyOp) : State :=
  let is (k : Nat) (o : CopyOp) : Bool := (k == coreKey c && o.tag == n) || o.redirect.contains (c, n)
  if s.cores.any fun k => k.2.copies.any (is k.1) then
    { s with cores := s.cores.map fun k => (k.1, { k.2 with copies := k.2.copies.map fun o => if is k.1 o then f o else o }) }
  else s

/-! The HND group (07 R166). -/

/-- HTEST of a handle writes a predicate. -/
def execHtest (p : BitVec 3) (h : BitVec 4) (s : State) : Res :=
  match s.toP p.toNat (s.handleDone s.cur (s.me.h h.toNat)) false 4 with
  | .next s => .next (s.pairSync s.cur [] [p.toNat] [])
  | r => r

/-- HCANCEL asks the engine to stop; a done operation is left as it is. -/
def execHcancel (h : BitVec 4) (s : State) : Res :=
  let t := s.cur
  let v := s.me.h h.toNat
  let n := bits v 5 0
  let s :=
    if s.handleDone t v then s
    else match bits v 9 8 with
      | 1 => s.updCopies t.core n fun o => { o with cancel := true }
      | 2 =>
          let waits : Bool := (s.core t.core).lens.ops.any fun o => o.tag == n && o.waiting
          let s := s.updLens t.core fun l => { l with ops := l.ops.map fun o => if o.tag = n then { o with cancel := true } else o }
          if waits then s.unseat t.core else s
      | _ => s.updHTag t.die n fun x =>
          { x with sched := x.sched.map fun c => { c with cancel := true, stopped := true, evw := false } }
  .next (s.updMe fun c => c.next 4)

def execMovhHH (d h : BitVec 4) (s : State) : Res :=
  .next (s.updMe fun c => (c.setH d.toNat (c.h h.toNat)).next 4)

/-- MOVH hd, xa refuses a value that names no tag. -/
def execMovhHX (d : BitVec 4) (a : BitVec 5) (s : State) : Res :=
  let v := s.me.x a.toNat
  if bits v 63 32 ≠ 0 ∨ bits v 15 10 ≠ 0 ∨ bits v 7 6 ≠ 0 ∨ (bits v 9 8 = 2 ∧ 8 ≤ bits v 5 0) ∨ (bits v 9 8 = 3 ∧ 16 ≤ bits v 5 0)
  then .next (s.trap 9 7 0)
  else .next (s.updMe fun c => ((c.consume (c.xp a.toNat)).setH d.toNat (v.truncate 32)).next 4)
def execMovhXH (d : BitVec 5) (h : BitVec 4) (s : State) : Res :=
  s.toX d.toNat ((s.me.h h.toNat).zeroExtend 64) false 4

/-- FFDONE: every RSTORE acknowledged; a refusal traps PEER with its detail. -/
def execFfdone (s : State) : Res :=
  let c := s.me
  if c.rstores ≠ 0 then .next (s.park .ffdone .ffdone)
  else if c.refused ≠ 0 then .next (s.trap 12 c.refused 0)
  else .next ((s.updMe fun c => c.next 4).pairSync s.cur [] [] [])

/-! Waits (07 R167). -/

/-- Handles that a mask names. -/
def maskHandles (m : BitVec 16) : List Nat := (List.range 16).filter fun n => bit m n

/-- Is the condition of a wait met? -/
def State.waitMet (s : State) (t : ThreadId) (m : BitVec 16) (any : Bool) : Bool :=
  let done (n : Nat) : Bool := s.handleDone t ((s.ctx t).h n)
  if any then
    (maskHandles m).any done || (s.core t.core).hasMsg t.ctx || (m == 0 && !(s.core t.core).hasClass t.ctx)
  else (maskHandles m).all done

def execWaitall (m : BitVec 16) (s : State) : Res :=
  if s.waitMet s.cur m false then .next ((s.updMe fun c => c.next 4).pairSync s.cur [] [] [])
  else .next (s.park (.waitall m) (.handles m false))
def execWaitany (m : BitVec 16) (s : State) : Res :=
  if s.waitMet s.cur m true then .next ((s.updMe fun c => c.next 4).pairSync s.cur [] [] [])
  else .next (s.park (.waitany m) (.handles m true))

end Sys2Proof.Machine
end

