-- ==== Sys2Proof/Machine/LensOps.lean ====
section
/-! DEFINITION. Lens operations: geometry, the elements each destination element reads, and how an engine performs an
operation (14 R306, R307, R312 to R318, R325). -/

namespace Sys2Proof.Machine

/-- A geometry and a size word, taken apart (R306, R307, R312). -/
structure LensArgs where
  elem : Nat
  wbase : Nat
  off : Nat
  taps : Nat
  ratio : Nat
  acc : Bool
  take : Bool
  sync : Bool
  fold : Bool
  layout : Bool
  fr : Nat
  fe : Nat
  cr : Nat
  ce : Nat
  m : Nat
  n : Nat
  rows : Nat
deriving DecidableEq, Repr

def lensArgs (lmode lfine lcoarse size : Word) : LensArgs :=
  let stride (v : Word) : Nat := if bits v 15 0 = 0 then 1 else bits v 15 0
  { elem := bits lmode 1 0, wbase := bits lmode 29 24, off := bits lmode 23 20, taps := bits lmode 19 17 + 1
    ratio := bits lmode 16 14 + 1, acc := bit lmode 6, take := bit lmode 5, sync := bit lmode 4, fold := bit lmode 3
    layout := bit lmode 2, fr := bits lfine 47 16, fe := stride lfine, cr := bits lcoarse 47 16, ce := stride lcoarse
    m := bits size 31 16, n := bits size 15 0, rows := bits size 47 32 }

/-- Element size E. -/
def LensArgs.e (a : LensArgs) : Nat := if a.elem = 3 then 8 else 4
/-- Fine elements of a row. -/
def LensArgs.nf (a : LensArgs) : Nat := if a.fold then a.n else 4 * a.n
/-- Child and element of fine element `j` (R314). -/
def LensArgs.child (a : LensArgs) (j : Nat) : Nat := if a.fold then 0 else if a.layout then j % 4 else j / a.n
def LensArgs.sub (a : LensArgs) (j : Nat) : Nat := if a.fold then j else if a.layout then j / 4 else j % a.n

/-- Source elements of destination element `j` of a row, in tap order, with the weight each is multiplied by; none when the
element is not written (R315, R316). -/
def LensArgs.reads (a : LensArgs) (kind j : Nat) : Option (List (Nat × Option Nat)) :=
  match kind with
  | 0 => some ((List.range a.taps).filterMap fun t =>
      let x := a.ratio * j + t
      if a.off ≤ x ∧ x - a.off < a.nf then some (x - a.off, some (a.wbase + t)) else none)
  | 3 =>
      let x := a.ratio * j
      if a.off ≤ x ∧ x - a.off < a.nf then some [(x - a.off, none)] else none
  | 8 =>
      let lo := (j + a.off + 1 - a.taps + a.ratio - 1) / a.ratio
      let hi := min a.m ((j + a.off) / a.ratio + 1)
      some ((List.range (hi - lo)).map fun n => (lo + n, some (a.wbase + (j + a.off - a.ratio * (lo + n)))))
  | 9 => some [(a.sub j, none)]
  | 10 =>
      let x := j + a.off
      if x % a.ratio = 0 ∧ x / a.ratio < a.m then some [(x / a.ratio, none)] else none
  | _ => some ((List.range a.taps).filterMap fun t =>
      let x := a.ratio * j + t
      if a.off ≤ x ∧ x - a.off < a.nf then some (x - a.off, none) else none)

def LensOp.args (o : LensOp) : LensArgs := lensArgs o.lmode o.lfine o.lcoarse o.size
/-- RESTRICT reads the fine side. -/
def LensOp.restrict (o : LensOp) : Bool := decide (o.kind < 4)
/-- Destination elements of a row, and in all. -/
def LensOp.perRow (o : LensOp) : Nat := if o.restrict then o.args.m else o.args.nf
def LensOp.total (o : LensOp) : Nat := if o.kind = 16 then o.size.toNat / 4 else o.args.rows * o.perRow

/-- Child core `n` of a core: the core itself when its own store is meant. -/
def childCore (c : CoreId) (n : Nat) : CoreId := ⟨c.die, c.tier - 1, 4 * c.idx + n⟩

/-- Keys of elements (R314). -/
def LensOp.coarseKey (o : LensOp) (c : CoreId) (y i : Nat) : Nat :=
  let a := o.args
  keyLs c (fld (if o.restrict then o.dst else o.src).toNat 0 21 + a.e * (y * a.cr + i * a.ce))
def LensOp.fineKey (o : LensOp) (s : State) (c : CoreId) (y j : Nat) : Nat :=
  let a := o.args
  let base := fld (if o.restrict then o.src else o.dst).toNat 0 21
  let d := a.e * (y * a.fr + a.sub j * a.fe)
  if a.fold then keyLs c (base + d)
  else
    let ch := childCore c (a.child j)
    keyLs ch ((s.launch o.serial).base ch + base + d)

/-- Key of the destination, and of source element `x`, of element `n` of an operation. -/
def LensOp.dstKey (o : LensOp) (s : State) (c : CoreId) (n : Nat) : Nat :=
  if o.restrict then o.coarseKey c (n / o.perRow) (n % o.perRow) else o.fineKey s c (n / o.perRow) (n % o.perRow)
def LensOp.srcKey (o : LensOp) (s : State) (c : CoreId) (n x : Nat) : Nat :=
  if o.restrict then o.fineKey s c (n / o.perRow) x else o.coarseKey c (n / o.perRow) x

/-- Source words that destination element `n` reads. -/
def LensOp.wordsRead (o : LensOp) (s : State) (c : CoreId) (n : Nat) : List Nat :=
  ((o.args.reads o.kind (n % o.perRow)).getD []).map fun r => o.srcKey s c n r.1 / 8

/-- Address of a key in its own store. -/
def lsAddr (key : Nat) : Word := w64 (0x7F * 2 ^ 56 + key % 2 ^ 21)

/-- On whose behalf a lens engine acts: UNIT is the lower tier of its boundary (R304), as PLACE has it (log 54, DEDUCED). -/
def LensOp.by_ (o : LensOp) (c : CoreId) : By :=
  { eng := 6, ctx := o.thread.ctx, unit := unitDie c.die + (c.tier - 1) * 2 ^ 16, serial := o.serial, thread := o.thread, run := o.run }

/-- An error of the operation: in the tag, and reported. -/
def State.lensErr (s : State) (c : CoreId) (o : LensOp) (cls det : Nat) (a : Word) : State :=
  (s.updLTag c o.tag fun x => x.fail cls det a).byReport (o.by_ c) cls det a

/-- Read one element or weight: state, value, mark. A reconstruction fault is recorded (R325). -/
def State.lensRead (s : State) (c : CoreId) (o : LensOp) (key n : Nat) : State × Nat × Bool :=
  let g := s.engReadRaw key n
  let s := g.bad.foldl (fun s w => (s.lensErr c o 3 0 (lsAddr (8 * w))).byCir (o.by_ c) 10) g.st
  (s, leNat g.data, g.poison)

/-- Value of a destination element from the values read (R315, R316). -/
def LensOp.value (o : LensOp) (ws : List (Nat × BitVec 32)) (start : Nat) : Nat :=
  match o.kind with
  | 0 => (ws.foldl (fun t p => fma32 p.2 (BitVec.ofNat 32 p.1) t) (0 : BitVec 32)).toNat
  | 8 => (ws.foldl (fun t p => fma32 p.2 (BitVec.ofNat 32 p.1) t) (BitVec.ofNat 32 start)).toNat
  | 1 =>
      if o.args.elem = 0 then (ws.foldl (fun t p => fmax32 t (BitVec.ofNat 32 p.1)) (0xFF800000 : BitVec 32)).toNat
      else (ws.foldl (fun t p => let v := BitVec.ofNat 32 p.1; if t.toInt < v.toInt then v else t) (0x80000000 : BitVec 32)).toNat
  | 2 =>
      if o.args.elem = 0 then (ws.foldl (fun t p => fmin32 t (BitVec.ofNat 32 p.1)) (0x7F800000 : BitVec 32)).toNat
      else (ws.foldl (fun t p => let v := BitVec.ofNat 32 p.1; if v.toInt < t.toInt then v else t) (0x7FFFFFFF : BitVec 32)).toNat
  | _ => (ws.headD (0, 0)).1

/-- What one read or write of an operation does. -/
inductive LensStep where
  | go (s : State) (o : LensOp)
  /-- It waits for a word of banked memory. -/
  | wait (s : State) (w : Nat)
  | done (s : State)

/-- Write destination element `o.at_` and empty the words that no later element reads (R317, R318). -/
def State.lensWrite (s : State) (c : CoreId) (o : LensOp) (reads : List (Nat × Option Nat)) : LensStep :=
  let a := o.args
  let key := o.dstKey s c o.at_
  let acc : State × Nat × Bool := if o.kind = 8 && a.acc then s.lensRead c o key 4 else (s, 0, false)
  let s := acc.1
  let l := (s.core c).lens
  let ws := (o.got.zip reads).map fun p => (p.1.1, match p.2.2 with | some w => mget 0 l.ws w | none => 0)
  let wm := reads.any fun r => match r.2 with | some w => bit l.wm w | none => false
  let mark := acc.2.2 || wm || o.got.any (·.2)
  let s := if s.bankTakes (key / 8) then s.engPut (o.by_ c) key (leBytes a.e (o.value ws acc.2.1)) mark (lsAddr key)
    else s.lensErr c o 3 0 (lsAddr key)
  let s := if mark then (s.updLTag c o.tag fun x => { x with pois := true }).byCir (o.by_ c) 8 else s
  let s := s.updLTag c o.tag fun x => if x.cls = 0 then { x with done := x.done + 1 } else x
  let later (w : Nat) : Bool := (List.range (o.total - (o.at_ + 1))).any fun n => (o.wordsRead s c (o.at_ + 1 + n)).contains w
  let s := if a.take then
      (o.wordsRead s c o.at_).eraseDups.foldl (fun s w =>
        if later w || (s.feAt w).lost || isWindowWord w then s else s.setEmpty w) s
    else s
  .go s { o with at_ := o.at_ + 1, got := [], waiting := false }

/-- One read or one write of an operation (DEDUCED, log 54). -/
def State.lensStep (s : State) (c : CoreId) (o : LensOp) : LensStep :=
  if o.total ≤ o.at_ then .done s
  else if o.kind = 16 then
    let key := keyLs c (fld o.src.toNat 0 21 + 4 * o.at_)
    let r := s.lensRead c o key 4
    let n := o.dst.toNat + o.at_
    let s := r.1.updLens c fun l => { l with ws := mset l.ws n (BitVec.ofNat 32 r.2.1), wm := setBit l.wm n r.2.2 }
    let s := if r.2.2 then (s.updLTag c o.tag fun x => { x with pois := true }).byCir (o.by_ c) 8 else s
    .go (s.updLTag c o.tag fun x => if x.cls = 0 then { x with done := x.done + 1 } else x) { o with at_ := o.at_ + 1 }
  else match o.args.reads o.kind (o.at_ % o.perRow) with
    | none => .go s { o with at_ := o.at_ + 1 }
    | some rs =>
        match rs[o.got.length]? with
        | none => s.lensWrite c o rs
        | some r =>
            let key := o.srcKey s c o.at_ r.1
            let f := s.feAt (key / 8)
            match o.arrived with
            | some (d, p, bad) =>
                let s := if bad then (s.lensErr c o 3 0 (lsAddr (8 * (key / 8)))).byCir (o.by_ c) 10 else s
                .go s { o with got := o.got ++ [(leAt d (key % 8) o.args.e, p)], arrived := none }
            | none =>
                let empty (f : FeWord) : Bool := o.args.sync && !f.full && !f.lost && !isWindowWord (key / 8)
                if o.waiting && empty f then .wait s (key / 8)
                else
                  let v := s.lensRead c o key o.args.e
                  let f := v.1.feAt (key / 8)
                  if empty f then .wait v.1 (key / 8)
                  else .go v.1 { o with got := o.got ++ [(v.2.1, v.2.2 || (o.args.sync && f.lost))], waiting := false }

/-- The operation at the head of a port's queue, changed. -/
def State.setLensHead (s : State) (c : CoreId) (o : LensOp) : State :=
  s.updLens c fun l => { l with ops := o :: l.ops.drop 1 }

/-- An operation ends in a state. -/
def State.lensEnd (s : State) (c : CoreId) (o : LensOp) (st : TagState) : State :=
  s.updLens c fun l =>
    let x := l.tag o.tag
    { l with
      ops := l.ops.filter fun p => p.tag != o.tag
      tags := mset l.tags o.tag { x with st := st }
      errs := if x.cls = 0 then l.errs else satInc l.errs
      errcls := if x.cls ≠ 0 ∧ l.errs = 0 then x.cls else l.errcls }

/-- A SYNC read waits: the engine takes its place at the bank, behind the requests parked there (07 R145); under a fatal partition error
the operation is cancelled (R326). -/
def State.lensPark (s : State) (c : CoreId) (o : LensOp) (w : Nat) : State :=
  let s := s.setLensHead c { o with waiting := true }
  if (s.launch o.serial).st = .ending then s.cancelSync c
  else
    let f := s.feAt w
    s.setFe w { f with parked := if f.parked.contains (lensSeat c) then f.parked else f.parked ++ [lensSeat c] }

/-- At most `n` reads and writes of an operation, as far as SYNC lets it. -/
def State.lensRun : Nat → State → CoreId → LensOp → State
  | 0, s, c, o => s.setLensHead c o
  | n + 1, s, c, o =>
      match s.lensStep c o with
      | .go s o => if o.total ≤ o.at_ then s.lensEnd c o .complete else State.lensRun n s c o
      | .wait s w => s.lensPark c o w
      | .done s => s.lensEnd c o .complete

/-! The engines (R304, R328). -/

/-- The lens engine that serves a core's port. -/
def lensOf (c : CoreId) : Nat := c.tier - 1

/-- Can the operation at the head of a port take a step: not cancelled, not held by FREEZE, the thread's earlier accesses performed
(R319), and no SYNC read waiting at its bank? -/
def State.lensReady (s : State) (c : CoreId) : Bool :=
  match (s.core c).lens.ops with
  | [] => false
  | o :: _ => !o.cancel && !(o.frozen && s.frozenFor o.thread) && s.performed o.after &&
      !(o.waiting && s.fe.any fun f => f.2.parked.contains (lensSeat c))

/-- The port that a core's lens engine serves next: in ascending order of cores after the last one served (R328; T0 before T1 at lens 0,
log 54, DEDUCED). -/
def State.lensNext (s : State) (c : CoreId) : Option CoreId :=
  let ports := (s.cores.map (·.1)).filter fun k =>
    (coreOf k).die == c.die && lensOf (coreOf k) == lensOf c && s.lensReady (coreOf k)
  let last := mfind (s.die c.die).lensLast (lensOf c)
  ((ports.find? fun k => match last with | some n => decide (n < k) | none => true).or ports.head?).map coreOf

/-- A step of an operation: at most 64 bytes of source. -/
def LensOp.burst (o : LensOp) : Nat := if o.kind = 16 then 16 else 64 / o.args.e

end Sys2Proof.Machine
end

