-- ==== Sys2Proof/Machine/Lens.lean ====
section
/-! DEFINITION. The LENS group and the lens port's events (14 R308 to R313, R317, R321 to R324). -/

namespace Sys2Proof.Machine

/-- A launch marked preemptible-anywhere uses no lens (R313 step 1). -/
def State.lensOpen (s : State) (f : Res) : Res := if (s.launchOf s.cur).pclass == 2 then .next (s.trap 6 0 0) else f

/-- LCFG (R308). -/
def execLcfg (i v : BitVec 5) (s : State) : Res :=
  s.lensOpen <|
    let c := s.me
    let n := (c.x i.toNat).toNat
    let x := c.x v.toNat
    let bad : Bool := match n with
      | 0 => bits x 63 30 != 0 || bits x 13 7 != 0
      | 1 => bits x 63 48 != 0
      | 2 => bits x 63 48 != 0
      | _ => true
    if bad then .next (s.trap 9 7 0)
    else
      let s := s.updLens s.cur.core fun l => match n with
        | 0 => { l with lmode := x }
        | 1 => { l with lfine := x }
        | _ => { l with lcoarse := x }
      .next (s.updMe fun c => { (c.consume (c.xp i.toNat || c.xp v.toNat)).next 4 with needs := true })

/-- LSTAT (R321). -/
def Lens.stat (l : Lens) : Word :=
  let waits := l.ops.foldl (fun v o => v + b2n o.waiting * 2 ^ (16 + o.tag)) 0
  let states := (List.range 8).foldl (fun v n => v + (l.tag n).st.code * 4 ^ n) 0
  w64 (l.errs.toNat * 2 ^ 32 + l.errcls.toNat * 2 ^ 28 + waits + states)

def execLstat (d : BitVec 5) (s : State) : Res :=
  match s.toX d.toNat (s.core s.cur.core).lens.stat false 4 with
  | .next s => .next (s.pairSync s.cur [d.toNat] [] [])
  | r => r

/-- LWAIT: every lens operation the thread has issued since dispatch is done (R323). -/
def execLwait (s : State) : Res :=
  let t := s.cur
  let l := (s.core t.core).lens
  if (List.range 8).any fun n => bit s.me.lensTags n && (l.tag n).st == .running && (l.ops.any fun o => o.tag == n && o.run == s.me.run)
  then .next (s.park .lwait .lens)
  else .next ((s.updMe fun c => c.next 4).pairSync t [] [] [])

/-- Queue an operation under a tag and write the handle. Its geometry is the one of the instruction's issue (R313). -/
def State.lensQueue (s : State) (i : Instr) (kind : Nat) (h : BitVec 4) (d a z : BitVec 5) : Res :=
  let q := s.snap
  s.takeTag i 2 fun s n hv =>
    let t := s.cur
    let c := s.me
    let o : LensOp := { tag := n, kind := kind, dst := c.x d.toNat, src := c.x a.toNat, size := c.x z.toNat, lmode := q.getD 2 0
                        lfine := q.getD 3 0, lcoarse := q.getD 4 0, thread := t, serial := c.serial, run := c.run, at_ := 0, done := 0, got := []
                        waiting := false, arrived := none, cancel := false, frozen := s.frozenFor t, after := c.inFlight }
    let s := s.updLens t.core fun l => { l with ops := l.ops ++ [o] }
    let s := s.updMe fun c =>
      let m := c.xp d.toNat || c.xp a.toNat || c.xp z.toNat
      { ((c.consume m).setH h.toNat hv).next 4 with lensTags := setBit c.lensTags n true, needs := true }
    s.pairSync t [] [] [h.toNat]

/-- A side in the issuing core's own store: the failure of its extent, if any (R313 step 4). -/
def State.lensOwn (s : State) (a : Word) (ext : Nat) (dst : Bool) : Option (Nat × Nat × Word) :=
  let c := s.cur.core
  let l := s.launchOf s.cur
  let o := bits a 20 0
  if a.toNat / 2 ^ 56 ≠ 0x7F ∨ bits a 55 21 ≠ 0 then some (6, 1, a)
  else if dst && decide (o < 0x800) then some (6, 3, a)
  else if l.on c && decide (l.base c ≤ o ∧ o + ext ≤ l.base c + l.lssize) then none
  else some (6, 2, a)

/-- The fine side in the children's stores. -/
def State.lensFine (s : State) (a : Word) (ext : Nat) : Option (Nat × Nat × Word) :=
  let l := s.launchOf s.cur
  if (List.range 4).all fun n => l.on (childCore s.cur.core n) && decide (a.toNat + ext ≤ l.lssize) then none else some (6, 2, a)

/-- Issue RESTRICT or PROLONG (R312, R313), with the geometry of the issue. -/
def State.lensIssue (s : State) (i : Instr) (kind : Nat) (h : BitVec 4) (d a z : BitVec 5) : Res :=
  s.lensOpen <|
    let c := s.me
    let q := s.snap
    let size := c.x z.toNat
    let g := lensArgs (q.getD 2 0) (q.getD 3 0) (q.getD 4 0) size
    let weighted : Bool := kind == 0 || kind == 8
    let coarse := if kind < 4 then c.x d.toNat else c.x a.toNat
    let fine := if kind < 4 then c.x a.toNat else c.x d.toNat
    if bits size 63 48 != 0 || (!g.fold && s.cur.tier == 0) || (g.layout && g.fold) || (g.take && !g.sync) ||
        (g.acc && kind != 8) || (weighted && g.elem != 0) || ((kind == 1 || kind == 2) && decide (2 ≤ g.elem)) ||
        (weighted && decide (64 < g.wbase + g.taps)) || (kind == 9 && decide (g.m < g.n)) then .next (s.trap 9 7 0)
    else if g.rows = 0 ∨ g.m = 0 ∨ g.n = 0 then
      .next ((s.updMe fun c => ((c.consume (c.xp z.toNat)).setH h.toNat 0).next 4).pairSync s.cur [] [] [h.toNat])
    else if coarse.toNat % g.e ≠ 0 then .next (s.trap 8 1 coarse)
    else if fine.toNat % g.e ≠ 0 then .next (s.trap 8 1 fine)
    else
      let cx := g.e * ((g.rows - 1) * g.cr + (g.m - 1) * g.ce + 1)
      let fx := g.e * ((g.rows - 1) * g.fr + (g.n - 1) * g.fe + 1)
      match (s.lensOwn coarse cx (decide (kind < 4))).or
          (if g.fold then s.lensOwn fine fx (decide (4 ≤ kind)) else s.lensFine fine fx) with
      | some (cls, det, at_) => .next (s.trap cls det at_)
      | none =>
          if g.fold && decide (coarse.toNat < fine.toNat + fx ∧ fine.toNat < coarse.toNat + cx) then .next (s.trap 9 7 0)
          else s.lensQueue i kind h d a z

def execRestrictWsum (h : BitVec 4) (d s z : BitVec 5) (st : State) : Res := st.lensIssue (.restrictWsum h d s z) 0 h d s z
def execRestrictMax (h : BitVec 4) (d s z : BitVec 5) (st : State) : Res := st.lensIssue (.restrictMax h d s z) 1 h d s z
def execRestrictMin (h : BitVec 4) (d s z : BitVec 5) (st : State) : Res := st.lensIssue (.restrictMin h d s z) 2 h d s z
def execRestrictGather (h : BitVec 4) (d s z : BitVec 5) (st : State) : Res := st.lensIssue (.restrictGather h d s z) 3 h d s z
def execProlongInterp (h : BitVec 4) (d s z : BitVec 5) (st : State) : Res := st.lensIssue (.prolongInterp h d s z) 8 h d s z
def execProlongBcast (h : BitVec 4) (d s z : BitVec 5) (st : State) : Res := st.lensIssue (.prolongBcast h d s z) 9 h d s z
def execProlongScatter (h : BitVec 4) (d s z : BitVec 5) (st : State) : Res := st.lensIssue (.prolongScatter h d s z) 10 h d s z

/-- LWLOAD (R311): the constant window is a source, and so is the footprint. -/
def execLwload (h : BitVec 4) (i s l : BitVec 5) (st : State) : Res :=
  st.lensOpen <|
    let c := st.me
    let idx := (c.x i.toNat).toNat
    let a := c.x s.toNat
    let n := (c.x l.toNat).toNat
    if 63 < idx ∨ n % 4 ≠ 0 ∨ n < 4 ∨ 256 < 4 * idx + n then .next (st.trap 9 7 0)
    else if a.toNat % 4 ≠ 0 then .next (st.trap 8 1 a)
    else match st.lsLoc c.serial st.cur.core a n .load with
      | .error (cls, det) => .next (st.trap cls det a)
      | .ok _ => st.lensQueue (.lwload h i s l) 16 h i s l

/-- LENS_OPERATION_COMPLETE (R317, R318, R328): the lens engine of a core's port takes its next step, at the port whose turn it is; the
step that writes an operation's last element completes it. -/
def execLensOperationComplete (c : CoreId) (s : State) : Res :=
  match s.lensNext c with
  | none => .next s
  | some p =>
      let s := s.updDie c.die fun d => { d with lensLast := mset d.lensLast (lensOf c) (coreKey p) }
      match (s.core p).lens.ops with
      | [] => .next s
      | o :: _ => .next (State.lensRun o.burst s p o)

/-- LENS_CANCELLED (R324): a cancelled operation ends. -/
def execLensCancelled (c : CoreId) (tag : BitVec 3) (s : State) : Res :=
  match (s.core c).lens.ops.find? fun o => o.tag == tag.toNat && o.cancel with
  | some o => .next (s.lensEnd c o .cancelled)
  | none => .next s

end Sys2Proof.Machine
end

