-- ==== Sys2Proof/Machine/Copy.lean ====
section
/-! DEFINITION. The copy engine (13 R278 to R288): issue checks, how a copy writes its words, its errors, PFETCH and
RSTORE. -/

namespace Sys2Proof.Machine

/-! The words of a copy. -/

/-- Element size of the transposing forms. -/
def CopyOp.es (o : CopyOp) : Nat := if o.kind = 1 then 1 else 2
/-- Destination words. -/
def CopyOp.total (o : CopyOp) : Nat :=
  match o.kind with
  | 0 => o.len.toNat / 8
  | 3 => bits o.e0 31 0 * (o.len.toNat / 8)
  | 4 => o.len.toNat * o.w / 8
  | _ => bits o.len 31 16 * bits o.len 15 0 * o.es / 8
/-- Words of a row of CPYS. -/
def CopyOp.row (o : CopyOp) : Nat := o.len.toNat / 8
/-- Address of destination word `n` of the copy order. -/
def CopyOp.dstAt (o : CopyOp) (n : Nat) : Word :=
  if o.kind = 3 then o.dst + w64 (n / o.row) * o.e2 + w64 (8 * (n % o.row)) else o.dst + w64 (8 * n)
/-- Source pieces of destination word `n` of a form without an index list: address and bytes. -/
def CopyOp.pieces (o : CopyOp) (n : Nat) : List (Word × Nat) :=
  match o.kind with
  | 0 => [(o.src + w64 (8 * n), 8)]
  | 3 => [(o.src + w64 (n / o.row) * o.e1 + w64 (8 * (n % o.row)), 8)]
  | _ =>
      let rows := bits o.len 31 16
      let cols := bits o.len 15 0
      (List.range (8 / o.es)).map fun q =>
        let e := n * (8 / o.es) + q
        (o.src + w64 (o.es * (e % rows * cols + e / rows)), o.es)

/-- The engine's owner. -/
def CopyOp.by_ (o : CopyOp) : By := byThread 3 o.thread o.serial o.run

/-- What gathering the source of a word gives: data, mark, the address of a reconstruction fault; or a failure. -/
inductive CopyGot where
  | ok (s : State) (data : List Byte) (mark : Bool) (parity : Option Word)
  | stop (s : State) (why : EngAcc) (at_ : Word)

/-- Read pieces in order. -/
def State.copyPieces (s : State) (o : CopyOp) (c : CoreId) : List (Word × Nat) → CopyGot
  | [] => .ok s [] false none
  | (a, n) :: t =>
      match s.engLoad o.by_ c a n with
      | .done s1 d m p =>
          (match s1.copyPieces o c t with
          | .ok s2 ds ms ps => .ok s2 (d ++ ds) (m || ms) (if p then some a else ps)
          | e => e)
      | e => .stop s e a

/-- Gather the elements `i` to `i + n - 1` of CPYG. A poisoned index makes its element poisoned, its bytes a free value, and
no access is made (R283) (DESIGN CHOICE, log 52). -/
def State.copyGather (s : State) (o : CopyOp) (c : CoreId) (i : Nat) : Nat → CopyGot
  | 0 => .ok s [] false none
  | n + 1 =>
      let ia := o.e0 + w64 (4 * i)
      match s.engLoad o.by_ c ia 4 with
      | .done s1 iv im ip =>
          if im then
            let r := s1.draw
            match r.2.copyGather o c (i + 1) n with
            | .ok s2 ds _ ps => .ok s2 (leBytes o.w r.1.toNat ++ ds) true (if ip then some ia else ps)
            | e => e
          else
            let a := o.src + w64 o.w * w64 (leNat iv)
            match (if a.toNat / 2 ^ 56 ≠ o.src.toNat / 2 ^ 56 then EngAcc.err 6 1 else s1.engLoad o.by_ c a o.w) with
            | .done s2 d m p =>
                (match s2.copyGather o c (i + 1) n with
                | .ok s3 ds ms ps => .ok s3 (d ++ ds) (m || ms) (if p then some a else ps)
                | e => e)
            | e => .stop s1 e a
      | e => .stop s e ia

/-- Whole 256-byte units of the copy order written (R278). -/
def CopyOp.prefix_ (o : CopyOp) : Nat :=
  ((List.range o.total).find? fun n => !o.written.contains n).getD o.total

/-- What performing one word does: go on, or stop with the first error in the tag. -/
inductive CopyStep where
  | go (s : State)
  | stop (s : State)

/-- A copy stops on a failed access (R285). -/
def State.copyFail (s : State) (c : CoreId) (o : CopyOp) (why : EngAcc) (k : Acc1) (a : Word) : State :=
  match why with
  | .xlate => (s.engFault o.serial c k a).updTag c o.tag fun x => { x.fail 5 0 a with frec := true }
  | .err cls det => (s.updTag c o.tag fun x => x.fail cls det a).byReport o.by_ cls det a
  | .hole pa => { s with hole := some pa }
  | .done .. => s

/-- Perform destination word `n` of a copy (DEDUCED, log 55). -/
def State.copyWord (s : State) (c : CoreId) (o : CopyOp) (n : Nat) : CopyStep :=
  let got := if o.kind = 4 then s.copyGather o c (n * (8 / o.w)) (8 / o.w) else s.copyPieces o c (o.pieces n)
  match got with
  | .stop s1 why a => .stop (s1.copyFail c o why .engRead a)
  | .ok s1 d m par =>
      let a := o.dstAt n
      let lost : Bool := match s1.locate (s1.launch o.serial) c a 8 .engWrite with
        | .bank k => !s1.bankTakes (k / 8) | _ => false
      match s1.engStore o.by_ c a d m with
      | .done s2 .. =>
          let s2 := if m then (s2.updTag c o.tag fun x => { x with pois := true }).byCir o.by_ 8 else s2
          match par with
          | some pa => .stop (((s2.updTag c o.tag fun x => x.fail 3 0 pa).byReport o.by_ 3 0 pa).byCir o.by_ 10)
          | none => if lost then .stop (s2.updTag c o.tag fun x => x.fail 3 0 a) else .go s2
      | why =>
          let s2 := match par with
            | some pa => ((s1.updTag c o.tag fun x => { x.fail 3 0 pa with pois := true }).byReport o.by_ 3 0 pa).byCir o.by_ 10
            | none => s1
          .stop (s2.copyFail c o why .engWrite a)

/-- Change a copy in progress. -/
def State.updCopy (s : State) (c : CoreId) (tag : Nat) (f : CopyOp → CopyOp) : State :=
  s.updCore c fun k => { k with copies := k.copies.map fun o => if o.tag = tag then f o else o }

/-- The copy that a tag of a core runs. -/
def Core.copy (k : Core) (tag : Nat) : Option CopyOp := k.copies.find? fun o => o.tag == tag

/-- A copy ends: its tag, and the tags that a migration redirected it to, take the final state (22 R434). -/
def State.copyEnd (s : State) (c : CoreId) (o : CopyOp) (st : TagState) : State :=
  let s := s.updCore c fun k => { k with copies := k.copies.filter fun p => p.tag != o.tag }
  let s := s.updTag c o.tag fun x => { x with st := st, doneAt := s.cyc c }
  let x := (s.core c).tag o.tag
  o.redirect.foldl (fun s r => s.updTag r.1 r.2 fun y => { x with gen := y.gen, doneAt := s.cyc r.1 }) s

/-- Count a written word in the copy and in its tag. -/
def State.copyNote (s : State) (c : CoreId) (tag n : Nat) : State :=
  let s := s.updCopy c tag fun o => { o with written := n :: o.written }
  match (s.core c).copy tag with
  | some o => s.updTag c tag fun x => { x with done := o.prefix_ / 32 }
  | none => s

/-- May a copy go on? It is not held by FREEZE, and the accesses of its thread before it are performed (R284). -/
def State.copyRuns (s : State) (o : CopyOp) : Bool := !(o.frozen && s.frozenFor o.thread) && s.performed o.after

/-- Does a copy hold the grant for its next word? It asks for one before it starts, and before each further 64 KiB (R284). -/
def State.copyGranted (s : State) (c : CoreId) (o : CopyOp) : State × Bool :=
  if o.written.length < 8192 * o.granted then (s, true)
  else
    let r := s.request c (2 + o.tag) o.serial
    if r.2 then (r.1.updCopy c o.tag fun x => { x with granted := x.granted + 1 }, true) else r

/-- Write words in order until one stops the copy, or the copy waits for a grant. Answers the place that stopped it, and whether it waits. -/
def State.copyAll (s : State) (c : CoreId) (tag : Nat) : List Nat → State × Option Nat × Bool
  | [] => (s, none, false)
  | n :: t =>
      match (s.core c).copy tag with
      | none => (s, none, false)
      | some o =>
          let g := s.copyGranted c o
          if !g.2 then (g.1, none, true)
          else match g.1.copyWord c o n with
            | .go s1 => (s1.copyNote c tag n).copyAll c tag t
            | .stop s1 => (s1, some n, false)

/-- The engine writes one destination word of a running copy. -/
def State.copyOne (s : State) (c : CoreId) (tag n : Nat) : State :=
  match (s.core c).copy tag with
  | some o =>
      if s.copyRuns o && !o.cancel && !o.written.contains n && decide (n < o.total) then
        let r := s.copyAll c tag [n]
        if r.2.1.isSome then r.1.copyEnd c o .complete else r.1
      else s
  | none => s

/-- COPY_COMPLETE (R285): the words still to be written are written, or the first error stops the copy. -/
def execCopyComplete (c : CoreId) (tag : BitVec 6) (s : State) : Res :=
  match (s.core c).copy tag.toNat with
  | none => .next s
  | some o =>
      if !s.copyRuns o then .next s
      else
        let r := s.copyAll c o.tag ((List.range o.total).filter fun n => !o.written.contains n)
        if r.2.2 then r.1.out
        else ((r.1.updTag c o.tag fun x => { x with done := r.2.1.getD o.total / 32 }).copyEnd c o .complete).out

/-- COPY_CANCELLED (R279). -/
def execCopyCancelled (c : CoreId) (tag : BitVec 6) (s : State) : Res :=
  match (s.core c).copy tag.toNat with
  | some o => .next (if o.cancel then s.copyEnd c o .cancelled else s)
  | none => .next s

/-! Issue (R280 to R283). -/

/-- A range that an engine form names: its failure, with the lowest failing address, if any. Region 0x00 is checked later. -/
def State.copyRange (s : State) (a : Word) (n : Nat) (k : Acc1) (regions : List Nat) : Option (Nat × Nat × Word) :=
  let r := a.toNat / 2 ^ 56
  let l := s.launchOf s.cur
  let c := s.cur.core
  if r = 0x7D then some (6, 7, a)
  else if !regions.contains r then some (6, 1, a)
  else if r = 0 then (if bits a 55 52 ≠ 0 then some (6, 1, a) else none)
  else match s.locate l c a n k with
    | .trap cls det =>
        let low := (List.range (n / 4)).find? fun i =>
          match s.locate l c (a + w64 (4 * i)) 4 k with | .trap .. => true | _ => false
        some (cls, det, a + w64 (4 * low.getD 0))
    | _ => none

/-- Regions that copies reach. -/
def copyRegions : List Nat := [0x00, 0x7C, 0x7E, 0x7F]

/-- Do two ranges overlap as written? -/
def overlaps (a : Word) (n : Nat) (b : Word) (m : Nat) : Bool := decide (a.toNat < b.toNat + m ∧ b.toNat < a.toNat + n)

/-- The range that bounds the rows of CPYS. -/
def rowsRange (a stride : Word) (rows len : Nat) : Word × Nat :=
  let span := (rows - 1) * stride.toInt.natAbs
  (if stride.msb then a - w64 span else a, span + len)

/-- Issue a copy once its values are checked: ALIGN, PERM, overlap, tag and handle. -/
def State.copyIssue (s : State) (i : Instr) (h : BitVec 4) (o : CopyOp) (al : List (Word × Nat))
    (ranges : List (Word × Nat × Acc1 × List Nat)) (clash marked : Bool) : Res :=
  match al.find? fun p => p.1.toNat % p.2 != 0 with
  | some p => .next (s.trap 8 1 p.1)
  | none =>
      match ranges.findSome? fun r => s.copyRange r.1 r.2.1 r.2.2.1 r.2.2.2 with
      | some (cls, det, a) => .next (s.trap cls det a)
      | none =>
          if clash then .next (s.trap 9 7 0)
          else
            s.takeTag i 1 fun s n hv =>
              let s := s.updCore s.cur.core fun k =>
                { k with copies := k.copies ++ [{ o with tag := n, frozen := s.frozenFor s.cur, after := s.me.inFlight }] }
              (s.updMe fun c => ((c.consume marked).setH h.toNat hv).next 4).pairSync s.cur [] [] [h.toNat]

/-- A copy that moves nothing: its handle is done at once. -/
def State.copyNothing (s : State) (h : BitVec 4) (marked : Bool) : Res :=
  .next ((s.updMe fun c => ((c.consume marked).setH h.toNat 0).next 4).pairSync s.cur [] [] [h.toNat])

/-- A copy of the executing thread. -/
def State.newCopy (s : State) (kind w : Nat) (d a l : BitVec 5) : CopyOp :=
  let c := s.me
  { tag := 0, kind := kind, dst := c.x d.toNat, src := c.x a.toNat, len := c.x l.toNat, e0 := c.e 0, e1 := c.e 1, e2 := c.e 2
    w := w, thread := s.cur, serial := c.serial, run := c.run, written := [], cancel := false, after := []
    frozen := false, resw := false, granted := 0, redirect := [] }

/-- Any of three registers marked. -/
def Ctx.marked3 (c : Ctx) (d a l : BitVec 5) : Bool := c.xp d.toNat || c.xp a.toNat || c.xp l.toNat

def execCpy (h : BitVec 4) (d s l : BitVec 5) (st : State) : Res :=
  let o := st.newCopy 0 8 d s l
  let n := o.len.toNat
  let m := st.me.marked3 d s l
  if n % 8 ≠ 0 ∨ 0xFFFFFFF8 < n then .next (st.trap 9 7 0)
  else if n = 0 then st.copyNothing h m
  else st.copyIssue (.cpy h d s l) h o [(o.dst, 8), (o.src, 8)]
    [(o.dst, n, .store, copyRegions), (o.src, n, .load, copyRegions)] (overlaps o.dst n o.src n) m

/-- CPY.t8 and CPY.t16. -/
def State.transpose (st : State) (i : Instr) (kind unit : Nat) (h : BitVec 4) (d s l : BitVec 5) : Res :=
  let o := st.newCopy kind 8 d s l
  let cols := bits o.len 15 0
  let rows := bits o.len 31 16
  let n := rows * cols * o.es
  if bits o.len 63 32 ≠ 0 ∨ rows = 0 ∨ 4096 < rows ∨ rows % unit ≠ 0 ∨ cols = 0 ∨ 4096 < cols ∨ cols % unit ≠ 0 then
    .next (st.trap 9 7 0)
  else st.copyIssue i h o [(o.dst, 8), (o.src, 8)]
    [(o.dst, n, .store, copyRegions), (o.src, n, .load, copyRegions)] (overlaps o.dst n o.src n) (st.me.marked3 d s l)

def execCpyT8 (h : BitVec 4) (d s l : BitVec 5) (st : State) : Res := st.transpose (.cpyT8 h d s l) 1 8 h d s l
def execCpyT16 (h : BitVec 4) (d s l : BitVec 5) (st : State) : Res := st.transpose (.cpyT16 h d s l) 2 4 h d s l

def execCpys (h : BitVec 4) (d s l : BitVec 5) (st : State) : Res :=
  let o := st.newCopy 3 8 d s l
  let n := o.len.toNat
  let rows := o.e0.toNat
  let m := st.me.marked3 d s l || st.me.ep 0 || st.me.ep 1 || st.me.ep 2
  if bits o.e0 63 32 ≠ 0 ∨ n % 8 ≠ 0 ∨ n < 8 ∨ 65536 < n ∨ 0xFFFFFFF8 < rows * n ∨ o.e1.toNat % 8 ≠ 0 ∨ o.e2.toNat % 8 ≠ 0 ∨
      (o.e2 = 0 ∧ 1 < rows) then .next (st.trap 9 7 0)
  else if rows = 0 then st.copyNothing h m
  else
    let rd := rowsRange o.dst o.e2 rows n
    let rs := rowsRange o.src o.e1 rows n
    st.copyIssue (.cpys h d s l) h o [(o.dst, 8), (o.src, 8)]
      [(rd.1, rd.2, .store, copyRegions), (rs.1, rs.2, .load, copyRegions)] (overlaps rd.1 rd.2 rs.1 rs.2) m

/-- DEDUCED, log 55. -/
def execCpyg (h : BitVec 4) (d b c : BitVec 5) (w : BitVec 2) (st : State) : Res :=
  let o := st.newCopy 4 (widthOf w) d b c
  let n := o.len.toNat
  let m := st.me.marked3 d b c || st.me.ep 0
  if 16777216 < n ∨ n * o.w % 8 ≠ 0 then .next (st.trap 9 7 0)
  else if n = 0 then st.copyNothing h m
  else
    let src := o.src.toNat / 2 ^ 56
    match st.copyRange o.dst (n * o.w) .store copyRegions with
    | some _ => st.copyIssue (.cpyg h d b c w) h o [(o.dst, 8), (o.src, o.w), (o.e0, 4)]
        [(o.dst, n * o.w, .store, copyRegions)] false m
    | none =>
        if o.dst.toNat % 8 = 0 ∧ o.src.toNat % o.w = 0 ∧ o.e0.toNat % 4 = 0 ∧ !copyRegions.contains src then
          .next (st.trap 6 (if src = 0x7D then 7 else 1) o.src)
        else st.copyIssue (.cpyg h d b c w) h o [(o.dst, 8), (o.src, o.w), (o.e0, 4)]
          [(o.dst, n * o.w, .store, copyRegions), (o.e0, 4 * n, .load, [0x00, 0x7E, 0x7F])] false m

/-! PFETCH (R287). -/

/-- Ask for one line of the cluster cache, if it is absent and its page is a readable, resident HBM page. -/
def State.prefetchLine (s : State) (t : ThreadId) (va : Word) : State :=
  if va.toNat / 2 ^ 56 ≠ 0 then s
  else match s.locate (s.launchOf t) t.core va 1 .load with
    | .hbm pa =>
        let cl := clusterOf t.core
        s.updCluster cl fun c => c.ask (pa / 64)
    | _ => s

def execPfetch (a l : BitVec 5) (s : State) : Res :=
  let c := s.me
  let va := c.x a.toNat
  let n := min (c.x l.toNat).toNat 0x100000
  let first := va.toNat / 64
  let count := if n = 0 then 0 else (va.toNat + n - 1) / 64 + 1 - first
  let s := (List.range count).foldl (fun s i => s.prefetchLine s.cur (w64 (64 * (first + i)))) s
  .next (s.updMe fun c => (c.consume (c.xp a.toNat || c.xp l.toNat)).next 4)

/-! RSTORE (R288). -/

/-- Read the source of an RSTORE as loads of the thread, word by word. -/
inductive SrcRead where
  | ok (s : State) (data : List Byte) (marks : List Bool)
  | xlate (a : Word)
  | trap (cls det : Nat) (a : Word)
  | hole (pa : Nat)

def State.readSource (s : State) (t : ThreadId) (a : Word) : Nat → SrcRead
  | 0 => .ok s [] []
  | n + 1 =>
      match (s.locate (s.launchOf t) t.core a 8 .load).noPeer with
      | .trap cls det => .trap cls det a
      | .mmio _ => .trap 6 7 a
      | .xfault => .xlate a
      | .hole pa => .hole pa
      | loc =>
          let r := s.loadLoc t loc a 8 none
          match r.1.readSource t (a + 8) n with
          | .ok s d m => .ok s (r.2.1 ++ d) (r.2.2.headD false :: m)
          | e => e

def execRstore (d a l : BitVec 5) (s : State) : Res :=
  let i : Instr := .rstore d a l
  let c := s.me
  let dst := c.x d.toNat
  let src := c.x a.toNat
  let n := (c.x l.toNat).toNat
  if n % 8 ≠ 0 ∨ n < 8 ∨ 4096 < n then .next (s.trap 9 7 0)
  else if dst.toNat % 8 ≠ 0 then .next (s.trap 8 1 dst)
  else if src.toNat % 8 ≠ 0 then .next (s.trap 8 1 src)
  else match s.copyRange dst n .store [0x00] with
    | some (cls, det, at_) => .next (s.trap cls det at_)
    | none =>
        match s.locate (s.launchOf s.cur) s.cur.core dst n .engWrite with
        | .xfault => .next (s.parkX i dst .store)
        | .trap cls det => .next (if cls = 12 then s.trap 6 6 dst else s.trap cls det dst)
        | .peer port page off =>
            if 65536 < off + n then .next (s.trap 6 6 dst)
            else match s.copyRange src n .load copyRegions with
              | some (cls, det, at_) => .next (s.trap cls det at_)
              | none => s.afterOwn i (.reply false) fun s =>
                  if 15 ≤ s.me.rstores then .next (s.park i .rstores)
                  else match s.readSource s.cur src (n / 8) with
                    | .trap cls det at_ => .next (s.trap cls det at_)
                    | .xlate at_ => .next (s.parkX i at_ .load)
                    | .hole pa => .fault (.noMemory pa)
                    | .ok s data marks =>
                        let q := s.fresh
                        let s := q.2
                        let r : RSt := { thread := s.cur, serial := s.me.serial, run := s.me.run, ord := q.1, frozen := s.frozenFor s.cur,
                                         answer := none, port := port, page := page, off := off, data := data, marks := marks }
                        -- a transfer through a lost port fails at once (20 R401, R421)
                        let lost := s.portLost s.cur.die (16 + port)
                        let s := if lost then s else { s with rst := s.rst ++ [r] }
                        let p := marks.any id
                        .next ((s.updMe fun c =>
                          let c := (c.consume (c.marked3 d a l)).consumeAt p src
                          let c := (if p then c.cirSet 4 else c).next 4
                          if lost then { c with refused := if c.refused = 0 then 2 else c.refused }
                          else { c with rstores := c.rstores + 1 }).pairSync s.cur [] [] [])
        | _ => .next (s.trap 6 6 dst)

end Sys2Proof.Machine
end

