-- ==== Sys2Proof/Machine/Mmio.lean ====
section
/-! DEFINITION. The MMIO words of a core, region 0x7D (07 R141; 08 R183, R186; 11 R232; 12 R255; 13 R278, R298, R300;
14 R322). -/

namespace Sys2Proof.Machine

/-- LSPAR or NMPAR (08 R183): the retired data banks of a unit and its two counters. -/
def State.parStat (s : State) (unit banks recon rfaults : Nat) : Word :=
  let ret := (List.range banks).foldl (fun v b => v + b2n (s.dev.retired.contains (unit * 32 + b)) * 2 ^ b) 0
  w64 (ret * 2 ^ 32 + recon * 2 ^ 16 + rfaults)

/-- A word readable with LD.d, if the offset is assigned to one. -/
def State.mmioRead (s : State) (t : ThreadId) (o : Nat) : Option Word :=
  let k := s.core t.core
  let cl := s.cluster (clusterOf t.core)
  let low : Bool := decide (t.tier < 2)
  let at_ (base n : Nat) : Option Nat :=
    if base ≤ o ∧ o < base + 8 * n ∧ (o - base) % 8 = 0 then some ((o - base) / 8) else none
  if o = 0xF000 then some (s.parStat (coreKey t.core) (if t.tier = 3 then 32 else 16) k.recon.toNat k.rfaults.toNat)
  else if o = 0xF008 then
    some (s.parStat (8192 + t.die) 32 (s.die t.die).recon.toNat (s.die t.die).rfaults.toNat)
  else if o = 0xF010 then some (cl.pfctl.zeroExtend 64)
  else if o = 0xF018 then some (cl.pflines.zeroExtend 64)
  else if o = 0xF020 then some (cl.pfused.zeroExtend 64)
  else if o = 0xF028 then some (cl.pfearly.zeroExtend 64)
  else if o = 0xF030 then some k.vuStat
  else if o = 0xF038 then (if low then some k.mxu.stat else none)
  else match at_ 0xE000 64, at_ 0xE200 64, at_ 0xE480 4, at_ 0xE500 8, at_ 0xE540 8 with
    | some n, _, _, _, _ => some (k.tag n).stat
    | _, some n, _, _, _ => some (k.tag n).addr
    | _, _, some p, _, _ => if low then some (k.strmStat p) else none
    | _, _, _, some n, _ => some (k.lens.tag n).stat
    | _, _, _, _, some n => some (k.lens.tag n).addr
    | _, _, _, _, _ => none

/-- A write of PFCTL in any core of a cluster: EN and DIST, and CLR clears the counters (08 R186). -/
def State.writePfctl (s : State) (cl : Nat) (v : Word) : State :=
  s.updCluster cl fun c =>
    { c with
      pfctl := BitVec.ofNat 8 (bits v 7 4 * 16 + bits v 0 0)
      pflines := if bit v 63 then 0 else c.pflines
      pfused := if bit v 63 then 0 else c.pfused
      pfearly := if bit v 63 then 0 else c.pfearly }

/-- PFCTL.CLR by itself is part of the same store (08 R186). -/
def execPfctlClr (v : Word) (s : State) : Res := .next (s.writePfctl (clusterOf s.cur.core) v)

/-- LD.d at an MMIO offset. -/
def State.mmioLoad (s : State) (rt : Nat) (base : Bool) (a : Word) (n : Nat) : Res :=
  match s.mmioRead s.cur (bits a 55 0) with
  | none => .next (s.trap 6 7 a)
  | some v => .next ((s.updMe fun c => ((c.consume base).setX rt v base).next n).pairSync s.cur [rt] [] [])

/-- ST.d at an MMIO offset: PFCTL, or the back queue of a port (13 R298). -/
def State.mmioStore (s : State) (i : Instr) (v : Word) (mark : Bool) (a : Word) (n : Nat) : Res :=
  let t := s.cur
  let o := bits a 55 0
  let fin (s : State) : Res := .next ((s.updMe fun c => (c.consume mark).next n).pairSync t [] [] [])
  if o = 0xF010 then fin (s.writePfctl (clusterOf t.core) v)
  else if 0xE400 ≤ o ∧ o < 0xE420 ∧ o % 8 = 0 ∧ t.tier < 2 then
    match s.sbq t.core ((o - 0xE400) / 8) v with
    | .done s => fin s
    | .trap cls det => .next (s.trap cls det a)
    | .wait => .next (s.park i (.backQueue ((o - 0xE400) / 8)))
  else .next (s.trap 6 7 a)

/-- STQ at an MMIO offset: a push of a command record to the MXU (12 R255, R256). The thread parks until its earlier accesses are performed
and the queue has room, behind the threads that parked before it. A poisoned octet sets CIR bit 0. -/
def State.mmioPush (s : State) (i : Instr) (o : Nat) (base : Bool) (a : Word) : Res :=
  let t := s.cur
  let wait (s : State) : State := (s.updCore t.core fun k =>
    { k with mxWait := if k.mxWait.contains t.ctx then k.mxWait else k.mxWait ++ [t.ctx] }).park i .mxq
  if bits a 55 0 ≠ 0 ∨ 2 ≤ t.tier then .next (s.trap 6 7 a)
  else s.afterIf (fun _ => true) (fun s _ => wait s) fun s =>
    let c := s.me
    if !(s.core t.core).mxAccepts t.ctx then .next (wait s)
    else
      let b := c.octetBytes o 8
      match mxCheck (leNat b) (s.core t.core).mxu.cfg with
      | .error det => .next (((s.updCore t.core fun k => { k with mxWait := k.mxWait.erase t.ctx })).trap 9 det 0)
      | .ok x =>
          let s := s.mxAccept t b x
          .next ((s.updMe fun c => (c.consume (base || (c.octetMarks o 8).any id)).next 4).pairSync t [] [] [])

end Sys2Proof.Machine
end

