-- ==== Sys2Proof/Machine/Memory.lean ====
section
/-! DEFINITION. Loads, stores, full/empty forms, atomics, BANKOP and FENCE (07 R134 to R151). -/

namespace Sys2Proof.Machine

/-! Loads and stores (R135 to R141). -/

/-- Registers that the relaxed loads in flight of a context will write. -/
def Ctx.awaited (c : Ctx) : Nat := ((c.pend.filter fun p => p.load && p.relaxed).map fun p => if p.len = 64 then 8 else 1).sum

/-- Is the access at issue relaxed: RLX, and fewer than eight in flight (R138); and in a pair a load of `n` registers for whose values
the load-value queue has entries free (10 R223)? -/
def State.isRelaxed (s : State) (n : Nat) : Bool :=
  let c := s.me
  c.rlx && decide (c.relaxed < 8) && (!(s.trailer s.cur).isSome || decide (c.awaited + n ≤ 32))

/-- Is the reply of a load or an atomic at a location a blocking point: from region 0x7C, or over Lemuf-I (04 R62)? -/
def Loc.farReply (loc : Loc) (t : ThreadId) (a : Word) : Bool :=
  match loc with
  | .bank _ => a.toNat / 2 ^ 56 == 0x7C
  | .hbm pa => pa / 2 ^ 36 != t.die
  | _ => false

/-- Put an access in flight and go on. -/
def State.launchAcc (s : State) (p : Pend) (n : Nat) : Res :=
  let r := s.fresh
  .next ((r.2.updMe fun c => { c.next n with pend := c.pend ++ [{ p with ord := r.1 }] }).pairSync s.cur [] [] [])

/-- A relaxed access: in flight while the schedule lets it be or its page is not resident, performed otherwise (R138, R139). `g`: what
its operands' marks do to the context (DEDUCED, log 24). -/
def State.relaxedAcc (s : State) (p : Pend) (al : Nat) (n : Nat) (g : Ctx → Ctx) : Res :=
  let t := s.cur
  let k : Acc1 := if p.load then .load else .store
  match s.checkAcc t p.va p.len al k with
  | .trap c d => .next (s.trap c d p.va)
  | .mmio _ => .next (s.trap 6 7 p.va)
  | .hole pa => .fault (.noMemory pa)
  | .xfault => ((s.updMe g).postFault (faultUnit t.core) s.me.serial t.ctx k.code (s.cycleOf t) p.va).launchAcc p n
  | loc =>
      let p := { p with key := loc.key }
      let s := s.updMe g
      if s.me.weak || (s.me.pend.any fun q => q.before p) then s.launchAcc p n
      else (((s.updMe fun c => c.next n).performAt t p loc).pairSync t [] [] []).out

/-- A load of `n` bytes into register `rt`, or the octet at `rt`, by an instruction of `len` bytes. -/
def State.loadInto (s : State) (i : Instr) (rt : Nat) (base : Bool) (a : Word) (n : Nat) (acq : Option Nat) (len : Nat) : Res :=
  let t := s.cur
  if s.isRelaxed (if n = 64 then 8 else 1) then
    s.relaxedAcc { load := true, relaxed := true, va := a, len := n, dest := rt, data := [], marks := [base], key := none, rel := none, ord := 0 }
      n len fun c => c.consume base
  else
    s.access i a n n .load fun loc =>
      s.replied i (loc.farReply t a) fun s => s.ordered i loc.key a n (loc.farReply t a) fun s =>
        let r := s.loadLoc t loc a n acq
        let s := r.1.updMe fun c => ((c.consume base).loadRegs rt n r.2.1 r.2.2 base a).next len
        let s := match acq with | some sc => s.acquire t sc | none => s
        (s.pairSync t ((List.range (if n = 64 then 8 else 1)).map (rt + ·)) [] []).out

/-- CIR of a store of marked registers: bits 0 and 2 (10 R218). -/
def Ctx.stored (c : Ctx) (base : Bool) (marks : List Bool) : Ctx :=
  if marks.any id then c.cirSet 5 else c.consume base

/-- A store of bytes by an instruction of `len` bytes. A store to HBM is posted (R137) and parks no thread: it is held back behind the accesses
in flight to the same bytes, a release behind them all (R136). One to a bank waits for its reply, as R137 says, and so does one that has lost
its relaxation (R138; DEDUCED, log 23). -/
def State.storeFrom (s : State) (i : Instr) (base : Bool) (a : Word) (b : List Byte) (marks : List Bool) (rel : Option Nat)
    (len : Nat) : Res :=
  let t := s.cur
  let n := b.length
  let p : Pend := { load := false, relaxed := s.isRelaxed 0, va := a, len := n, dest := 0, data := b, marks := marks, key := none, rel := rel,
                    ord := 0 }
  if p.relaxed then s.relaxedAcc p n len fun c => c.stored base marks
  else
    s.access i a n n .store fun loc =>
      let now (s : State) : Res :=
        ((((s.updMe fun c => c.stored base marks).storeLoc t loc a b marks rel).updMe fun c => c.next len).pairSync t [] [] []).out
      let waits (s : State) : Res :=
        s.replied i false fun s =>
          if rel.isSome then s.afterOwn i (.reply false) now else s.ordered i loc.key a n false now
      match loc with
      | .hbm _ =>
          if s.me.rlx then waits s
          else
            let p := { p with key := loc.key }
            let s' := if s.me.weak then s else s.drainIf t fun q => q.before p
            (match s'.hole with
            | some x => .fault (.noMemory x)
            | none =>
                if s'.me.weak || (s'.me.pend.any fun q => q.before p) then (s'.updMe fun c => c.stored base marks).launchAcc p len
                else now s')
      | _ => waits s

/-- Does a plain access in its 64-bit form reach the MMIO region? -/
def State.mmioForm (s : State) (a : Word) (al : Nat) (o : BitVec 2) : Bool :=
  a.toNat / 2 ^ 56 == 0x7D && o == 0 && !s.me.rlx && decide (a.toNat % al = 0)

/-- LD (R135). -/
def execLd (t b : BitVec 5) (w o : BitVec 2) (sc : BitVec 3) (f : BitVec 8) (s : State) : Res :=
  let n := widthOf w
  let a := s.me.addr b f n
  if s.mmioForm a 8 o && w == 3 then s.mmioLoad t.toNat (s.me.xp b.toNat) a 4
  else s.loadInto (.ld t b w o sc f) t.toNat (s.me.xp b.toNat) a n (scopeOf o sc) 4

/-- ST (R135). -/
def execSt (t b : BitVec 5) (w o : BitVec 2) (sc : BitVec 3) (f : BitVec 8) (s : State) : Res :=
  let n := widthOf w
  let c := s.me
  let a := c.addr b f n
  if s.mmioForm a 8 o && w == 3 then
    s.mmioStore (.st t b w o sc f) (c.x t.toNat) (c.xp t.toNat || c.xp b.toNat) a 4
  else
    s.storeFrom (.st t b w o sc f) (c.xp b.toNat) a (leBytes n (c.x t.toNat).toNat) [c.xp t.toNat || c.xp b.toNat]
      (scopeOf o sc) 4

/-- LDQ (R140): MMIO has no word that LDQ reads. -/
def execLdq (q : BitVec 2) (b : BitVec 5) (o : BitVec 2) (sc : BitVec 3) (f : BitVec 8) (s : State) : Res :=
  s.loadInto (.ldq q b o sc f) (octet q) (s.me.xp b.toNat) (s.me.addr b f 64) 64 (scopeOf o sc) 4

/-- STQ (R140), and the push of an MXU command at MXQ. -/
def execStq (q : BitVec 2) (b : BitVec 5) (o : BitVec 2) (sc : BitVec 3) (f : BitVec 8) (s : State) : Res :=
  let c := s.me
  let a := c.addr b f 64
  if s.mmioForm a 64 o then s.mmioPush (.stq q b o sc f) (octet q) (c.xp b.toNat) a
  else
    s.storeFrom (.stq q b o sc f) (c.xp b.toNat) a (c.octetBytes (octet q) 8)
      ((c.octetMarks (octet q) 8).map (· || c.xp b.toNat)) (scopeOf o sc) 4

/-- Address of a compact access: base x8 to x15, offset in words (R133). -/
def Ctx.addrC (c : Ctx) (b o : BitVec 3) : Word := c.x (8 + b.toNat) + sx o * 8

/-- C.LD is LD.d. -/
def execCLd (t : BitVec 5) (b o : BitVec 3) (s : State) : Res :=
  let a := s.me.addrC b o
  if s.mmioForm a 8 0 then s.mmioLoad t.toNat (s.me.xp (8 + b.toNat)) a 2
  else s.loadInto (.cLd t b o) t.toNat (s.me.xp (8 + b.toNat)) a 8 none 2

/-- C.ST is ST.d. -/
def execCSt (t : BitVec 5) (b o : BitVec 3) (s : State) : Res :=
  let c := s.me
  let a := c.addrC b o
  if s.mmioForm a 8 0 then s.mmioStore (.cSt t b o) (c.x t.toNat) (c.xp t.toNat || c.xp (8 + b.toNat)) a 2
  else
    s.storeFrom (.cSt t b o) (c.xp (8 + b.toNat)) a (leBytes 8 (c.x t.toNat).toNat)
      [c.xp t.toNat || c.xp (8 + b.toNat)] none 2

/-! Full/empty forms (R142 to R147). -/

/-- Check the address of a full/empty or barrier form: ALIGN, then PERM outside banked memory; answer the word. `write`: the
constant window refuses the form. -/
def State.bankForm (s : State) (i : Instr) (a : Word) (write : Bool) (f : State → Nat → Res) : Res :=
  if a.toNat % 8 ≠ 0 then .next (s.trap 8 1 a)
  else if a.toNat / 2 ^ 56 = 0 then .next (s.trap 6 1 a)
  else s.access i a 8 8 (if write then .store else .load) fun loc =>
    match loc with
    | .bank k => s.ordered i (some k) a 8 false fun s => f s (k / 8)
    | _ => .next (s.trap 6 1 a)

/-- Park a full/empty request at the bank, after those already there (R145). -/
def State.parkFe (s : State) (i : Instr) (w : Nat) (write take : Bool) : State :=
  let f := s.feAt w
  let s := s.setFe w { f with parked := if f.parked.contains s.cur then f.parked else f.parked ++ [s.cur] }
  s.park i (.fe w write take)

/-- The bank reads a word, whose full/empty bit comes with it (08 R177, R178): the state after, with the report of a reconstruction fault,
the bytes and the mark. -/
def State.feRead (s : State) (w : Nat) (a : Word) : State × List Byte × List Bool := s.loadLoc s.cur (.bank (8 * w)) a 8 none

/-- LDF.keep: the constant window returns the word (R142). -/
def execLdfKeep (t b : BitVec 5) (o : BitVec 2) (sc : BitVec 3) (f : BitVec 8) (s : State) : Res :=
  let i : Instr := .ldfKeep t b o sc f
  let a := s.me.addr b f 8
  s.bankForm i a false fun s w =>
    let r := s.feRead w a
    let x := r.1.feAt w
    if isWindowWord w || x.full || x.lost then .next (r.1.finishLoad s.cur i r.2.1 r.2.2)
    else .next (r.1.parkFe i w false false)

/-- LDF.take: a full word becomes EMPTY, and parked and recorded writers are served. A word that is POISONED, or that the read loses, stays
so (R147). -/
def execLdfTake (t b : BitVec 5) (o : BitVec 2) (sc : BitVec 3) (f : BitVec 8) (s : State) : Res :=
  let i : Instr := .ldfTake t b o sc f
  let a := s.me.addr b f 8
  s.bankForm i a true fun s w =>
    let r := s.feRead w a
    let x := r.1.feAt w
    if x.lost then .next (r.1.finishLoad s.cur i r.2.1 r.2.2)
    else if x.full then .next ((r.1.finishLoad s.cur i r.2.1 r.2.2).setEmpty w)
    else .next (r.1.parkFe i w false true)

/-- STF: an empty word is written and becomes FULL, and parked and recorded readers are served. A release waits for the thread's earlier
accesses as the form waits for its bank. A bank that discards writes leaves the word as it is, and the form completes (08 R178). -/
def execStf (t b : BitVec 5) (o : BitVec 2) (sc : BitVec 3) (f : BitVec 8) (s : State) : Res :=
  let i : Instr := .stf t b o sc f
  let c := s.me
  let a := c.addr b f 8
  let base := c.xp b.toNat
  let go (w : Nat) (s : State) : Res :=
    let x := s.feAt w
    let takes := s.bankTakes w
    if takes && x.full && !x.lost then .next (s.parkFe i w true false)
    else
      let s := match scopeOf o sc with | some k => s.release s.cur k | none => s
      let s := s.putWord w (c.x t.toNat) (c.xp t.toNat || base) c.serial a
      let s := s.updMe fun c => (c.stored base [c.xp t.toNat || base]).next 4
      let s := s.pairSync s.cur [] [] []
      .next (if takes then s.setFull w else s)
  s.bankForm i a true fun s w => if o = 0 then go w s else s.afterOwn i (.reply false) (go w)

/-- FEW: the word becomes EMPTY; a lost bit is restored as EMPTY with the data still poisoned (R147). A bank that discards writes leaves it
as it is (08 R178). -/
def execFew (b : BitVec 5) (f : BitVec 8) (s : State) : Res :=
  let a := s.me.addr b f 8
  let base := s.me.xp b.toNat
  s.bankForm (.few b f) a true fun s w =>
    let takes := s.bankTakes w
    let s := (s.updMe fun c => (c.consume base).next 4).pairSync s.cur [] [] []
    .next (if takes then s.setEmpty w else s.parityReport s.me.serial w a)

/-- FEQ: the state of the word, which its bank reads; true with CIR set on a POISONED word, true in the constant window. -/
def execFeq (p : BitVec 3) (b : BitVec 5) (f : BitVec 8) (s : State) : Res :=
  let a := s.me.addr b f 8
  let base := s.me.xp b.toNat
  s.bankForm (.feq p b f) a false fun s w =>
    let s := (s.feRead w a).1
    let x := s.feAt w
    .next ((s.updMe fun c =>
      (((c.consume base).consumeAt x.lost a).setP p.toNat (isWindowWord w || x.full || x.lost) base).next 4).pairSync
        s.cur [] [p.toNat] [])

/-! Atomics (R148, R149). -/

/-- The new value of an atomic on words of `8 W` bits: function `fn`, unsigned or signed, old value and operand. -/
def amoNew (fn : Nat) (u : Bool) (n : Nat) (old b : Nat) : Nat :=
  let lt (x y : Nat) : Bool :=
    if u then decide (x < y) else decide ((BitVec.ofNat (8 * n) x).toInt < (BitVec.ofNat (8 * n) y).toInt)
  match fn with
  | 0 => (old + b) % 2 ^ (8 * n)
  | 1 => if lt b old then b else old
  | 2 => if lt old b then b else old
  | 3 => old &&& b
  | 4 => old ||| b
  | 5 => old ^^^ b
  | _ => b

/-- The write of an atomic with the registers of a context, once the old value is read, and whether there is one: not on a poisoned word, nor
where a comparison fails (07 R149). -/
def State.amoWrite (s : State) (c : Ctx) (loc : Loc) (a : Word) (n fn : Nat) (u : Bool) (rb : Nat) (src : Bool) (old : Nat) (bad : Bool) :
    State × Bool :=
  let v := leBytes n (amoNew fn u n old ((c.x rb).toNat % 2 ^ (8 * n)))
  if !bad && (fn != 7 || old == (c.e 0).toNat % 2 ^ (8 * n)) then
    (match loc with | .bank k => s.bankStore c.serial k v src a | .hbm pa => s.hbmWrite pa v [src] | _ => s, true)
  else (s, false)

/-- Perform an atomic at a location: at the bank, or at the memory side after the line has left the cluster's cache. -/
def State.amoAt (s : State) (t : ThreadId) (loc : Loc) (a : Word) (n fn : Nat) (u : Bool) (d rb : Nat) (base : Bool)
    (rel acq : Option Nat) : State :=
  let c := s.ctx t
  let s := match rel with | some sc => s.release t sc | none => s
  let s := match loc with | .hbm pa => s.flushLine (clusterOf t.core) (pa / 64) | _ => s
  let r : State × List Byte × Bool :=
    match loc with
    | .hbm pa => (s, s.rd pa n, s.pz (pa / 8))
    | loc => let r := s.loadLoc t loc a n none; (r.1, r.2.1, r.2.2.any id)
  let old := leNat r.2.1
  let src := c.amoMark fn rb base
  let q := r.1.amoWrite c loc a n fn u rb src old r.2.2
  let s := q.1.updCtx t fun c =>
    ((((if q.2 then c.stored base [src] else c.consume src).setX d (w64 old) (r.2.2 || src)).consumeAt r.2.2 a)).next 4
  let s := match acq with | some sc => s.acquire t sc | none => s
  s.pairSync t [d] [] []

/-- The atomic group. It waits as a plain load does: for region 0x7C and over Lemuf-I at a blocking point (R149; 04 R62). -/
def State.amo (s : State) (i : Instr) (fn : Nat) (u : Bool) (d ra rb : BitVec 5) (w : BitVec 1) (o : BitVec 2) (sc : BitVec 3) : Res :=
  let n := if w = 0 then 4 else 8
  let a := s.me.x ra.toNat
  let base := s.me.xp ra.toNat
  s.access i a n n .amo fun loc =>
    let go (s : State) : Res :=
      (s.amoAt s.cur loc a n fn u d.toNat rb.toNat base (if o = 2 then some sc.toNat else none)
        (if o = 1 then some sc.toNat else none)).out
    let far := loc.farReply s.cur a
    s.replied i far fun s => if o = 2 then s.afterOwn i (.reply far) go else s.ordered i loc.key a n far go

def execAmoadd (d a b : BitVec 5) (w : BitVec 1) (o : BitVec 2) (sc : BitVec 3) (s : State) : Res :=
  s.amo (.amoadd d a b w o sc) 0 false d a b w o sc
def execAmomin (d a b : BitVec 5) (u w : BitVec 1) (o : BitVec 2) (sc : BitVec 3) (s : State) : Res :=
  s.amo (.amomin d a b u w o sc) 1 (u == 1) d a b w o sc
def execAmomax (d a b : BitVec 5) (u w : BitVec 1) (o : BitVec 2) (sc : BitVec 3) (s : State) : Res :=
  s.amo (.amomax d a b u w o sc) 2 (u == 1) d a b w o sc
def execAmoand (d a b : BitVec 5) (w : BitVec 1) (o : BitVec 2) (sc : BitVec 3) (s : State) : Res :=
  s.amo (.amoand d a b w o sc) 3 false d a b w o sc
def execAmoor (d a b : BitVec 5) (w : BitVec 1) (o : BitVec 2) (sc : BitVec 3) (s : State) : Res :=
  s.amo (.amoor d a b w o sc) 4 false d a b w o sc
def execAmoxor (d a b : BitVec 5) (w : BitVec 1) (o : BitVec 2) (sc : BitVec 3) (s : State) : Res :=
  s.amo (.amoxor d a b w o sc) 5 false d a b w o sc
def execAmoswp (d a b : BitVec 5) (w : BitVec 1) (o : BitVec 2) (sc : BitVec 3) (s : State) : Res :=
  s.amo (.amoswp d a b w o sc) 6 false d a b w o sc
def execAmocas (d a b : BitVec 5) (w : BitVec 1) (o : BitVec 2) (sc : BitVec 3) (s : State) : Res :=
  s.amo (.amocas d a b w o sc) 7 false d a b w o sc

/-! BANKOP (R150). -/

/-- One element: 0 add, 1 max, 2 min, 3 axpy with `e` the low bits of e0. -/
def bankElem (f : Fmt) (op : Nat) (e y s : Nat) : Nat :=
  if f.isInt then
    match op with
    | 0 => (y + s) % 2 ^ f.width
    | 1 => if (f.decode y).lt (f.decode s) then s else y
    | 2 => if (f.decode s).lt (f.decode y) then s else y
    | _ => (e * s + y) % 2 ^ f.width
  else
    match op with
    | 0 => f.round 0 ((f.decode y).add 0 (f.decode s))
    | 1 => f.round 0 ((f.decode y).max (f.decode s))
    | 2 => f.round 0 ((f.decode y).min (f.decode s))
    | _ => f.round 0 (((f.decode e).mul (f.decode s)).add 0 (f.decode y))

/-- The elements of a word, low first (R41): two of 32 bits or four of 16. -/
def bankWord (f : Fmt) (op e : Nat) (y s : Word) : Word :=
  w64 ((List.range (64 / f.width)).foldl (fun v j =>
    v + bankElem f op (e % 2 ^ f.width) (fld y.toNat (f.width * j) f.width) (fld s.toNat (f.width * j) f.width) *
      2 ^ (f.width * j)) 0)

/-- The BANKOP group: the block is updated in one indivisible action; a poisoned memory word is left as it is (DEDUCED, log 25). -/
def State.bankop (s : State) (i : Instr) (op : Nat) (q : BitVec 2) (ra : BitVec 5) (c : BitVec 4) (nw : BitVec 3) : Res :=
  let t := s.cur
  let x := s.me
  let a := x.x ra.toNat
  let n := nw.toNat + 1
  let o := octet q
  let base := x.xp ra.toNat || (op == 3 && x.ep 0)
  if a.toNat % 8 ≠ 0 ∨ 64 < a.toNat % 64 + 8 * n then .next (s.trap 8 1 a)
  else if a.toNat / 2 ^ 56 ≠ 0x7E then .next (s.trap 6 1 a)
  else s.access i a (8 * n) 8 .store fun loc =>
    match loc, Fmt.ofClass c.toNat with
    | .bank k, some f =>
        s.ordered i (some k) a (8 * n) false fun s =>
          let s := (List.range n).foldl (fun s j =>
            let at_ := a + w64 (8 * j)
            let r := s.loadLoc t (.bank (k + 8 * j)) at_ 8 none
            if r.2.2.any id then r.1.updMe fun c => c.consumeAt true at_
            else
              let m := base || x.xp (o + j)
              let v := bankWord f op (x.e 0).toNat (w64 (leNat r.2.1)) (x.x (o + j))
              (r.1.bankStore x.serial (k + 8 * j) (leBytes 8 v.toNat) m at_).updMe fun c => c.stored base [m]) s
          .next ((s.updMe fun c => c.next 4).pairSync t [] [] [])
    | _, _ => .next (s.trap 6 1 a)

def execBankopAdd (q : BitVec 2) (a : BitVec 5) (c : BitVec 4) (n : BitVec 3) (s : State) : Res :=
  s.bankop (.bankopAdd q a c n) 0 q a c n
def execBankopMax (q : BitVec 2) (a : BitVec 5) (c : BitVec 4) (n : BitVec 3) (s : State) : Res :=
  s.bankop (.bankopMax q a c n) 1 q a c n
def execBankopMin (q : BitVec 2) (a : BitVec 5) (c : BitVec 4) (n : BitVec 3) (s : State) : Res :=
  s.bankop (.bankopMin q a c n) 2 q a c n
def execBankopAxpy (q : BitVec 2) (a : BitVec 5) (c : BitVec 4) (n : BitVec 3) (s : State) : Res :=
  s.bankop (.bankopAxpy q a c n) 3 q a c n

/-! FENCE (R151). -/

/-- FENCE waits for the thread's accesses and is a release and an acquire at its scope (08 R191). -/
def execFence (sc : BitVec 3) (s : State) : Res :=
  s.settle (.fence sc) fun s =>
    let t := s.cur
    .next ((((s.release t sc.toNat).acquire t sc.toNat).updMe fun c => c.next 4).pairSync t [] [] [])

end Sys2Proof.Machine
end

