-- ==== Sys2Proof/Machine/Barriers.lean ====
section
/-! DEFINITION. Barriers (07 R162 to R165). -/

namespace Sys2Proof.Machine

/-- Fields of a barrier word (R162). -/
def barCount (v : Word) : Nat := bits v 15 0
def barArr (v : Word) : Nat := bits v 31 16
def barGen (v : Word) : Nat := bits v 47 32

/-- A barrier word from its fields; bits 63:48 are kept from the old word. -/
def barWord (old : Word) (gen arr count : Nat) : Word :=
  w64 (bits old 63 48 * 2 ^ 48 + gen % 65536 * 2 ^ 32 + arr * 65536 + count)

/-- Memory scope of a barrier: tier for a local store, die for Nimbus. -/
def barScope (a : Word) : Nat := if a.toNat / 2 ^ 56 = 0x7E then 3 else 2

/-- Read the word of a barrier, consuming its poison. -/
def State.barRead (s : State) (w : Nat) (a : Word) : State × Word :=
  let r := s.loadLoc s.cur (.bank (8 * w)) a 8 none
  (r.1.updMe fun c => c.consumeAt (r.2.2.any id) a, w64 (leNat r.2.1))

/-- Write its low six bytes. -/
def State.barWrite (s : State) (w : Nat) (v : Word) (a : Word) : State :=
  s.bankStore s.me.serial (8 * w) (leBytes 6 v.toNat) false a

/-- A recorded record's outcome (04 R87). -/
def State.setOutcome (s : State) (addr serial : Word) (o : Outcome1) : State :=
  s.updSpill addr serial fun x => { x with out := o }

/-- A barrier's waiter takes BARTIME of a detail: it traps, or while its request is being withdrawn for an eviction the trap is recorded for
its record (04 R87; 07 R146). -/
def State.barTrap (s : State) (t : ThreadId) (det : Nat) : State :=
  if s.leaving t then (s.withdraw t).spillOut t (.trap 11 det)
  else s.trapAt t 11 det ((s.ctx t).arrival.map (·.addr) |>.getD 0)

/-- BARINIT: the word's waiters take BARTIME with detail 0x02, parked or recorded; then the generation starts (DEDUCED, log 75). -/
def execBarinit (a b : BitVec 5) (s : State) : Res :=
  let x := s.me.x a.toNat
  let v := s.me.x b.toNat
  let mark := s.me.xp a.toNat || s.me.xp b.toNat
  let i : Instr := .barinit a b
  s.bankForm i x true fun s w =>
    if bits v 15 0 = 0 ∨ bits v 63 16 ≠ 0 then .next (s.trap 9 7 0)
    else
      let f := s.feAt w
      let s := s.setFe w { f with bars := [], barPark := [] }
      let r := s.barRead w x
      let s := r.1.barWrite w (barWord r.2 (barGen r.2 + 1) 0 (bits v 15 0)) x
      let s := (s.updMe fun c => (c.consume mark).next 4).pairSync s.cur [] [] []
      let s := f.bars.foldl (fun s k => (s.setOutcome k.addr k.serial (.trap 11 2)).postCont w k) s
      .next (f.barPark.foldl (fun s t => s.barTrap t 2) s)

/-- BAR.ARRIVE: a release at the barrier's scope, then the arrival. -/
def execBarArrive (a : BitVec 5) (s : State) : Res :=
  let x := s.me.x a.toNat
  let mark := s.me.xp a.toNat
  let i : Instr := .barArrive a
  s.bankForm i x true fun s w =>
    s.afterOwn i (.reply false) fun s =>
    let r := s.barRead w x
    let v := r.2
    if barCount v = 0 ∨ barCount v ≤ barArr v ∨ bits v 63 48 ≠ 0 then .next (r.1.trap 11 4 x)
    else
      let last : Bool := barArr v + 1 == barCount v
      let s := (r.1.release s.cur (barScope x)).updMe fun c =>
        { (c.consume mark).next 4 with arrival := some { addr := x, gen := BitVec.ofNat 16 (barGen v) } }
      let s := s.pairSync s.cur [] [] []
      .next (s.barWrite w
        (if last then barWord v (barGen v + 1) 0 (barCount v) else barWord v (barGen v) (barArr v + 1) (barCount v)) x)

/-- BAR.WAIT: completes when GEN differs from the arrival record, as an acquire at the barrier's scope. -/
def execBarWait (a : BitVec 5) (s : State) : Res :=
  let x := s.me.x a.toNat
  let mark := s.me.xp a.toNat
  let i : Instr := .barWait a
  s.bankForm i x false fun s w =>
    match s.me.arrival with
    | none => .next (s.trap 11 3 x)
    | some r =>
        if r.addr ≠ x then .next (s.trap 11 3 x)
        else
          let g := s.barRead w x
          if barGen g.2 ≠ r.gen.toNat then
            .next (((g.1.acquire s.cur (barScope x)).updMe fun c => (c.consume mark).next 4).pairSync s.cur [] [] [])
          else
            let s := g.1
            let f := s.feAt w
            let s := s.setFe w { f with barPark := if f.barPark.contains s.cur then f.barPark else f.barPark ++ [s.cur] }
            .next (s.park i (.bar w))

/-- A BAR.WAIT has waited longer than its BARTMO: a parked one traps BARTIME, detail 0x01; a recorded one is posted with that
trap as its outcome (R164). -/
def execBarrierTimeout (t : ThreadId) (recorded : Option Word) (s : State) : Res :=
  match recorded with
  | none =>
      let c := s.ctx t
      (match c.held with
      | none => .next s
      | some h =>
          match h.cause with
          | .bar _ =>
              if (c.st = .parked ∨ (s.leaving t = true ∧ (s.spills.any fun x => x.thread == t && !x.written && !x.woken) = true)) ∧
                  h.left.getD c.bartmo.toNat < s.cycleOf t - h.since then
                .next (s.barTrap t 1)
              else .next s
          | _ => .next s)
  | some addr =>
      match s.spills.find? fun x => x.addr == addr && x.thread.core == t.core with
      | none => .next s
      | some x =>
          match (x.ctx.held.map fun (h : Held) => h.cause) with
          | some (Cause.bar w) =>
              let f := s.feAt w
              (match f.bars.find? fun k => k.addr == addr && k.serial == x.serial with
              | none => .next s
              | some k =>
                  if s.cyc x.thread.core ≤ k.left then .next s
                  else
                    let s := s.unlinkBar w k
                    .next ((s.setOutcome addr x.serial (.trap 11 1)).postCont w k))
          | _ => .next s

end Sys2Proof.Machine
end

