-- ==== Sys2Proof/Machine/Channels.lean ====
section
/-! DEFINITION. Channels and message classes (04 R82 to R84; 07 R152 to R161). -/

namespace Sys2Proof.Machine

def Core.ep (k : Core) (n : Nat) : Ep := mget .reset k.eps n
def State.updEp (s : State) (c : CoreId) (n : Nat) (f : Ep → Ep) : State :=
  s.updCore c fun k => { k with eps := mset k.eps n (f (k.ep n)) }
def State.updCls (s : State) (c : CoreId) (n : Nat) (f : ClassB → ClassB) : State :=
  s.updCore c fun k => { k with classes := mset k.classes n (f (k.cls n)) }

/-! The descriptor (R153) and the binding (R158). -/

def Ep.isCls (e : Ep) : Bool := bit e.desc 6
def Ep.rem (e : Ep) : Bool := bit e.desc 5
def Ep.rx (e : Ep) : Bool := bit e.desc 4
def Ep.peerNum (e : Ep) : Nat := bits e.desc 3 0
def Ep.rwords (e : Ep) : Nat := bits e.desc 63 48
def Ep.rbase (e : Ep) : Nat := bits e.desc 46 32 * 64
/-- The core of the peer. -/
def Ep.peerCore (e : Ep) (c : CoreId) : CoreId :=
  if e.rem then ⟨bits e.desc 26 24, c.tier, bits e.desc 15 8⟩ else c
def ClassB.rwords (b : ClassB) : Nat := bits b.binding 63 48
def ClassB.rbase (b : ClassB) : Nat := bits b.binding 46 32 * 64
def ClassB.ctx (b : ClassB) : Nat := bits b.binding 7 4

/-- A ring's size and place: 16 to 65,520 words, a multiple of 16, inside the launch's footprint on the core. -/
def State.ringOk (s : State) (serial : Word) (c : CoreId) (words base : Nat) : Bool :=
  let l := s.launch serial
  words % 16 == 0 && decide (16 ≤ words) && decide (l.base c ≤ base ∧ base + 8 * words ≤ l.base c + l.lssize)

/-- Is a CHSET descriptor valid at a core (R154)? -/
def State.descOk (s : State) (t : ThreadId) (v : Word) : Bool :=
  let e : Ep := { Ep.reset with desc := v }
  let ring := e.rem && e.rx && !e.isCls
  bits v 47 47 == 0 && bits v 31 27 == 0 && bits v 23 16 == 0 && bits v 7 7 == 0 &&
    (e.rem || bits v 26 24 == 0 && bits v 15 8 == 0) && decide ((e.peerCore t.core).idx < coresOf t.tier) &&
    (if ring then s.ringOk (s.ctx t).serial t.core e.rwords e.rbase else bits v 63 48 == 0 && bits v 46 32 == 0)

/-! Binding and meeting (R154). -/

/-- May an end be paired: it has no partner, no audit has broken it, and a receiving end whose sender has left has received all that
it sent (R83, R159; log 95, DEDUCED). -/
def Ep.unpaired (e : Ep) : Bool := e.bound && e.peer.isNone && e.broken == 0 && (!e.rx || e.words.isEmpty && e.sent == e.consumed)

/-- Do two ends name each other in opposite directions? -/
def Ep.matches_ (e : Ep) (c : CoreId) (f : Ep) (d : CoreId) : Bool :=
  e.unpaired && f.unpaired && !e.isCls && !f.isCls && e.rem == f.rem && e.rx != f.rx && e.peerCore c == d && f.peerCore d == c &&
    e.peerNum == f.ctx && f.peerNum == e.ctx

/-- The least by binding order. -/
def oldestEp : List (Nat × Ep) → Option Nat
  | [] => none
  | (n, e) :: t =>
      match oldestEp t with
      | none => some n
      | some m => if ((t.find? fun x => x.1 == m).map (·.2.order)).getD 0 < e.order then some m else some n

/-- The ends of a sender and a receiver that meet: both start from their bind values, the sender's free slots the size of the ring. A
channel that the sender has kept goes on where the new end names the same ring (DEDUCED, log 95). -/
def meetEnds (x r : Ep) : Ep × Ep :=
  let kept := x.ring != 0 && x.rem == r.rem && bits x.ring 63 32 == bits r.desc 63 32
  let start (e : Ep) : Ep :=
    { e with met := true, resync := false, returned := false, free := r.rwords, sent := 0, consumed := 0, received := 0, rpos := 0, wpos := 0
             words := [], ring := 0, seq := 0 }
  if kept then
    ({ start x with free := x.free, sent := x.sent, seq := x.seq },
     { start r with consumed := x.consumed, received := x.received, rpos := x.rpos, wpos := x.wpos, words := x.words })
  else (start x, start r)

/-- The sending end `n` of core `c` meets the receiving end `m` of core `d`, for which its messages in the network are now. -/
def State.meetRx (s : State) (c : CoreId) (n : Nat) (d : CoreId) (m : Nat) : State :=
  let x := (s.core c).ep n
  let p := meetEnds x ((s.core d).ep m)
  let s := (s.updEp c n fun _ => { p.1 with peer := some (coreKey d, m) }).updEp d m fun _ => { p.2 with peer := some (coreKey c, n) }
  { s with net := s.net.map fun y => if !y.cls && y.src == c && y.srcOrder == x.order then { y with target := m } else y }

/-- End `n` of core `c` meets end `m` of core `d`. -/
def State.meet (s : State) (c : CoreId) (n : Nat) (d : CoreId) (m : Nat) : State :=
  if ((s.core c).ep n).rx then s.meetRx d m c n else s.meetRx c n d m

/-- Pair an end with the oldest end of its peer that names it. -/
def State.pairEp (s : State) (c : CoreId) (n : Nat) : State :=
  let e := (s.core c).ep n
  let d := e.peerCore c
  match oldestEp ((s.core d).eps.filter fun x => e.matches_ c x.2 d) with
  | some m => s.meet c n d m
  | none => s

/-- CHSET binds the endpoint; a core-local end meets its partner at once, a remote one by a handshake (DEDUCED, log 77). -/
def execChset (a : BitVec 5) (c : BitVec 4) (s : State) : Res :=
  let t := s.cur
  let x := s.me
  let v := x.x a.toNat
  if (mfind x.cs c.toNat).isSome then .next (s.trap 10 1 0)
  else if !s.descOk t v then .next (s.trap 6 8 0)
  else match (List.range 32).find? fun n => !((s.core t.core).ep n).bound with
    | none => .next (s.trap 10 5 0)
    | some n =>
        let o := s.fresh
        let s := o.2.updEp t.core n fun _ =>
          { Ep.reset with desc := v, bound := true, order := o.1, serial := x.serial, ctx := t.ctx }
        let s := if bit v 5 || bit v 6 then s else s.pairEp t.core n
        .next ((s.updMe fun x => { (x.consume (x.xp a.toNat)).next 4 with cs := mset x.cs c.toNat n }).pairSync t [] [] [])

/-- A handshake reaches a core: the remote ends there that are not yet paired meet their partners, oldest first. -/
def execChannelHandshake (c : CoreId) (s : State) : Res :=
  let ends := (s.core c).eps.filter fun x => x.2.unpaired && x.2.rem && !x.2.isCls
  let ready := ends.filter fun x => ((s.core (x.2.peerCore c)).eps.any fun y => x.2.matches_ c y.2 (x.2.peerCore c))
  match oldestEp ready with
  | some n => .next (s.pairEp c n)
  | none => .next s

/-- Unbind an entry: the channel's words in flight, in the network and in the ring are discarded, and the peer end enters
RESYNC (R160). -/
def State.unbindEp (s : State) (c : CoreId) (n : Nat) : State :=
  let e := (s.core c).ep n
  let mine (x : Msg) : Bool := !x.cls && ((x.dst == c && x.target == n) || (x.src == c && x.srcOrder == e.order))
  let s := { s.updEp c n fun _ => .reset with net := s.net.filter fun x => !mine x }
  match e.peer with
  | none => s
  | some (d, m) =>
      let d := coreOf d
      let gone (x : Msg) : Bool := !x.cls && x.dst == d && x.target == m
      { s.updEp d m fun f => { f with met := false, resync := true, broken := 0, returned := false, free := 0, sent := 0, consumed := 0, received := 0,
                                      rpos := 0, wpos := 0, words := [], ring := 0, seq := 0, peer := none } with
        net := s.net.filter fun x => !gone x }

/-- An end leaves the table with its thread, which is no CHRESET: what was sent stays to be received (R83). A receiving end whose sender
leaves takes the count of what was sent; a sending end whose receiver leaves keeps the channel for the next one, and messages for the end
that left wait in the network (DEDUCED, log 95). -/
def State.leaveEp (s : State) (c : CoreId) (n : Nat) : State :=
  let e := (s.core c).ep n
  let s := s.updEp c n fun _ => .reset
  let s := if e.rx then
      { s with net := s.net.map fun x => if !x.cls && x.dst == c && x.target == n then { x with target := 32 } else x }
    else s
  match e.peer with
  | none => s
  | some (d, m) =>
      s.updEp (coreOf d) m fun f =>
        if e.rx then
          { f with met := false, peer := none, words := e.words, consumed := e.consumed, received := e.received, rpos := e.rpos, wpos := e.wpos
                   ring := e.desc }
        else { f with peer := none, sent := e.sent }

/-- CHRESET; of an unbound endpoint it does nothing. -/
def execChreset (c : BitVec 4) (s : State) : Res :=
  let t := s.cur
  let s := match mfind s.me.cs c.toNat with
    | none => s
    | some n => (s.unbindEp t.core n).updMe fun x => { x with cs := merase x.cs c.toNat }
  .next ((s.updMe fun x => x.next 4).pairSync t [] [] [])

/-- MSGBIND: a class moves to another context, keeps its ring, and is unbound with UNB (R158). -/
def execMsgbind (a : BitVec 5) (s : State) : Res :=
  let t := s.cur
  let v := s.me.x a.toNat
  let k := bits v 3 0
  let b := (s.core t.core).cls k
  let same := bits b.binding 63 32 == bits v 63 32
  let fin (s : State) : Res := .next ((s.updMe fun x => (x.consume (x.xp a.toNat)).next 4).pairSync t [] [] [])
  if bit v 8 then fin (s.updCls t.core k fun b => { b with bound := false })
  else if bits v 47 47 ≠ 0 ∨ bits v 31 9 ≠ 0 then .next (s.trap 6 8 0)
  else if b.bound && !same then .next (s.trap 10 1 0)
  else if !s.ringOk s.me.serial t.core (bits v 63 48) (bits v 46 32 * 64) then .next (s.trap 6 8 0)
  else fin (s.updCls t.core k fun b =>
    if same then { b with bound := true, binding := v, serial := s.me.serial }
    else { ClassB.reset with bound := true, binding := v, serial := s.me.serial })

/-! SEND, RECV, SENDT, RECVT. -/

/-- Check the endpoint of an operation: bound, of the right mode and direction, not broken. A timeout is raised once (R156). -/
def State.endpoint (s : State) (c : BitVec 4) (cls rx : Bool) (f : Nat → Ep → Res) : Res :=
  match mfind s.me.cs c.toNat with
  | none => .next (s.trap 10 1 0)
  | some n =>
      let e := (s.core s.cur.core).ep n
      if e.isCls != cls || e.rx != rx then .next (s.trap 10 1 0)
      else if e.broken ≠ 0 then .next (s.trap 10 e.broken 0)
      else if e.returned then .next ((s.updEp s.cur.core n fun e => { e with returned := false }).trap 10 2 0)
      else f n e

/-- May a SEND on the end place a word? -/
def State.canSend (s : State) (e : Ep) : Bool :=
  e.met && (if e.rem then decide (2 ≤ e.free)
            else match e.peer with | some (d, m) => decide (((s.core (coreOf d)).ep m).words.length < 4) | none => false)

/-- Is a word waiting at the receiving end? -/
def Ep.canRecv (e : Ep) : Bool := e.met && (if e.rem then e.received != e.consumed else !e.words.isEmpty)

/-- Count a message of a launch sent from, or received at, a core (10 R208). -/
def Core.countSent (k : Core) (serial : Word) : Core :=
  { k with msgSent := mset k.msgSent serial.toNat (mget 0 k.msgSent serial.toNat + 1) }
def Core.countRecv (k : Core) (serial : Word) : Core :=
  { k with msgRecv := mset k.msgRecv serial.toNat (mget 0 k.msgRecv serial.toNat + 1) }

def execSend (a : BitVec 5) (c : BitVec 4) (s : State) : Res :=
  let t := s.cur
  let x := s.me
  let w := (x.x a.toNat, x.xp a.toNat)
  s.endpoint c false false fun n e =>
    if !s.canSend e then .next (s.park (.send a c) (.send n))
    else match e.peer with
      | none => .next (s.park (.send a c) (.send n))
      | some (d, m) =>
          let s :=
            if e.rem then
              let msg : Msg := { dst := coreOf d, src := t.core, srcCtx := t.ctx, cls := false, target := m, srcEp := n,
                                 seq := e.seq.toNat, words := [w], serial := x.serial, srcOrder := e.order, since := none,
                                 tmo := x.chtmo.toNat }
              let s := s.updEp t.core n fun e => { e with free := e.free - 2, sent := e.sent + 2, seq := e.seq + 1 }
              { s.updCore t.core fun k => k.countSent x.serial with net := s.net ++ [msg] }
            else s.updEp (coreOf d) m fun e => { e with words := e.words ++ [w] }
          .next ((s.updMe fun x => (x.consume w.2).next 4).pairSync t [] [] [])

/-- A received word: the register and its mark, and CIR bits 0 and 4 (10 R219). -/
def Ctx.received (c : Ctx) (d : Nat) (v : Word) (mark : Bool) : Ctx :=
  (if mark then c.cirSet 0x11 else c).setX d v mark

/-- Read a word of a ring in the core's local store: state, word, mark. -/
def State.ringRead (s : State) (t : ThreadId) (base pos : Nat) : State × Word × Bool :=
  let k := keyLs t.core (base + 8 * pos)
  let r := s.loadLoc t (.bank k) (w64 (0x7F * 2 ^ 56 + base + 8 * pos)) 8 none
  (r.1, w64 (leNat r.2.1), r.2.2.any id)

def execRecv (d : BitVec 5) (c : BitVec 4) (s : State) : Res :=
  let t := s.cur
  s.endpoint c false true fun n e =>
    if !e.canRecv then .next (s.park (.recv d c) (.recv n))
    else if e.rem then
      let r := s.ringRead t e.rbase ((e.rpos + 1) % e.rwords)
      let s := r.1.updEp t.core n fun e => { e with rpos := (e.rpos + 2) % e.rwords, consumed := e.consumed + 2 }
      let s := match e.peer with
        | some (p, m) => s.updEp (coreOf p) m fun e => { e with free := e.free + 2 }
        | none => s
      .next ((s.updMe fun x => (x.received d.toNat r.2.1 r.2.2).next 4).pairSync t [d.toNat] [] [])
    else
      let w := e.words.headD (0, false)
      let s := s.updEp t.core n fun e => { e with words := e.words.drop 1 }
      let s := if e.peer.isNone then s.pairEp t.core n else s
      .next ((s.updMe fun x => (x.received d.toNat w.1 w.2).next 4).pairSync t [d.toNat] [] [])

def execSendt (o : BitVec 2) (c : BitVec 4) (s : State) : Res :=
  let t := s.cur
  let x := s.me
  s.endpoint c true false fun n e =>
    let ws := (List.range 8).map fun j => (x.x (octet o + j), x.xp (octet o + j))
    let d := e.peerCore t.core
    let msg : Msg := { dst := d, src := t.core, srcCtx := t.ctx, cls := true, target := e.peerNum, srcEp := n, seq := 0,
                       words := ws, serial := x.serial, srcOrder := e.order, since := none, tmo := x.chtmo.toNat }
    let s := { s.updCore t.core fun k => k.countSent x.serial with net := s.net ++ [msg] }
    .next ((s.updMe fun x => (x.consume (ws.any (·.2))).next 4).pairSync t [] [] [])

/-- The words of a class message read from its ring, header first. -/
def State.ringReads (s : State) (t : ThreadId) (base words pos : Nat) : Nat → State × List (Word × Bool)
  | 0 => (s, [])
  | n + 1 =>
      let r := s.ringRead t base (pos % words)
      let q := r.1.ringReads t base words (pos + 1) n
      (q.1, r.2 :: q.2)

def execRecvt (o : BitVec 2) (c : BitVec 4) (s : State) : Res :=
  let t := s.cur
  s.endpoint c true true fun _ e =>
    let k := e.peerNum
    let b := (s.core t.core).cls k
    if !b.bound || b.ctx != t.ctx then .next (s.trap 10 1 0)
    else if b.msgs = 0 then .next (s.park (.recvt o c) (.recvt k))
    else
      let r := s.ringReads t b.rbase b.rwords (b.rpos + 1) 8
      let s := r.1.updCls t.core k fun b => { b with rpos := (b.rpos + 9) % b.rwords, msgs := b.msgs - 1 }
      .next ((s.updMe fun x => (r.2.zipIdx.foldl (fun x p => x.received (octet o + p.2) p.1.1 p.1.2) x).next 4).pairSync t
        ((List.range 8).map (octet o + ·)) [] [])

/-! Arrival, return, timeout, audit (R156, R157, R159, R161). -/

/-- Header of a message (R157). -/
def ringHeader (seq : Nat) (cls : Bool) (src split len : Nat) : Word :=
  w64 (seq * 2 ^ 32 + b2n cls * 2 ^ 20 + src * 2 ^ 16 + split * 2 ^ 8 + len)

/-- Write the words of a message into a ring from a position, wrapping. -/
def State.ringWrite (s : State) (serial : Word) (c : CoreId) (base words pos : Nat) : List (Word × Bool) → State
  | [] => s
  | (v, m) :: t =>
      let o := base + 8 * (pos % words)
      (s.bankStore serial (keyLs c o) (leBytes 8 v.toNat) m (w64 (0x7F * 2 ^ 56 + o))).ringWrite serial c base words (pos + 1) t

/-- Do two messages go to one ring? -/
def Msg.sameRing (a b : Msg) : Bool := a.dst == b.dst && a.cls == b.cls && a.target == b.target

/-- Is a message one for a ring of a launch whose core is saved (10 R211)? -/
def State.frozenMsg (s : State) (m : Msg) : Bool :=
  let l := s.launch m.serial
  l.st == .saved || l.st == .restoring || (l.st == .saving && l.saveDone.contains (coreKey m.dst))

/-- Has the ring of a message room for it? A channel's ring is there while its two ends are paired, and after that for what a sender has
left behind. -/
def State.ringRoom (s : State) (m : Msg) : Bool :=
  let k := s.core m.dst
  if s.frozenMsg m then false
  else if m.cls then
    let b := k.cls m.target
    b.bound && decide (9 * b.msgs + 9 ≤ b.rwords)
  else
    let e := k.ep m.target
    e.met && (e.peer.isNone || e.peer == some (coreKey m.src, m.srcEp)) && decide ((e.received - e.consumed).toNat + 2 ≤ e.rwords)

/-- The launch of the ring that a message is for. -/
def State.ringOwner (s : State) (m : Msg) : Word :=
  let k := s.core m.dst
  if m.cls then (k.cls m.target).serial else (k.ep m.target).serial

/-- The oldest message held at a core that is the first of its ring and for which there is now room. -/
def State.heldReady (s : State) (c : CoreId) : List Msg → List Msg → Option Msg
  | _, [] => none
  | before, m :: t =>
      if m.dst == c && m.since.isSome && !(before.any fun x => x.since.isSome && x.sameRing m) && s.ringRoom m then some m
      else s.heldReady c (before ++ [m]) t

/-- Messages under way to a core that may arrive next: no earlier one of their sending core for their ring is under way. -/
def comers (c : CoreId) : List Msg → List Msg → List Msg
  | _, [] => []
  | before, m :: t =>
      let rest := comers c (before ++ [m]) t
      if m.dst == c && m.since.isNone && !(before.any fun x => x.since.isNone && x.src == m.src && x.sameRing m) then m :: rest else rest

/-- A message is written into its ring, and has left the network. -/
def State.arrive1 (s : State) (c : CoreId) (m : Msg) : State :=
  let k := s.core c
  let s := { s with net := s.net.erase m }
  if m.cls then
    let b := k.cls m.target
    let split := if b.wpos + 9 ≤ b.rwords then 0 else b.rwords - b.wpos
    let ws := (ringHeader b.seq.toNat true m.srcCtx split 8, false) :: m.words
    let s := s.ringWrite b.serial c b.rbase b.rwords b.wpos ws
    (s.updCls c m.target fun b =>
      { b with wpos := (b.wpos + 9) % b.rwords, msgs := b.msgs + 1, seq := b.seq + 1
               lastAt := s.cyc c, fresh := if b.lastAt = s.cyc c then b.fresh + 1 else 1 }).updCore c fun k => k.countRecv m.serial
  else
    let e := k.ep m.target
    let ws := (ringHeader m.seq false m.srcCtx 0 1, false) :: m.words
    let s := s.ringWrite e.serial c e.rbase e.rwords e.wpos ws
    (s.updEp c m.target fun e => { e with wpos := (e.wpos + 2) % e.rwords, received := e.received + 2 }).updCore c
      fun k => k.countRecv m.serial

/-- A held message goes into its ring once it has room; else a message under way arrives, and is written, or is held while its ring
has no room or holds others back. Which of several senders' arrives first is a free value (DESIGN CHOICE, log 60). -/
def execRingMessageArrival (c : CoreId) (s : State) : Res :=
  match s.heldReady c [] s.net with
  | some m => .next (s.arrive1 c m)
  | none =>
      let l := comers c [] s.net
      if l.isEmpty then .next s
      else
        let r := s.draw
        match l[r.1.toNat % l.length]? with
        | none => .next s
        | some m =>
            let s := r.2
            if (s.net.any fun x => x.since.isSome && x.sameRing m) || !s.ringRoom m then
              .next { s with net := s.net.erase m ++ [{ m with since := some (s.cyc c) }] }
            else .next (s.arrive1 c m)

/-- A held message has waited longer than its sender's CHTMO: it returns, its launch is told, and the sending context traps at
its next operation on the endpoint. The report's ENGINE is a free value: no unit of R216 is named for it (DESIGN CHOICE, log 37). The
count stands still while the receiving launch is stopped (10 R208). -/
def execMessageReturn (c : CoreId) (n : Nat) (s : State) : Res :=
  let k := s.core c
  match (s.net.filter fun m => m.dst == c && m.since.isSome)[n]? with
  | none => .next s
  | some m =>
      if s.cyc c - m.since.getD 0 ≤ m.tmo || k.stopped.contains (s.ringOwner m) || s.frozenMsg m || s.ringRoom m then .next s
      else
        let bound := if m.cls then (k.cls m.target).bound else (k.ep m.target).bound
        let base := if m.cls then (k.cls m.target).rbase else (k.ep m.target).rbase
        let a : Word := if bound then w64 (0x7F * 2 ^ 56 + base) else 0
        let s := { s with net := s.net.erase m }
        let r := s.draw
        let s := r.2.report m.serial
          { cls := 10, detail := 2, engine := r.1.toNat % 16, ctx := m.srcCtx, unit := place c, addr := a }
        let e := (s.core m.src).ep m.srcEp
        if e.bound && e.order == m.srcOrder then
          .next (s.updEp m.src m.srcEp fun e =>
            { e with returned := true, free := if m.cls then e.free else e.free + 2, sent := if m.cls then e.sent else e.sent - 2 })
        else .next (s.updEp c m.target fun f => if !m.cls && f.met && f.peer.isNone then { f with sent := f.sent - 2 } else f)

/-- A SEND parked for a free slot longer than its CHTMO traps CHANNEL, detail 0x02. -/
def execChannelTimeout (t : ThreadId) (s : State) : Res :=
  let c := s.ctx t
  match c.held with
  | none => .next s
  | some h =>
      match h.cause with
      | .send _ =>
          if c.st = .parked ∧ h.left.getD c.chtmo.toNat < s.cycleOf t - h.since then .next (s.trapAt t 10 2 0) else .next s
      | _ => .next s

/-- Break a channel at both ends, and tell both launches (R159) (DESIGN CHOICE, log 37). -/
def State.breakChannel (s : State) (c : CoreId) (n det : Nat) : State :=
  let e := (s.core c).ep n
  let one (s : State) (c : CoreId) (n : Nat) : State :=
    let e := (s.core c).ep n
    let a : Word := if e.rx then w64 (0x7F * 2 ^ 56 + e.rbase) else 0
    let r := (s.updEp c n fun e => { e with broken := det }).draw
    r.2.report e.serial
      { cls := 10, detail := det, engine := r.1.toNat % 16, ctx := e.ctx, unit := place c, addr := a }
  let s := one s c n
  match e.peer with
  | some (d, m) => one s (coreOf d) m
  | none => s

/-- An audit of a remote channel by its sending end, behind its data. -/
def execChannelAudit (c : CoreId) (n : BitVec 5) (s : State) : Res :=
  let e := (s.core c).ep n.toNat
  match e.peer with
  | none => .next s
  | some (d, m) =>
      let f := (s.core (coreOf d)).ep m
      if !e.rem || e.rx || !e.met || (s.net.any fun x => !x.cls && x.dst == coreOf d && x.target == m) then .next s
      else if e.sent == f.received && e.free + (e.sent - f.consumed).toNat == f.rwords then .next s
      else .next (s.breakChannel c n.toNat 3)

end Sys2Proof.Machine
end

