-- ==== Sys2Proof/Machine/Layout.lean ====
section
/-! DEFINITION. What a launch record and its extension block say: tiers, cores and leaves of the nest, and the checks before
admission (01 R15, R16; 03 R38; 16 R335 to R341, R344, R363). -/

namespace Sys2Proof.Machine

/-- Clusters of a tier, and cores of each (01 R11). -/
def clustersOf (tier : Nat) : Nat := match tier with | 0 => 16 | 1 => 4 | _ => 1
def clusterSize (tier : Nat) : Nat := if tier = 3 then 4 else 16
/-- Bytes of a core's local store (04 R78). -/
def storeSize (tier : Nat) : Nat := match tier with | 0 => 2 ^ 19 | 1 => 2 ^ 20 | 2 => 2 ^ 20 | _ => 2 ^ 21

/-- The tiers a launch spans: those with sections under a TIER level, else the one it names (R16, R339). A TIER level needs no DIE or PACKAGE level
above it (DESIGN CHOICE, log 101). -/
def Launch.tiers (l : Launch) : List Nat :=
  if l.hasDomain 2 then (List.range 4).filter l.hasSection else if l.hasSection l.tier then [l.tier] else []

/-- Extent of the level of a domain. -/
def Launch.extentOf (l : Launch) (dom : Nat) : Option Nat := (l.levels.find? fun x => x.1 == dom).map (·.2.2)

/-- Clusters that a nest names in a tier. -/
def Launch.clusters (l : Launch) (t : Nat) : Nat :=
  match l.extentOf 3 with | some n => if n = 0 then clustersOf t else n | none => clustersOf t

/-- Indices of the cores of a launch in a tier (R338). -/
def Launch.coreIdxs (l : Launch) (t : Nat) : List Nat :=
  match l.extentOf 3, l.extentOf 4 with
  | none, some n => List.range (if n = 0 then coresOf t else n)
  | _, n =>
      let per := match n with | some n => if n = 0 then clusterSize t else n | none => clusterSize t
      (List.range (l.clusters t)).flatMap fun c => (List.range per).map (16 * c + ·)

/-- The cores that a launch is admitted to. -/
def Launch.layout (l : Launch) : List CoreId :=
  l.dies.flatMap fun d => l.tiers.flatMap fun t => (l.coreIdxs t).map fun i => ⟨d, t, i⟩

/-- Innermost hardware level: the last that is not SOFT. -/
def Launch.inner (l : Launch) : Option Nat := (l.levels.filter fun x => x.1 != 7).getLast?.map (·.1)

/-- Product of the SOFT extents. -/
def Launch.soft (l : Launch) : Nat := (l.levels.filter fun x => x.1 == 7).foldl (fun p x => p * x.2.2) 1

/-- A leaf of the expansion: where its record is posted, the context whose entry it runs, and its affinity. -/
structure LeafRec where
  die : Nat
  tier : Nat
  idx : Nat
  ctx : Nat
  affk : Nat
deriving DecidableEq, Repr

/-- The hardware leaves, in the order die, tier, core, context (R344). A nest without a hardware level has one leaf on die
FIRSTDIE. -/
def Launch.leaves (l : Launch) : List LeafRec :=
  let has (t k : Nat) : Bool := l.entry t k != 0
  let dies := match l.inner with | some 0 => [l.firstDie] | none => [l.firstDie] | _ => l.dies
  dies.flatMap fun d => l.tiers.flatMap fun t =>
    match l.inner with
    | some 6 => (l.coreIdxs t).flatMap fun i => ((List.range 16).filter (has t)).map fun k => ⟨d, t, i, k, 3⟩
    | some 5 => (l.coreIdxs t).flatMap fun i => ((List.range 8).filter (has t)).map fun k => ⟨d, t, i, k, 3⟩
    | some 4 => if has t 0 then (l.coreIdxs t).map fun i => ⟨d, t, i, 0, 2⟩ else []
    | some 3 => if has t 0 then (List.range (l.clusters t)).map fun _ => ⟨d, t, 0, 0, 0⟩ else []
    | _ => if has t 0 then [⟨d, t, 0, 0, 0⟩] else []

/-- Number of records of the expansion. -/
def Launch.records (l : Launch) : Nat := l.leaves.length * l.soft

/-! The checks before admission (R16, R38, R341, R363). Each failure: offset, class, detail. -/

/-- A check: what must hold, and the offset it is reported at. -/
structure Check where
  ok : Bool
  off : Nat
  cls : Nat
  det : Nat
deriving DecidableEq, Repr

def need (ok : Bool) (off : Nat) : Check := ⟨ok, off, 9, 0x21⟩

/-- Natural scope code of a domain (R15). -/
def naturalScope (dom : Nat) : Nat := match dom with | 0 => 4 | 1 => 3 | 2 => 2 | 3 => 1 | _ => 0

/-- Levels that enclose level `n`, SOFT apart: their domains, outermost first. -/
def Launch.above (l : Launch) (n : Nat) : List Nat :=
  ((List.range n).filter fun m => fld (l.nestByte m) 7 1 == 1 && fld (l.nestByte m) 0 3 != 7).map fun m =>
    fld (l.nestByte m) 0 3

/-- Is nest level `n` well formed (R16, R338)? `child`: of a device-side launch. -/
def Launch.levelOk (l : Launch) (child : Bool) (n : Nat) : Bool :=
  let b := l.nestByte n
  let dom := fld b 0 3
  let sc := fld b 3 3
  let up := l.above n
  let nat := match up.getLast? with | some d => naturalScope d | none => 0
  if fld b 7 1 = 0 then fld b 6 1 == 0
  else
    fld b 6 1 == 0 && decide (sc ≤ 5) && ((List.range n).all fun m => fld (l.nestByte m) 7 1 == 1) &&
      (if dom = 7 then decide (nat ≤ sc)
       else decide (naturalScope dom ≤ sc) && (up.all fun d => decide (d < dom)) && !(dom == 6 && up.contains 5)) &&
      !(child && dom == 0)

/-- Does the extent of level `n` agree with R338, for the tiers of the launch? -/
def Launch.extentOk (l : Launch) (child : Bool) (tiers : List Nat) (n : Nat) : Bool :=
  let b := l.nestByte n
  let x := l.extent n
  if fld b 7 1 = 0 then true
  else match fld b 0 3 with
    | 0 => decide (x ≤ 1)
    | 1 => decide (1 ≤ x ∧ l.firstDie + x ≤ 8) && (!child || x == 1)
    | 3 => tiers.all fun t => decide (x ≤ clustersOf t)
    | 4 => tiers.all fun t => decide (x ≤ if (l.above n).contains 3 then clusterSize t else coresOf t)
    | 7 => decide (1 ≤ x) && decide ((((List.range (n + 1)).filter fun m =>
             fld (l.nestByte m) 7 1 == 1 && fld (l.nestByte m) 0 3 == 7).foldl (fun p m => p * l.extent m) 1) ≤ 2 ^ 32)
    | _ => x == 0

/-- The checks in the order of their offsets. `ext`: the extension block has been read; without it only what the launch record
shows by itself is checked. -/
def Launch.checks (l : Launch) (ext : Bool) : List Check :=
  let child := l.parent.isSome
  let tiers := if ext then l.tiers else []
  let sections := if ext then (List.range 4).filter l.hasSection else []
  [need (fld l.ctrl 15 1 == 0 && fld l.ctrl 7 1 == 0 && fld l.ctrl 3 1 == 0 && l.kind == 0 && l.pclass != 3) 0] ++
  (List.range 8).map (fun n => need (l.levelOk child n) (8 + n)) ++
  (List.range 8).map (fun n => need (l.extentOk child tiers n) (0x10 + 2 * n)) ++
  [need (l.extaddr.toNat % 256 == 0 && l.extaddr.toNat / 2 ^ 52 == 0) 0x20,
   need (fld l.memw 46 18 == 0 && fld l.memw 19 1 == 0 && decide (fld l.memw 40 6 ≤ 32) &&
     decide (l.nmbase + l.nmsize ≤ 2 ^ 25) && sections.all fun t => decide (l.lssize ≤ storeSize t)) 0x28,
   need (fld l.qw 28 4 == 0 && decide (l.budgetN ≤ 2047)) 0x30,
   need (fld l.ptroot 0 16 == 0 && fld l.ptroot 52 12 == 0) 0x38] ++
  (List.range 16).map (fun n => ⟨imageValid (l.fmtImage n) (bit l.fmtset n), 0x40 + 4 * n, 7, 3⟩) ++
  (if ext then
    [need (l.savearea.toNat % 4096 == 0 && (l.pclass != 2 || l.savearea != 0)) 0xA0,
     need (l.spillbase.toNat % 512 == 0) 0xA8,
     need (leAt l.ext 0x34 4 == 0) 0xB0,
     need (l.recbase.toNat % 64 == 0) 0xB8,
     need (l.donerec.toNat % 64 == 0 && (child || l.donerec == 0)) 0xC0,
     need ((List.range 16).all fun k => decide (l.vwinNibble k < 4) || l.vwinNibble k == 15) 0xC8,
     need (l.cwimg.toNat % 64 == 0) 0xF0,
     need (l.donectr.toNat % 8 == 0) 0xF8,
     need (!sections.isEmpty) 0x100]
   else [])

/-- The first check that fails. -/
def Launch.firstBad (l : Launch) (ext : Bool) : Option Check := (l.checks ext).find? fun c => !c.ok

end Sys2Proof.Machine
end

