-- ==== Sys2Proof/Machine/ThreadRecord.lean ====
section
/-! DEFINITION. The 512-byte record of a thread's state, in a spill frame and in a save block (10 R213). -/

namespace Sys2Proof.Machine

/-- Code of a context state. -/
def CtxState.code (x : CtxState) : Nat :=
  match x with | .free => 0 | .ready => 1 | .parked => 2 | .evicting => 3 | .stopped => 4 | .killed => 5

/-- CHTMO and BARTMO with the remaining counts at a cycle: of a parked SEND the one, of a parked BAR.WAIT the other is what is
left of its timeout (log 22, DEDUCED). -/
def Ctx.counts (c : Ctx) (now : Nat) : BitVec 32 × BitVec 32 :=
  match c.held with
  | none => (c.chtmo, c.bartmo)
  | some h =>
      let left (r : BitVec 32) : BitVec 32 := BitVec.ofNat 32 (h.left.getD r.toNat - (now - h.since))
      match h.cause with
      | .send _ => (left c.chtmo, c.bartmo)
      | .bar _ => (c.chtmo, left c.bartmo)
      | _ => (c.chtmo, c.bartmo)

/-- The held instruction with the remaining timeout of a record, and its other counts as they were: `el` cycles had passed. -/
def Held.withLeft (h : Held) (el chtmo bartmo : Nat) : Held :=
  match h.cause with
  | .send _ => { h with left := some (chtmo + el) }
  | .bar _ => { h with left := some (bartmo + el) }
  | _ => h

/-- The record of a context whose state has the code `st` at a cycle, with the wait-condition word `wait` (DESIGN CHOICE, log 17). -/
def Ctx.toBytes (c : Ctx) (st now : Nat) (wait : Word) : List Byte :=
  (List.range 32).flatMap (fun r => leBytes 8 (c.x r).toNat) ++ (List.range 8).flatMap (fun r => leBytes 8 (c.e r).toNat) ++
    (List.range 16).flatMap (fun r => leBytes 4 (c.h r).toNat) ++ leBytes 8 c.pc.toNat ++
    leBytes 1 (st + 8 * b2n c.tmode) ++ leBytes 1 c.ps.toNat ++ leBytes 1 c.pm.toNat ++ leBytes 1 0 ++
    leBytes 2 (match c.arrival with | some a => a.gen.toNat | none => 0) ++ leBytes 2 0 ++
    leBytes 4 c.xm.toNat ++ leBytes 4 c.em.toNat ++ leBytes 8 c.cir.toNat ++ leBytes 8 c.paddr.toNat ++
    leBytes 8 c.retry.toNat ++ leBytes 4 (c.counts now).1.toNat ++ leBytes 4 (c.counts now).2.toNat ++ leBytes 8 c.tpc.toNat ++
    leBytes 8 c.tcause.toNat ++ leBytes 8 c.taddr.toNat ++ leBytes 8 c.tscratch.toNat ++ leBytes 8 wait.toNat ++
    leBytes 8 (match c.arrival with | some a => a.addr.toNat | none => 0) ++ leBytes 8 c.issued.toNat ++
    (List.range 16).map fun n => BitVec.ofNat 8 ((mfind c.cs n).getD 0xFF)

/-- Does a context's held instruction count CHTMO, or BARTMO? -/
def Ctx.counting (c : Ctx) : Bool × Bool :=
  match c.held with
  | some h => (match h.cause with | .send _ => (true, false) | .bar _ => (false, true) | _ => (false, false))
  | none => (false, false)

/-- A context from a record: what the record holds, over a context that supplies the rest, `el` cycles after its park. A barrier's
arrival address is never 0 (07 R162). A register whose place holds a remaining count is as the part kept it. -/
def Ctx.ofBytes (b : List Byte) (el : Nat) (o : Ctx) : Ctx :=
  let a := leAt b 0x1E0 8
  { o with
    xs := (List.range 32).map fun r => (r, if r = 0 then 0 else w64 (leAt b (8 * r) 8))
    es := (List.range 8).map fun r => (r, w64 (leAt b (0x100 + 8 * r) 8))
    hs := (List.range 16).map fun r => (r, BitVec.ofNat 32 (leAt b (0x140 + 4 * r) 4))
    pc := w64 (leAt b 0x180 8)
    tmode := fld (leAt b 0x188 1) 3 1 == 1
    ps := BitVec.ofNat 8 (leAt b 0x189 1) ||| 1
    pm := BitVec.ofNat 8 (leAt b 0x18A 1)
    arrival := if a = 0 then none else some { addr := w64 a, gen := BitVec.ofNat 16 (leAt b 0x18C 2) }
    xm := BitVec.ofNat 32 (leAt b 0x190 4)
    em := BitVec.ofNat 8 (leAt b 0x194 1)
    cir := BitVec.ofNat 8 (leAt b 0x198 1)
    paddr := w64 (leAt b 0x1A0 8)
    retry := BitVec.ofNat 24 (leAt b 0x1A8 3)
    chtmo := if o.counting.1 then o.chtmo else BitVec.ofNat 32 (leAt b 0x1B0 4)
    bartmo := if o.counting.2 then o.bartmo else BitVec.ofNat 32 (leAt b 0x1B4 4)
    held := o.held.map fun h => h.withLeft el (leAt b 0x1B0 4) (leAt b 0x1B4 4)
    tpc := w64 (leAt b 0x1B8 8)
    tcause := w64 (leAt b 0x1C0 8)
    taddr := w64 (leAt b 0x1C8 8)
    tscratch := w64 (leAt b 0x1D0 8)
    issued := w64 (leAt b 0x1E8 8)
    cs := (List.range 16).filterMap fun n =>
      let v := leAt b (0x1F0 + n) 1
      if v < 32 then some (n, v) else none }

end Sys2Proof.Machine
end

