-- ==== Sys2Proof/Machine/Condenser.lean ====
section
/-! DEFINITION. The Condenser: the device's own posts, POST, TAKE, dispatch, ageing and affinity (16 R348 to R356, R359 to R362). -/

namespace Sys2Proof.Machine

/-- Is a launch over, so that a post for it finds nothing to join? -/
def State.ended (s : State) (serial : Word) : Bool :=
  !s.known serial || (match (s.launch serial).st with | .ending => true | .done => true | .rejected => true | _ => false)

/-- CONDENSER_ARRIVAL: a post of the device's own reaches its partition. Posts of different sources arrive in any order (R348);
which one comes next is a free value (DESIGN CHOICE, log 60). -/
def execCondenserArrival (die : BitVec 3) (tier : BitVec 2) (s : State) : Res :=
  let d := die.toNat
  let t := tier.toNat
  let l := (s.part d t).transit
  if l.isEmpty then .next s
  else
    let r := s.draw
    let n := r.1.toNat % l.length
    match l[n]?.bind fun y => l.find? fun z => z.src == y.src with
    | none => .next s
    | some x =>
        let s := r.2.updPart d t fun p => { p with transit := p.transit.erase x }
        .next (if s.ended x.serial then s else (s.arrive d t x true).1)

/-! POST (R361). -/

/-- LPIX of a launch on a die. -/
def Launch.lpixOn (l : Launch) (d : Nat) : Nat := mget 0 l.lpix d

/-- The checks of a record's address (R360), in the order ALIGN, region, translation. -/
def State.recAcc (s : State) (t : ThreadId) (a : Word) (k : Acc1) : Loc :=
  if a.toNat % 64 ≠ 0 then .trap 8 1
  else if a.toNat / 2 ^ 56 ≠ 0 then .trap 6 1
  else s.checkAcc t a 64 64 k

/-- Reach a record: its key, or the trap, the park or the fault its address meets. -/
def State.atRec (s : State) (i : Instr) (a : Word) (k : Acc1) (f : Nat → Res) : Res :=
  match s.recAcc s.cur a k with
  | .trap c d => .next (s.trap c d a)
  | .xfault => .next (s.parkX i a k)
  | .hole pa => .fault (.noMemory pa)
  | .hbm k => f k
  | .hostMem k => f k
  | _ => .next (s.trap 6 7 a)

/-- The record that POST hands over. -/
def State.handed (s : State) (t : ThreadId) (a : Word) (b : List Byte) : Transit :=
  let l := s.launchOf t
  { addr := a, serial := l.serial
    bytes := rset (rset (rset b 58 3 t.die) 116 11 (l.lpixOn t.die)) 52 3 (min (recPrio b) l.prio)
    newLive := true, src := 0 }

/-- POST and POST.TRY up to the arrival (DEDUCED, log 41). -/
def State.postWith (s : State) (i : Instr) (ra : Nat) (f : State → Nat → Transit → Res) : Res :=
  let t := s.cur
  let a := s.me.x ra
  let base := s.me.xp ra
  s.atRec i a .load fun _ =>
    s.afterOwn i (.reply false) fun s =>
      let s := s.release t 4
      s.atRec i a .load fun k =>
        let b := s.rd k 64
        let l := s.launchOf t
        if 0xE ≤ recOp b ∨ recSpill b ∨ recWait b ∨ recDone b then .next (s.trap 9 7 0)
        else if !l.hasSection (recTier b) || (recAffk b != 0 && !l.on ⟨t.die, recTier b, recAffc b⟩) then .next (s.trap 9 7 0)
        else
          let s := s.updMe fun c => (c.consume base).consumeAt ((s.marksOf k 64).any id) a
          f s (recTier b) (s.handed t a b)

/-- POST: accepted at once, or parked while the partition is full. -/
def execPost (a : BitVec 5) (s : State) : Res :=
  let i : Instr := .post a
  s.postWith i a.toNat fun s tier x =>
    let t := s.cur
    let r := s.arrive t.die tier x false
    if r.2 = .full then
      let s := s.updPart t.die tier fun p =>
        { p with posts := if p.posts.any fun y => y.1 == t then p.posts else p.posts ++ [(t, x)] }
      .next (s.park i (.postFull t.die tier))
    else .next ((r.1.updMe fun c => c.next 4).pairSync t [] [] [])

/-- POST.TRY: the predicate says whether the record was folded or queued. -/
def execPostTry (p : BitVec 3) (a : BitVec 5) (s : State) : Res :=
  let mark := s.me.xp a.toNat
  s.postWith (.postTry p a) a.toNat fun s tier x =>
    let t := s.cur
    let r := s.arrive t.die tier x false
    let ok := r.2 == .queued || r.2 == .folded
    .next ((r.1.updMe fun c => (c.setP p.toNat ok mark).next 4).pairSync t [] [p.toNat] [])

/-! Writing a held entry back (R352). -/

/-- PAYLOAD, PRIO and flags word of a held record over the bytes in memory. -/
def writeBackRec (m h : List Byte) : List Byte :=
  rset (rset (rset m 256 256 (rfld h 256 256)) 128 64 (rfld h 128 64)) 52 3 (recPrio h)

def State.writeRec (s : State) (key : Nat) (b : List Byte) : State := s.hbmWrite key b (s.marksOf key 64)

/-- TAKE (R362). -/
def execTake (d a : BitVec 5) (s : State) : Res :=
  let t := s.cur
  let v := s.me.x a.toNat
  let mark := s.me.xp a.toNat
  let i : Instr := .take d a
  let done (s : State) (r : Word) : Res :=
    .next ((s.updMe fun c => ((c.consume mark).setX d.toNat r mark).next 4).pairSync t [d.toNat] [] [])
  if bits v 63 48 ≠ 0 then .next (s.trap 9 7 0)
  else match (s.part t.die t.tier).entries.find? fun e => e.serial == s.me.serial && recKey e.bytes == v.toNat with
    | none => done s 0
    | some e =>
        s.atRec i e.addr .store fun k =>
          let s := s.writeRec k e.bytes
          let s := s.updPart t.die t.tier fun p => { p with entries := p.entries.filter fun x => x.order != e.order }
          let s := s.updLaunch e.serial fun l => { l with live := l.live - 1 }
          let s := (s.acquire t 4).acceptPosts (s.part t.die t.tier).posts.length t.die t.tier
          done s e.addr

/-! Dispatch (R354, R355; 04 R68, R85, R87). -/

/-- Does a waiting launch press a launch by cheap pre-emption (R357)? Its contexts parked at a blocking point are evicted at once, on every core. -/
def State.pressed (s : State) (l : Launch) : Bool :=
  l.cheap && (match l.preemptor with | some w => (s.launch w).st == .waiting | none => false)

/-- Is a core one that the pre-emptor of a launch under cheap pre-emption needs (R357)? Dispatch of the launch stops there. -/
def State.withheld (s : State) (l : Launch) (c : CoreId) : Bool :=
  l.cheap && (match l.preemptor with | some w => (s.launch w).layout.contains c | none => false)

/-- Does an entry's affinity permit a context (R355)? -/
def CEntry.permits (e : CEntry) (t : ThreadId) : Bool :=
  match recAffk e.bytes with
  | 0 => true
  | 1 => recAffc e.bytes == t.idx || e.hintOver
  | 2 => recAffc e.bytes == t.idx
  | _ => recAffc e.bytes == t.idx && recAffx e.bytes == t.ctx

/-- Is a context free to take a record of a launch? A pair needs both. -/
def State.freeFor (s : State) (t : ThreadId) (l : Launch) : Bool :=
  decide (t.ctx < 16) && (s.ctx t).st == .free && (!l.isPair || (decide (t.ctx < 8) && (s.ctx { t with ctx := t.ctx + 8 }).st == .free))

/-- Is an entry eligible for a context (R354)? -/
def State.eligibleEntry (s : State) (t : ThreadId) (e : CEntry) : Bool :=
  let l := s.launch e.serial
  s.known e.serial && l.st == .admitted && l.on t.core && !(s.core t.core).stopped.contains e.serial &&
    !s.withheld l t.core && e.permits t && s.freeFor t l

/-- The entry of highest current priority, and of those the oldest. -/
def bestEntry (l : List CEntry) : Option CEntry :=
  l.find? fun e => l.all fun f => decide (f.prio < e.prio) || (f.prio == e.prio && decide (e.order ≤ f.order))

/-- A context filled at dispatch (04 R68), READY in the following cycle (R85). TPC, TCAUSE and TADDR keep what the context's
last trap left (DEDUCED, log 44). -/
def Ctx.fill (o : Ctx) (e : CEntry) (run now : Nat) : Ctx :=
  { Ctx.reset with
    st := .ready, readyAt := now + 1, xs := (List.range 4).map fun n => (4 + n, recPayload e.bytes n)
    pc := recPc e.bytes, cir := BitVec.ofNat 8 (recCir e.bytes), recaddr := e.addr, serial := e.serial, run := run
    tpc := o.tpc, tcause := o.tcause, taddr := o.taddr, lastIssue := o.lastIssue }

/-- A context restored from a spill frame: parked with its held instruction, with the remaining timeout that the frame holds and a fresh
RETRY count (04 R65, R87), and with what engines marked and handed over meanwhile. What the frame does not hold comes with the evicted
record; lens tags, endpoints and the window belong to the core it left (DEDUCED, log 76). -/
def Ctx.respill (o : Ctx) (e : CEntry) (x : Spill) (same : Bool) (frame : List Byte) (now : Nat) : Ctx :=
  let c := Ctx.ofBytes frame 0 { x.ctx with lastIssue := o.lastIssue, stepping := false, weak := false, slow := false, ahead := none }
  x.late.foldl (fun c v => c.arrived v.1 v.2.1 v.2.2) { c with
    st := .parked, prev := .free, readyAt := now + 1, recaddr := e.addr, serial := e.serial
    cir := c.cir ||| x.cir, paddr := if c.paddr = 0 then x.paddr else c.paddr
    held := c.held.map fun h => { h with since := now, retryAt := now }
    cs := if same then c.cs else [], lensTags := if same then c.lensTags else 0, needs := same && c.needs }

/-- Copy a leader's fresh context to its trailer, which keeps its own issue time. -/
def State.rebuildTrailer (s : State) (t : ThreadId) : State :=
  match s.trailer t with
  | some u => s.setCtx u { s.ctx t with lastIssue := (s.ctx u).lastIssue }
  | none => s

/-- What becomes of the held instruction of a restored context: presented again, or given the recorded result or trap (04 R87). -/
def State.settleSpilled (s : State) (t : ThreadId) (o : Outcome1) : State :=
  match o, (s.ctx t).held with
  | .trap cls det, _ => s.trapAt t cls det ((s.ctx t).arrival.map (·.addr) |>.getD 0)
  | .value d m, some h => s.finishLoad t h.instr d m
  | .stored, some h => s.finishStf t h.instr
  | _, _ => { s with resume := s.resume ++ [t] }

/-- Dispatch a spilled record: its frame frees, its SPILL and WAIT bits are cleared in memory, and its held instruction completes
(DEDUCED, log 29). -/
def State.dispatchSpilled (s : State) (t : ThreadId) (e : CEntry) (x : Spill) (key frameKey : Nat) : State :=
  let s' := s.updCtx t fun c => c.respill e x (x.thread.core == t.core) (s.rd frameKey 512) (s.cycleOf t)
  let s' := s'.writeRec key (rset (rset (s'.rd key 64) 159 1 0) 57 1 0)
  let s' := s'.updLaunch e.serial fun l => { l with frames := l.frames.erase x.frame }
  let s' := { s' with spills := s'.spills.erase x }
  (s'.rebuildTrailer t).settleSpilled t x.out

/-- A page that the device needs for a record is not usable: a fault record, or a fatal partition error (R447) (DEDUCED, log 45). -/
def State.recTrouble (s : State) (serial : Word) (c : CoreId) (eng : Nat) (k : Acc1) (a : Word) (loc : Loc) : State :=
  match loc with
  | .xfault => s.engFault serial c k a
  | .hole pa => { s with hole := some pa }
  | .trap cls det => s.fatal serial { cls := cls, detail := det, engine := eng, ctx := 0x1F, unit := place c, addr := a }
  | _ => s.fatal serial { cls := 6, detail := 7, engine := eng, ctx := 0x1F, unit := place c, addr := a }

/-- Fill a context, and the trailer of a pair, from an entry. -/
def State.fillCtx (s : State) (t : ThreadId) (e : CEntry) : State :=
  let r := s.fresh
  (r.2.updCtx t fun c => c.fill e r.1 (s.cycleOf t)).rebuildTrailer t

/-- Give an entry to a context. The record is written when something folded into it (R352), and a spilled record needs its
frame; an entry whose pages are not resident waits. -/
def State.dispatchEntry (s : State) (t : ThreadId) (e : CEntry) : State :=
  let l := s.launch e.serial
  let remove (s : State) : State :=
    let s := s.updPart t.die t.tier fun p => { p with entries := p.entries.filter fun x => x.order != e.order }
    (s.acquire t 4).acceptPosts (s.part t.die t.tier).posts.length t.die t.tier
  let loc := s.devLoc l t.die e.addr 64 .engWrite
  if recSpill e.bytes then
    match s.spills.find? fun x => x.addr == e.addr && x.serial == e.serial with
    | none => remove s
    | some x =>
        let fa := recPayload e.bytes 0
        let floc := s.devLoc l t.die fa 512 .engRead
        (match loc.key, floc.key with
        | some k, some fk => (remove s).dispatchSpilled t e x k fk
        | none, _ => s.recTrouble e.serial t.core 7 .engWrite e.addr loc
        | _, none => s.recTrouble e.serial t.core 7 .engRead fa floc)
  else if e.folded then
    match loc.key with
    | some k =>
        let s := s.writeRec k (writeBackRec (s.rd k 64) e.bytes)
        (remove s).fillCtx t e
    | none => s.recTrouble e.serial t.core 7 .engWrite e.addr loc
  else (remove s).fillCtx t e

/-- DISPATCH: the partition of the context's tier chooses an entry for a FREE context. -/
def execDispatch (t : ThreadId) (s : State) : Res :=
  match bestEntry ((s.part t.die t.tier).entries.filter fun e => s.eligibleEntry t e) with
  | none => .next s
  | some e => (s.dispatchEntry t e).out

/-! Ageing and hints (R354, R355). -/

/-- Cycles of its tier's clock that an entry has waited. -/
def State.waited (s : State) (tier : Nat) (e : CEntry) : Nat := mget 0 s.clocks tier - e.since

/-- PRIORITY_AGEING: the n-th entry of a partition has waited a further 2^20 cycles (DEDUCED, log 42). -/
def execPriorityAgeing (die : BitVec 3) (tier : BitVec 2) (n : Nat) (s : State) : Res :=
  let up (e : CEntry) : CEntry :=
    if e.aged < 3 ∧ (e.aged + 1) * 2 ^ 20 ≤ s.waited tier.toNat e then { e with prio := min 7 (e.prio + 1), aged := e.aged + 1 } else e
  .next (s.updPart die.toNat tier.toNat fun p => { p with entries := p.entries.modify n up })

/-- AFFINITY_HINT_EXPIRY: the n-th entry has waited 1,024 cycles. -/
def execAffinityHintExpiry (die : BitVec 3) (tier : BitVec 2) (n : Nat) (s : State) : Res :=
  .next (s.updPart die.toNat tier.toNat fun p =>
    { p with entries := p.entries.modify n fun e => { e with hintOver := e.hintOver || decide (1024 ≤ s.waited tier.toNat e) } })

end Sys2Proof.Machine
end

