-- ==== Sys2Proof/Machine/Issue.lean ====
section
/-! DEFINITION. What comes before an instruction's meaning: the rotation, the fetch with its prefixes, the predicate, and the
waits for registers that an access in flight will write (02 R25; 04 R59, R60, R62; 05 R88, R89, R98, R99). -/

namespace Sys2Proof.Machine

/-! Registers that an instruction names. -/

/-- The registers of an octet. -/
def octetRegs (q : BitVec 2) : List Nat := (List.range 8).map (octet q + ·)

/-- The x registers that an instruction of a thread reads or writes (05 R101). -/
def Instr.xregs (i : Instr) : List Nat :=
  match i with
  | .add d a b => [d.toNat, a.toNat, b.toNat]
  | .sub d a b => [d.toNat, a.toNat, b.toNat]
  | .and d a b => [d.toNat, a.toNat, b.toNat]
  | .or d a b => [d.toNat, a.toNat, b.toNat]
  | .xor d a b => [d.toNat, a.toNat, b.toNat]
  | .sll d a b => [d.toNat, a.toNat, b.toNat]
  | .srl d a b => [d.toNat, a.toNat, b.toNat]
  | .sra d a b => [d.toNat, a.toNat, b.toNat]
  | .min d a b => [d.toNat, a.toNat, b.toNat]
  | .max d a b => [d.toNat, a.toNat, b.toNat]
  | .minu d a b => [d.toNat, a.toNat, b.toNat]
  | .maxu d a b => [d.toNat, a.toNat, b.toNat]
  | .clz d a => [d.toNat, a.toNat]
  | .ctz d a => [d.toNat, a.toNat]
  | .popc d a => [d.toNat, a.toNat]
  | .mul d a b => [d.toNat, a.toNat, b.toNat]
  | .mulh d a b => [d.toNat, a.toNat, b.toNat]
  | .mulhu d a b => [d.toNat, a.toNat, b.toNat]
  | .div d a b => [d.toNat, a.toNat, b.toNat]
  | .divu d a b => [d.toNat, a.toNat, b.toNat]
  | .rem d a b => [d.toNat, a.toNat, b.toNat]
  | .remu d a b => [d.toNat, a.toNat, b.toNat]
  | .addi d a _ => [d.toNat, a.toNat]
  | .andi d a _ => [d.toNat, a.toNat]
  | .ori d a _ => [d.toNat, a.toNat]
  | .xori d a _ => [d.toNat, a.toNat]
  | .adda d a b _ => [d.toNat, a.toNat, b.toNat]
  | .slli d a _ => [d.toNat, a.toNat]
  | .srli d a _ => [d.toNat, a.toNat]
  | .srai d a _ => [d.toNat, a.toNat]
  | .bext d a _ _ _ => [d.toNat, a.toNat]
  | .bins d a _ _ => [d.toNat, a.toNat]
  | .ldk d _ => [d.toNat]
  | .move d a => [d.toNat, a.toNat]
  | .lde _ a => [a.toNat]
  | .moveXE d _ => [d.toNat]
  | .sel d a b _ _ => [d.toNat, a.toNat, b.toNat]
  | .jal d _ => [d.toNat]
  | .jr d a => [d.toNat, a.toNat]
  | .ld t b _ _ _ _ => [t.toNat, b.toNat]
  | .st t b _ _ _ _ => [t.toNat, b.toNat]
  | .ldq q b _ _ _ => octetRegs q ++ [b.toNat]
  | .stq q b _ _ _ => octetRegs q ++ [b.toNat]
  | .ldfKeep t b _ _ _ => [t.toNat, b.toNat]
  | .ldfTake t b _ _ _ => [t.toNat, b.toNat]
  | .stf t b _ _ _ => [t.toNat, b.toNat]
  | .few b _ => [b.toNat]
  | .feq _ b _ => [b.toNat]
  | .amoadd d a b _ _ _ => [d.toNat, a.toNat, b.toNat]
  | .amomin d a b _ _ _ _ => [d.toNat, a.toNat, b.toNat]
  | .amomax d a b _ _ _ _ => [d.toNat, a.toNat, b.toNat]
  | .amoand d a b _ _ _ => [d.toNat, a.toNat, b.toNat]
  | .amoor d a b _ _ _ => [d.toNat, a.toNat, b.toNat]
  | .amoxor d a b _ _ _ => [d.toNat, a.toNat, b.toNat]
  | .amoswp d a b _ _ _ => [d.toNat, a.toNat, b.toNat]
  | .amocas d a b _ _ _ => [d.toNat, a.toNat, b.toNat]
  | .bankopAdd q a _ _ => octetRegs q ++ [a.toNat]
  | .bankopMax q a _ _ => octetRegs q ++ [a.toNat]
  | .bankopMin q a _ _ => octetRegs q ++ [a.toNat]
  | .bankopAxpy q a _ _ => octetRegs q ++ [a.toNat]
  | .cmp _ _ a b => [a.toNat, b.toNat]
  | .cmpi _ _ a _ => [a.toNat]
  | .barinit a b => [a.toNat, b.toNat]
  | .barArrive a => [a.toNat]
  | .barWait a => [a.toNat]
  | .movhHX _ a => [a.toNat]
  | .movhXH d _ => [d.toNat]
  | .send s _ => [s.toNat]
  | .recv d _ => [d.toNat]
  | .sendt o _ => octetRegs o
  | .recvt o _ => octetRegs o
  | .chset s _ => [s.toNat]
  | .msgbind s => [s.toNat]
  | .cpy _ d s l => [d.toNat, s.toNat, l.toNat]
  | .cpyT8 _ d s l => [d.toNat, s.toNat, l.toNat]
  | .cpyT16 _ d s l => [d.toNat, s.toNat, l.toNat]
  | .cpys _ d s l => [d.toNat, s.toNat, l.toNat]
  | .cpyg _ d b c _ => [d.toNat, b.toNat, c.toNat]
  | .pfetch a l => [a.toNat, l.toNat]
  | .rstore d s l => [d.toNat, s.toNat, l.toNat]
  | .strmBind _ a => [a.toNat]
  | .restrictWsum _ d s z => [d.toNat, s.toNat, z.toNat]
  | .restrictMax _ d s z => [d.toNat, s.toNat, z.toNat]
  | .restrictMin _ d s z => [d.toNat, s.toNat, z.toNat]
  | .restrictGather _ d s z => [d.toNat, s.toNat, z.toNat]
  | .prolongInterp _ d s z => [d.toNat, s.toNat, z.toNat]
  | .prolongBcast _ d s z => [d.toNat, s.toNat, z.toNat]
  | .prolongScatter _ d s z => [d.toNat, s.toNat, z.toNat]
  | .lwload _ i s l => [i.toNat, s.toNat, l.toNat]
  | .lcfg i v => [i.toNat, v.toNat]
  | .lstat d => [d.toNat]
  | .haloRun _ a b => [a.toNat, b.toNat]
  | .haloStat _ d => [d.toNat]
  | .vld _ a _ _ _ => [a.toNat]
  | .vst _ a _ _ => [a.toNat]
  | .vlds _ a b _ _ _ => [a.toNat, b.toNat]
  | .vldx _ a _ _ _ _ => [a.toNat]
  | .vstx _ a _ _ _ => [a.toNat]
  | .vbcast _ a _ _ => [a.toNat]
  | .vmovx _ d b => [d.toNat, b.toNat]
  | .vrot _ _ x _ _ => [x.toNat]
  | .vscale _ _ x _ _ => [x.toNat]
  | .rngkey a b => [a.toNat, b.toNat]
  | .rnggen d a b => [2 * d.toNat, 2 * d.toNat + 1] ++ [a.toNat, b.toNat]
  | .stemp a b => [a.toNat, b.toNat]
  | .stopk d a b => [d.toNat, a.toNat, b.toNat]
  | .stopp d a b => [d.toNat, a.toNat, b.toNat]
  | .smerge d a b => [d.toNat, a.toNat, b.toNat]
  | .sdraw d a b => [d.toNat, a.toNat, b.toNat]
  | .specOpen d a b => [d.toNat, a.toNat, b.toNat]
  | .specAppend d a b => [d.toNat, a.toNat, b.toNat]
  | .specVerify d a b => [d.toNat, a.toNat, b.toNat]
  | .specCommit d a => [d.toNat, a.toNat]
  | .specAbort d a => [d.toNat, a.toNat]
  | .post a => [a.toNat]
  | .postTry _ a => [a.toNat]
  | .take d a => [d.toNat, a.toNat]
  | .launch d a => [d.toNat, a.toNat]
  | .launchTry _ a => [a.toNat]
  | .setpred a b => [a.toNat, b.toNat]
  | .addsucc d a b => [d.toNat, a.toNat, b.toNat]
  | .evict d a => [d.toNat, a.toNat]
  | .getc d _ => [d.toNat]
  | .setc a _ => [a.toNat]
  | .chkerr d => [d.toNat]
  | .gstop a => [a.toNat]
  | .stepctl a => [a.toNat]
  | .cAdd d s => [d.toNat, s.toNat]
  | .cAddi d _ => [d.toNat]
  | .cMove d s => [d.toNat, s.toNat]
  | .cLd t b _ => [t.toNat, 8 + b.toNat]
  | .cSt t b _ => [t.toNat, 8 + b.toNat]
  | _ => []

/-- Is the row an event of the device or of the host? -/
def Instr.isEvent (i : Instr) : Bool :=
  match i with
  | .haloTransfer _ _ _ _ _ => true
  | .haloSignalArrival _ => true
  | .haloCancelled _ _ => true
  | .rstoreArrival _ _ _ _ _ => true
  | .rstoreAcknowledgement _ _ => true
  | .wake _ => true
  | .eviction _ => true
  | .evictionWriteback _ => true
  | .suspensionWriteback _ => true
  | .dispatch _ => true
  | .condenserArrival _ _ => true
  | .priorityAgeing _ _ _ => true
  | .affinityHintExpiry _ _ _ => true
  | .packetParse _ => true
  | .fencePoll _ => true
  | .fenceTimeout _ => true
  | .launchAdmission _ => true
  | .recordExpansion _ => true
  | .launchCompletion _ => true
  | .completionEntryWrite _ => true
  | .watchdogExpiry _ => true
  | .pairScrubComplete _ => true
  | .forcedPreemption _ => true
  | .cheapPreemption _ => true
  | .gangStop _ _ => true
  | .saveBlock _ => true
  | .restore _ => true
  | .channelHandshake _ => true
  | .ringMessageArrival _ => true
  | .messageReturn _ _ => true
  | .channelTimeout _ => true
  | .channelAudit _ _ => true
  | .barrierTimeout _ _ => true
  | .rowClean _ _ => true
  | .bankRetirement _ => true
  | .patrolScrub _ => true
  | .faultRecordRetry => true
  | .vuCommandExecute _ => true
  | .copyComplete _ _ => true
  | .copyCancelled _ _ => true
  | .lensOperationComplete _ => true
  | .lensCancelled _ _ => true
  | .flitRetransmit _ => true
  | .linkLost _ => true
  | .currentGrant _ => true
  | .slewEnd => true
  | .sensorReading _ _ _ _ => true
  | .thermalTrip => true
  | .movedRecordExpiry _ _ => true
  | .tlbInvalidationAck => true
  | .migrationCopyDone _ _ => true
  | .powerOnReset _ => true
  | .hostReset _ => true
  | .attestationQuote => true
  | .recoveryVerify _ => true
  | .psctlRequest _ => true
  | .replay _ => true
  | .tlbinv _ => true
  | .migrationStart _ => true
  | .migrationEnd _ => true
  | .quoteRequest _ _ => true
  | .debugToken _ _ => true
  | .recoveryGo _ => true
  | .halt _ => true
  | .resume _ => true
  | .step _ => true
  | .ctxres _ => true
  | .resave _ => true
  | .sqDoorbell _ _ => true
  | .cqConsumerIndex _ _ => true
  | .queueEnable _ _ _ => true
  | .queueAbort _ _ => true
  | .queueResume _ _ => true
  | .sbqData _ _ => true
  | .sbqSkip _ _ => true
  | .sbqStop _ => true
  | .pfctlClr _ => true
  | .registerWrite _ _ => true
  | .hCopyCompletion _ _ _ => true
  | .repairRecordReset => true
  | _ => false

/-! The rotation (04 R59, R60). -/

/-- May a context issue in a cycle? It is READY from a cycle no later (R63, R85), with no write-back to come. Of a pair, the leader only when its trailer has issued the
instruction before, and the trailer only when the leader has issued one (10 R222). -/
def State.mayIssue (s : State) (c : CoreId) (k n : Nat) : Bool :=
  let x := (s.core c).ctx k
  x.st == .ready && decide (x.readyAt ≤ n) && x.susp.isNone &&
    (if (s.launch x.serial).isPair then (if 8 ≤ k then ((s.core c).ctx (k - 8)).ahead.isSome else x.ahead.isNone) else true)

/-- The context that issues next at a T0 core, with its cycle: context k owns the cycles n with n mod 16 = k. -/
def State.nextT0 (s : State) (c : CoreId) : Option (Nat × Nat) :=
  let n := s.cyc c
  ((List.range 17).find? fun j => s.mayIssue c ((n + j) % 16) (n + j) && (s.core c).issuedIn != some (n + j)).map fun j => ((n + j) % 16, n + j)

/-- The context that issues in cycle `n` at another tier: of those that have not issued in the seven cycles before, the one
whose number follows most closely after the last to issue. -/
def State.eligible (s : State) (c : CoreId) (n : Nat) : Option Nat :=
  let k := s.core c
  if k.issuedIn = some n then none
  else ((List.range 16).map fun j => (k.lastCtx + 1 + j) % 16).find? fun x =>
    s.mayIssue c x n && (match (k.ctx x).lastIssue with | some m => decide (m + 8 ≤ n) | none => true)

/-- The next issue at a core of another tier. -/
def State.nextTn (s : State) (c : CoreId) : Option (Nat × Nat) :=
  let n := s.cyc c
  (List.range 9).findSome? fun j => (s.eligible c (n + j)).map fun x => (x, n + j)

/-- Context and cycle of a core's next issue. -/
def State.nextIssue (s : State) (c : CoreId) : Option (Nat × Nat) := if c.tier = 0 then s.nextT0 c else s.nextTn c

/-- The next issue of a tier: core and cycle, the earliest (01 R13: one clock; log 87, DEDUCED). -/
def State.tierNext (s : State) (tier : Nat) : Option (CoreId × Nat) :=
  s.cores.foldl (fun b x =>
    if (coreOf x.1).tier ≠ tier then b
    else match s.nextIssue (coreOf x.1), b with
      | some (_, m), some (d, n) => if m < n then some (coreOf x.1, m) else some (d, n)
      | some (_, m), none => some (coreOf x.1, m)
      | none, b => b) none

/-- The core that issues in a core's turn: itself, unless an issue of its tier comes in an earlier cycle. -/
def State.firstDue (s : State) (c : CoreId) : CoreId :=
  match s.nextIssue c, s.tierNext c.tier with
  | some (_, n), some (d, m) => if m < n then d else c
  | _, _ => c

/-- The tier clocks run: they are stopped in PS3, when no slew leaves it (01 R7; 22 R427, R429). -/
def State.clocked (s : State) : Bool := s.dev.pscur != 3 || s.dev.slew

/-- Cycles of a tier's clock pass, up to its next issue (DEDUCED, log 87). -/
def State.passCycles (s : State) (tier n : Nat) : State :=
  if !s.clocked then s
  else
    let now := mget 0 s.clocks tier
    let til := match s.tierNext tier with | some (_, m) => min (now + n) m | none => now + n
    { s with clocks := mset s.clocks tier til }

/-! The fetch (05 R88, R89; 08 R448). -/

/-- A halfword of code: its value, or what the fetch meets. -/
inductive CodeHalf where
  | ok (v : Nat)
  | trap (cls det : Nat)
  | xfault
  | hole (pa : Nat)
deriving DecidableEq, Repr

/-- Fetch a halfword for a launch on a core, at an odd address too (DESIGN CHOICE, log 102). A halfword that the instruction cache still gives in an
older form is read there. -/
def State.codeHalf (s : State) (l : Launch) (c : CoreId) (a : Word) : CodeHalf :=
  let at_ (k : Nat) : CodeHalf :=
    match mfind (s.core c).icache (k / 2) with
    | some (h, true) => .ok h
    | _ => if s.pz (k / 8) then .trap 1 0 else .ok (leNat (s.rd k 2))
  if a.toNat / 2 ^ 56 ≠ 0 then .trap 6 1
  else match (s.locate l c a 2 .fetch).noPeer with
    | .hbm pa => at_ pa
    | .hostMem k => at_ k
    | .trap cls det => .trap cls det
    | .xfault => .xfault
    | .hole pa => .hole pa
    | _ => .trap 6 1

/-- The instruction cache keeps a halfword of code as memory holds it now, gives what it has kept or memory's form, or forgets what it does
not give (08 R448) (DEDUCED, log 9). -/
def State.keepCode (s : State) (c : CoreId) (half : Nat) (old : Bool) : State :=
  let l := (s.core c).icache
  s.updCore c fun k => { k with icache := match mfind l half with
    | some (h, used) => if used || old then mset l half (h, old) else merase l half
    | none => if s.pz (half / 4) then l else mset l half (leNat (s.rd (2 * half) 2), old) }

/-- What the fetch of one instruction with its prefixes gives. -/
inductive Fetched where
  /-- The instruction, the bytes of its prefixes, RLX, the PRED prefix, and its own length. -/
  | instr (i : Instr) (pfx : Nat) (rlx : Bool) (pred : Option (Bool × BitVec 3)) (len : Nat)
  /-- The fetch traps, or a prefix is misused: class, detail, address. -/
  | trap (cls det : Nat) (a : Word)
  | xfault (a : Word)
  | hole (pa : Nat)
deriving DecidableEq, Repr

/-- May RLX precede the instruction (02 R25; 07 R135)? -/
def rlxOk (i : Instr) : Bool :=
  match i with
  | .ld _ _ _ o _ _ => o == 0
  | .st _ _ _ o _ _ => o == 0
  | .ldq _ _ o _ _ => o == 0
  | .stq _ _ o _ _ => o == 0
  | .cLd .. => true
  | .cSt .. => true
  | _ => false

/-- Fetch an instruction from an address, after prefixes already read; `fuel` counts the halfwords that may still be
prefixes (DEDUCED, log 80). -/
def State.fetchFrom (s : State) (l : Launch) (c : CoreId) (pc : Word) :
    Nat → Nat → Bool → Option (Bool × BitVec 3) → Fetched
  | 0, _, _, _ => .trap 9 4 0
  | fuel + 1, pfx, rlx, pred =>
      match s.codeHalf l c (pc + w64 pfx) with
      | .trap cls det => .trap cls det (pc + w64 pfx)
      | .xfault => .xfault (pc + w64 pfx)
      | .hole pa => .hole pa
      | .ok h =>
          if h < 32768 then
            match decodeHalf h with
            | .ok (.instr i) => if rlx && !rlxOk i then .trap 9 4 0 else .instr i pfx rlx pred 2
            | .ok (.pred n p) =>
                if rlx || pred.isSome then .trap 9 4 0 else s.fetchFrom l c pc fuel (pfx + 2) rlx (some (n, p))
            | .ok .rlx => if rlx then .trap 9 4 0 else s.fetchFrom l c pc fuel (pfx + 2) true pred
            | .error r => .instr (.reservedOpcode r.detail false (BitVec.ofNat 32 h)) pfx rlx pred 2
          else
            match s.codeHalf l c (pc + w64 (pfx + 2)) with
            | .trap cls det => .trap cls det (pc + w64 (pfx + 2))
            | .xfault => .xfault (pc + w64 (pfx + 2))
            | .hole pa => .hole pa
            | .ok g =>
                let w := h * 65536 + g
                match decodeWide w with
                | .ok i => if rlx && !rlxOk i then .trap 9 4 0 else .instr i pfx rlx pred 4
                | .error r => .instr (.reservedOpcode r.detail true (BitVec.ofNat 32 w)) pfx rlx pred 4

/-- The next instruction of a thread. -/
def State.fetch (s : State) (t : ThreadId) : Fetched :=
  s.fetchFrom (s.launchOf t) t.core (s.ctx t).pc 3 0 false none

/-! Control-register indices (04 R72, R73; 10 R202): the ILLEGAL checks that come before a false predicate lets an instruction
pass (05 R99). -/

/-- Access of an index: none unassigned; else read-only or not. -/
def ctrlAccess (n : Nat) : Option Bool :=
  if n ≤ 4 then some true
  else if n = 5 ∨ n = 6 then some false
  else if 7 ≤ n ∧ n ≤ 0xC then some true
  else if n = 0xD ∨ n = 0xE then some false
  else if 0x10 ≤ n ∧ n ≤ 0x1F then some true
  else if 0x100 ≤ n ∧ n ≤ 0x103 then some false
  else if 0x104 ≤ n ∧ n ≤ 0x106 then some true
  else if 0x110 ≤ n ∧ n ≤ 0x113 then some true
  else if n = 0x118 then some false
  else none

/-- The ILLEGAL detail of an encoding at issue, if any. -/
def illegalAt (i : Instr) : Option Nat :=
  match i with
  | .reservedOpcode d _ _ => some d.toNat
  | .getc _ c => if (ctrlAccess c.toNat).isNone then some 6 else none
  | .setc _ c => if ctrlAccess c.toNat = some false then none else some 6
  | _ => none

/-! Waits for accesses in flight (04 R62; 07 R138, R139). -/

/-- Will the access in flight write a register that the instruction names? -/
def Pend.hits (p : Pend) (i : Instr) : Bool :=
  p.load && (Instr.xregs i).any fun r =>
    r != 0 && (if p.len = 64 then decide (p.dest ≤ r ∧ r < p.dest + 8) else r == p.dest)

/-- The SAMP and SPEC instructions, which the unit serves in issue order (18 R394). -/
def Instr.samples (i : Instr) : Bool :=
  match i with
  | .rngkey .. | .rnggen .. | .stopk .. | .stopp .. | .sdraw .. | .stemp .. | .smerge .. => true
  | .specOpen .. | .specAppend .. | .specVerify .. | .specCommit .. | .specAbort .. => true
  | _ => false

/-- Before the meaning: an access in flight whose destination the instruction names is performed, now or when its reply comes, or the thread
parks for its page (DEDUCED, log 23). A held instruction that waits for its own reply has read them. -/
def State.waitRegs (s : State) (i : Instr) (f : State → Res) : Res :=
  let q (p : Pend) : Bool := p.hits i
  let past : Bool := match s.me.held with
    | some h => (match h.cause with | .reply _ => true | _ => false)
    | none => false
  if past || !s.me.pend.any q then f s
  else
  let s := if Instr.samples i && s.cur.tier == 3 then s.sampJoin else s
  if s.me.slow && (s.me.pend.any fun p => q p && p.len != 0) && !(s.me.held.any fun h => h.cause == .first) then .next (s.park i .first)
  else s.afterIf q (fun s p => s.parkX i p.va (if p.load then .load else .store)) fun s =>
    match s.me.pend.find? q with
    | some p => .next (s.park i (.vmovx p.dest))
    | none => f s

end Sys2Proof.Machine
end

