-- ==== Sys2Proof/Machine/Control.lean ====
section
/-! DEFINITION. Control registers, the system instructions, and patterns that are no instruction (04 R72 to R74; 05 R98;
06 R129 to R131; 10 R202 to R208, R219 to R221). -/

namespace Sys2Proof.Machine

/-- DBGCTL as read: zero at debug level Locked (10 R221). -/
def State.dbgctl (s : State) (c : CoreId) : BitVec 4 := if s.dev.dbg = 0 then 0 else (s.core c).dbgctl

/-- The value of a control register in the present cycle (06 R130). -/
def State.ctrl (s : State) (t : ThreadId) (n : Nat) : Word :=
  let k := s.core t.core
  let c := s.ctx t
  let l := s.launchOf t
  match n with
  | 0x000 => w64 (s.cycleOf t)
  | 0x001 => c.issued
  | 0x002 => w64 t.ctx
  | 0x003 => w64 (place t.core)
  | 0x004 => w64 t.idx
  | 0x005 => c.retry.zeroExtend 64
  | 0x006 => c.cir.zeroExtend 64
  | 0x007 => k.tagDone (s.cycleOf t)
  | 0x008 => c.recaddr
  | 0x009 => w64 (l.base t.core)
  | 0x00A => w64 l.lssize
  | 0x00B => w64 (s.vwin t)
  | 0x00C => (List.range 16).foldl (fun v i => setBit v i (k.msgrdy i (s.cycleOf t) != 0)) 0
  | 0x00D => c.chtmo.zeroExtend 64
  | 0x00E => c.bartmo.zeroExtend 64
  | 0x100 => c.tpc
  | 0x101 => c.tcause
  | 0x102 => c.taddr
  | 0x103 => c.tscratch
  | 0x104 => w64 (b2n c.tmode)
  | 0x105 => l.tvec t.tier
  | 0x106 => c.paddr
  | 0x110 => k.savestat
  | 0x111 => k.gscycle
  | 0x112 => k.gssent
  | 0x113 => k.gsrecv
  | 0x118 => (s.dbgctl t.core).zeroExtend 64
  | _ => (mget 0 k.fmt (n - 0x10)).zeroExtend 64

/-- What an instruction reads of the control registers in the cycle of its issue (R130). -/
def State.reads (s : State) (t : ThreadId) (i : Instr) : Option Word :=
  match i with | .getc _ c => some (s.ctrl t c.toNat) | _ => none

/-- GETC: index checks, then privilege (R73), then the value of its issue cycle; of a pair, of the leader's issue (R131). -/
def execGetc (d : BitVec 5) (c : BitVec 10) (s : State) : Res :=
  let n := c.toNat
  if (ctrlAccess n).isNone then .next (s.trap 9 6 0)
  else if 0x100 ≤ n ∧ !s.privileged s.cur then .next (s.trap 6 4 0)
  else .next ((s.updMe fun x => (x.setX d.toNat (x.got.getD (s.ctrl s.cur n)) false).next 4).pairSync s.cur [d.toNat] [] [])

/-- Write DBGCTL, unless the debug level is Locked. -/
def State.setDbgctl (s : State) (c : CoreId) (f : BitVec 4 → BitVec 4) : State :=
  if s.dev.dbg = 0 then s
  else
    let s := s.updCore c fun k => { k with dbgctl := f k.dbgctl }
    if bit (s.core c).dbgctl 2 then s
    else { s with launches := s.launches.map fun l => if l.hold = some (coreKey c) then { l with hold := none } else l }

/-- The write of SETC. Zero fields of TCAUSE are dropped (DEDUCED, log 48). -/
def State.setCtrl (s : State) (t : ThreadId) (n : Nat) (v : Word) : State :=
  match n with
  | 0x005 => s.updCtx t fun c => { c with retry := v.truncate 24 }
  | 0x006 => s.updCtx t fun c =>
      { c with cir := c.cir &&& ~~~(v.truncate 8), paddr := if bit v 0 then 0 else c.paddr }
  | 0x00D => s.updCtx t fun c => { c with chtmo := v.truncate 32 }
  | 0x00E => s.updCtx t fun c => { c with bartmo := v.truncate 32 }
  | 0x100 => s.updCtx t fun c => { c with tpc := v }
  | 0x101 => s.updCtx t fun c => { c with tcause := v &&& 0xFFF0FF0F }
  | 0x102 => s.updCtx t fun c => { c with taddr := v }
  | 0x103 => s.updCtx t fun c => { c with tscratch := v }
  | 0x118 => s.setDbgctl t.core fun _ => v.truncate 4
  | _ => s

/-- SETC (DEDUCED, log 33). -/
def execSetc (a : BitVec 5) (c : BitVec 10) (s : State) : Res :=
  let n := c.toNat
  if ctrlAccess n ≠ some false then .next (s.trap 9 6 0)
  else if 0x100 ≤ n ∧ !s.privileged s.cur then .next (s.trap 6 4 0)
  else
    let s' := s.updMe fun x => (x.consume (x.xp a.toNat)).next 4
    .next ((s'.setCtrl s.cur n (s.me.x a.toNat)).pairSync s.cur [] [] [])

/-- TRAP completes, then traps with CODE; without a handler the fatal error is ILLEGAL 0x20 (R207; log 49, DEDUCED). -/
def execTrap (c : BitVec 10) (s : State) : Res :=
  let t := s.cur
  .next (s.trapTo t (tcauseOf 0 0 1 c.toNat) 0 (s.me.at_ + 4) (engReport 0 t 9 0x20 (c.zeroExtend 64)))

/-- TRET (R205). -/
def execTret (s : State) : Res :=
  let c := s.me
  if !s.privileged s.cur then .next (s.trap 6 4 0)
  else if !c.tmode then .next (s.trap 9 7 0)
  else if bit c.tpc 0 then .next (s.trap 8 2 c.tpc)
  else .next (s.trapReturn.pairSync s.cur [] [] [])

/-- A context stops at an instruction boundary. -/
def Ctx.stop (c : Ctx) (now : Nat) : Ctx :=
  if c.st = .ready ∨ c.st = .parked then { c with prev := c.st, st := .stopped, stepping := false, stopAt := now } else c

/-- BRK: stops the thread where DBGCTL.BRKEN is 1, its launch's partition with BRKGANG; a hint otherwise. -/
def execBrk (c : BitVec 10) (s : State) : Res :=
  let t := s.cur
  let d := s.dbgctl t.core
  let s := s.updMe fun x => x.next 4
  if !bit d 0 then .next (s.pairSync t [] [] [])
  else
    let s := s.updMe fun x => { x.stop (s.cycleOf t) with tcause := w64 (setFld x.tcause.toNat 22 10 c.toNat) }
    let s := s.pairSync t [] [] []
    .next (if bit d 3 then s.askStop s.me.serial (s.launchOf t).cores else s)

/-- CHKERR: CIR into xd; a non-zero CIR traps POISON after completion where a handler can take it. -/
def execChkerr (d : BitVec 5) (s : State) : Res :=
  let t := s.cur
  let a := s.me.at_ + 4
  let s := (s.updMe fun x => x.setX d.toNat (x.cir.zeroExtend 64) false).pairSync t [d.toNat] [] []
  let c := s.me
  if c.cir ≠ 0 ∧ (s.launchOf t).tvec t.tier ≠ 0 ∧ !c.tmode then
    .next (s.trapTo t (tcauseOf 1 1 2 0) c.paddr a (engReport 0 t 1 1 c.paddr))
  else .next ((s.updMe fun x => x.next 4).pairSync t [] [] [])

/-- Cores of GSTOP's extent. -/
def gstopCores (c : CoreId) (e : Nat) (l : Launch) : List CoreId :=
  match e with
  | 0 => [c]
  | 1 => (tierCores c.die c.tier).filter fun x => x.idx / 16 == c.idx / 16
  | 2 => tierCores c.die c.tier
  | 3 => dieCores c.die
  | _ => l.cores

/-- GSTOP: the issuing core stops at once, the other cores of the extent as GANG_STOP reaches them (DEDUCED, log 50). -/
def execGstop (a : BitVec 5) (s : State) : Res :=
  let t := s.cur
  s.needPriv <|
    let v := (s.me.x a.toNat).toNat
    if 4 < v then .next (s.trap 9 7 0)
    else
      let l := s.launchOf t
      let s := (s.updMe fun x => (x.consume (x.xp a.toNat)).next 4).pairSync t [] [] []
      let s := s.interim l { cls := 0, detail := 0x40, engine := 0, ctx := t.ctx, unit := place t.core, addr := 0 }
      let s := s.askStop l.serial ((gstopCores t.core v l).filter (· != t.core))
      .next (s.gangStop t.core l.serial)

/-- STEPCTL (R220). A target stopped while parked has nothing to issue, and STEP leaves it as it is. -/
def execStepctl (a : BitVec 5) (s : State) : Res :=
  let t := s.cur
  s.needPriv <|
    let v := s.me.x a.toNat
    if bits v 63 8 ≠ 0 ∨ (bit v 4 && bit v 7) = true ∨ bits v 3 0 = t.ctx then .next (s.trap 9 7 0)
    else
      let s := (s.updMe fun x => (x.consume (x.xp a.toNat)).next 4).pairSync t [] [] []
      let s := s.setDbgctl t.core fun d => setBit (setBit d 1 (bit v 5)) 2 (bit v 6)
      let k := bits v 3 0
      let u := t.core.thread (if 8 ≤ k ∧ (s.launchOf (t.core.thread k)).isPair then k - 8 else k)
      let c := s.ctx u
      if c.st ≠ .stopped then .next s
      else if bit v 7 then
        .next ((s.updCtx u fun c => c.resumeAt (s.cycleOf u)).pairSync u [] [] [])
      else if bit v 4 ∧ c.prev = .ready then
        .next ((s.updCtx u fun c => { c with st := .ready, stepping := true }).pairSync u [] [] [])
      else .next s

/-- A pattern that is no instruction raises ILLEGAL with the detail of its fate (05 R98). -/
def execReservedOpcode (detail : BitVec 8) (_wide : Bool) (_w : BitVec 32) (s : State) : Res :=
  .next (s.trap 9 detail.toNat 0)

/-- Entries of the waiter section of a launch's footprint on a core (R211): word, kind and first record. -/
def State.waiters (s : State) (l : Launch) (c : CoreId) : List (Nat × Nat × Cont) :=
  let lo := keyLs c (l.base c) / 8
  (s.fe.filter fun f => decide (lo ≤ f.1 ∧ f.1 < lo + l.lssize / 8)).flatMap fun f =>
    ([(0, f.2.readers), (1, f.2.writers), (2, f.2.bars)].filterMap fun x => x.2.head?.map fun k => (f.1 - lo, x.1, k))

/-- GANG_STOP: a core that has been asked to carries the stop out (DEDUCED, log 50). -/
def execGangStop (c : CoreId) (serial : Word) (s : State) : Res :=
  if (s.launch serial).stopReq.contains (coreKey c) then
    let s := (s.gangStop c serial).updLaunch serial fun l =>
      { l with stopReq := l.stopReq.erase (coreKey c), saveW0 := mset l.saveW0 (coreKey c) (s.waiters l c).length }
    .next (if (s.launch serial).stopReq.isEmpty then s.cmdDone serial else s)
  else .next s

end Sys2Proof.Machine
end

