-- ==== Sys2Proof/Machine/Halo.lean ====
section
/-! DEFINITION. Halo: HALO.RUN and HALO.STAT, the chunk instructions, transfers, signals and cancellation, and the arrival and
acknowledgement of RSTOREs (20 R400 to R424; 07 R166; 13 R288). -/

namespace Sys2Proof.Machine

/-! Schedules. -/

/-- The schedule that a tag of a die runs. -/
def State.sched_ (s : State) (d n : Nat) : Option Sched := ((s.die d).htag n).sched
def State.updSched (s : State) (d n : Nat) (f : Sched → Sched) : State :=
  s.updHTag d n fun x => { x with sched := x.sched.map f }

/-- Tags of a die with their running schedules. -/
def State.scheds (s : State) (d : Nat) : List (Nat × Sched) :=
  (List.range 16).filterMap fun n => (s.sched_ d n).map fun c => (n, c)

/-- The running schedule of a die that holds a COMM. -/
def State.schedOf (s : State) (d comm : Nat) : Option (Nat × Sched) := (s.scheds d).find? fun x => x.2.comm == comm && x.2.endedAs.isNone

/-- On whose behalf a schedule acts (R406, R420). -/
def Sched.by_ (c : Sched) : By := byThread 8 c.thread c.serial c.run

/-- A schedule ends: its counters and bases are discarded, and its tag takes a state, at once or when its saved launch is restored
(10 R210). -/
def State.haloEnd (s : State) (d n : Nat) (st : TagState) : State :=
  if (s.sched_ d n).any fun c => s.heldFor c.serial then
    s.updSched d n fun c => { c with endedAs := some st, stopped := true, evw := false, word := none }
  else s.updHTag d n fun x => { x with st := st, pcix := (x.sched.map (·.pcix)).getD x.pcix, sched := none }

/-- A schedule that an error has stopped ends once its operations have completed; a cancelled one as HALO_CANCELLED does. -/
def State.haloTail (s : State) (d n : Nat) : State :=
  match s.sched_ d n with
  | some c => if c.stopped && !c.cancel && c.ops.isEmpty then s.haloEnd d n .complete else s
  | none => s

/-- What an error at the chunk instruction `at_` does to a schedule (R407, R420): the first one is kept in the tag, and nothing further is
reached. -/
def State.haloStop (s : State) (d n at_ cls det : Nat) : State :=
  (s.updHTag d n fun x =>
    if x.cls = 0 then { x with cls := BitVec.ofNat 4 cls, detail := BitVec.ofNat 8 det } else x).updSched d n fun c =>
      if c.stopped then c else { c with stopped := true, evw := false, word := none, pcix := at_ }

/-- The same with its report. -/
def State.haloErrorAt (s : State) (d n at_ cls det : Nat) (a : Word) : State :=
  match s.sched_ d n with
  | none => s
  | some c => ((s.haloStop d n at_ cls det).byReport c.by_ cls det a).haloTail d n

/-- An error of the chunk instruction that the schedule has reached. -/
def State.haloError (s : State) (d n cls det : Nat) (a : Word) : State :=
  s.haloErrorAt d n ((s.sched_ d n).map (·.pcix) |>.getD 0) cls det a

/-- The executing schedule, unless it has stopped or is held by FREEZE (10 R220). -/
def State.onSched (s : State) (f : Nat → Nat → Sched → Res) : Res :=
  let (d, n) := s.curHalo
  match s.sched_ d n with
  | some c => if c.stopped || (c.frozen && s.frozenFor c.thread) then .next s else f d n c
  | none => .next s

/-- Go on to the next chunk instruction. -/
def Sched.go (c : Sched) : Sched := { c with pcix := c.pcix + 1, evw := false, word := none }

/-! HALO.RUN and HALO.STAT (R402 to R404, R407). -/

/-- The argument block is well formed. -/
def argsOk (b : List Byte) : Bool := fld (leAt b 0 8) 16 48 == 0 && leAt b 0x48 56 == 0

/-- Counters of a new schedule: the held signals of its COMM, whose entries free (R412). -/
def Die.takeSigs (d : Die) (comm : Nat) : SMap (BitVec 32) × Die :=
  ((List.range 8).map (fun e => (e, mget 0 d.sigs (8 * comm + e))), { d with sigs := d.sigs.filter fun x => x.1 / 8 != comm })

/-- Start a schedule under a tag: a release at pkg, of the accesses in flight once they are performed (R404). -/
def State.startSched (s : State) (n : Nat) (code : Word) (b : List Byte) : State :=
  let t := s.cur
  let s := s.release t 4
  let comm := leAt b 0 2
  let evs := ((s.die t.die).takeSigs comm).1
  let c : Sched :=
    { code := code, bases := (List.range 8).map fun i => (i, w64 (leAt b (8 + 8 * i) 8)), evs := evs, lcs := [], pcix := 0
      comm := comm, thread := t, serial := s.me.serial, run := s.me.run, ops := [], cnts := [], evw := false
      sig := false, sigTo := 0, stopped := false, cancel := false, frozen := s.frozenFor t, after := s.me.inFlight, word := none, endedAs := none }
  (s.updDie t.die fun d => (d.takeSigs comm).2).updHTag t.die n fun x => { x with sched := some c }

/-- HALO.RUN. -/
def execHaloRun (h : BitVec 4) (a b : BitVec 5) (s : State) : Res :=
  let i : Instr := .haloRun h a b
  let t := s.cur
  let xa := s.me.x a.toNat
  let xb := s.me.x b.toNat
  let m := s.me.xp a.toNat || s.me.xp b.toNat
  if xa.toNat % 8 ≠ 0 then .next (s.trap 8 1 xa)
  else if xb.toNat % 128 ≠ 0 then .next (s.trap 8 1 xb)
  else if xa.toNat / 2 ^ 56 ≠ 0 then .next (s.trap 6 1 xa)
  else if xb.toNat / 2 ^ 56 ≠ 0 ∧ xb.toNat / 2 ^ 56 ≠ 0x7F then .next (s.trap 6 1 xb)
  else match s.checkAcc t xa 8 8 .load, s.checkAcc t xb 128 128 .load with
    | .trap c d, _ => .next (s.trap c d xa)
    | _, .trap c d => .next (s.trap c d xb)
    | .xfault, _ => .next (s.parkX i xa .load)
    | .hole pa, _ => .fault (.noMemory pa)
    | _, _ => s.access i xb 128 128 .load fun loc =>
        s.ordered i loc.key xb 128 false fun s =>
          let r := s.loadLoc t loc xb 128 none
          let s := r.1
          if !argsOk r.2.1 || (s.schedOf t.die (leAt r.2.1 0 2)).isSome then .next (s.trap 9 7 0)
          else s.takeTag i 3 fun s n hv =>
            let s := s.startSched n xa r.2.1
            (s.updMe fun c => (((c.consume m).consumeAt (r.2.2.any id) xb).setH h.toNat hv).next 4).pairSync t [] [] [h.toNat]

/-- Does an operation have its partner started at the other end? `d`: the die of the operation's schedule. -/
def State.mateOf (s : State) (d comm : Nat) (o : HaloOp) : Option (Nat × Nat × HaloOp) :=
  if 8 ≤ o.peer ∨ o.kind = 3 then none
  else match s.schedOf o.peer comm with
    | none => none
    | some (n, c) =>
        (c.ops.find? fun q => q.kind != 3 && (q.kind == 0) != (o.kind == 0) && q.peer == d && q.ch == o.ch && q.num == o.num).map
          fun q => (o.peer, n, q)

/-- The status word of a tag (R407) (DEDUCED, log 59). -/
def State.haloStat (s : State) (d n : Nat) : Word :=
  let x := (s.die d).htag n
  let (pcix, ops, link, rdv, evw) : Nat × Nat × Bool × Bool × Bool := match x.sched with
    | some c => (c.pcix, c.ops.length, c.ops.any (·.rerouting), c.ops.any fun o => o.kind != 3 && !o.rerouting && (s.mateOf d c.comm o).isNone, c.evw)
    | none => (x.pcix, 0, false, false, false)
  w64 (x.gen.toNat * 2 ^ 48 + x.detail.toNat * 2 ^ 40 + x.cls.toNat * 2 ^ 36 + x.st.code * 2 ^ 34 + pcix % 65536 * 2 ^ 16 +
    ops * 2 ^ 8 + b2n link * 4 + b2n rdv * 2 + b2n evw)

/-- HALO.STAT. -/
def execHaloStat (h : BitVec 4) (d : BitVec 5) (s : State) : Res :=
  let t := s.cur
  let v := s.me.h h.toNat
  if bits v 9 8 ≠ 3 then .next (s.trap 9 7 0)
  else .next ((s.updMe fun c => (c.setX d.toNat (s.haloStat t.die (bits v 5 0)) false).next 4).pairSync t [d.toNat] [] [])

/-! Data operations (R408, R410, R416). -/

/-- The failure of a buffer range, if it has one: class, detail, address. -/
def State.haloRange (s : State) (c : Sched) (a : Word) (n : Nat) (k : Acc1) : Option (Nat × Nat × Word) :=
  let r := a.toNat / 2 ^ 56
  if a.toNat % 8 ≠ 0 then some (8, 1, a)
  else if r = 0x7D then some (6, 7, a)
  else if r ≠ 0 ∧ r ≠ 0x7E ∧ r ≠ 0x7F then some (6, 1, a)
  else if r = 0 then (if bits a 55 52 ≠ 0 then some (6, 1, a) else none)
  else match s.locate (s.launch c.serial) c.thread.core a n k with
    | .trap cls det =>
        let low := (List.range (n / 8)).find? fun i =>
          match s.locate (s.launch c.serial) c.thread.core (a + w64 (8 * i)) 8 k with | .trap .. => true | _ => false
        some (cls, det, a + w64 (8 * low.getD 0))
    | _ => none

/-- Key of an operation's count: direction, peer and channel. -/
def opKey (send : Bool) (peer ch : Nat) : Nat := b2n send * 2048 + peer * 64 + ch

/-- Take the next match number of a key: one that a withdrawn operation gave up, or the count (R416, R419). -/
def State.takeNum (s : State) (d n : Nat) (c : Sched) (key : Nat) : Nat × State :=
  let k := c.comm * 4096 + key
  match (s.die d).gave.find? fun g => g.1 == k with
  | some g => (g.2, (s.updDie d fun x => { x with gave := x.gave.erase g }).updSched d n fun c => { c with cnts := mset c.cnts key (g.2 + 1) })
  | none =>
      let m := mget 0 c.cnts key
      (m, s.updSched d n fun c => { c with cnts := mset c.cnts key (m + 1) })

/-- Data operations in flight on a die. -/
def State.haloOps (s : State) (d : Nat) : Nat := ((s.scheds d).map fun x => x.2.ops.length).foldl (· + ·) 0

/-- The failure of a base of a buffer at `a`: its own region is one that R410 names, and the buffer lies there. -/
def baseFail (base a : Word) : Option (Nat × Nat × Word) :=
  let r := base.toNat / 2 ^ 56
  if r = 0x7D then some (6, 7, a)
  else if (r ≠ 0 ∧ r ≠ 0x7E ∧ r ≠ 0x7F) ∨ a.toNat / 2 ^ 56 ≠ r then some (6, 1, a) else none

/-- The failure of the buffers of a data operation, a base and an address each: a copy's two are checked for alignment before either range
(13 R280; R410). -/
def State.haloChecks (s : State) (c : Sched) (kind : Nat) (va src : Word × Word) (n : Nat) : Option (Nat × Nat × Word) :=
  let range (x : Word × Word) (k : Acc1) := (baseFail x.1 x.2).or (s.haloRange c x.2 n k)
  if va.2.toNat % 8 ≠ 0 then some (8, 1, va.2)
  else if kind = 3 ∧ src.2.toNat % 8 ≠ 0 then some (8, 1, src.2)
  else (range va (if kind = 0 then .engRead else .engWrite)).or (if kind = 3 then range src .engRead else none)

/-- Start a data operation and go on; a 65th on the die waits. `kind` 0 SEND, 1 RECV, 2 REDUCE, 3 COPY. -/
def State.haloStart (s : State) (kind base : Nat) (even : Bool) (ev peer ch opr sbase len off : Nat) : Res :=
  s.onSched fun d n c =>
    let bytes := 8 * len
    let va := mget 0 c.bases base + w64 (8 * off)
    let src := mget 0 c.bases sbase + w64 (8 * off)
    if 64 ≤ s.haloOps d then .next s
    else if kind ≠ 3 ∧ s.portLost d peer then .next (s.haloError d n 12 2 0)
    else match s.haloChecks c kind (mget 0 c.bases base, va) (mget 0 c.bases sbase, src) bytes with
      | some (cls, det, a) => .next (s.haloError d n cls det a)
      | none =>
          let r : Nat × State := if kind = 3 then (0, s) else s.takeNum d n c (opKey (kind == 0) peer ch)
          let q := r.2.fresh
          let o : HaloOp := { kind := kind, va := va, src := src, len := bytes, even := even, ev := ev, peer := peer, ch := ch
                              opr := opr, order := q.1, num := r.1, at_ := c.pcix, rerouting := false, stalled := false }
          .next (q.2.updSched d n fun c => { c.go with ops := c.ops ++ [o] })

def execHSend (base : BitVec 3) (even : Bool) (ev : BitVec 3) (peer : BitVec 5) (ch : BitVec 6) (len : BitVec 14)
    (off : BitVec 24) (s : State) : Res :=
  s.haloStart 0 base.toNat even ev.toNat peer.toNat ch.toNat 0 0 len.toNat off.toNat
def execHRecv (base : BitVec 3) (even : Bool) (ev : BitVec 3) (peer : BitVec 5) (ch : BitVec 6) (len : BitVec 14)
    (off : BitVec 24) (s : State) : Res :=
  s.haloStart 1 base.toNat even ev.toNat peer.toNat ch.toNat 0 0 len.toNat off.toNat
def execHReduce (base : BitVec 3) (even : Bool) (ev : BitVec 3) (peer : BitVec 5) (ch : BitVec 6) (opr : BitVec 4)
    (len : BitVec 14) (off : BitVec 24) (s : State) : Res :=
  s.haloStart 2 base.toNat even ev.toNat peer.toNat ch.toNat opr.toNat 0 len.toNat off.toNat
def execHCopy (base : BitVec 3) (even : Bool) (ev sbase : BitVec 3) (len : BitVec 14) (off : BitVec 24) (s : State) : Res :=
  s.haloStart 3 base.toNat even ev.toNat 0 0 0 sbase.toNat len.toNat off.toNat

/-! Reads and writes of buffers (R410, R411). -/

/-- A schedule's read of a word: at the bank, or at the controller. -/
def State.haloLoad (s : State) (c : Sched) (a : Word) : EngAcc :=
  match (s.locate (s.launch c.serial) c.thread.core a 8 .engRead).noPeer with
  | .hbm pa => .done s (s.rd pa 8) (s.pz (pa / 8)) false
  | _ => s.engLoad c.by_ c.thread.core a 8

/-- What reading a buffer gives: the state, words with their marks; or the first failure. -/
inductive HaloGot where
  | ok (s : State) (words : List (List Byte × Bool))
  | stop (s : State) (why : EngAcc) (at_ : Word)

/-- Read the words of a buffer in order. A reconstruction fault is reported as PARITY and stops the schedule, its word is poisoned, and the
operation goes on (R420; 08 R180). -/
def State.haloRead (s : State) (d n : Nat) (c : Sched) (at_ : Nat) (a : Word) : Nat → HaloGot
  | 0 => .ok s []
  | k + 1 =>
      match s.haloLoad c a with
      | .done s1 b m p =>
          let s1 := if p then ((s1.haloStop d n at_ 3 0).byReport c.by_ 3 0 a).byCir c.by_ 2 else s1
          (match s1.haloRead d n c at_ (a + 8) k with
          | .ok s2 ws => .ok s2 ((b, m) :: ws)
          | e => e)
      | e => .stop s e a

/-- The first word of a buffer that a schedule could not write, if there is one. -/
def State.haloBlocked (s : State) (c : Sched) (a : Word) : Nat → Option (EngAcc × Word)
  | 0 => none
  | n + 1 =>
      match (s.locate (s.launch c.serial) c.thread.core a 8 .engWrite).noPeer with
      | .trap cls det => some (.err cls det, a)
      | .xfault => some (.xlate, a)
      | .hole pa => some (.hole pa, a)
      | .mmio _ => some (.err 6 7, a)
      | .peer .. => some (.err 6 6, a)
      | _ => s.haloBlocked c (a + 8) n

/-- Write words that can be written. A poisoned word sets CIR bit 3 (10 R219). -/
def State.haloWrite (s : State) (c : Sched) (a : Word) (ws : List (List Byte × Bool)) : State :=
  let s := if ws.any (·.2) then s.byCir c.by_ 8 else s
  match s.engStoreAll c.by_ c.thread.core a ws with
  | .done s1 .. => s1
  | .stop s1 .. => s1

/-- Element width in bits of a reduction. -/
def redWidth (opr : Nat) : Nat := match opr with | 7 => 16 | 8 => 64 | _ => 32

/-- One element of H.REDUCE: op(destination, incoming), rounded once. -/
def redElem (opr x y : Nat) : Nat :=
  match opr with
  | 1 => (fadd32 (BitVec.ofNat 32 x) (BitVec.ofNat 32 y)).toNat
  | 2 => (fmax32 (BitVec.ofNat 32 x) (BitVec.ofNat 32 y)).toNat
  | 3 => (fmin32 (BitVec.ofNat 32 x) (BitVec.ofNat 32 y)).toNat
  | 4 => (x + y) % 2 ^ 32
  | 5 => if (BitVec.ofNat 32 x).slt (BitVec.ofNat 32 y) then y else x
  | 6 => if (BitVec.ofNat 32 y).slt (BitVec.ofNat 32 x) then y else x
  | 7 => (bf16Add (BitVec.ofNat 16 x) (BitVec.ofNat 16 y)).toNat
  | _ => (x + y) % 2 ^ 64

/-- Reduce one word: its elements in ascending address order; poisoned when either operand is. -/
def redWord (opr : Nat) (x y : List Byte × Bool) : List Byte × Bool :=
  let w := redWidth opr
  (leBytes 8 ((List.range (64 / w)).foldl (fun v i =>
    v + redElem opr (fld (leNat x.1) (w * i) w) (fld (leNat y.1) (w * i) w) * 2 ^ (w * i)) 0), x.2 || y.2)

/-! Performing an operation (R410, R416, R417, R420). -/

/-- Take an operation off its schedule; with `ok` its event counter counts it. -/
def State.haloDrop (s : State) (d n : Nat) (o : HaloOp) (ok : Bool) : State :=
  (s.updSched d n fun c => { c with
    ops := c.ops.filter fun q => q.order != o.order
    evs := if ok && o.even then mset c.evs o.ev (mget 0 c.evs o.ev + 1) else c.evs }).haloTail d n

/-- An access of an operation fails: it waits for replay, or its schedule stops and the operation ends. -/
def State.haloFail (s : State) (d n : Nat) (c : Sched) (o : HaloOp) (why : EngAcc) (k : Acc1) (a : Word) : State :=
  match why with
  | .xlate =>
      (s.engFault c.serial c.thread.core k a).updSched d n fun c =>
        { c with ops := c.ops.map fun q => if q.order = o.order then { q with stalled := true } else q }
  | .err cls det => (s.haloErrorAt d n o.at_ cls det a).haloDrop d n o false
  | .hole pa => { s with hole := some pa }
  | .done .. => s

/-- A schedule of a saved launch keeps off its cores' stores, which others may hold (DESIGN CHOICE, log 38). -/
def State.storeAway (s : State) (c : Sched) (a : Word) : Bool :=
  a.toNat / 2 ^ 56 == 0x7F && (let l := s.launch c.serial; l.st == .saved || l.st == .restoring)

/-- Does an earlier H.REDUCE of the schedule with overlapping bytes stand before this one (R417)? -/
def Sched.heldBehind (c : Sched) (o : HaloOp) : Bool :=
  o.kind == 2 && c.ops.any fun q => q.kind == 2 && decide (q.order < o.order) && overlaps q.va q.len o.va o.len

/-- Incoming words take effect at a receiving operation: written, or reduced into the buffer. -/
def State.haloLand (s : State) (d n : Nat) (c : Sched) (o : HaloOp) (ws : List (List Byte × Bool)) (f : State → State) : State :=
  match s.haloBlocked c o.va (o.len / 8) with
  | some (why, a) => s.haloFail d n c o why .engWrite a
  | none =>
      if o.kind = 2 then
        match s.haloRead d n c o.at_ o.va (o.len / 8) with
        | .stop s1 why a => s1.haloFail d n c o why .engRead a
        | .ok s1 old => f ((s1.haloWrite c o.va ((old.zip ws).map fun p => redWord o.opr p.1 p.2)).haloDrop d n o true)
      else f ((s.haloWrite c o.va ws).haloDrop d n o true)

/-- An operation fails with an error of no address: its schedule stops, and it ends. -/
def State.haloBreak (s : State) (d n : Nat) (o : HaloOp) (cls det : Nat) : State :=
  (s.haloErrorAt d n o.at_ cls det 0).haloDrop d n o false

/-- An interrupted transfer has its new route, over which it is resent whole (R421). -/
def State.rerouted (s : State) (d n : Nat) (o : HaloOp) : State :=
  s.updSched d n fun c => { c with ops := c.ops.map fun q => if q.order = o.order then { q with rerouting := false } else q }

/-- A matched send and receive: the sender reads its buffer, and the receiver performs every write. An end whose access fails
stops; the other waits on, as R416 says of the peers of a stopped schedule (DEDUCED, log 59). -/
def State.haloPair (s : State) (d n : Nat) (c : Sched) (o : HaloOp) (e m : Nat) (r : Sched) (q : HaloOp) : State :=
  if o.len ≠ q.len then (s.haloBreak d n o 9 7).haloBreak e m q 9 7
  else if !s.routed d e then (s.haloBreak d n o 12 2).haloBreak e m q 12 2
  else if o.rerouting || q.rerouting then (s.rerouted d n o).rerouted e m q
  else match s.haloRead d n c o.at_ o.va (o.len / 8) with
    | .stop s1 why a => s1.haloFail d n c o why .engRead a
    | .ok s1 ws => s1.haloLand e m r q ws fun s => s.haloDrop d n o true

/-- HALO_TRANSFER. With no bytes: the oldest transfer from a die to a peer on a key; to another package, the far end's operation, of LEN
`far` where it differs, takes it. With bytes: the chunk that a send of another package brings to the die through a port, its poisoned words
marked (DEDUCED, log 84). -/
def execHaloTransfer (die : BitVec 3) (peer : BitVec 5) (comm : BitVec 16) (ch : BitVec 6)
    (inbound : Option (BitVec 14) ⊕ List Byte × List Bool) (s : State) : Res :=
  let d := die.toNat
  let p := peer.toNat
  match (if s.hbmUp then s.schedOf d comm.toNat else none) with
  | none => .next s
  | some (n, c) =>
      match inbound with
      | .inl far =>
          let ready (o : HaloOp) : Bool :=
            o.kind == 0 && o.peer == p && o.ch == ch.toNat && !o.stalled && !s.storeAway c o.va &&
              (if 16 ≤ p then !s.portLost d p else
                match s.mateOf d comm.toNat o with
                | some (e, m, q) => (match s.sched_ e m with
                    | some r => !q.stalled && !r.heldBehind q && !s.storeAway r q.va | none => false)
                | none => false)
          (match c.ops.find? ready with
          | none => .next s
          | some o =>
              if 16 ≤ p then
                if far.any fun l => 8 * l.toNat != o.len then .next (s.haloBreak d n o 9 7)
                else if o.rerouting then .next (s.rerouted d n o)
                else match s.haloRead d n c o.at_ o.va (o.len / 8) with
                | .stop s1 why a => (s1.haloFail d n c o why .engRead a).out
                | .ok s1 _ => .next (s1.haloDrop d n o true)
              else match s.mateOf d comm.toNat o with
                | none => .next s
                | some (e, m, q) =>
                    match s.sched_ e m with
                    | none => .next s
                    | some r => (s.haloPair d n c o e m r q).out)
      | .inr (b, marks) =>
          match c.ops.find? fun o => decide (16 ≤ p) && !s.portLost d p && (o.kind == 1 || o.kind == 2) && o.peer == p && o.ch == ch.toNat && !o.stalled &&
              !c.heldBehind o && !s.storeAway c o.va with
          | none => .next s
          | some o =>
              if b.length ≠ o.len then .next (s.haloBreak d n o 9 7)
              else if o.rerouting then .next (s.rerouted d n o)
              else (s.haloLand d n c o ((words8 b (o.len / 8)).zipIdx.map fun w => (w.1, marks.getD w.2 false)) id).out

/-- H_COPY_COMPLETION: the n-th operation in flight of a schedule, a copy, is performed. -/
def execHCopyCompletion (die : BitVec 3) (tag : BitVec 4) (n : Nat) (s : State) : Res :=
  let d := die.toNat
  match s.sched_ d tag.toNat with
  | none => .next s
  | some c =>
      match c.ops[n]? with
      | none => .next s
      | some o =>
          if o.kind ≠ 3 ∨ o.stalled ∨ !s.hbmUp ∨ s.storeAway c o.va ∨ s.storeAway c o.src then .next s
          else match s.haloRead d tag.toNat c o.at_ o.src (o.len / 8) with
            | .stop s1 why a => (s1.haloFail d tag.toNat c o why .engRead a).out
            | .ok s1 ws => (s1.haloLand d tag.toNat c o ws id).out

/-! Control instructions (R412 to R415). -/

/-- H.WAIT. -/
def execHWait (ev : BitVec 3) (value : BitVec 32) (s : State) : Res :=
  s.onSched fun d n c =>
    let v := mget 0 c.evs ev.toNat
    if value.toNat ≤ v.toNat then
      .next (s.updSched d n fun c => { c.go with evs := mset c.evs ev.toNat (v - value) })
    else .next (s.updSched d n fun c => { c with evw := true })

/-- H.SIGNAL: the schedule waits until the signal has been applied or held, here or at the far end of a port, whose answer comes from
outside (DEDUCED, log 59). -/
def execHSignal (ev : BitVec 3) (peer : BitVec 5) (value : BitVec 32) (s : State) : Res :=
  s.onSched fun d n c =>
    let p := peer.toNat
    if c.sig then .next s
    else if s.portLost d p || (decide (p < 8) && !s.routed d p) then .next (s.haloError d n 12 2 0)
    else if 16 ≤ p then .next (s.updSched d n fun c => { c with sig := true, sigTo := p })
    else
      let g : HSig := { comm := c.comm, ev := ev.toNat, value := value, src := some (d, n, ((s.die d).htag n).gen) }
      .next ((s.updDie p fun x => { x with sigIn := x.sigIn ++ [g] }).updSched d n fun c => { c with sig := true, sigTo := p })

/-- The H.SIGNAL that a schedule waits at has been applied or held: it goes on. -/
def Sched.signalled (c : Sched) : Sched := if c.sig && !c.stopped then { c.go with sig := false } else { c with sig := false }

/-- The far end of a port answers the H.SIGNAL that a schedule waits at: applied or held, or refused, and then it is sent again (R412). -/
def State.signalAnswer (s : State) (d n : Nat) (taken : Bool) : State :=
  match s.sched_ d n with
  | some c => if c.sig && decide (16 ≤ c.sigTo) && taken && !s.portLost d c.sigTo then s.updSched d n Sched.signalled else s
  | none => s

/-- A signal from another package comes through a port to a die, unless the port or the way to the die is lost (R400, R401; 01 R9). -/
def State.signalIn (s : State) (d port : Nat) (g : HSig) : State :=
  if s.portLost d (16 + port) || !s.hbmUp then s else s.updDie d fun x => { x with sigIn := x.sigIn ++ [g] }

/-- Can a signal be applied or held now? -/
def State.sigTaken (s : State) (d : Nat) (g : HSig) : Bool :=
  (s.schedOf d g.comm).isSome || (mfind (s.die d).sigs (8 * g.comm + g.ev)).isSome || decide ((s.die d).sigs.length < 16)

/-- HALO_SIGNAL_ARRIVAL: one of the signals that the engine does not refuse arrives; which one is a free value (DESIGN CHOICE, log 60). -/
def execHaloSignalArrival (die : BitVec 3) (s : State) : Res :=
  let d := die.toNat
  let l := (s.die d).sigIn.filter fun g => s.sigTaken d g
  if l.isEmpty || !s.hbmUp then .next s
  else
    let r := s.draw
    match l[r.1.toNat % l.length]? with
    | none => .next s
    | some g =>
        let s := r.2.updDie d fun x => { x with sigIn := x.sigIn.erase g }
        let s := match s.schedOf d g.comm with
          | some (n, _) => s.updSched d n fun c => { c with evs := mset c.evs g.ev (mget 0 c.evs g.ev + g.value) }
          | none => s.updDie d fun x =>
              { x with sigs := mset x.sigs (8 * g.comm + g.ev) (mget 0 x.sigs (8 * g.comm + g.ev) + g.value) }
        .next (match g.src with
          | some (e, m, gen) =>
              if ((s.die e).htag m).gen = gen then s.updSched e m Sched.signalled else s
          | none => s)

/-- H.LOOP. -/
def execHLoop (lc : BitVec 2) (mask : BitVec 8) (back : BitVec 12) (count : BitVec 14) (stp : BitVec 24) (s : State) : Res :=
  s.onSched fun d n c =>
    let k := mget 0 c.lcs lc.toNat
    let step : Word := 8 * sx stp
    let move (f : Word → Word) (b : SMap Word) : SMap Word :=
      (List.range 8).foldl (fun b i => if bit mask i then mset b i (f (mget 0 b i)) else b) b
    if c.pcix < back.toNat then .next (s.haloError d n 9 3 0)
    else if k + 1 < count.toNat then
      .next (s.updSched d n fun c => { c with
        lcs := mset c.lcs lc.toNat (k + 1), bases := move (· + step) c.bases, pcix := c.pcix - back.toNat, word := none })
    else
      .next (s.updSched d n fun c => { c.go with lcs := mset c.lcs lc.toNat 0, bases := move (· - step * w64 k) c.bases })

/-- H.END: waits for every data operation, then the tag is COMPLETE. -/
def execHEnd (s : State) : Res :=
  s.onSched fun d n c => if c.ops.isEmpty then .next (s.haloEnd d n .complete) else .next s

/-! Cancellation (R419). -/

/-- HALO_CANCELLED: unmatched operations are withdrawn and give up their match numbers; the tag is CANCELLED once every started
operation has completed. -/
def execHaloCancelled (die : BitVec 3) (tag : BitVec 4) (s : State) : Res :=
  let d := die.toNat
  let n := tag.toNat
  match s.sched_ d n with
  | none => .next s
  | some c =>
      if !c.cancel || c.endedAs.isSome then .next s
      else
        let gone := c.ops.filter fun o => o.kind != 3 && (s.mateOf d c.comm o).isNone
        let s := s.updDie d fun x =>
          { x with gave := x.gave ++ gone.map fun o => (c.comm * 4096 + opKey (o.kind == 0) o.peer o.ch, o.num) }
        let s := gone.foldl (fun s o => s.haloDrop d n o false) s
        match s.sched_ d n with
        | some c => .next (if c.ops.isEmpty then s.haloEnd d n .cancelled else s)
        | none => .next s

/-! RSTORE (R422 to R424; 07 R166). -/

/-- RSTORE_ARRIVAL: an inbound store through a port, by its window table entry; a word sent poisoned is poisoned here (13 R288). Through a
lost port nothing arrives, and without a route from the port's die, or with HBM in self-refresh, nothing is written (DEDUCED, log 90). -/
def execRstoreArrival (port : BitVec 4) (page : BitVec 12) (off : BitVec 16) (data : List Byte) (marks : List Bool) (s : State) : Res :=
  let e := (mget 0 s.host.wins (port.toNat * 4096 + page.toNat)).toNat
  if fld e 0 2 ≠ 3 ∨ 65536 < off.toNat + data.length ∨ bit s.dev.xlost port.toNat ∨ !s.hbmUp then .next s
  else
    let pa := fld e 16 36 * 65536 + off.toNat
    if 8 * 2 ^ 36 ≤ pa ∨ stackBytes ≤ pa % 2 ^ 36 then .fault (.noMemory pa)
    else if !s.routed (port.toNat / 2) (pa / 2 ^ 36) then .next s
    else .next (s.hbmWrite pa data marks)

/-- An RSTORE is acknowledged, or refused with a detail. What comes for a saved launch is held until its restore (10 R210) (DEDUCED, log 61). -/
def State.ackRst (s : State) (r : RSt) (det : Nat) : State :=
  if s.heldFor r.serial then
    { s with rst := s.rst.map fun x => if x.ord = r.ord then { x with answer := some det } else x }
  else
    let s := { s with rst := s.rst.filter fun x => x.ord != r.ord }
    let ack (c : Ctx) : Ctx :=
      { c with rstores := c.rstores - 1, refused := if c.refused = 0 then det else c.refused }
    match s.runner r.thread r.run with
    | some u => (s.updCtx u ack).pairSync u [] [] []
    | none =>
        if s.spills.any fun x => x.ctx.run == r.run then
          { s with spills := s.spills.map fun (x : Spill) => if x.ctx.run = r.run then { x with ctx := ack x.ctx } else x }
        else if det = 0 then s
        else s.report r.serial
          { cls := 12, detail := det, engine := 3, ctx := r.thread.ctx, unit := place r.thread.core, addr := 0 }

/-- The RSTOREs of a context that an answer may be for: the oldest of each port. -/
def State.answerable (s : State) (t : ThreadId) : List RSt :=
  let l := s.rst.filter fun r => r.thread == t && r.answer.isNone
  l.filter fun r => (l.find? fun x => x.port == r.port).any fun x => x.ord == r.ord

/-- RSTORE_ACKNOWLEDGEMENT: the oldest RSTORE of the context through the port that answers, which FREEZE does not hold (10 R220). Which port
answers is a free value where there are several (DESIGN CHOICE, log 60). A refusal has detail 0x01 (R423). -/
def execRstoreAcknowledgement (t : ThreadId) (refusal : Option (BitVec 8)) (s : State) : Res :=
  let answer (s : State) (r : RSt) : State := if r.frozen && s.frozenFor t then s else s.ackRst r (b2n refusal.isSome)
  match s.answerable t with
  | [] => .next s
  | [r] => .next (answer s r)
  | l =>
      let x := s.draw
      .next (match l[x.1.toNat % l.length]? with | some r => answer x.2 r | none => s)

/-- What a die has held for a launch reaches it at its restore (10 R210). -/
def State.deliver (s : State) (serial : Word) : State :=
  let s := (s.rst.filter fun r => r.serial == serial).foldl (fun s r => match r.answer with | some det => s.ackRst r det | none => s) s
  (List.range 8).foldl (fun s d => (s.scheds d).foldl (fun s x =>
    match (if x.2.serial = serial then x.2.endedAs else none) with | some st => s.haloEnd d x.1 st | none => s) s) s

end Sys2Proof.Machine
end

