-- ==== Sys2Proof/Machine/Suspension.lean ====
section
/-! DEFINITION. Task records, suspension points, eviction and waking (04 R63 to R66, R86, R87; 16 R364 to R367; 22 R434). -/

namespace Sys2Proof.Machine

/-! Task records (R364, R366). -/

/-- The launch that owns a task record, named by its DIE and LPIX. -/
def State.recOwner (s : State) (b : List Byte) (dflt : Word) : Word := (mfind (s.die (recDie b)).pool (recLpix b)).getD dflt

/-- Post a successor: KEY from its address, OP KEEP (DEDUCED, log 28). -/
def State.postSucc (s : State) (owner addr : Word) (key src : Nat) : State :=
  let b := rset (rset (s.rd key 64) 0 48 (addr.toNat / 64)) 48 4 0xC
  (s.writeRec key b).post (recDie b) (recTier b) { addr := addr, serial := owner, bytes := b, newLive := true, src := src }

/-- A successor's update: its PCOUNT falls by 1, and at 0 it is posted; a PCOUNT of 0 is reported to its owner (DEDUCED, log 28). -/
def State.succUpdate (s : State) (dflt : Word) (ctx unit : Nat) (addr : Word) (key src : Nat) : State :=
  let b := s.rd key 64
  let n := recPcount b
  let owner := s.recOwner b dflt
  if n = 0 then s.report owner { cls := 9, detail := 7, engine := 7, ctx := ctx, unit := unit, addr := addr }
  else
    let s := s.writeRec key (rset b 240 16 (n - 1))
    if n = 1 then s.postSucc owner addr key src else s

/-- Source number of a thread's posts, apart from those of words. -/
def threadSrc (t : ThreadId) : Nat := 2 ^ 64 + coreKey t.core * 16 + t.ctx

/-- The record's line leaves the issuing cluster's cache before a step at the memory side (08 R194). -/
def State.toMemory (s : State) (t : ThreadId) (k : Nat) : State := s.flushLine (clusterOf t.core) (k / 64)

/-- SETPRED. -/
def execSetpred (a b : BitVec 5) (s : State) : Res :=
  let t := s.cur
  let c := s.me
  let x := c.x a.toNat
  let v := c.x b.toNat
  let i : Instr := .setpred a b
  if bits v 63 16 ≠ 0 then .next (s.trap 9 7 0)
  else s.atRec i x .amo fun k =>
    s.ordered i (some k) x 64 false fun s =>
      let s := s.toMemory t k
      let r := rset (rset (rset (s.rd k 64) 240 16 v.toNat) 136 8 0) 61 1 0
      let r := rset (rset r 58 3 t.die) 116 11 ((s.launchOf t).lpixOn t.die)
      .next (((s.writeRec k r).updMe fun x => (x.consume (c.xp a.toNat || c.xp b.toNat)).next 4).pairSync t [] [] [])

/-- The trap that the addresses of two records meet first: alignment of both, then region and permission of each (R360) (DEDUCED, log 96). -/
def State.recTrap (s : State) (t : ThreadId) (x y : Word) (k : Acc1) : Option (Nat × Nat × Word) :=
  if x.toNat % 64 ≠ 0 then some (8, 1, x)
  else if y.toNat % 64 ≠ 0 then some (8, 1, y)
  else match s.recAcc t x k, s.recAcc t y k with
    | .trap c d, _ => some (c, d, x)
    | _, .trap c d => some (c, d, y)
    | _, _ => none

/-- ADDSUCC. -/
def execAddsucc (d a b : BitVec 5) (s : State) : Res :=
  let t := s.cur
  let c := s.me
  let x := c.x a.toNat
  let y := c.x b.toNat
  let mark := c.xp a.toNat || c.xp b.toNat
  let i : Instr := .addsucc d a b
  let done (s : State) (r : Nat) : Res :=
    .next ((s.updMe fun x => ((x.consume mark).setX d.toNat (w64 r) mark).next 4).pairSync t [d.toNat] [] [])
  match s.recTrap t x y .amo with
  | some (cls, det, at_) => .next (s.trap cls det at_)
  | none =>
  s.atRec i x .amo fun k =>
    s.atRec i y .amo fun j =>
      s.ordered i (some k) x 64 false fun s =>
        s.ordered i (some j) y 64 false fun s =>
          let s := (s.toMemory t k).toMemory t j
          let p := s.rd k 64
          let q := s.rd j 64
          if recDie p ≠ recDie q ∨ recLpix p ≠ recLpix q ∨ recPcount q = 0xFFFF then done s 2
          else if recDone p ∨ recScount p = 255 ∨ recSlist p = 0 then
            let r := if recDone p then 0 else 2
            if recPcount q = 0 then done (s.postSucc (s.recOwner q s.me.serial) y j (threadSrc t)) r else done s r
          else
            let la := recSlist p + w64 (8 * recScount p)
            match s.checkAcc t la 8 8 .store with
            | .trap cls det => .next (s.trap cls det la)
            | .xfault => .next (s.parkX i la .store)
            | .hole pa => .fault (.noMemory pa)
            | loc =>
                match loc.key with
                | none => .next (s.trap 6 7 la)
                | some m =>
                    let s := (s.toMemory t m).hbmWrite m (leBytes 8 y.toNat) []
                    let s := s.writeRec j (rset (s.rd j 64) 240 16 (recPcount q + 1))
                    done (s.writeRec k (rset (s.rd k 64) 136 8 (recScount p + 1))) 1

/-! SUSPEND, YIELD and RETIRE (R365, R366; 04 R86). -/

/-- The successors of a retiring record, reached in list order: addresses and keys. -/
inductive Succs where
  | ok (l : List (Word × Nat))
  | trap (cls det : Nat) (a : Word)
  | xfault (a : Word) (k : Acc1)
  | hole (pa : Nat)
deriving DecidableEq, Repr

/-- Bytes of memory as a thread's own performed stores leave them, those in its cluster's cache included. -/
def State.seen (s : State) (t : ThreadId) (k n : Nat) : List Byte := (s.ctrlRead (clusterOf t.core) k n).1

/-- Reach the successors from entry `a` of a list on. -/
def State.successors (s : State) (t : ThreadId) (a : Word) : Nat → Succs
  | 0 => .ok []
  | n + 1 =>
      match s.checkAcc t a 8 8 .load with
      | .trap c d => .trap c d a
      | .xfault => .xfault a .load
      | .hole pa => .hole pa
      | loc =>
          match loc.key with
          | none => .trap 6 7 a
          | some m =>
              let x := w64 (leNat (s.seen t m 8))
              match s.recAcc t x .amo with
              | .trap c d => .trap c d x
              | .xfault => .xfault x .amo
              | .hole pa => .hole pa
              | loc =>
                  match loc.key, s.successors t (a + 8) n with
                  | some k, .ok l => .ok ((x, k) :: l)
                  | none, _ => .trap 6 7 x
                  | _, e => e

/-- The pages that a suspension point writes, checked before it takes effect (R360). -/
def State.suspCheck (s : State) (i : Instr) (kind : Nat) (f : Nat → List (Word × Nat) → Res) : Res :=
  let a := s.me.recaddr
  s.atRec i a .store fun k =>
    if kind = 2 then
      let b := s.seen s.cur k 64
      match s.successors s.cur (recSlist b) (recScount b) with
      | .ok l => f k l
      | .trap c d x => .next (s.trap c d x)
      | .xfault x k => .next (s.parkX i x k)
      | .hole pa => .fault (.noMemory pa)
    else f k []

/-- The form, once the thread's accesses are performed: it waits for its write-back (DEDUCED, log 27). -/
def State.suspendWith (s : State) (i : Instr) (kind : Nat) : Res :=
  if s.me.tmode then .next (s.trap 9 7 0)
  else s.settle i fun s =>
    match s.me.pend with
    | p :: _ => .next (s.park i (.vmovx p.dest))
    | [] => s.suspCheck i kind fun _ _ => .next ((s.updMe fun c => { c with susp := some kind }).pairSync s.cur [] [] [])

def execSuspend (s : State) : Res := s.suspendWith .suspend 0
def execYield (s : State) : Res := s.suspendWith .yield 1
def execRetire (s : State) : Res := s.suspendWith .retire 2

/-- Why a record is bound to its core at an eviction or a suspension point (R355): bound endpoints (07 R154), running lens tags (14 R327),
or what it needs of the core's window and lens port (04 R87; 14 R305; log 93, DESIGN CHOICE); and running copy tags (13 R286). -/
def State.affinity (s : State) (t : ThreadId) : Bool × Bool :=
  let c := s.ctx t
  let runs (eng n : Nat) : Bool := bits (c.h n) 9 8 == eng && !s.handleDone t (c.h n)
  (!c.cs.isEmpty || c.needs || (List.range 16).any (runs 2), (List.range 16).any (runs 1))

/-- Bind the bytes of a thread's record where an affinity is called for. The state keeps which bindings R286 alone has called for
(DEDUCED, log 46). -/
def State.bindFor (s : State) (t : ThreadId) (b : List Byte) : State × List Byte :=
  let a := s.affinity t
  let x := ((s.ctx t).serial, (s.ctx t).recaddr)
  if !a.1 && !a.2 then (s, b)
  else
    let rest := s.bound286.filter (· != x)
    let alone : Bool := !a.1 && (decide (recAffk b < 2) || s.bound286.contains x)
    ({ s with bound286 := if alone then x :: rest else rest }, if recAffk b < 2 then bindRec b t.idx else b)

/-- A record is no longer bound by the device. -/
def State.unbound (s : State) (serial addr : Word) : State := { s with bound286 := s.bound286.filter (· != (serial, addr)) }

/-- A context becomes FREE after a suspension point: its endpoints leave the table, a refused RSTORE is reported (10 R217), and a pair's
mismatches are forgotten (10 R227). -/
def State.freeCtx (s : State) (t : ThreadId) (key : Nat) : State :=
  let s := (s.ctx t).cs.foldl (fun s p => s.leaveEp t.core p.2) s
  let s := s.reportRefused (s.ctx t) t
  let s := { s with pairMis := merase s.pairMis (misKey (s.ctx t).serial key) }
  let s := s.updCtx t Ctx.toFree
  match s.trailer t with
  | some u => s.updCtx u Ctx.toFree
  | none => s

/-- The record as SUSPEND and YIELD write it back: PC, payload, CIR, affinity, and a move from a hot core. -/
def State.writeSuspended (s : State) (t : ThreadId) (key : Nat) : State :=
  let c := s.ctx t
  let b := rset (s.rd key 64) 64 52 (c.pc + w64 (c.pfx + 4)).toNat
  let b := rset b 128 8 c.cir.toNat
  let x := s.bindFor t ((List.range 4).foldl (fun b n => rset b (256 + 64 * n) 64 (c.x (4 + n)).toNat) b)
  let r := x.1.thermalMove t.die t.tier c.serial c.recaddr x.2 false none
  r.1.hbmWrite key r.2 ((s.marksOf key 32) ++ (List.range 4).map fun n => c.xp (4 + n))

/-- The write-back of a suspension point and what follows it: `kind` 0 SUSPEND, 1 YIELD, 2 RETIRE. -/
def State.suspendNow (s : State) (t : ThreadId) (kind key : Nat) (succs : List (Word × Nat)) : State :=
  let c := s.ctx t
  let l := s.launchOf t
  let s := s.release t 4
  if kind = 2 then
    let s := s.writeRec key (rset (rset (s.rd key 64) 128 8 c.cir.toNat) 61 1 1)
    let s := if c.cir = 0 then s else
      s.report c.serial { cls := 1, detail := 2, engine := 0, ctx := t.ctx, unit := place t.core, addr := c.paddr }
    let s := succs.foldl (fun s x => s.succUpdate c.serial t.ctx (place t.core) x.1 x.2 (threadSrc t)) s
    ((s.updLaunch c.serial fun l => { l with live := l.live - 1 }).unbound c.serial c.recaddr).freeCtx t key
  else
    let s := s.writeSuspended t key
    if kind = 0 then (s.updLaunch c.serial fun l => { l with live := l.live - 1 }).freeCtx t key
    else
      let b := rset (rset (s.rd key 64) 48 4 0) 58 3 t.die
      let b := rset (rset b 55 2 t.tier) 116 11 (l.lpixOn t.die)
      (s.freeCtx t key).post t.die t.tier
        { addr := c.recaddr, serial := c.serial, bytes := b, newLive := false, src := threadSrc t }

/-- The instruction of a kind. -/
def suspInstr (kind : Nat) : Instr := match kind with | 0 => .suspend | 1 => .yield | _ => .retire

/-- SUSPENSION_WRITEBACK: the pages are checked again, since the tables may have changed (DEDUCED, log 27). -/
def execSuspensionWriteback (t : ThreadId) (s : State) : Res :=
  let c := s.ctx t
  match c.susp with
  | none => .next s
  | some kind =>
      if c.st ≠ .ready then .next s
      else
        let s := { s.updCtx t fun c => { c with susp := none } with cur := t }
        s.suspCheck (suspInstr kind) kind fun key succs => .next (s.suspendNow t kind key succs)

/-! Eviction (04 R65, R66, R87; 07 R146; R367). -/

/-- The banked word that a cause waits for, with a waiter recorded in its bank's directory. -/
def Cause.word (c : Cause) : Option Nat := match c with | .fe w _ _ => some w | .bar w => some w | _ => none

/-- The word that an evicted thread's held instruction waits for. -/
def Spill.word (x : Spill) : Option Nat := x.ctx.held.bind fun h => h.cause.word

/-- Words that have, or are about to have, waiters recorded at a bank. -/
def State.recordedWords (s : State) (bank : Nat) : List Nat :=
  let has (f : FeWord) : Bool := !f.readers.isEmpty || !f.writers.isEmpty || !f.bars.isEmpty
  let going := s.spills.filterMap fun x => if x.recorded then none else x.word
  (((s.fe.filter fun x => has x.2).map (·.1) ++ going).filter fun w => isBanked w && bankKey w == bank).eraseDups

/-- Is the waiter directory of a word's bank full for it (07 R146)? -/
def State.directoryFull (s : State) (w : Nat) : Bool :=
  let l := s.recordedWords (bankKey w)
  !l.contains w && decide (16 ≤ l.length)

/-- Chain a continuation behind the last of a list. -/
def State.chain (s : State) (l : List Cont) (k : Cont) : State :=
  match l.getLast? with | some p => s.setLink p.key k.addr | none => s

/-- Record an evicted thread's continuation against the word it waits for. -/
def State.recordCont (s : State) (x : Spill) (h : Held) (key : Nat) : State :=
  let k : Cont := { addr := x.addr, serial := x.serial, die := x.thread.die, tier := x.thread.tier, key := key,
                    left := h.since + h.left.getD x.ctx.bartmo.toNat }
  match h.cause with
  | .fe w write _ =>
      let f := s.feAt w
      if write then (s.chain f.writers k).setFe w { f with writers := f.writers ++ [k] }
      else (s.chain f.readers k).setFe w { f with readers := f.readers ++ [k] }
  | .bar w => let f := s.feAt w; (s.chain f.bars k).setFe w { f with bars := f.bars ++ [k] }
  | _ => s

/-- The next record of a chain of waiters after an evicted one. -/
def State.linkAfter (s : State) (x : Spill) : Word :=
  let after (l : List Cont) : Word :=
    ((l.dropWhile fun k => !(k.addr == x.addr && k.serial == x.serial)).drop 1).head?.map (·.addr) |>.getD 0
  match x.ctx.held.map fun (h : Held) => h.cause with
  | some (Cause.fe w write _) => after (if write then (s.feAt w).writers else (s.feAt w).readers)
  | some (Cause.bar w) => after (s.feAt w).bars
  | _ => 0

/-- The wake event of a cause has come (04 R62, R63). Requests at a bank, barrier waiters, POSTs and translation faults are woken
where their event happens. -/
def State.wakeMet (s : State) (t : ThreadId) (cause : Cause) : Bool :=
  let k := s.core t.core
  match cause with
  | .recv ep => (k.ep ep).canRecv || (k.ep ep).broken != 0
  | .recvt cls => decide (0 < (k.cls cls).msgs)
  | .send ep => s.canSend (k.ep ep) || (k.ep ep).broken != 0
  | .handles mask any => s.waitMet t mask any
  | .ffdone => (s.ctx t).rstores == 0
  | .rstores => decide ((s.ctx t).rstores < 15)
  | .vmovx r => !((s.ctx t).pend.any fun p => p.len == 0 && p.dest == r)
  | .tags eng => (s.freeTag t eng).isSome
  | .backQueue p => decide (((mget Port.reset k.ports p).back).length < 8)
  | .mxq => decide (k.mxu.queue.length < 16)
  | .lens => true
  | .vu => true
  | .fe .. => false
  | .bar _ => false
  | .postFull .. => false
  | .xlate _ => false
  | .own => false
  | .reply _ => true
  | .first => true

/-- Has the wake event of a parked thread come, so that it is not evicted (R66)? A reply that has come would have woken it. -/
def State.awake (s : State) (t : ThreadId) (h : Held) : Bool :=
  s.resume.contains t || (match h.cause with | .reply _ => false | c => s.wakeMet t c)

/-- A PARKED context at a blocking point enters EVICTING, when a spill frame is free, the pages of the frame and of the record
are there, and the bank can record the waiter (DEDUCED, log 29). A full/empty or barrier request stays at its bank until the write-back
withdraws it (07 R146). -/
def State.tryEvict (s : State) (t : ThreadId) : Option State :=
  let s := s.drain t
  let c := s.ctx t
  let l := s.launchOf t
  match c.held with
  | none => none
  | some h =>
      if c.st ≠ .parked ∨ !h.cause.blocking ∨ s.awake t h ∨ (l.isPair = true ∧ 8 ≤ t.ctx) ∨ (h.cause.word.any s.directoryFull) = true then
        none
      else match (List.range (l.frames.length + 1)).find? fun n => !l.frames.contains n with
        | none => none
        | some n =>
            if l.spilln ≤ n then none
            else match (s.devLoc l t.die (l.spillbase + w64 (512 * n)) 512 .engWrite).key,
                       (s.devLoc l t.die c.recaddr 64 .engWrite).key with
              | some _, some _ =>
                  let bank := h.cause.word.isSome
                  let s := if bank then s else s.withdraw t
                  let x : Spill := { addr := c.recaddr, serial := c.serial, ctx := c, thread := t, out := .again, cir := 0, paddr := 0,
                                     late := [], frame := n, recorded := !bank, written := false, woken := false }
                  let s := s.updLaunch l.serial fun l => { l with frames := n :: l.frames }
                  let s := s.updCtx t fun c => { c with st := .evicting, held := if bank then c.held else none, pend := [] }
                  some ({ s with spills := s.spills ++ [x] }.pairSync t [] [] [])
              | _, _ => none

/-- The limit of a context's RETRY: 0 disables eviction, 1 to 63 act as 64. -/
def Ctx.retryLimit (c : Ctx) : Option Nat := if c.retry = 0 then none else some (max 64 c.retry.toNat)

/-- A due eviction does not happen: the core tries again when a further RETRY cycles have passed (07 R146; R334). -/
def State.retryLater (s : State) (t : ThreadId) (n : Nat) : State :=
  (s.updCtx t fun c => { c with held := c.held.map fun h => { h with retryAt := h.retryAt + n } }).pairSync t [] [] []

/-- EVICTION: the retry limit of a thread has passed, or cheap pre-emption evicts it at once (R357). -/
def execEviction (t : ThreadId) (s : State) : Res :=
  let c := s.ctx t
  match c.held with
  | none => .next s
  | some h =>
      let due : Option Nat := c.retryLimit.filter fun n => decide (n < s.cycleOf t - h.retryAt)
      if due.isSome || s.pressed (s.launchOf t) then
        match s.tryEvict t, due with
        | some s', _ => s'.out
        | none, some n => .next (if c.st = .parked then s.retryLater t n else s)
        | none, none => .next s
      else .next s

/-- EVICT (R367). -/
def execEvict (d a : BitVec 5) (s : State) : Res :=
  let t := s.cur
  let v := s.me.x a.toNat
  let mark := s.me.xp a.toNat
  let k := bits v 3 0
  if bits v 63 4 ≠ 0 ∨ k = t.ctx ∨ ((s.launchOf t).isPair = true ∧ 8 ≤ k) then .next (s.trap 9 7 0)
  else
    let u := t.core.thread k
    let r := if (s.ctx u).serial = s.me.serial then s.tryEvict u else none
    let done (s : State) (v : Word) : Res :=
      .next ((s.updMe fun c => ((c.consume mark).setX d.toNat v mark).next 4).pairSync t [d.toNat] [] [])
    match r with
    | some s' => (match s'.hole with | some pa => .fault (.noMemory pa) | none => done s' 1)
    | none => done s 0

/-- The record of an evicted thread as it is written: SPILL, WAIT, frame address and wait-link, affinity. -/
def State.spilledRec (s : State) (x : Spill) (frame : Word) (b : List Byte) : State × List Byte :=
  let waits : Bool := match x.ctx.held.map fun (h : Held) => h.cause with
    | some (Cause.fe ..) => true | some (Cause.bar _) => true | some (Cause.postFull ..) => true | _ => false
  let b := rset (rset b 159 1 1) 57 1 (b2n (waits && !x.woken))
  s.bindFor x.thread (rset b 256 256 (frame.toNat + (s.linkAfter x).toNat * 2 ^ 64))

/-- The bank withdraws the request of an evicted thread and records the continuation, unless it has served the request (07 R146). -/
def State.offBank (s : State) (x : Spill) (key : Nat) : State :=
  match x.ctx.held with
  | some h => if x.recorded ∨ x.woken then s else (s.withdraw x.thread).recordCont x h key
  | none => s

/-- EVICTION_WRITEBACK: the spill frame and the record are written, and the context becomes FREE; a record whose wake event has
come meanwhile is posted at once. -/
def execEvictionWriteback (t : ThreadId) (s : State) : Res :=
  match s.spills.find? fun x => x.thread == t && !x.written with
  | none => .next s
  | some x =>
      let l := s.launch x.serial
      let fa := l.spillbase + w64 (512 * x.frame)
      let floc := s.devLoc l t.die fa 512 .engWrite
      let rloc := s.devLoc l t.die x.addr 64 .engWrite
      match floc.key, rloc.key with
      | some fk, some rk =>
          let s := s.offBank x rk
          let wait := Config.waitWord s.freeCnt
          let s := { s with freeCnt := s.freeCnt + 1 }
          let s := s.hbmWrite fk ({ x.ctx with cir := x.ctx.cir ||| x.cir }.toBytes 3 (s.cycleOf t) wait) []
          let r := (s.setCtx t { x.ctx with st := .evicting }).spilledRec x fa (s.rd rk 64)
          let s := r.1.writeRec rk r.2
          let s := s.updSpill x.addr x.serial fun y => { y with written := true, recorded := true }
          let s := s.updCtx t Ctx.toFree
          let s := match s.trailer t with | some u => s.updCtx u Ctx.toFree | none => s
          .next (if x.woken then s.postKey t.die t.tier rk x.addr x.serial (threadSrc t) else s)
      | none, _ => (s.recTrouble x.serial t.core 7 .engWrite fa floc).out
      | _, none => (s.recTrouble x.serial t.core 7 .engWrite x.addr rloc).out

/-! Waking (04 R63, R66). -/

/-- The wake event of an evicted record outside a bank has come. -/
def State.spillMet (s : State) (x : Spill) : Bool :=
  !x.woken && (match x.ctx.held.map fun (h : Held) => h.cause with
    | some (Cause.recv ep) => s.wakeMet x.thread (.recv ep)
    | some (Cause.recvt c) => s.wakeMet x.thread (.recvt c)
    | some (Cause.send ep) => s.wakeMet x.thread (.send ep)
    | some (Cause.postFull d p) => decide ((s.part d p).entries.length < partSize p)
    | some (Cause.reply _) => true
    | _ => false)

/-- The bank's or the controller's part of a read for an evicted thread: its data, and what a reconstruction fault marks. -/
def State.spillRead (s : State) (x : Spill) (loc : Loc) (f : Form) (ctrl : Bool) : State × List Byte × List Bool :=
  match loc with
  | .bank k =>
      let r := s.bankReads (wordsOf k f.n)
      let s := r.2.foldl (fun s w => (s.parityReport x.serial w (wordAddr f.addr k w)).engCir x.thread x.ctx.run 2) r.1
      (s, s.rd k f.n, s.marksOf k f.n)
  | .hbm pa => if ctrl then (s, s.ctrlRead (clusterOf x.thread.core) pa f.n) else s.cacheRead (clusterOf x.thread.core) pa f.n
  | .hostMem k => (s, s.rd k f.n, s.marksOf k f.n)
  | _ => (s, [], [])

/-- The reply of an evicted thread's load or atomic comes (04 R62, R87). An atomic is performed then, with the registers of the record's frame. A
page that has gone, or an access of the thread to the same bytes that still waits for its page, leaves it to be presented again. -/
def State.spillReply (s : State) (x : Spill) (i : Instr) : State × Outcome1 :=
  let f := Instr.form i x.ctx
  let t := x.thread
  let amo := Instr.amoOf i
  let loc := s.locate (s.launch x.serial) t.core f.addr f.n (if amo.isSome then .amo else .load)
  let rel : Option Nat := amo.bind fun m => if m.o = 2 then some m.sc.toNat else none
  let behind : Bool := x.ctx.pend.any fun p => rel.isSome || p.meets loc.key f.addr f.n
  match loc.key, amo with
  | none, _ => (s, .again)
  | some _, none =>
      if behind then (s, .again)
      else
        let r := s.spillRead x loc f (wide (f.sc.getD 0))
        (r.1, .value r.2.1 r.2.2)
  | some _, some m =>
      if behind then (s, .again)
      else
        let s := match rel with | some sc => s.release t sc | none => s
        let s := match loc with | .hbm pa => s.flushLine (clusterOf t.core) (pa / 64) | _ => s
        let r := s.spillRead x loc f true
        let q := r.1.amoWrite x.ctx loc f.addr m.n m.fn m.u m.b f.base (leNat r.2.1) (r.2.2.any id)
        (if q.2 && f.base then q.1.updSpill x.addr x.serial fun y => { y with cir := y.cir ||| 4 } else q.1, .value r.2.1 [r.2.2.any id])

/-- The device posts an evicted record whose wake event has come, now or when it is written. -/
def State.wakeSpill (s : State) (x : Spill) : State :=
  let r : State × Outcome1 := match x.ctx.held with
    | some h => (match h.cause with | .reply _ => s.spillReply x h.instr | _ => (s, x.out))
    | none => (s, x.out)
  let s := r.1.updSpill x.addr x.serial fun y => { y with woken := true, out := r.2 }
  if !x.written then s
  else
    let t := x.thread
    match (s.devLoc (s.launch x.serial) t.die x.addr 64 .engWrite).key with
    | some k => s.postKey t.die t.tier k x.addr x.serial (threadSrc t)
    | none => s.updSpill x.addr x.serial fun y => { y with woken := false }

/-- WAKE: the held instruction of a parked thread is presented again once its wake event has come, and completes (R64); an
evicted record is posted (R66). -/
def execWake (t : ThreadId) (s : State) : Res :=
  let c := s.ctx t
  let met : Bool := match c.held with | some h => c.parked && s.wakeMet t h.cause && !s.resume.contains t | none => false
  if met then .next { s with resume := s.resume ++ [t] }
  else match s.spills.find? fun x => x.thread == t && s.spillMet x && s.hbmUp with
    | some x => .next (s.wakeSpill x)
    | none => .next s

end Sys2Proof.Machine
end

