-- ==== Sys2Proof/Machine/Launches.lean ====
section
/-! DEFINITION. Launches: LAUNCH, submission queues and fences, admission, expansion, completion and completion entries, the
time limit (16 R341 to R347, R363, R447; 10 R209, R216, R217; 04 R69, R75 to R79; 13 R290; 15 R330). -/

namespace Sys2Proof.Machine

/-! The launch pool (R342, R363). -/

/-- Entries of a die's pool, and its shared remainder. -/
def poolSize : Nat := 2048
def State.remainder (s : State) (d : Nat) : Nat := poolSize - (s.die d).used

/-- Give a launch a pool entry of a die: any free one, which is a free value (DESIGN CHOICE, log 40). -/
def State.takeEntry (s : State) (serial : Word) (d : Nat) : State :=
  let r := s.draw
  let n := r.1.toNat
  let free (i : Nat) : Bool := (mfind (s.die d).pool i).isNone
  match ((List.range poolSize).map fun i => (n + i) % poolSize).find? free with
  | none => r.2
  | some ix =>
      (r.2.updDie d fun x => { x with pool := mset x.pool ix serial }).updLaunch serial fun l =>
        { l with lpix := mset l.lpix d ix }

/-- The record of a child: FIRSTDIE is the launching die, PTROOT the parent's, PRIO at most the parent's. -/
def childRecord (b : List Byte) (die prio ptroot : Nat) : List Byte :=
  let c := leAt b 0 8
  patch (patch b 0 (leBytes 8 (setFld (setFld c 12 3 die) 0 3 (min (fld c 0 3) prio)))) 0x38 (leBytes 8 ptroot)

/-- A launch waits for admission under the next serial number (DESIGN CHOICE, log 10). -/
def State.newLaunch (s : State) (l : Launch) : State :=
  { s with launches := s.launches ++ [{ l with serial := s.nextSerial }], nextSerial := s.nextSerial + 1 }

/-- LAUNCH and LAUNCH.TRY; `done` gets the serial, or none where no entry was taken. -/
def State.launchWith (s : State) (i : Instr) (ra : Nat) (tryOnly : Bool) (done : State → Option Word → Res) : Res :=
  let t := s.cur
  let a := s.me.x ra
  let base := s.me.xp ra
  let reach (s : State) (f : Loc → Res) : Res :=
    if a.toNat % 128 ≠ 0 then .next (s.trap 8 1 a)
    else if a.toNat / 2 ^ 56 ≠ 0 ∧ a.toNat / 2 ^ 56 ≠ 0x7F then .next (s.trap 6 1 a)
    else s.access i a 128 128 .load f
  reach s fun _ =>
    s.afterOwn i (.reply false) fun s =>
      let s := s.release t 4
      reach s fun loc =>
        let r := s.loadLoc t loc a 128 (some 4)
        let b := r.2.1
        let p := r.1.launchOf t
        let l : Launch := { Launch.empty with record := childRecord b t.die p.prio p.ptroot }
        if l.priv && !r.1.privileged t then .next (r.1.trap 6 4 0)
        else
          let s := r.1.updMe fun c => (c.consume base).consumeAt (r.2.2.any id) a
          let need := 1 + l.budgetN
          let have_ := mget 0 p.budget t.die
          let own := !tryOnly && decide (need ≤ have_)
          if !own && decide (s.remainder t.die < need) then done s none
          else
            let serial := s.nextSerial
            let s := if own then s.updLaunch p.serial fun p => { p with budget := mset p.budget t.die (have_ - need) }
              else s.updDie t.die fun d => { d with used := d.used + need }
            let held := bit (s.dbgctl t.core) 2 && (s.me.stepping || s.me.st == .stopped)
            let s := s.newLaunch { l with
              parent := some p.serial, die := t.die, recva := a, fromBudget := own, budget := [(t.die, l.budgetN)]
              hold := if held then some (coreKey t.core) else none, launcher := some (t, s.me.run) }
            done (s.takeEntry serial t.die) (some serial)

/-- LAUNCH: the child's serial, or NOSPACE. -/
def execLaunch (d a : BitVec 5) (s : State) : Res :=
  let m := s.me.xp a.toNat
  s.launchWith (.launch d a) a.toNat false fun s r =>
    .next ((s.updMe fun c => (c.setX d.toNat (r.getD (BitVec.allOnes 64)) m).next 4).pairSync s.cur [d.toNat] [] [])

/-- LAUNCH.TRY: from the shared remainder only. -/
def execLaunchTry (p : BitVec 3) (a : BitVec 5) (s : State) : Res :=
  let m := s.me.xp a.toNat
  s.launchWith (.launchTry p a) a.toNat true fun s r =>
    .next ((s.updMe fun c => (c.setP p.toNat r.isSome m).next 4).pairSync s.cur [] [p.toNat] [])

/-! Reports of the launch unit (10 R216). -/

/-- A report with ENGINE 0xC and no context. -/
def poolReport (cls det unit : Nat) (a : Word) : Report := { cls := cls, detail := det, engine := 12, ctx := 0x1F, unit := unit, addr := a }

/-- Lowest-numbered die of a launch. -/
def Launch.lowDie (l : Launch) : Nat := l.dies.headD l.firstDie

/-- The die that checks a launch record. -/
def Launch.checkDie (l : Launch) : Nat := if l.parent.isSome then l.die else l.firstDie

/-- Reject a launch with a class, detail and offset. -/
def State.rejectAt (s : State) (l : Launch) (cls det off : Nat) : State :=
  s.reject l (poolReport cls det (unitDie l.checkDie) (w64 off))

/-! Engine reads of the device for a launch (R447). -/

/-- Bytes read with the marks of their words, or the first address that could not be read and why. -/
inductive DevRead where
  | ok (b : List Byte) (marks : List Bool)
  | bad (a : Word) (loc : Loc)
deriving DecidableEq, Repr

/-- Read `n` bytes in pieces that stay inside 64-byte lines; the first argument bounds their number. -/
def State.devRead (s : State) (l : Launch) (die : Nat) : Nat → Word → Nat → DevRead
  | 0, _, _ => .ok [] []
  | f + 1, a, n =>
      if n = 0 then .ok [] []
      else
        let m := min n (64 - a.toNat % 64)
        let loc := s.devLoc l die a m .engRead
        match loc.key with
        | none => .bad a loc
        | some k =>
            match s.devRead l die f (a + w64 m) (n - m) with
            | .ok b ms => .ok (s.rd k m ++ b) (s.marksOf k m ++ ms)
            | e => e

/-- Read a structure of `n` bytes. -/
def State.devBytes (s : State) (l : Launch) (die : Nat) (a : Word) (n : Nat) : DevRead := s.devRead l die (n / 64 + 2) a n

/-- A structure that could not be read at admission: a fault record and a wait for replay, or a rejection that names the field
of its address. -/
def State.admissionTrouble (s : State) (l : Launch) (a : Word) (loc : Loc) (off : Nat) : State :=
  match loc with
  | .xfault =>
      (s.postFault (l.checkDie * 2 ^ 16) l.serial 0xFF 4 0 a).updLaunch l.serial fun l => { l with waitReplay := true }
  | .hole pa => { s with hole := some pa }
  | .trap cls det => s.rejectAt l cls det off
  | _ => s.rejectAt l 6 7 off

/-! What admission writes on a core (R343; 04 R75, R77). -/

/-- The 240 words of a launch's constant window image, with their marks. -/
def imageWords (r : List Byte × List Bool) : List (Word × Bool) :=
  (List.range 240).map fun i => (w64 (leAt r.1 (8 * i) 8), r.2.getD i false)

/-- Windows that a launch's VWINMAP names. -/
def Launch.windows (l : Launch) : List Nat := (List.range 4).filter fun w => (List.range 16).any fun k => l.vwinNibble k == w

/-- Tier clock in kHz at a power state (22 R427). -/
def tierKHz (tier ps : Nat) : Nat :=
  match ps, tier with
  | 0, 0 => 2250000 | 0, 1 => 2800000 | 0, _ => 3400000
  | 1, 0 => 1800000 | 1, 1 => 2240000 | 1, _ => 2720000
  | 2, 0 => 1350000 | 2, 1 => 1680000 | 2, _ => 2040000
  | _, _ => 0

/-- Does a launch fit a core (R343, 04 R79)? The lowest offset of its footprint (DEDUCED, log 56). -/
def State.fits (s : State) (l : Launch) (img : List (Word × Bool)) (c : CoreId) : Option Nat :=
  let k := s.core c
  let res := k.residents.map s.launch
  let same : Bool := res.isEmpty || ((List.range 240).all (fun i => mget 0 k.cw i == (img.getD i (0, false)).1) &&
    (List.range 16).all (fun n => mget 0 k.fmt n == l.fmtImage n) && k.fmtset == l.fmtset)
  if (res.any fun r => r.pclass == 2) || (l.pclass == 2 && !res.isEmpty) || !same ||
      (res.any fun r => r.windows.any l.windows.contains) then none
  else
    ((List.range (storeSize c.tier / 65536)).map fun i => 65536 * (i + 1)).find? fun b =>
      decide (b + l.lssize ≤ storeSize c.tier) && res.all fun r =>
        decide (r.lssize = 0 ∨ l.lssize = 0 ∨ b + l.lssize ≤ r.base c ∨ r.base c + r.lssize ≤ b)

/-- Write a word of a core's constant window in the store. -/
def State.windowWord (s : State) (c : CoreId) (i : Nat) (v : Word) (mark : Bool) : State :=
  (s.bankWrite (keyLs c (8 * i)) (leBytes 8 v.toNat) mark).getD s

/-- A word of the window that is the same for every launch (04 R77). -/
def commonWord (c : CoreId) (ps i : Nat) : Word :=
  match i with
  | 0xF0 => w64 (place c)
  | 0xF6 => w64 (tierKHz c.tier ps)
  | 0xF8 => 1
  | 0xF9 => 0xFFFFFFFFFFFFFFFF
  | 0xFA => 0x3F8000003F800000
  | 0xFB => 0xFF800000FF800000
  | 0xFC => 0x7F8000007F800000
  | 0xFD => 0x3F803F803F803F80
  | 0xFE => 0x8000000000000000
  | _ => 0x7FFFFFFFFFFFFFFF

/-- The extents of four nest levels as the record gives them; 0 for an absent level. -/
def Launch.extents (l : Launch) (n : Nat) : Nat :=
  (List.range 4).foldl (fun v i =>
    v + (if fld (l.nestByte (n + i)) 7 1 = 1 then l.extent (n + i) else 0) * 2 ^ (16 * i)) 0

/-- A word of the window that belongs to a launch (04 R77). -/
def Launch.identWord (l : Launch) (base i : Nat) : Word :=
  match i with
  | 0xF1 => l.serial
  | 0xF2 => l.recva
  | 0xF3 => w64 (l.extents 0)
  | 0xF4 => w64 (l.extents 4)
  | 0xF5 => w64 (base + l.lssize * 2 ^ 32)
  | _ => w64 l.cqn

/-- The indices of the words common to all launches, and of those of one launch. -/
def commonIdx : List Nat := [0xF0, 0xF6, 0xF8, 0xF9, 0xFA, 0xFB, 0xFC, 0xFD, 0xFE, 0xFF]
def identIdx : List Nat := [0xF1, 0xF2, 0xF3, 0xF4, 0xF5, 0xF7]

/-- The store's identity words are those of the earliest resident. -/
def State.identStore (s : State) (c : CoreId) : State :=
  match (s.core c).residents with
  | [] => s
  | r :: _ => identIdx.foldl (fun s i => s.windowWord c i (mget 0 (mget [] (s.core c).ident r.toNat) i) false) s

/-- A window passes to a launch: tags NONE, masks zero, marks cleared, lanes as they were (04 R69, 11 R254). -/
def Window.pass (w : Window) (serial : Word) : Window :=
  { vs := w.vs.map fun v => (v.1, { v.2 with tag := 0, marks := 0 }), ms := [], binds := [], owner := some serial }

/-- What a launch finds on a core that no other launch holds: window image, format registers, MXU and lens port at reset, and the private
stores with the images that its record supplies; their other bytes stay (13 R290). The elements of the accumulators are 0 (DESIGN CHOICE, log 103). -/
def Core.alone (k : Core) (l : Launch) (img : List (Word × Bool)) (li si : List Byte) : Core :=
  { k with
    cw := (List.range 240).foldl (fun m i => mset m i (img.getD i (0, false)).1) k.cw
    cwBad := []
    fmt := (List.range 16).map fun n => (n, l.fmtImage n)
    fmtset := l.fmtset
    mxu := .reset, lens := .reset
    loaderImg := li ++ k.loaderImg.drop li.length, storerImg := si ++ k.storerImg.drop si.length, rkey := 0 }

/-- Admission on one core. -/
def State.install (s : State) (l : Launch) (img : List (Word × Bool)) (li si : List Byte) (c : CoreId) (base : Nat) : State :=
  let none_ := (s.core c).residents.isEmpty
  let s := if none_ then
      (List.range 240).foldl (fun s i => s.windowWord c i (img.getD i (0, false)).1 (img.getD i (0, false)).2)
        (s.updCore c fun k => k.alone l img li si)
    else s
  let s := s.updCore c fun k => { k with
    cw := commonIdx.foldl (fun m i => mset m i (commonWord c s.dev.pscur i)) k.cw
    ident := mset k.ident l.serial.toNat (identIdx.map fun i => (i, l.identWord base i))
    residents := k.residents ++ [l.serial]
    stopped := k.stopped.erase l.serial
    savestat := l.savestat, msgSent := merase k.msgSent l.serial.toNat, msgRecv := merase k.msgRecv l.serial.toNat
    wins := l.windows.foldl (fun m w =>
      let x := mget Window.reset m w
      if x.owner = some l.serial then m else mset m w (x.pass l.serial)) k.wins
    icache := [] }
  let s := commonIdx.foldl (fun s i => s.windowWord c i (commonWord c s.dev.pscur i) false) s
  (s.updLaunch l.serial fun l => { l with lsbase := mset l.lsbase (coreKey c) base }).identStore c

/-! Which launch is admitted (R343, R346, R357, R358). -/

/-- Does launch `a` come before launch `b`? -/
def Launch.ahead (a b : Launch) : Bool := decide (b.prio < a.prio) || (a.prio == b.prio && decide (a.serial.toNat < b.serial.toNat))

/-- Do two launches need a common core? -/
def Launch.shares (a b : Launch) : Bool := a.layout.any b.layout.contains

/-- The core whose DBGCTL.HOLD is 1 and holds a launch: it held it before, or the thread that launched it is stepped or stopped there
(10 R220, R221; R363) (DEDUCED, log 85). -/
def State.holder (s : State) (l : Launch) : Option CoreId :=
  let by_ (t : ThreadId) : Bool := let c := s.ctx t; c.stepping || c.st == .stopped
  let on : Option CoreId := (l.hold.map coreOf).or (((l.launcher.bind fun x => s.runner x.1 x.2).filter by_).map fun t => t.core)
  on.filter fun c => bit (s.dbgctl c) 2

/-- Is a launch held? (DEDUCED, log 85). -/
def State.heldBack (s : State) (l : Launch) : Bool := (s.holder l).isSome

/-- Are a launch's pool entries there? A child holds its own already. -/
def State.poolFree (s : State) (l : Launch) : Bool :=
  l.parent.isSome || l.dies.all fun d => decide (1 + l.budgetN ≤ s.remainder d)

/-- The image of a launch that has been read, for the comparison with a core's. -/
def State.imageOf (s : State) (l : Launch) : List (Word × Bool) :=
  if l.cwimg = 0 then imageWords ([], [])
  else match s.devBytes l l.checkDie l.cwimg 1920 with | .ok b m => imageWords (b, m) | .bad _ _ => imageWords ([], [])

/-- Could a checked launch be admitted now, were it alone in line? -/
def State.couldAdmit (s : State) (l : Launch) : Bool :=
  s.poolFree l && l.layout.all fun c => (s.fits l (s.imageOf l) c).isSome

/-- Does another waiting or saved launch come first? (DEDUCED, log 56). -/
def State.blockedBy (s : State) (l w : Launch) : Bool :=
  match w.st with
  | .waiting =>
      w.serial != l.serial && w.ahead l && !w.waitReplay && !s.heldBack w &&
        (w.ext.isEmpty || (decide (l.prio < w.prio) && w.shares l) || s.couldAdmit w)
  | .saved => decide (l.prio ≤ w.prio) && w.shares l
  | .restoring => w.shares l
  | _ => false

/-- A pre-emption for a launch is over, or no longer wanted. -/
def State.dropPreemptor (s : State) (serial : Word) : State :=
  { s with launches := s.launches.map fun v =>
      if v.preemptor = some serial then { v with preemptor := none, cheap := false } else v }

/-- Admit a checked launch to all of its cores. -/
def State.admitNow (s : State) (l : Launch) (img : List (Word × Bool)) (li si : List Byte) : State :=
  let s := if l.parent.isSome then s
    else l.dies.foldl (fun s d => (s.updDie d fun x => { x with used := x.used + 1 + l.budgetN }).takeEntry l.serial d) s
  let s := l.layout.foldl (fun s c => match s.fits l img c with | some b => s.install l img li si c b | none => s) s
  let s := s.updLaunch l.serial fun l => { l with
    st := .admitted, live := l.live + l.records, hold := none
    budget := if l.parent.isSome then l.budget else l.dies.map fun d => (d, l.budgetN) }
  let s := match l.parent with
    | some p => if l.donerec = 0 then s else s.updLaunch p fun p => { p with live := p.live + 1 }
    | none => s
  (s.settled l.serial).dropPreemptor l.serial

/-- The extension block as the launch record names it: usable, or to be refused by the launch record alone. -/
def Launch.extUsable (l : Launch) : Bool :=
  l.extaddr.toNat % 256 == 0 && l.extaddr.toNat / 2 ^ 52 == 0 && fld l.ptroot 0 16 == 0 && fld l.ptroot 52 12 == 0

/-- Reject at the first field that fails. -/
def State.rejectBad (s : State) (l : Launch) (c : Check) : State := s.rejectAt l c.cls c.det c.off

/-- The images of a checked launch: constant window, loader, storer. -/
inductive Images where
  | ok (img : List (Word × Bool)) (li si : List Byte)
  | bad (a : Word) (loc : Loc) (off : Nat)
deriving DecidableEq, Repr

/-- Read the images, in the order of their fields. Up to 16,128 bytes of a stream image are taken (13 R290) (DEDUCED, log 47). -/
def State.images (s : State) (l : Launch) : Images :=
  let die := l.checkDie
  let stream (off : Nat) : DevRead :=
    let n := min (leAt l.ext (off + 8) 8) 16128
    if l.ext64 off = 0 then .ok [] [] else s.devBytes l die (l.ext64 off) n
  match stream 0x50 with
  | .bad a loc => .bad a loc 0xD0
  | .ok li _ =>
      match stream 0x60 with
      | .bad a loc => .bad a loc 0xE0
      | .ok si _ =>
          if l.cwimg = 0 then .ok (imageWords ([], [])) li si
          else match s.devBytes l die l.cwimg 1920 with
            | .bad a loc => .bad a loc 0xF0
            | .ok b m => .ok (imageWords (b, m)) li si

/-- A child's DONEREC names a task record of the parent's launch on the launching die (R363). -/
def State.donerecOk (s : State) (l : Launch) (b : List Byte) : Bool :=
  match l.parent with
  | some p => recDie b == l.die && mfind (s.launch p).lpix l.die == some (recLpix b)
  | none => true

/-- Is the device in a state that admits launches (22 R427, R442)? -/
def State.admits (s : State) : Bool := s.dev.sstate == 1 && s.dev.pscur != 3 && !(s.dev.slew && s.dev.pstarget == 3) && s.dev.powered

/-- A launch whose extension block has been read: the remaining checks, then its turn (DEDUCED, log 47). -/
def State.admitChecked (s : State) (l : Launch) : State :=
  match l.firstBad true with
  | some c => s.rejectBad l c
  | none =>
      let done : DevRead := if l.donerec = 0 then .ok [] [] else s.devBytes l l.checkDie l.donerec 64
      match done with
      | .bad a .xfault => s.admissionTrouble l a .xfault 0xC0
      | .bad _ _ => s.rejectAt l 9 0x21 0xC0
      | .ok b _ =>
          if l.donerec ≠ 0 ∧ !s.donerecOk l b then s.rejectAt l 9 0x21 0xC0
          else match s.images l with
            | .bad a loc off => s.admissionTrouble l a loc off
            | .ok img li si =>
                let s := s.updLaunch l.serial fun x => { x with ext := l.ext }
                let s := match s.holder l with
                  | some c => s.updLaunch l.serial fun x => { x with hold := some (coreKey c) }
                  | none => s
                if s.heldBack l || (s.launches.any fun w => s.blockedBy l w) || !s.couldAdmit l then s
                else s.admitNow l img li si

/-- LAUNCH_ADMISSION: the launch is checked, and admitted when its turn and its resources have come. -/
def execLaunchAdmission (serial : Word) (s : State) : Res :=
  let l := s.launch serial
  if l.st ≠ .waiting ∨ !s.known serial ∨ l.waitReplay ∨ !s.admits then .next s
  else
    let early := l.firstBad false
    if !l.extUsable then
      match early with
      | some c => .next (s.rejectBad l c)
      | none => .next s
    else match s.devBytes l l.checkDie l.extaddr 640 with
      | .bad a .xfault => .next (s.admissionTrouble l a .xfault 0x20)
      | .bad a loc =>
          (match early with
          | some c => if c.off < 0x20 then s.rejectBad l c else s.admissionTrouble l a loc 0x20
          | none => s.admissionTrouble l a loc 0x20).out
      | .ok b _ => (s.admitChecked { l with ext := b }).out

/-! Submission queues and fences (R346, R347; 22 R444). -/

/-- Slots of a queue of LOG2N. -/
def slots (log2n : Nat) : Nat := 2 ^ log2n
/-- Slots filled and not yet parsed. -/
def SubQ.filled (q : SubQ) : Nat := (q.prod + slots q.log2n - q.cons) % slots q.log2n
/-- Bytes of the n-th slot from the consumer index. -/
def State.slot (s : State) (q : SubQ) (n : Nat) : List Byte :=
  s.rd (keyHost (q.base.toNat + 128 * ((q.cons + n) % slots q.log2n))) 128
/-- Go on by slots. -/
def SubQ.advance (q : SubQ) (n : Nat) : SubQ := { q with cons := (q.cons + n) % slots q.log2n }

/-- A fence fails: an entry of no launch, and the queue halts. -/
def State.fenceError (s : State) (q cq cls det : Nat) (a : Word) : State :=
  (s.pushCq { cq := cq, rep := poolReport cls det 0 a, serial := 0, cookie := 0, errcnt := 1, interim := false, degr := false,
              rerun := false }).updSq q fun x => { x with halt := true, fence := none }

/-- Offset of the first byte of a fence packet that offends, if one does (R347) (DEDUCED, log 78). -/
def fenceBad (native : Bool) (b : List Byte) : Option Nat :=
  let h := leAt b 0 8
  let n := fld h 12 4
  let entry (i : Nat) : List (Bool × Nat) :=
    let a := leAt b (16 + 16 * i) 8
    [(a % 8 == 0, 16 + 16 * i), (a / 2 ^ 56 == 0, 16 + 16 * i + 7)]
  let zero (o : Nat) : Bool × Nat := (leAt b o 1 == 0, o)
  let checks : List (Bool × Nat) :=
    [(fld h 0 8 == 0, 0), (fld h 8 2 == 0 && !native && decide (1 ≤ n ∧ n ≤ 12), 1)] ++ [zero 6, zero 7] ++
      [(fld (leAt b 8 8) 0 8 == 0, 8), (fld (leAt b 8 8) 8 8 == 0, 9), (fld (leAt b 8 8) 52 4 == 0, 14), zero 15] ++
      (List.range n).flatMap entry ++ ((List.range 240).filter fun o => decide (16 * n ≤ o)).map fun o => zero (16 + o)
  (checks.find? fun c => !c.1).map (·.2)

/-- PACKET_PARSE: the next packet of a queue, a fence or a launch record, whose launch gets its serial. -/
def execPacketParse (q : BitVec 6) (s : State) : Res :=
  let n := q.toNat
  let x := s.sq n
  if !x.en ∨ x.halt ∨ x.filled = 0 ∨ s.dev.sstate ≠ 1 ∨ (x.compat = true ∧ (x.waits.isSome ∨ x.fence.isSome)) then .next s
  else
    let b := s.slot x 0
    if fld (leAt b 0 8) 10 2 = 1 then
      if x.filled < 2 then .next s
      else
        let b := b ++ s.slot x 1
        let h := leAt b 0 8
        let s := s.updSq n fun x => x.advance 2
        match fenceBad (!x.compat) b with
        | some o => .next (s.fenceError n (fld h 16 16) 9 0x21 (w64 o))
        | none =>
            let f : Fence := { cq := fld h 16 16, ptroot := w64 (leAt b 8 8), tmo := fld h 32 16, since := s.dev.time,
                               counters := (List.range (fld h 12 4)).map fun i =>
                                 (w64 (leAt b (16 + 16 * i) 8), w64 (leAt b (24 + 16 * i) 8)) }
            .next (s.updSq n fun x => { x with fence := some f })
    else
      let serial := s.nextSerial
      let s := s.newLaunch { Launch.empty with record := b, queue := some n }
      .next (s.updSq n fun x => { x.advance 1 with waits := if x.compat then some serial else none })

/-- What reading the counters of a fence comes to: the first that is not reached, or an entry or page that is unusable. -/
inductive FenceRead where
  | passed
  | short (a : Word)
  | bad (a : Word) (cls det : Nat)
  | hole (pa : Nat)
deriving DecidableEq, Repr

/-- Read the counters in order, posting a fault record for a page that is not resident (DESIGN CHOICE, log 94). -/
def State.fenceRead (s : State) (ptroot : Nat) : List (Word × Word) → State × FenceRead
  | [] => (s, .passed)
  | (a, v) :: t =>
      match (if fld a.toNat 52 4 ≠ 0 then .trap 6 1 else s.walk 0 ptroot a.toNat .engRead).noPeer with
      | .trap c d => (s, .bad a c d)
      | .hole pa => (s, .hole pa)
      | .xfault =>
          let r := (s.postFault 0 0 0xFF 4 0 a).fenceRead ptroot t
          (r.1, match r.2 with | .bad a c d => .bad a c d | .hole pa => .hole pa | _ => .short a)
      | loc =>
          let reached : Bool := match loc.key with | some k => decide (v.toNat ≤ leNat (s.rd k 8)) | none => false
          let r := s.fenceRead ptroot t
          (r.1, match r.2 with
            | .bad a c d => .bad a c d | .hole pa => .hole pa
            | .short b => .short (if reached then b else a)
            | .passed => if reached then .passed else .short a)

/-- FENCE_POLL: the fence passes, waits, or fails at an unusable counter. -/
def execFencePoll (q : BitVec 6) (s : State) : Res :=
  match (if s.hbmUp then (s.sq q.toNat).fence else none) with
  | none => .next s
  | some f =>
      let r := s.fenceRead f.ptroot.toNat f.counters
      match r.2 with
      | .passed => .next (r.1.updSq q.toNat fun x => { x with fence := none })
      | .short _ => .next r.1
      | .bad a c d => .next (r.1.fenceError q.toNat f.cq c d a)
      | .hole pa => .fault (.noMemory pa)

/-- FENCE_TIMEOUT: TMO has passed and a counter is not reached. -/
def execFenceTimeout (q : BitVec 6) (s : State) : Res :=
  match (if s.hbmUp then (s.sq q.toNat).fence else none) with
  | none => .next s
  | some f =>
      if f.tmo = 0 ∨ s.dev.time - f.since < f.tmo then .next s
      else match (s.fenceRead f.ptroot.toNat f.counters).2 with
        | .short a => .next (s.fenceError q.toNat f.cq 15 1 a)
        | _ => .next s

/-! Expansion (R344, R447). -/

/-- Address of the i-th record, and its bytes. -/
def Launch.recAddr (l : Launch) (i : Nat) : Word := l.recbase + w64 (64 * i)
def Launch.recBytes (l : Launch) (i : Nat) (f : LeafRec) : List Byte :=
  let a := (l.recAddr i).toNat
  leBytes 64 (a / 64 % 2 ^ 48 + l.prio * 2 ^ 52 + f.tier * 2 ^ 55 + f.die * 2 ^ 58 +
    fld (l.entry f.tier f.ctx).toNat 0 52 * 2 ^ 64 + l.lpixOn f.die * 2 ^ 116 + f.idx * 2 ^ 144 + f.ctx % 16 * 2 ^ 152 +
    f.affk * 2 ^ 156 + i % l.soft * 2 ^ 160)

/-- The record to make next: one whose page is resident again, else the next of the order. -/
def State.nextRecord (s : State) (l : Launch) : Option Nat :=
  let waits (i : Nat) : Bool := s.host.granules.contains (l.serial, fld (l.recAddr i).toNat 16 36)
  match l.stalled.find? fun i => !waits i with
  | some i => some i
  | none => if l.expanded < l.records then some l.expanded else none

/-- Take a record off the expansion's work, or leave it for replay. -/
def Launch.made (l : Launch) (i : Nat) (stall : Bool) : Launch :=
  { l with
    expanded := if i = l.expanded then l.expanded + 1 else l.expanded
    stalled := if stall then (if l.stalled.contains i then l.stalled else l.stalled ++ [i]) else l.stalled.erase i }

/-- RECORD_EXPANSION: one record is written and posted, as its partition has room. -/
def execRecordExpansion (serial : Word) (s : State) : Res :=
  let l := s.launch serial
  if l.st ≠ .admitted then .next s
  else match s.nextRecord l with
    | none => .next s
    | some i =>
        match l.leaves[i / l.soft]? with
        | none => .next s
        | some f =>
            let p := s.part f.die f.tier
            if partSize f.tier ≤ p.entries.length + p.transit.length then .next s
            else
              let a := l.recAddr i
              let b := l.recBytes i f
              match s.devLoc l f.die a 64 .engWrite with
              | .xfault =>
                  .next ((s.postFault (f.die * 2 ^ 16) serial 0xFF 5 0 a).updLaunch serial fun l => l.made i true)
              | .hole pa => .fault (.noMemory pa)
              | .trap cls det => .next (s.fatal serial (poolReport cls det (unitDie l.lowDie) a))
              | loc =>
                  match loc.key with
                  | none => .next (s.fatal serial (poolReport 6 7 (unitDie l.lowDie) a))
                  | some k =>
                      let s := (s.hbmWrite k b []).updLaunch serial fun l => l.made i false
                      .next (s.post f.die f.tier
                        { addr := a, serial := serial, bytes := b, newLive := false, src := 2 ^ 90 + serial.toNat })

/-! Completion (R345, R447; 10 R216, R217). -/

/-- Does an engine still work for a launch? -/
def State.working (s : State) (serial : Word) : Bool :=
  (s.cores.any fun k => k.2.copies.any (·.serial == serial) || k.2.lens.ops.any (·.serial == serial) ||
    (k.2.ctxs.any fun x => x.2.st == .killed && x.2.serial == serial && !x.2.pend.isEmpty) ||
    k.2.vq.any (·.serial == serial) || k.2.mxu.queue.any (·.serial == serial) || k.2.mxu.writes.any (·.cmd.serial == serial) ||
    k.2.ports.any fun p => p.2.bound && p.2.out && p.2.serial == serial && (!p.2.queue.isEmpty || !p.2.back.isEmpty) &&
      !(mget Hart.reset k.2.harts (4 + p.1)).ended) ||
  (s.dies.any fun d => (d.2.htags.any fun h => match h.2.sched with | some c => c.serial == serial | none => false) ||
    d.2.parts.any fun p => p.2.transit.any (·.serial == serial)) ||
  s.rst.any (·.serial == serial)

/-- The report of a final entry (10 R217). `skipped`: the report of a skipped access (R447). -/
def Launch.finalReport (l : Launch) (skipped : Option Report) : Report :=
  match l.fatal, skipped, l.first, l.silent with
  | some r, _, _, _ => r
  | none, some r, _, _ => r
  | none, none, some r, _ => r
  | none, none, none, some r => r
  | none, none, none, none => { cls := 0, detail := 0, engine := 0, ctx := 0x1F, unit := 0, addr := 0 }

/-- Translation of DONECTR, or of a DONEREC record, before the final entry. -/
inductive DoneAt where
  | absent
  | at_ (k : Nat)
  | wait (a : Word)
  | skip (r : Report)
  | hole (pa : Nat)
deriving DecidableEq, Repr

def State.doneAt (s : State) (l : Launch) (a : Word) (n : Nat) (k : Acc1) : DoneAt :=
  if a = 0 then .absent
  else match s.devLoc l l.checkDie a n k with
    | .xfault => .wait a
    | .hole pa => .hole pa
    | .trap cls det => .skip (poolReport cls det (unitDie l.lowDie) a)
    | loc => match loc.key with | some k => .at_ k | none => .skip (poolReport 6 7 (unitDie l.lowDie) a)

/-- Does the parent of a child still run, or wait to? -/
def State.parentRuns (s : State) (l : Launch) : Bool :=
  match l.parent with
  | some p => (match (s.launch p).st with | .admitted => true | .saving => true | .saved => true | .restoring => true | _ => false)
  | none => false

/-- Clusters that a launch ran on. -/
def Launch.ranOn (l : Launch) : List Nat := (l.cores.map clusterOf).eraseDups

/-- The final entry of a launch is made, after its engine operations and with its cluster caches written back (DEDUCED, log 57). -/
def State.complete (s : State) (l : Launch) (c r : DoneAt) : State :=
  let skipped : List Report := [c, r].filterMap fun x => match x with | .skip q => some q | _ => none
  let key (x : DoneAt) : Option Nat := match x with | .at_ k => some k | _ => none
  let s := l.ranOn.foldl (fun s n => s.writeBackAll n) s
  let l := s.launch l.serial
  let s := s.pushCq { cq := l.cqn, rep := l.finalReport skipped.head?, serial := l.serial, cookie := l.cookie,
                      errcnt := l.errcnt + skipped.length, interim := false, degr := l.degr, rerun := l.rerun }
  s.updLaunch l.serial fun l => { l with st := .done, doneCtr := key c, doneRec := key r }

/-- LAUNCH_COMPLETION: the live count is 0, or the launch ends after a fatal error, with what the dies have held for it delivered. -/
def execLaunchCompletion (serial : Word) (s : State) : Res :=
  let s := if (s.launch serial).st = .ending then s.deliver serial else s
  let l := s.launch serial
  if !((l.st = .admitted ∧ l.live = 0) ∨ l.st = .ending) ∨ l.waitReplay ∨ s.working serial then .next s
  else
    let c := s.doneAt l l.donectr 8 .engWrite
    let r := if l.parent.isSome then s.doneAt l l.donerec 64 .amo else .absent
    let wait (a : Word) : Res :=
      .next ((s.postFault (l.checkDie * 2 ^ 16) serial 0xFF 5 0 a).updLaunch serial fun l => { l with waitReplay := true })
    match c, r with
    | .wait a, _ => wait a
    | _, .wait a => wait a
    | .hole pa, _ => .fault (.noMemory pa)
    | _, .hole pa => .fault (.noMemory pa)
    | _, _ => .next (s.complete l c r)

/-! Completion entries (10 R216; 22 R444). -/

/-- The 32 bytes of an entry. -/
def CqEntry.toBytes (e : CqEntry) (seq : BitVec 16) (phase : Bool) : List Byte :=
  leBytes 2 (b2n e.interim * 8 + b2n e.degr * 4 + b2n e.rerun * 2 + b2n phase) ++ leBytes 2 seq.toNat ++
    leBytes 4 (e.rep.unit % 2 ^ 27 + e.rep.ctx % 32 * 2 ^ 27) ++ leBytes 1 (e.rep.cls % 16 + e.rep.engine % 16 * 16) ++
    leBytes 1 e.rep.detail ++ leBytes 2 (min e.errcnt 0xFFFF) ++ leBytes 4 e.cookie.toNat ++ leBytes 8 e.serial.toNat ++
    leBytes 8 e.rep.addr.toNat

/-- A launch leaves a core: footprint, identity words, bindings of endpoints, classes and streams. -/
def State.leave (s : State) (c : CoreId) (serial : Word) : State :=
  let s := ((s.core c).eps.filter fun e => e.2.bound && e.2.serial == serial).foldl (fun s e => s.unbindEp c e.1) s
  let s := s.updCore c fun k => { k with
    residents := k.residents.erase serial, stopped := k.stopped.erase serial
    ident := merase k.ident serial.toNat
    msgSent := merase k.msgSent serial.toNat, msgRecv := merase k.msgRecv serial.toNat
    stopCyc := merase k.stopCyc serial.toNat
    classes := k.classes.map fun b => (b.1, if b.2.bound && b.2.serial == serial then ClassB.reset else b.2)
    harts := k.harts.map fun h =>
      (h.1, if (mget Port.reset k.ports (h.1 % 4)).serial == serial then { h.2 with ended := true, stalled := false } else h.2)
    ports := k.ports.map fun p => (p.1, if p.2.serial == serial then p.2.finish else p.2) }
  s.identStore c

/-- Free a launch's pool entries: its own to the budget it came from, or to the shared remainder; its unused reservation to the
shared remainder (R342). -/
def State.freePool (s : State) (l : Launch) : State :=
  let s := l.lpix.foldl (fun s p =>
    let s := s.updDie p.1 fun d => { d with pool := merase d.pool p.2, used := d.used - mget 0 l.budget p.1 }
    match (if l.fromBudget && s.parentRuns l then l.parent else none) with
    | some q => s.updLaunch q fun q => { q with budget := mset q.budget p.1 (mget 0 q.budget p.1 + 1) }
    | none => s.updDie p.1 fun d => { d with used := d.used - 1 }) s
  { s with launches := s.launches.filter fun x => x.serial != l.serial }

/-- DONECTR is incremented, and the DONEREC record updated as a RETIRE updates a successor (DEDUCED, log 57). -/
def State.doneUpdates (s : State) (l : Launch) : State :=
  let s := match l.doneCtr with
    | some k => s.hbmWrite k (leBytes 8 (leNat (s.rd k 8) + 1)) [s.pz (k / 8)]
    | none => s
  if l.donerec = 0 then s
  else match l.parent with
    | none => s
    | some p =>
        let s := match l.doneRec with
          | some k => s.succUpdate p 0x1F (unitDie l.die) l.donerec k (2 ^ 80 + l.serial.toNat)
          | none => s
        s.updLaunch p fun p => { p with live := p.live - 1 }

/-- What follows a launch's final entry (R345, 15 R330). -/
def State.finished (s : State) (l : Launch) : State :=
  match l.st with
  | .rejected => (s.dropPreemptor l.serial).freePool l
  | .done =>
      let s := l.cores.foldl (fun s c => s.leave c l.serial) s
      let s := { s with spills := s.spills.filter fun x => x.serial != l.serial }
      let s := s.doneUpdates l
      s.freePool l
  | _ => s

/-- COMPLETION_ENTRY_WRITE: the oldest waiting entry of a queue that is enabled and not full. -/
def execCompletionEntryWrite (cq : BitVec 6) (s : State) : Res :=
  let n := cq.toNat
  let q := s.cq n
  match q.waiting with
  | [] => .next s
  | e :: rest =>
      let size := slots q.log2n
      let prod := (q.prod + 1) % size
      if !q.en ∨ prod = q.cons then .next s
      else
        let s := s.wr (keyHost (q.base.toNat + 32 * q.prod)) (e.toBytes q.seq q.phase)
        let s := s.updCq n fun q =>
          { q with waiting := rest, prod := prod, seq := q.seq + 1, phase := if prod = 0 then !q.phase else q.phase }
        let s := s.msi n
        .next (if e.interim || e.serial == 0 then s else s.finished (s.launch e.serial))

/-! The time limit (R337; 10 R209). -/

/-- WATCHDOG_EXPIRY: TLIMIT has passed. -/
def execWatchdogExpiry (serial : Word) (s : State) : Res :=
  let l := s.launch serial
  if l.st ≠ .admitted ∨ l.tlimit = 0 ∨ l.used ≤ l.tlimit then .next s
  else .next (s.fatal serial (poolReport 15 0 (unitDie l.lowDie) 0))

/-- PAIR_SCRUB_COMPLETE (10 R226): a killed pair's contexts become FREE, once the stores that the comparator has passed are performed
(DEDUCED, log 26). -/
def execPairScrubComplete (t : ThreadId) (s : State) : Res :=
  let free (s : State) (u : ThreadId) : State :=
    if (s.ctx u).st = .killed ∧ (s.ctx u).pend.isEmpty then s.updCtx u Ctx.toFree else s
  .next (free (free s t) { t with ctx := if t.ctx < 8 then t.ctx + 8 else t.ctx - 8 })

end Sys2Proof.Machine
end

