-- ==== Sys2Proof/Machine/Device.lean ====
section
/-! DEFINITION. Events of the device: parity groups and the patrol scrub (08 R177 to R182), fault-record retry (R175), links
(20 R401, R421, R423), current grants and slews (22 R429, R431), temperature (R433 to R435), acknowledged invalidations (08 R176,
R448), migration copies (R187), boot and reset (22 R436, R439), quotes (R438) and recovery (R445). -/

namespace Sys2Proof.Machine

/-! The repair record and the service-request word (10 R228). -/

/-- Retired banks of a group: two or more make it BROKEN. -/
def State.someBroken (s : State) : Bool := s.dev.retired.any fun b => decide (2 ≤ s.groupRetired b)

/-- The service-request word. -/
def State.srqWord (s : State) : Word :=
  let d := s.dev
  let v := d.xlost.toNat * 2 ^ 48 + d.ilost.toNat * 2 ^ 36 + min d.retired.length 0xFFF * 2 ^ 24 + min d.pages.length 0xFFF * 2 ^ 12 +
    b2n s.someBroken * 2
  w64 (v + b2n (v ≠ 0))

/-- A bank, page or link is retired: running launches carry DEGR (10 R216), and the service request is raised (vector 64) (DEDUCED, log 69). -/
def State.degraded (s : State) : State :=
  ({ s with launches := s.launches.map fun (l : Launch) =>
      { l with degr := l.degr || (l.st != LaunchState.waiting && l.st != LaunchState.rejected && l.st != LaunchState.done) } }).msi 64

/-! Parity groups (08 R177 to R182). A bank is named by its key: unit × 32 + bank; a row of its group by its number. -/

/-- Data banks of a unit. -/
def unitBanks (u : Nat) : Nat := if u < 8192 ∧ (coreOf u).tier ≠ 3 then 16 else 32

/-- Does a bank key name a data bank? -/
def isBank (b : Nat) : Bool := decide (b / 32 < 8200 ∧ b % 32 < unitBanks (b / 32))

/-- Row key of a row of a bank's group. -/
def groupRow (bank row : Nat) : Nat := (bank / 32 * 8 + bank % 32 / 4) * 2 ^ 20 + row

/-- ROW_CLEAN: three bank cycles after the row's last write (R177). -/
def execRowClean (bank row : Nat) (s : State) : Res := .next { s with stale := s.stale.erase (groupRow bank row) }

/-- BANK_RETIREMENT: at a count of 4, or when the scrub has found a word in error again (R179). Pending parity updates of the group
are completed first. -/
def execBankRetirement (bank : Nat) (s : State) : Res :=
  let again := s.dev.scrubbed.any fun x => x.2 == 2 && bankKey x.1 == bank && isBanked x.1
  if !isBank bank || s.dev.retired.contains bank || !(decide (4 ≤ mget 0 s.dev.bankErrs bank) || again) then .next s
  else .next ({ s with
    stale := s.stale.filter fun r => r / 2 ^ 20 != groupRow bank 0 / 2 ^ 20
    dev := { s.dev with retired := s.dev.retired ++ [bank] } }).degraded

/-- PATROL_SCRUB: in a cycle that requests leave idle, the scrub reads a live bank's word once its row is CLEAN; a word in error,
correctable or not, is rewritten as a direct read's is (R182, R178), and found so again it lets its bank retire (R179) (DEDUCED, log 79). -/
def execPatrolScrub (word : Nat) (s : State) : Res :=
  if !isBanked word || s.stale.contains (rowKey word) || s.condition word = 0 || decide (4 ≤ s.condition word) ||
      s.dev.retired.contains (bankKey word) then .next s
  else
    let n := if mget 0 s.dev.scrubbed word = 0 then 1 else 2
    .next ({ s with dev := { s.dev with scrubbed := mset s.dev.scrubbed word n } }.directRead word).1

/-! Fault records and links. -/

/-- FAULT_RECORD_RETRY: the oldest held record is written once the queue has a free entry (08 R175). -/
def execFaultRecordRetry (s : State) : Res :=
  match s.host.fqheld with
  | [] => .next s
  | b :: t =>
      if (s.host.fqtail + 1) % 2 ^ s.host.fqlog = s.host.fqhead then .next s
      else .next ({ s with host := { s.host with fqheld := t } }.fqWrite b)

/-- FLIT_RETRANSMIT: the flit arrives at the second try, and nothing else changes (20 R401). -/
def execFlitRetransmit (_link : LinkId) (s : State) : Res := .next s

/-- Operations, signals and stores that go through Lemuf-X ports which a die no longer reaches, and signals to a die without a route: a
schedule stops with PEER 2; a store is refused (20 R421, R423). -/
def State.losePorts (s : State) : State :=
  let s := (List.range 8).foldl (fun s d => (s.scheds d).foldl (fun s x =>
    let s := (x.2.ops.filter fun o => o.kind != 3 && s.portLost d o.peer).foldl (fun s o => s.haloBreak d x.1 o 12 2) s
    if x.2.sig && x.2.endedAs.isNone && (s.portLost d x.2.sigTo || (decide (x.2.sigTo < 8) && !s.routed d x.2.sigTo)) then
      let gen := ((s.die d).htag x.1).gen
      let s := s.updDie x.2.sigTo fun e => { e with sigIn := e.sigIn.filter fun g => g.src != some (d, x.1, gen) }
      (s.updSched d x.1 fun c => { c with sig := false }).haloError d x.1 12 2 0
    else s) s) s
  (s.rst.filter fun r => r.answer.isNone && s.portLost r.thread.die (16 + r.port)).foldl (fun s r => s.ackRst r 2) s

/-- The transfers through ports under way over a Lemuf-I link that is lost wait for a route (20 R421). Whether the far end has started one
so that it is under way is a free value (DESIGN CHOICE, log 60). -/
def State.interruptPorts (s : State) (link : Nat) : State :=
  (List.range 8).foldl (fun s d => (s.scheds d).foldl (fun s x => x.2.ops.foldl (fun s o =>
    let p := (o.peer - 16) / 2
    let way := if o.kind = 0 then (d, p) else (p, d)
    if o.kind = 3 ∨ o.peer < 16 ∨ !((s.route way.1 way.2).any (crosses link way.1)) then s
    else
      let r := s.draw
      if r.1.toNat % 2 = 0 then r.2
      else r.2.updSched d x.1 fun c => { c with ops := c.ops.map fun q => if q.order = o.order then { q with rerouting := true } else q }) s) s) s

/-- The transfers under way over a Lemuf-I link that is lost wait for a route (20 R421): both ends of each matched send whose route crosses
it, and those through ports. -/
def State.interrupt (s : State) (link : Nat) : State :=
  let s := s.interruptPorts link
  (List.range 8).foldl (fun s d => (s.scheds d).foldl (fun s x => x.2.ops.foldl (fun s o =>
    match (if o.kind = 0 then s.mateOf d x.2.comm o else none) with
    | some (e, m, q) =>
        if (s.route d e).any (crosses link d) then
          let wait (d n order : Nat) (s : State) : State := s.updSched d n fun c =>
            { c with ops := c.ops.map fun p => if p.order = order then { p with rerouting := true } else p }
          wait e m q.order (wait d x.1 o.order s)
        else s
    | none => s) s) s) s

/-- LINK_LOST: the link is marked lost in the repair record (20 R401, R421). -/
def execLinkLost (link : LinkId) (s : State) : Res :=
  if link.external then
    if 16 ≤ link.n ∨ bit s.dev.xlost link.n then .next s
    else .next ({ s with dev := { s.dev with xlost := setBit s.dev.xlost link.n true } }.degraded).losePorts
  else if 12 ≤ link.n ∨ bit s.dev.ilost link.n then .next s
  else
    let s := s.interrupt link.n
    .next ({ s with dev := { s.dev with ilost := setBit s.dev.ilost link.n true } }.degraded).losePorts

/-! Current and power states (22 R427 to R432). -/

/-- Average and peak cap of a power state, in watts (R427). -/
def capsOf (ps : Nat) : Nat × Nat :=
  match ps with | 0 => (2600, 3400) | 1 => (2000, 2600) | 2 => (1400, 1800) | _ => (350, 400)

/-- CURRENT_GRANT: once neither estimate forbids it, the cluster of the package's oldest waiting request grants one: that of the launch of
the highest PRIO in the cluster, and of those the oldest (R431) (DESIGN CHOICE, log 18). -/
def execCurrentGrant (c : CoreId) (s : State) : Res :=
  match s.dev.deferred with
  | [] => .next s
  | x :: _ =>
      let near := s.dev.deferred.filter fun y => clusterOf y.1 == clusterOf x.1
      let prio (y : CoreId × Nat × Word) : Nat := (s.launch y.2.2).prio
      match near.find? fun y => near.all fun z => decide (prio z ≤ prio y) with
      | none => .next s
      | some y =>
          if y.1 ≠ c ∨ s.dev.defers y.2.1 then .next s
          else
            let s := s.charged y.2.1
            let l := s.dev.deferred.erase y
            .next ({ s with dev := { s.dev with
              deferred := l, grants := s.dev.grants ++ [y] } }.updCore c
              fun k => k.setResw y.2.1 false)

/-- Every core of the package. -/
def allCores : List CoreId := (List.range 8).flatMap dieCores

/-- SLEW_END: word 0xF6 on every core, the new caps, CUR and SLEW (R429). -/
def execSlewEnd (s : State) : Res :=
  if !s.dev.slew then .next s
  else
    let ps := s.dev.pstarget
    let s := allCores.foldl (fun s c =>
      let v := w64 (tierKHz c.tier ps)
      (s.updCore c fun k => { k with cw := mset k.cw 0xF6 v, cwBad := k.cwBad.erase 0xF6 }).windowWord c 0xF6 v false) s
    let caps := capsOf ps
    .next { s with dev := { s.dev with capavg := caps.1, cappeak := caps.2, pscur := ps, slew := false } }

/-! Temperature (22 R433 to R435). -/

/-- SENSOR_READING: hot from 95 °C, cool again below 90 °C. -/
def execSensorReading (die : BitVec 3) (tier : BitVec 2) (clus : BitVec 4) (celsius : BitVec 8) (s : State) : Res :=
  if coresOf tier.toNat ≤ 16 * clus.toNat then .next s
  else .next (s.updCluster ((die.toNat * 4 + tier.toNat) * 16 + clus.toNat) fun c =>
    { c with celsius := celsius, hot := decide (95 ≤ celsius.toNat) || (c.hot && decide (90 ≤ celsius.toNat)) })

/-- THERMAL_TRIP: a sensor reads 115 °C or more, and the controller removes package power. -/
def execThermalTrip (s : State) : Res :=
  if s.clusters.any fun c => decide (115 ≤ c.2.celsius.toNat) then .next { s with resume := [], dev := { s.dev with powered := false } }
  else .next s

/-- MOVED_RECORD_EXPIRY: the entries of an address leave the table 5 ms after their move (R434). -/
def execMovedRecordExpiry (die : BitVec 3) (addr : Word) (s : State) : Res :=
  .next (s.updDie die.toNat fun d => { d with moved := d.moved.filter fun x => x.1 != addr || movedStays x s.dev.time })

/-! Invalidation and migration (08 R176, R187, R448). -/

/-- Every access in flight that a translation has already served is performed. -/
def State.performAll (s : State) : State :=
  s.cores.foldl (fun s k => k.2.ctxs.foldl (fun s x =>
    if x.2.pend.isEmpty then s else s.drainIf ((coreOf k.1).thread x.1) fun p => p.key.isSome) s) s

/-- Write back and drop every cached line of the 64 KiB frames given. -/
def State.dropFrames (s : State) (frames : List Nat) : State :=
  s.clusters.foldl (fun s c => c.2.lines.foldl (fun s l =>
    if frames.contains (l.1 / 1024) then s.flushLine c.1 l.1 else s) s) s

/-- Does an invalidation name a virtual 64 KiB page? Sizes 64 KiB, 2 MiB, 1 GiB, and all. -/
def invNames (v : Word) (page : Nat) : Bool :=
  let p := bits v 51 16
  match bits v 3 2 with
  | 0 => page == p | 1 => page / 32 == p / 32 | 2 => page / 16384 == p / 16384 | _ => true

/-- Write back every cached line with dirty bytes that were stored through a page which an invalidation names. -/
def State.backPages (s : State) (v : Word) : State :=
  s.clusters.foldl (fun s c => c.2.lines.foldl (fun s l =>
    if l.2.writers.any fun w => invNames v w.page then s.writeBack c.1 l.1 else s) s) s

/-- Does an invalidation name the page of a virtual address of region 0x00? -/
def invHits (v va : Word) : Bool := va.toNat / 2 ^ 56 == 0 && invNames v (va.toNat / 65536 % 2 ^ 36)

/-- An access in flight that could not be performed, behind one that waits for its page, is translated again. -/
def Ctx.untranslate (c : Ctx) (v : Word) : Ctx :=
  { c with pend := c.pend.map fun p => if invHits v p.va then { p with key := none } else p }

/-- Has the vector unit of some core still to execute a command that a named translation has served? -/
def State.vuServed (s : State) (v : Word) : Bool := s.cores.any fun k => k.2.vq.any fun c => c.keys.any fun x => invHits v x.2.2

/-- The accesses in flight of a launch that fault, or fault again after a replay, post records (R175). -/
def State.refault (s : State) (serial : Word) : State :=
  let again (t : ThreadId) (s : State) (p : Pend) : State :=
    if p.len ≠ 0 ∧ s.pendLoc t p = .xfault then
      s.postFault (faultUnit t.core) serial t.ctx (if p.load then Acc1.load else .store).code (s.cycleOf t) p.va
    else s
  let s := (s.cores.flatMap fun k => k.2.ctxs.map fun x => ((coreOf k.1).thread x.1, x.2)).foldl (fun s x =>
    if x.2.serial = serial then x.2.pend.foldl (again x.1) s else s) s
  s.spills.foldl (fun s x => if x.serial = serial then x.ctx.pend.foldl (again x.thread) s else s) s

/-- TLB_INVALIDATION_ACK: the oldest pending invalidation, once the vector commands that named translations have served are executed.
Translations that were still in use are dropped, accesses they have served are performed, the cluster caches write back and drop the lines
of their frames and of frames in migration, and every instruction cache is empty (DEDUCED, log 68). -/
def execTlbInvalidationAck (s : State) : Res :=
  match s.host.tlbpend with
  | [] => .next s
  | v :: t =>
      if s.vuServed v then .next s
      else
      let gone := s.tlb.filter fun x => invNames v (x.page % 2 ^ 36)
      let frame (x : TlbEntry) : Nat := fld x.entry 16 36 + x.page % 2 ^ (x.size - 16)
      let s := s.performAll.backPages v
      let s := s.dropFrames (gone.map frame ++ s.migs.map fun m => m.2.src / 65536)
      let h := { s.host with tlbpend := t, tlbacks := s.host.tlbacks + 1 }
      let cores := s.cores.map fun (k : Nat × Core) => (k.1, { k.2 with
        icache := [], ctxs := k.2.ctxs.map fun (x : Nat × Ctx) => (x.1, x.2.untranslate v) })
      let spills := s.spills.map fun (x : Spill) => { x with ctx := x.ctx.untranslate v }
      let s := { s with tlb := s.tlb.filter fun x => !invNames v (x.page % 2 ^ 36), cores := cores, spills := spills, host := h }
      (s.launches.foldl (fun s l => s.refault l.serial) s).out

/-- MIGRATION_COPY_DONE: every line of the frame has been copied, poisoned lines poisoned; without a route to the new frame's stack the copy
waits (DEDUCED, log 67). -/
def execMigrationCopyDone (stack slot : BitVec 3) (s : State) : Res :=
  let k := stack.toNat * 8 + slot.toNat
  match mfind s.migs k with
  | none => .next s
  | some m =>
      if m.done || !s.hbmUp || !s.routed (m.src / 2 ^ 36) (m.dst / 2 ^ 36) then .next s
      else
        let s := s.wr m.dst (s.rd m.src 65536)
        let s := (List.range 8192).foldl (fun s i => s.setPz (m.dst / 8 + i) (s.pz (m.src / 8 + i))) s
        .next { s with migs := mset s.migs k { m with done := true } }

/-! Boot and reset (22 R436, R439, R440). -/

/-- The ROM's verdict on an image at a stage, 0 the security processor's firmware and 1 the device's: 0 for a pass, else RFAIL, with the first
reason that applies, of its form, its signature over its digest, and its version (R436, R439) (DESIGN CHOICE, log 63). -/
def imageVerdict (stage : Nat) (image : List Byte) : Nat :=
  if !Config.imageFormed image then 0x30 + stage
  else if !Config.imageSigned image (Config.shake256 image) then 0x10 + stage
  else if Config.imageVersion image < Config.fusedSvn then 0x20 + stage
  else 0

/-- The verdict on both boot images, in turn (R436). -/
def bootVerdict (firmware device : List Byte) : Nat :=
  if imageVerdict 0 firmware = 0 then imageVerdict 1 device else imageVerdict 0 firmware

/-- The machine after a reset of a cause and the boot that follows, with the digests of its two images. `fail` 0: both pass, and the device is
SECURE; otherwise it is RECOVERY, held at PS3, with RFAIL. The repair record survives, a pending token takes effect and is used up, DBGREQ
has a new nonce, and host memory is not the device's (DESIGN CHOICE, log 14). -/
def State.boot (s : State) (cause fail : Nat) (fw dv : BitVec 512) : State :=
  let d := s.dev
  let bcause := if !d.powered then 2 else if d.token.isSome then 3 else cause
  let caps := if fail = 0 then (2600, 3400) else (350, 400)
  { State.reset with
    sched := s.sched, freeCnt := s.freeCnt + 1, mem := s.mem.filter fun c => decide (2 ^ 62 ≤ c.1)
    host := { HostIf.reset with dbgnonce := Config.nonce s.freeCnt }
    dev := { Dev.reset with
      dbg := d.token.getD 0, bcause := bcause, sstate := if fail = 0 then 1 else 2, rfail := fail
      pscur := if fail = 0 then 0 else 3, capavg := caps.1, cappeak := caps.2, fwDigest := fw, devDigest := dv
      xlost := d.xlost, ilost := d.ilost, pages := d.pages, retired := d.retired, bankErrs := d.bankErrs } }

/-- POWER_ON_RESET, with the two images that the ROM finds: after the removal of power by a thermal trip the cause is the trip. -/
def execPowerOnReset (images : List Byte × List Byte) (s : State) : Res :=
  .next (s.boot 0 (bootVerdict images.1 images.2) (Config.shake256 images.1) (Config.shake256 images.2))

/-- HOST_RESET, with the two images that the ROM finds. -/
def execHostReset (images : List Byte × List Byte) (s : State) : Res :=
  .next (s.boot 1 (bootVerdict images.1 images.2) (Config.shake256 images.1) (Config.shake256 images.2))

/-! Quotes and recovery (22 R438, R439, R445). -/

/-- SECSTAT (R439). -/
def State.secstat (s : State) : Word :=
  let d := s.dev
  w64 (Config.fusedSvn.toNat * 2 ^ 40 + d.bcause * 2 ^ 32 + (if d.sstate = 2 then d.rfail % 256 else 0) * 256 + d.dbg * 4 + d.sstate)

/-- PSCTL (R428). -/
def State.psctl (s : State) : Word :=
  let d := s.dev
  w64 (b2n d.slew * 2 ^ 31 + d.pserr * 2 ^ 24 + d.pscur * 2 ^ 16 + d.psreq)

/-- IDENT (R443). -/
def identWord : Word := w64 (0x4B08 * 2 ^ 16 + Config.identForm.toNat * 2 ^ 8 + Config.identStepping.toNat)

/-- PWRSTAT (R432): DEFP and DEFA tell which cap defers one of the waiting requests now. -/
def State.pwrStat (s : State) : Word :=
  let d := s.dev
  let peak : Bool := d.deferred.any fun x => d.overPeak x.2.1
  let average : Bool := !d.deferred.isEmpty && d.overAverage
  w64 (d.p1 % 2 ^ 16 * 2 ^ 48 + d.p10 % 2 ^ 16 * 2 ^ 32 + min d.defer (2 ^ 28 - 1) * 2 ^ 4 + b2n peak * 2 + b2n average)

/-- Clusters of a tier of a die, by the number that the state lists them under. -/
def tierClusters (die tier : Nat) : List Nat := (List.range ((coresOf tier + 15) / 16)).map fun c => (die * 4 + tier) * 16 + c

/-- THERMSTAT (R433). -/
def State.thermStat (s : State) : Word :=
  let all := (List.range 32).flatMap fun n => tierClusters (n / 4) (n % 4)
  let hottest := all.foldl (fun m c => max m (s.cluster c).celsius.toNat) 0
  let allHot (n : Nat) : Bool := (tierClusters (n / 4) (n % 4)).all fun c => (s.cluster c).hot
  w64 (hottest * 2 ^ 56 + (List.range 32).foldl (fun v n => v + b2n (allHot n) * 2 ^ n) 0)

/-- The public part of the alias key of this boot (R437). -/
def State.aliasKey (s : State) : BitVec 456 := Config.aliasKey s.dev.fwDigest s.dev.devDigest s.dev.dbg

/-- SHAKE256 digest of the repair record (R438). -/
def State.repairDigest (s : State) : BitVec 512 :=
  let d := s.dev
  Config.shake256 (Config.repairBytes d.xlost d.ilost d.pages d.retired d.bankErrs)

/-- The bytes of a quote that its signature covers (R438). -/
def State.quoteBody (s : State) : List Byte :=
  leBytes 8 1 ++ leBytes 32 s.host.attnonce.toNat ++ leBytes 64 s.dev.fwDigest.toNat ++ leBytes 64 s.dev.devDigest.toNat ++
    leBytes 8 s.secstat.toNat ++ leBytes 8 s.psctl.toNat ++ leBytes 8 s.srqWord.toNat ++ leBytes 64 s.repairDigest.toNat ++
    leBytes 57 s.aliasKey.toNat ++ leBytes 7 0

/-- ATTESTATION_QUOTE: the quote is written to the host's buffer, then DONE (DESIGN CHOICE, log 12). -/
def execAttestationQuote (s : State) : Res :=
  if !s.host.attbusy then .next s
  else
    let b := s.quoteBody ++ leBytes 114 (Config.aliasSign s.aliasKey s.quoteBody).toNat
    let s := s.wr (keyHost s.host.attbuf.toNat) b
    .next { s with host := { s.host with attdone := true, attbusy := false } }

/-- The image of LEN bytes that the recovery window holds (R445). -/
def State.recoveryImage (s : State) : List Byte := (List.range s.host.reclen).map (mget 0 s.host.recimg)

/-- RECOVERY_VERIFY, of the device firmware or of the security processor's: a pass resets the device into SECURE, with the image in that one's
place; a failure leaves it in RECOVERY with its reason (DESIGN CHOICE, log 63). -/
def execRecoveryVerify (device : Bool) (s : State) : Res :=
  let image := s.recoveryImage
  let n := imageVerdict (b2n device) image
  if s.dev.sstate ≠ 2 ∨ s.host.rstat ≠ 1 then .next s
  else if n = 0 then
    .next (s.boot 4 0 (if device then s.dev.fwDigest else Config.shake256 image) (if device then Config.shake256 image else s.dev.devDigest))
  else .next { s with host := { s.host with rstat := 2 }, dev := { s.dev with rfail := n } }

end Sys2Proof.Machine
end

