-- ==== Sys2Proof/Machine/Sampler.lean ====
section
/-! DEFINITION. The sampler and the speculation unit of a Zenith core (18). -/

namespace Sys2Proof.Machine

/-- Neither group exists below T3 (R372). -/
def State.zenith (s : State) (f : Res) : Res := if s.cur.tier = 3 then f else .next (s.trap 9 5 0)

/-- The unit serves SAMP and SPEC instructions one at a time, in issue order; one that touches memory starts after its thread's earlier
accesses (R378, R394). Where the schedule lets replies come later, its own reads and writes take their time too. -/
def State.sampTurn (s : State) (i : Instr) (mem : Bool) (f : State → Res) : Res :=
  let t := s.cur
  let s := s.sampJoin
  let go (s : State) : Res := match f s with | .next s => .next (s.sampLeave t) | r => r
  if (s.core t.core).sampWait.head? ≠ some t.ctx then .next (s.park i .own)
  else if !mem then go s
  else s.replied i false fun s => s.afterOwn i (.reply false) go

/-- Write xd, go on, and pass the result to the trailer. -/
def State.sampDone (s : State) (d : Nat) (v : Word) (m : Bool) : Res :=
  .next ((s.updMe fun c => ((c.consume m).setX d v m).next 4).pairSync s.cur [d] [] [])

/-! The random generator (R373 to R375). -/

/-- One round on the four counter words and the four key words. -/
def rngRound (even : Bool) (k : List Nat) (c : List Nat) : List Nat :=
  let ka := if even then k.getD 0 0 else k.getD 2 0
  let kb := if even then k.getD 1 0 else k.getD 3 0
  let p0 := 0xD2B74407 * c.getD 0 0
  let p1 := 0xCA5A8263 * c.getD 2 0
  [Nat.xor (Nat.xor (p1 / 2 ^ 32) (c.getD 1 0)) ka, p1 % 2 ^ 32, Nat.xor (Nat.xor (p0 / 2 ^ 32) (c.getD 3 0)) kb, p0 % 2 ^ 32]

/-- The Weyl increment of the key words. -/
def rngKey (k : List Nat) : List Nat :=
  [(k.getD 0 0 + 0x9E3779B9) % 2 ^ 32, (k.getD 1 0 + 0x6A09E667) % 2 ^ 32, (k.getD 2 0 + 0x9E3779B9) % 2 ^ 32,
    (k.getD 3 0 + 0x6A09E667) % 2 ^ 32]

/-- Rounds that remain, from an even or odd one. -/
def rngRounds : Nat → Bool → List Nat → List Nat → List Nat
  | 0, _, _, c => c
  | n + 1, even, k, c => rngRounds n (!even) (rngKey k) (rngRound even k c)

/-- RNGGEN's two words, from the key and the two counter registers. -/
def rng (key : BitVec 128) (a b : Word) : Word × Word :=
  let k := [bits key 31 0, bits key 63 32, bits key 95 64, bits key 127 96]
  let c := rngRounds 10 true k [bits b 31 0, bits b 63 32, bits a 31 0, bits a 63 32]
  (w64 (c.getD 1 0 * 2 ^ 32 + c.getD 0 0), w64 (c.getD 3 0 * 2 ^ 32 + c.getD 2 0))

/-- RNGKEY writes the key at its issue, which decides who sees it (R373), and then waits for the unit as the others do (R394). -/
def execRngkey (a b : BitVec 5) (s : State) : Res :=
  let c := s.me
  let v : BitVec 128 := BitVec.ofNat 128 ((c.x b.toNat).toNat * 2 ^ 64 + (c.x a.toNat).toNat)
  let waited : Bool := c.held.any fun h => h.cause == .own
  s.zenith <| (if waited then s else s.updCore s.cur.core fun k => { k with rkey := v }).sampTurn (.rngkey a b) false fun s =>
    .next ((s.updMe fun c => (c.consume (c.xp a.toNat || c.xp b.toNat)).next 4).pairSync s.cur [] [] [])

/-- RKEY as it was in the instruction's issue cycle (R373). -/
def State.issueKey (s : State) : BitVec 128 := BitVec.ofNat 128 ((s.snap.getD 1 0).toNat * 2 ^ 64 + (s.snap.getD 0 0).toNat)

/-- RNGGEN writes x[2d] and x[2d + 1]: the field holds the even register's number halved. -/
def execRnggen (d : BitVec 4) (a b : BitVec 5) (s : State) : Res :=
  s.zenith <| s.sampTurn (.rnggen d a b) false fun s =>
    let c := s.me
    let r := rng s.issueKey (c.x a.toNat) (c.x b.toNat)
    let m := c.xp a.toNat || c.xp b.toNat
    .next ((s.updMe fun c => (((c.consume m).setX (2 * d.toNat) r.1 m).setX (2 * d.toNat + 1) r.2 m).next 4).pairSync s.cur
      [2 * d.toNat, 2 * d.toNat + 1] [] [])

/-! Candidate lists (R376 to R379). -/

def listN (v : Word) : Nat := bits v 47 32
def listOff (v : Word) : Nat := bits v 20 0
def withN (v : Word) (n : Nat) : Word := w64 (setFld v.toNat 32 16 n)
/-- Bytes of a list's blocks. -/
def listBytes (v : Word) : Nat := 512 * ((listN v + 63) / 64)
/-- Check 1 on a descriptor. -/
def listBad (v : Word) : Bool := bits v 63 48 != 0 || bits v 31 21 != 0 || decide (4096 < listN v)
def lsAt (o : Nat) : Word := w64 (0x7F * 2 ^ 56 + o)

/-- Checks 2 and 3 on a list: class, detail and address of the first failure. -/
def State.listCheck (s : State) (v : Word) (dst : Bool) : Option (Nat × Nat × Word) :=
  let l := s.launchOf s.cur
  let o := listOff v
  if listN v = 0 then none
  else if o % 512 ≠ 0 then some (8, 1, lsAt o)
  else if dst ∧ o < 0x800 then some (6, 3, lsAt o)
  else if o + listBytes v ≤ 0x800 ∨ (l.base s.cur.core ≤ o ∧ o + listBytes v ≤ l.base s.cur.core + l.lssize) then none
  else some (6, 2, lsAt o)

/-- Checks of all lists, ALIGN of each before PERM of each. -/
def firstOf (l : List (Option (Nat × Nat × Word))) : Option (Nat × Nat × Word) :=
  match l.findSome? fun x => (match x with | some (8, d, a) => some (8, d, a) | _ => none) with
  | some x => some x
  | none => l.findSome? id

/-- Offset of entry `e`'s key; its index lies 256 bytes above. -/
def keyOff (v : Word) (e : Nat) : Nat := listOff v + 512 * (e / 64) + 4 * (e % 64)

/-- Read a word of the own store at an offset: the state, its value and its mark. A word's poison sets CIR bit 0 and PADDR; a
reconstruction fault reports PARITY with ENGINE 0 (R385) (DEDUCED, log 39). -/
def State.sampWord (s : State) (o : Nat) : State × Nat × Bool :=
  let me := s.me
  let g := s.engRead (byThread 0 s.cur me.serial me.run) (keyLs s.cur.core o) 8 (lsAt o)
  (g.st.updMe fun c => c.consumeAt g.poison (lsAt o), leNat g.data, g.poison)

/-- Read words at offsets, each once, in order, but for those that the unit has read already: the state, and offset, value and mark of each
word (DEDUCED, log 39). -/
def State.sampWords (s : State) : List Nat → State × List (Nat × Nat × Bool)
  | [] => (s, [])
  | o :: t =>
      let g := match (s.core s.cur.core).sampGot.find? fun w => w.1 == o with | some w => (s, w.2) | none => s.sampWord o
      let r := g.1.sampWords t
      (r.1, (o, g.2) :: r.2)

/-- The 32-bit half at an offset of words read. -/
def halfAt (ws : List (Nat × Nat × Bool)) (o : Nat) : BitVec 32 × Bool :=
  match ws.find? fun w => w.1 == o / 8 * 8 with
  | some w => (BitVec.ofNat 32 (w.2.1 / 2 ^ (8 * (o % 8))), w.2.2)
  | none => (0, false)

/-- Offsets of the words that hold the keys (`off = 0`) or indices (`off = 256`) of a list's entries. -/
def listWords (v : Word) (off : Nat) : List Nat :=
  (List.range ((listN v + 1) / 2)).map fun i => keyOff v (2 * i) + off

/-- Weights and running sums of a list's keys: `none` when no key is a number. -/
def weights (keys : List (BitVec 32)) : Option (List (BitVec 32 × BitVec 32)) :=
  let nums := keys.filter fun k => !(f32 k).isNan
  match nums with
  | [] => none
  | k :: t =>
      let m := t.foldl (fun m k => if (f32 m).lt (f32 k) then k else m) k
      let w (k : BitVec 32) : BitVec 32 :=
        if (f32 k).isNan then 0 else if (f32 k).eq (f32 m) then 0x3F800000 else r32 (f32 (fsub32 k m)).exp2
      some (keys.foldl (fun (acc : List (BitVec 32 × BitVec 32) × BitVec 32) k =>
        let x := w k
        let sum := fadd32 acc.2 x
        (acc.1 ++ [(x, sum)], sum)) ([], 0)).1

/-- Entries of the list by number with a property of weight and sum. -/
def firstEntry (l : List (BitVec 32 × BitVec 32)) (p : BitVec 32 × BitVec 32 → Bool) : Option Nat :=
  (List.range l.length).find? fun e => p (l.getD e (0, 0))

/-- STOPK (R382). -/
def execStopk (d a b : BitVec 5) (s : State) : Res :=
  s.zenith <|
    let c := s.me
    let v := c.x a.toNat
    let k := (c.x b.toNat).toNat
    if listBad v || decide (k = 0) || decide (4096 < k) then .next (s.trap 9 7 0)
    else s.sampTurn (.stopk d a b) false fun s => s.sampDone d.toNat (withN v (min (listN v) k)) (c.xp a.toNat || c.xp b.toNat)

/-- STOPP (R383). -/
def execStopp (d a b : BitVec 5) (s : State) : Res :=
  s.zenith <|
    let c := s.me
    let v := c.x a.toNat
    let p := (c.x b.toNat).toNat
    let m := c.xp a.toNat || c.xp b.toNat
    if listBad v || decide (p = 0) || decide (0x3F800000 < p) then .next (s.trap 9 7 0)
    else match s.listCheck v false with
      | some (cls, det, ad) => .next (s.trap cls det ad)
      | none =>
          s.sampTurn (.stopp d a b) true fun s =>
            let r := s.sampWords (listWords v 0)
            let keys := (List.range (listN v)).map fun e => (halfAt r.2 (keyOff v e)).1
            let mk := m || r.2.any (·.2.2)
            match weights keys with
            | none => r.1.sampDone d.toNat (withN v 0) mk
            | some ws =>
                let t := (ws.getLastD (0, 0)).2
                let h := fmul32 (BitVec.ofNat 32 p) t
                let n := match firstEntry ws fun x => !(f32 x.2).lt (f32 h) with | some e => e + 1 | none => listN v
                r.1.sampDone d.toNat (withN v n) mk

/-- SDRAW (R384). -/
def execSdraw (d a b : BitVec 5) (s : State) : Res :=
  s.zenith <|
    let c := s.me
    let v := c.x a.toNat
    let q := c.x b.toNat
    let m := c.xp a.toNat || c.xp b.toNat
    if listBad v then .next (s.trap 9 7 0)
    else match s.listCheck v false with
      | some (cls, det, ad) => .next (s.trap cls det ad)
      | none =>
          s.sampTurn (.sdraw d a b) true fun s =>
            let r := s.sampWords (listWords v 0)
            let keys := (List.range (listN v)).map fun e => (halfAt r.2 (keyOff v e)).1
            let mk := m || r.2.any (·.2.2)
            match weights keys with
            | none => r.1.sampDone d.toNat (BitVec.allOnes 64) mk
            | some ws =>
                let g := (rng s.issueKey q 0).1
                let u : Val := .fin false (bits g 63 40) (-24)
                let t := r32 (u.mul (f32 (ws.getLastD (0, 0)).2))
                let last := ((List.range ws.length).filter fun e => (f32 0).lt (f32 (ws.getD e (0, 0)).1)).getLastD 0
                let j := (firstEntry ws fun x => (f32 t).lt (f32 x.2)).getD last
                let o := (keyOff v j + 256) / 8 * 8
                let i := r.1.sampWords [o]
                let x := halfAt i.2 (keyOff v j + 256)
                (i.1.updMe fun c => c.consumeAt x.2 (lsAt o)).sampDone d.toNat (w64 (j * 2 ^ 32 + x.1.toNat)) (mk || x.2)

/-- Write 32-bit halves of the own store as plain stores, a whole word where both its halves are written. A marked word sets
CIR bits 0 and 2 (DEDUCED, log 39). -/
def State.sampStore (s : State) : List (Nat × List (BitVec 32) × Bool) → State
  | [] => s
  | (o, vs, m) :: t =>
      let s := s.bankStore s.me.serial (keyLs s.cur.core o) (vs.flatMap fun v => leBytes 4 v.toNat) m (lsAt o)
      (s.updMe fun c => if m then c.cirSet 5 else c).sampStore t

/-- STEMP (R381). -/
def execStemp (a b : BitVec 5) (s : State) : Res :=
  s.zenith <|
    let c := s.me
    let v := c.x a.toNat
    let q := (c.x b.toNat).toNat
    let m := c.xp a.toNat || c.xp b.toNat
    if listBad v || decide (q < 0x00800000) || decide (0x7F7FFFFF < q) then .next (s.trap 9 7 0)
    else match s.listCheck v true with
      | some (cls, det, ad) => .next (s.trap cls det ad)
      | none =>
          s.sampTurn (.stemp a b) true fun s =>
            let r := s.sampWords (listWords v 0)
            let n := listN v
            let out := (List.range ((n + 1) / 2)).map fun i =>
              let o := keyOff v (2 * i)
              let f (e : Nat) : BitVec 32 := fmul32 (halfAt r.2 (keyOff v e)).1 (BitVec.ofNat 32 q)
              (o, (if 2 * i + 1 < n then [f (2 * i), f (2 * i + 1)] else [f (2 * i)]), m || (halfAt r.2 o).2)
            let s := (r.1.updMe fun c => c.consume m).sampStore out
            .next ((s.updMe fun c => c.next 4).pairSync s.cur [] [] [])

/-- An entry of a list: key, index, entry number, marks of its two words. -/
structure Cand where
  key : BitVec 32
  ix : BitVec 32
  e : Nat
  km : Bool
  im : Bool
deriving DecidableEq, Repr

/-- A key's place in the order of numbers, −0 below +0. -/
def keyRank (k : BitVec 32) : Int := if bit k 31 then -1 - (bits k 30 0 : Int) else bits k 30 0

/-- Does a candidate come before another: key descending, index ascending, entry ascending? -/
def Cand.before (a b : Cand) : Bool :=
  if keyRank a.key != keyRank b.key then decide (keyRank b.key < keyRank a.key)
  else if a.ix != b.ix then decide (a.ix.toNat < b.ix.toNat) else decide (a.e < b.e)

/-- Insert a candidate into an ordered list. -/
def candInsert (x : Cand) : List Cand → List Cand
  | [] => [x]
  | y :: t => if x.before y then x :: y :: t else y :: candInsert x t

/-- SMERGE (R380). -/
def execSmerge (d a b : BitVec 5) (s : State) : Res :=
  s.zenith <|
    let c := s.me
    let v := c.x a.toNat
    let w := c.x b.toNat
    let m := c.xp a.toNat || c.xp b.toNat
    if listBad v || listBad w || decide (1024 < listN w) then .next (s.trap 9 7 0)
    else match firstOf [s.listCheck v false, s.listCheck w true] with
      | some (cls, det, ad) => .next (s.trap cls det ad)
      | none =>
          if listN v ≠ 0 ∧ listN w ≠ 0 ∧ listOff v < listOff w + listBytes w ∧ listOff w < listOff v + listBytes v then
            .next (s.trap 9 7 0)
          else
            s.sampTurn (.smerge d a b) true fun s =>
              let r := s.sampWords (listWords v 0 ++ listWords v 256)
              let all := (List.range (listN v)).map fun e =>
                let k := halfAt r.2 (keyOff v e)
                let i := halfAt r.2 (keyOff v e + 256)
                ({ key := k.1, ix := i.1, e := e, km := k.2, im := i.2 } : Cand)
              let es := (all.filter fun x => !(f32 x.key).isNan).foldl (fun l x => candInsert x l) []
              let n := min (listN w) es.length
              let pad : Cand := { key := 0xFF800000, ix := 0xFFFFFFFF, e := 0, km := false, im := false }
              let lane (e : Nat) : Cand := if e < n then es.getD e pad else pad
              let out := (List.range ((n + 63) / 64 * 32)).flatMap fun i =>
                let x := lane (2 * i)
                let y := lane (2 * i + 1)
                [(keyOff w (2 * i), [x.key, y.key], m || x.km || y.km), (keyOff w (2 * i) + 256, [x.ix, y.ix], m || x.im || y.im)]
              (r.1.sampStore out).sampDone d.toNat (withN w n) m

/-- The words of its lists that a SAMP instruction of a context reads (R380 to R384). -/
def Instr.sampReads (i : Instr) (c : Ctx) : List Nat :=
  match i with
  | .stopp _ a _ => listWords (c.x a.toNat) 0
  | .sdraw _ a _ => listWords (c.x a.toNat) 0
  | .stemp a _ => listWords (c.x a.toNat) 0
  | .smerge _ a _ => listWords (c.x a.toNat) 0 ++ listWords (c.x a.toNat) 256
  | _ => []

/-- The words that hold the indices of an SDRAW's list: which of them counts is known once the keys are read. -/
def Instr.sampIndex (i : Instr) (c : Ctx) : List Nat :=
  match i with
  | .sdraw _ a _ => listWords (c.x a.toNat) 256
  | _ => []

/-- The value that a word has now, for an SDRAW whose index it may turn out to hold: what its read does happens when the index is taken. -/
def State.sampPeek (s : State) (co : CoreId) (o : Nat) : Option (Nat × Bool) :=
  let w := keyLs co o / 8
  if (s.bankRead w).2 then none else some (leNat (s.rd (8 * w) 8), s.pz w)

/-- The unit reads one word for the instruction it serves, while the thread waits for it: another thread's writes may fall between two
words (R378). -/
def State.sampReadTurn (s : State) (co : CoreId) (o : Nat) : State :=
  match (s.core co).sampWait with
  | [] => s
  | n :: _ =>
      let t := co.thread n
      let c := s.ctx t
      match c.held with
      | some h =>
          let take (s : State) (v : Nat × Bool) : State := s.updCore co fun k => { k with sampGot := k.sampGot ++ [(o, v)] }
          if h.cause != .reply false || c.faulting.isSome || (s.core co).sampGot.any fun w => w.1 == o then s
          else if (Instr.sampReads h.instr c).contains o then
            let r := { s with cur := t }.sampWord o
            take r.1 r.2
          else if (Instr.sampIndex h.instr c).contains o then
            match s.sampPeek co o with | some v => take s v | none => s
          else s
      | none => s

/-! The speculation unit (R386 to R392). -/

/-- Fields of a sequence state block, read as a 512-bit number. -/
def ssbDcount (v : Nat) : Nat := fld v 32 4
def ssbOpen (v : Nat) : Bool := fld v 38 1 == 1
def ssbVer (v : Nat) : Bool := fld v 39 1 == 1
def ssbKvlen (v : Nat) : Nat := fld v 64 32
def ssbMaxlen (v : Nat) : Nat := fld v 96 32
def ssbVacc (v : Nat) : Nat := fld v 224 4
def ssbVcorr (v : Nat) : Nat := fld v 192 32
def ssbDraft (v i : Nat) : Nat := fld v (256 + 32 * i) 32

/-- Is a block malformed (BADSTATE before the entry's own condition)? -/
def ssbBad (v : Nat) : Bool :=
  fld v 228 28 != 0 || fld v 40 24 != 0 || fld v 36 2 != 0 || decide (8 < ssbDcount v) || decide (ssbDcount v < ssbVacc v)

/-- Clear the window: OPEN and VER as given, DCOUNT, VACC and VCORR zero. -/
def ssbClear (v : Nat) (opn : Bool) : Nat :=
  setFld (setFld (setFld (setFld (setFld v 38 1 (b2n opn)) 39 1 0) 32 4 0) 224 4 0) 192 32 0

/-- What a step answers: a failure code, or the new block and the result. -/
inductive Spec where
  | fail (code : Nat)
  | done (v : Nat) (x : Word)

/-- The checks of an address of a SPEC instruction. -/
def State.specAddr (s : State) (a : Word) (write : Bool) : Except (Nat × Nat) Nat :=
  if a.toNat % 64 ≠ 0 then .error (8, 1)
  else s.lsLoc s.me.serial s.cur.core a 64 (if write then .store else .load)

/-- Read a 64-byte block: state, value, poison. -/
def State.specRead (s : State) (key : Nat) : State × Nat × Bool :=
  let r := s.sampWords ((List.range 8).map fun i => key % 2 ^ 21 + 8 * i)
  (r.1, r.2.foldr (fun w v => w.2.1 + 2 ^ 64 * v) 0, r.2.any (·.2.2))

/-- A SPEC instruction on the block at x[a]. `mark`: an operand is marked. `f` gets the block and the target block (DEDUCED, log 39). -/
def State.spec (s : State) (i : Instr) (d a : BitVec 5) (tgt : Option Word) (mark : Bool) (f : Nat → Nat → Spec) : Res :=
  let ad := s.me.x a.toNat
  match s.specAddr ad true, (match tgt with | some t => s.specAddr t false | none => .ok 0) with
  | .error e, _ => .next (s.trap e.1 e.2 ad)
  | _, .error e => .next (s.trap e.1 e.2 (tgt.getD 0))
  | .ok key, .ok tkey =>
      s.sampTurn i true fun s =>
        let g := if tgt.isSome then s.specRead tkey else (s, 0, false)
        let b := g.1.specRead key
        let s := b.1
        let code (n : Nat) : Word := w64 (2 ^ 64 - 16 + n)
        if g.2.2 || b.2.2 || mark then s.sampDone d.toNat (code 4) true
        else if ssbBad b.2.1 then s.sampDone d.toNat (code 1) false
        else match f b.2.1 g.2.1 with
          | .fail n => s.sampDone d.toNat (code n) false
          | .done v x =>
              let s := s.sampStore ((List.range 8).map fun i =>
                (key % 2 ^ 21 + 8 * i, [BitVec.ofNat 32 (v / 2 ^ (64 * i)), BitVec.ofNat 32 (v / 2 ^ (64 * i + 32))], false))
              s.sampDone d.toNat x false

def execSpecOpen (d a b : BitVec 5) (s : State) : Res :=
  s.zenith <|
    let c := s.me
    let q := c.x b.toNat
    if bits q 63 32 ≠ 0 then .next (s.trap 9 7 0)
    else s.spec (.specOpen d a b) d a none (c.xp a.toNat || c.xp b.toNat) fun v _ =>
      if ssbOpen v then .fail 1
      else if fld v 0 32 ≠ bits q 31 0 then .fail 3
      else if ssbMaxlen v ≤ ssbKvlen v then .fail 2
      else .done (ssbClear v true) (w64 (ssbKvlen v))

def execSpecAppend (d a b : BitVec 5) (s : State) : Res :=
  s.zenith <|
    let c := s.me
    let q := c.x b.toNat
    if bits q 63 32 ≠ 0 then .next (s.trap 9 7 0)
    else s.spec (.specAppend d a b) d a none (c.xp a.toNat || c.xp b.toNat) fun v _ =>
      let n := ssbDcount v
      if !ssbOpen v || ssbVer v then .fail 1
      else if n = 8 ∨ ssbMaxlen v ≤ ssbKvlen v + n + 1 then .fail 2
      else .done (setFld (setFld v (256 + 32 * n) 32 q.toNat) 32 4 (n + 1)) (w64 (ssbKvlen v + n))

/-- Leading drafts that equal the targets. -/
def accepted (v t : Nat) : Nat → Nat → Nat
  | 0, _ => 0
  | n + 1, i => if ssbDraft v i = fld t (32 * i) 32 then accepted v t n (i + 1) + 1 else 0

def execSpecVerify (d a b : BitVec 5) (s : State) : Res :=
  s.zenith <|
    let c := s.me
    s.spec (.specVerify d a b) d a (some (c.x b.toNat)) (c.xp a.toNat || c.xp b.toNat) fun v t =>
      if !ssbOpen v || ssbVer v then .fail 1
      else
        let n := ssbDcount v
        let k := accepted v t n 0
        let tok := fld t (32 * k) 32
        .done (setFld (setFld (setFld v 224 4 k) 192 32 tok) 39 1 1) (w64 (n * 2 ^ 40 + k * 2 ^ 32 + tok))

def execSpecCommit (d a : BitVec 5) (s : State) : Res :=
  s.zenith <|
    s.spec (.specCommit d a) d a none (s.me.xp a.toNat) fun v _ =>
      if !ssbOpen v || !ssbVer v then .fail 1
      else
        let k := (ssbKvlen v + ssbVacc v + 1) % 2 ^ 32
        let v' := setFld (setFld (setFld v 64 32 k) 128 32 (ssbVcorr v)) 160 32 (fld v 160 32 + 1)
        .done (ssbClear v' false) (w64 ((ssbDcount v - ssbVacc v - 1) * 2 ^ 32 + k))

def execSpecAbort (d a : BitVec 5) (s : State) : Res :=
  s.zenith <|
    s.spec (.specAbort d a) d a none (s.me.xp a.toNat) fun v _ =>
      if ssbOpen v then .done (ssbClear v false) (w64 (ssbDcount v)) else .done v 0

end Sys2Proof.Machine
end

