-- ==== Sys2Proof/Machine/Save.lean ====
section
/-! DEFINITION. Pre-emption, the context save area and restore (10 R210 to R215; 11 R254; 12 R275; 13 R303; 16 R357, R358;
17 R368 to R370). -/

namespace Sys2Proof.Machine

/-! The structures of a save block (R211, R213, R275, R303). -/

/-- Zero bytes. -/
def zeros (n : Nat) : List Byte := List.replicate n 0

/-- Bytes padded with zeros to `n`. -/
def padTo (n : Nat) (b : List Byte) : List Byte := b ++ zeros (n - b.length)

/-- The next multiple of 256. -/
def up256 (n : Nat) : Nat := (n + 255) / 256 * 256

/-- The core control block. -/
def State.controlBlock (s : State) (l : Launch) (c : CoreId) : List Byte :=
  let k := s.core c
  let mine (i : Nat) : Bool := (k.ctx i).st != .free && (k.ctx i).serial == l.serial
  let nibs (f : Nat → Nat) : Nat := (List.range 16).foldl (fun v i => v + f i % 16 * 16 ^ i) 0
  padTo 256 (leBytes 8 (k.tagDone (s.cyc c + 1)).toNat ++
    leBytes 8 ((List.range 16).foldl (fun v i => setBit v i (k.hasMsg i)) (0 : BitVec 64)).toNat ++
    (List.range 64).flatMap (fun n => leBytes 2 (k.tag n).gen.toNat) ++
    leBytes 8 k.gscycle.toNat ++ leBytes 8 k.gssent.toNat ++ leBytes 8 k.gsrecv.toNat ++
    leBytes 8 (nibs fun i => if mine i then (k.ctx i).rstores else 0) ++ leBytes 8 k.dbgctl.toNat ++
    leBytes 8 (nibs fun i => if mine i then s.vwin (c.thread i) else 15) ++
    (if c.tier = 3 then leBytes 16 k.rkey.toNat else []))

/-- Endpoint-table entries that hold a core-local channel's words, in table order: their places are the local buffers. -/
def Core.localEnds (k : Core) : List Nat := (List.range 32).filter fun n => let e := k.ep n; e.bound && e.met && !e.rem && e.rx

/-- Local buffer of an entry. -/
def Core.bufOf (k : Core) (n : Nat) : Option Nat :=
  let e := k.ep n
  let r := if e.rx then some n else e.peer.map (·.2)
  if e.bound && e.met && !e.rem then r.bind fun m => k.localEnds.findIdx? (· == m) else none

/-- Words in flight that an entry's channel holds on the core. -/
def Core.wordsAt (k : Core) (n : Nat) : List (Word × Bool) :=
  let e := k.ep n
  if e.rem then [] else if e.rx then e.words else match e.peer with | some (_, m) => (k.ep m).words | none => []

/-- The channel state. -/
def Core.channelState (k : Core) : List Byte :=
  let counter (n : Nat) : List Byte :=
    let e := k.ep n
    let ws := k.wordsAt n
    if !e.bound then zeros 16
    else leBytes 2 (if e.met && !e.rem && !e.rx then 4 - ws.length else e.free) ++ leBytes 2 e.sent.toNat ++ leBytes 2 e.consumed.toNat ++
      leBytes 2 e.received.toNat ++ leBytes 2 e.rpos ++ leBytes 2 e.wpos ++ leBytes 1 ((k.bufOf n).getD 0xFF) ++
      leBytes 1 (b2n e.bound + 2 * b2n e.met + 4 * b2n e.resync + 8 * b2n (e.broken != 0)) ++
      leBytes 2 (ws.length + (ws.zipIdx).foldl (fun v w => v + b2n w.1.2 * 2 ^ (4 + w.2)) 0)
  padTo 1536 ((List.range 32).flatMap (fun n => leBytes 8 (if (k.ep n).bound then (k.ep n).desc.toNat else 0)) ++
    (List.range 16).flatMap (fun n => leBytes 8 (if (k.cls n).bound then (k.cls n).binding.toNat else 0)) ++
    (List.range 32).flatMap counter ++
    (List.range 16).flatMap (fun n => let b := k.cls n; leBytes 2 b.rpos ++ leBytes 2 b.wpos ++ leBytes 2 b.msgs ++ zeros 2) ++
    (List.range 16).flatMap fun n => match k.localEnds[n]? with
      | some m => padTo 32 ((k.ep m).words.flatMap fun w => leBytes 8 w.1.toNat)
      | none => zeros 32)

/-- Is the head of the queue an MROT? -/
def Mxu.headRot (m : Mxu) : Bool := (m.queue.take 1).any MxCmd.isRot

/-- The MXU part: accumulators, queue, configuration. -/
def Mxu.toBytes (m : Mxu) : List Byte :=
  let src (b : MxBuf) : Nat := if b.valid then b.src + b.len * 2 ^ 32 + 2 ^ 63 else 0
  (List.range 4).flatMap (fun n => (m.acc n).bits.flatMap fun v => leBytes 4 v.toNat) ++
    padTo 1024 (m.queue.flatMap fun q => padTo 64 q.bytes) ++
    leBytes 8 m.cfg.toNat ++ leBytes 8 (src m.abuf) ++ leBytes 8 (src m.scale) ++
    leBytes 8 (if m.latch.valid then m.latch.src + m.latch.k * 2 ^ 32 + m.latch.fb * 2 ^ 48 + 2 ^ 63 else 0) ++
    leBytes 8 (m.rot % 2 ^ 32 + b2n (m.sent && m.headRot) * 2 ^ 63) ++
    leBytes 8 ((List.range 4).foldl (fun v n => v + (m.acc n).tag.toNat * 2 ^ (8 * n) + b2n (m.acc n).poison * 2 ^ (32 + n)) 0) ++
    leBytes 8 (m.stat.toNat / 2 ^ 20 * 2 ^ 20) ++ padTo 64 (m.queue.flatMap fun q => leBytes 4 q.snap.toNat) ++ zeros 8

/-- Stream-binding entry of a register. -/
def Core.bindEntry (k : Core) (w : Window) (r : Nat) : Nat :=
  match mfind w.binds r with
  | none => 0
  | some p =>
      let x := k.port p
      let a := x.scbAddr.toNat
      fld a 6 46 * 64 + b2n (a / 2 ^ 56 == 0x7F) * 2 ^ 52 + p * 2 ^ 54 + b2n x.out * 2 ^ 56 + 2 ^ 57

/-- A window. -/
def Core.windowBytes (k : Core) (n : Nat) : List Byte :=
  let w := k.win n
  (List.range 16).flatMap (fun v => (w.v v).lanes.flatMap fun x => leBytes 4 x.toNat) ++
    (List.range 16).flatMap (fun v => leBytes 1 (w.v v).tag.toNat) ++ (List.range 8).flatMap (fun m => leBytes 8 (w.m m).toNat) ++
    (List.range 16).flatMap (fun v => leBytes 8 (w.v v).marks.toNat) ++
    (List.range 4).flatMap (fun i => leBytes 8 (k.bindEntry w (12 + i))) ++ zeros 16

/-- The record of a FREE context. -/
def freeRecord : List Byte := zeros 0x1F0 ++ List.replicate 16 0xFF

/-- The sixteen thread records. -/
def State.threadRecords (s : State) (l : Launch) (c : CoreId) : List Byte :=
  (List.range 16).flatMap fun i =>
    let x := s.ctx (c.thread i)
    if x.st = .free ∨ x.serial ≠ l.serial then freeRecord
    else x.toBytes (if x.st = .stopped then x.prev else x.st).code (if x.st = .stopped then x.stopAt else s.cyc c)
      (if x.held.isSome && x.prev == .parked then Config.waitWord (s.freeCnt + i) else 0)

/-- The footprint, its word-state map and its waiter section, which has room for `w0` entries. -/
def State.footprintBytes (s : State) (l : Launch) (c : CoreId) (w0 : Nat) : List Byte :=
  if l.lssize = 0 then []
  else
    let k := keyLs c (l.base c)
    let nib (n : Nat) : Nat :=
      let f := s.feAt (k / 8 + n)
      b2n f.full + 2 * b2n (s.pz (k / 8 + n)) + 4 * b2n f.lost
    let ws := s.waiters l c
    s.rd k l.lssize ++ (List.range (l.lssize / 16)).map (fun n => BitVec.ofNat 8 (nib (2 * n) + 16 * nib (2 * n + 1))) ++
      padTo (16 + 16 * w0) (leBytes 16 ws.length ++
        ws.flatMap fun w => leBytes 8 (8 * w.1 + w.2.1 * 2 ^ 56) ++ leBytes 8 w.2.2.addr.toNat)

/-- Size of a core's block, fixed at its stop. -/
def Launch.blockSize (l : Launch) (c : CoreId) : Nat :=
  up256 (256 + 1536 + (if c.tier < 2 then 5248 else 0) + 4352 * l.windows.length + 8192 +
    (if l.lssize = 0 then 0 else l.lssize + l.lssize / 16 + 16 + 16 * mget 0 l.saveW0 (coreKey c)))

/-- A core's block. -/
def State.block (s : State) (l : Launch) (c : CoreId) : List Byte :=
  let k := s.core c
  padTo (l.blockSize c) (s.controlBlock l c ++ k.channelState ++ (if c.tier < 2 then k.mxu.toBytes else []) ++
    l.windows.flatMap k.windowBytes ++ s.threadRecords l c ++ s.footprintBytes l c (mget 0 l.saveW0 (coreKey c)))

/-- Offset of a core's block in the area. -/
def Launch.blockOff (l : Launch) (c : CoreId) : Nat :=
  ((l.cores.takeWhile (· != c)).map l.blockSize).foldl (· + ·) (up256 (0x40 + up256 (16 * l.cores.length)))

/-! Stores of the save, and their faults (R214). -/

/-- Key of the area fault in a launch's table of save faults. -/
def areaKey : Nat := 8192

/-- SAVESTAT of a state and class, with the counts of the launch. -/
def Launch.statWord (l : Launch) (st cls : Nat) : Word :=
  w64 (st * 2 ^ 60 + cls * 2 ^ 56 + (l.saveFault.filter fun f => f.1 != areaKey).length % 65536 * 2 ^ 16 +
    l.saveDone.length % 65536)

def Launch.saveState (l : Launch) : Nat := bits l.savestat 63 60
def Launch.saveCls (l : Launch) : Nat := bits l.savestat 59 56

/-- SAVESTAT in the launch and in every core of its partition. -/
def State.holdStat (s : State) (serial : Word) (v : Word) : State :=
  let s := s.updLaunch serial fun l => { l with savestat := v }
  (s.launch serial).cores.foldl (fun s c => s.updCore c fun k => { k with savestat := v }) s

/-- A store or read of the area by the device: its key, or why not. -/
def State.saveLoc (s : State) (l : Launch) (die : Nat) (a : Word) (n : Nat) (k : Acc1) : Loc := s.devLoc l die a n k

/-- A save fault: a fault record for a translation fault, and the interim entry. -/
def State.saveFaulted (s : State) (l : Launch) (unit funit cycle : Nat) (a : Word) (loc : Loc) : State :=
  let s := match loc with
    | .xfault => s.postFault funit l.serial 0xFF 5 cycle a
    | .hole pa => { s with hole := some pa }
    | _ => s
  s.interim (s.launch l.serial) { cls := 13, detail := 0, engine := 13, ctx := 0x1F, unit := unit, addr := a }

/-- A write of the header, of SAVESTAT or of a directory entry; a fault is one of the area. -/
def State.areaWrite (s : State) (serial : Word) (a : Word) (b : List Byte) : State :=
  let l := s.launch serial
  if (mfind l.saveFault areaKey).isSome then s
  else
    let loc := s.saveLoc l l.lowDie a b.length .engWrite
    match loc.key with
    | some k => s.hbmWrite k b []
    | none =>
        let s := s.updLaunch serial fun l => { l with saveFault := mset l.saveFault areaKey 0 }
        let s := s.holdStat serial ((s.launch serial).statWord 3 13)
        s.saveFaulted l (unitDie l.lowDie) (l.lowDie * 2 ^ 16) 0 a loc

/-- Set SAVESTAT and write it to the area. -/
def State.setStat (s : State) (serial : Word) (st cls : Nat) : State :=
  let v := (s.launch serial).statWord st cls
  (s.holdStat serial v).areaWrite serial (s.launch serial).savearea (leBytes 8 v.toNat)

/-- A directory entry. -/
def State.dirEntry (s : State) (serial : Word) (c : CoreId) (st units : Nat) : State :=
  let l := s.launch serial
  let n := (l.cores.takeWhile (· != c)).length
  s.areaWrite serial (l.savearea + w64 (0x40 + 16 * n))
    (leBytes 8 (place c) ++ leBytes 4 (l.blockOff c / 256) ++ leBytes 4 (st * 2 ^ 28 + units))

/-- Units a core has written, and its state in the directory. -/
def Launch.unitsOf (l : Launch) (c : CoreId) : Nat × Nat :=
  if l.saveDone.contains (coreKey c) then (2, l.blockSize c / 256)
  else match mfind l.saveFault (coreKey c) with | some u => (3, u) | none => (1, 0)

/-- The header and the directory. -/
def State.areaHeader (s : State) (serial : Word) (cls : Nat) : State :=
  let l := s.launch serial
  let s := s.setStat serial 1 cls
  let s := s.areaWrite serial (l.savearea + 8) (leBytes 8 serial.toNat ++ leBytes 8 l.cores.length ++ zeros 40)
  l.cores.foldl (fun s c => s.dirEntry serial c (l.unitsOf c).1 (l.unitsOf c).2) s

/-! Drain (R210, R303). -/

/-- Is a stopped context's held instruction about to complete: it waits for a reply that no page holds back (R208, 17 R369)? -/
def Ctx.dueReply (x : Ctx) : Bool :=
  x.st == .stopped && x.prev == .parked && !(x.pend.any fun p => p.len != 0) &&
    x.held.any fun h => match h.cause with | .reply _ => true | .first => true | _ => false

/-- Have a core's engines drained for a launch that holds it alone? -/
def State.drained (s : State) (c : CoreId) : Bool :=
  let k := s.core c
  k.vq.isEmpty && k.copies.isEmpty && k.lens.ops.isEmpty && k.mxu.writes.isEmpty && !s.rotEnds c &&
    (List.range 16).all (fun i => (k.ctx i).st != .evicting && (k.ctx i).st != .killed && !(k.ctx i).dueReply) &&
    k.ports.all fun p => !p.2.out || (k.hart (4 + p.1)).ended

/-- Coordinates of an input port's next unclaimed block, and whether the generator had ended before it. -/
def Port.nextBlock (p : Port) : List Nat × Bool := (mget p.ls p.gen p.claim, p.gend && (mfind p.gen p.claim).isNone)

/-- A port at a gang stop (R303). An output port is asked to end: its hart drains the queue. An input port's queued blocks are discarded,
and its generator stands at the next unclaimed block. -/
def Port.pause (p : Port) : Port :=
  if p.out then { p with ended := true, paused := true }
  else { p with ls := p.nextBlock.1, gend := p.nextBlock.2, seq := p.claim, gen := p.gen.filter fun g => decide (g.1 < p.claim)
                badIdx := p.badIdx.filter fun n => decide (n < p.claim), queue := [], held := none, paused := true }

/-- The ports of a launch in one direction are paused; the loader harts stop. -/
def Core.pausePorts (k : Core) (serial : Word) (out : Bool) : Core :=
  let is (p : Port) : Bool := p.bound && p.out == out && p.serial == serial && !p.paused
  { k with
    harts := k.harts.map fun h => (h.1, if !out && decide (h.1 < 4) && is (k.port h.1) then { h.2 with ended := true, stalled := false } else h.2)
    ports := k.ports.map fun p => (p.1, if is p.2 then p.2.pause else p.2) }

/-- Where RESUME of an input port lies, and the coordinates that go there. -/
def Port.resumeAt (p : Port) : Word × List Byte := (p.scbAddr + 56, p.nextBlock.1.flatMap fun n => leBytes 2 n)

/-- A store of the device at a virtual address of region 0x00 or 0x7F. A part of a poisoned word is not stored: the save of the core stops
(R214; DEDUCED, log 58). -/
def State.saveStore (s : State) (l : Launch) (c : CoreId) (a : Word) (b : List Byte) : State ⊕ Loc :=
  let meets (k : Nat) : Bool := (k % 8 != 0 || b.length % 8 != 0) && s.pz (k / 8)
  if a.toNat / 2 ^ 56 = 0x7F then
    match (s.locate l c a b.length .engWrite).noPeer with
    | .bank k => .inl ((s.bankWrite k b false).getD s)
    | loc => .inr loc
  else
    let loc := s.saveLoc l c.die a b.length .engWrite
    match loc.key with
    | some k => if meets k then .inr (.trap 1 0) else .inl (s.hbmWrite k b [])
    | none => .inr loc

/-- The stores that a core's save makes beside its block: RESUME of each bound input (R303), and the remaining timeout of each
recorded barrier waiter in its spill frame (R211). -/
def State.sideStores (s : State) (l : Launch) (c : CoreId) : List (Word × List Byte) :=
  let k := s.core c
  let lo := keyLs c (l.base c) / 8
  let bars := (s.fe.filter fun f => decide (lo ≤ f.1 ∧ f.1 < lo + l.lssize / 8)).flatMap fun f => f.2.bars
  (k.ports.filter fun p => p.2.bound && !p.2.out).map (fun p => p.2.resumeAt) ++
    bars.filterMap fun b => (s.spills.find? fun x => x.addr == b.addr && x.serial == b.serial).map fun x =>
      (l.spillbase + w64 (512 * x.frame + 0x1B4), leBytes 4 (b.left - s.cyc c))

/-- Make stores in order up to the first that faults. -/
def State.saveStores (s : State) (l : Launch) (c : CoreId) : List (Word × List Byte) → State × Option (Word × Loc)
  | [] => (s, none)
  | (a, b) :: t =>
      match s.saveStore l c a b with
      | .inl s => s.saveStores l c t
      | .inr loc => (s, some (a, loc))

/-- The next step of R303 for a launch that has stopped on a core, when there is one: its output ports end once the VU holds none of its
commands; its input ports once no storer hart runs, with their coordinates in RESUME. A fault there is one of the save that follows
(DEDUCED, log 89). -/
def State.streamStop (s : State) (c : CoreId) (serial : Word) : Option State :=
  let k := s.core c
  let some_ (f : Nat → Port → Bool) : Bool := k.ports.any fun p => p.2.serial == serial && f p.1 p.2
  if !k.stopped.contains serial || (k.vq.any fun x => x.serial == serial) then none
  else if some_ fun _ p => p.bound && p.out && !p.paused then some (s.updCore c fun k => k.pausePorts serial true)
  else if some_ fun n p => p.out && !(k.hart (4 + n)).ended then none
  else if some_ fun _ p => p.bound && !p.out && !p.paused then
    let l := s.launch serial
    let r := (k.ports.filter fun p => p.2.serial == serial && p.2.bound && !p.2.out && !p.2.paused).foldl (fun s p =>
      match s.saveStore l c p.2.resumeAt.1 p.2.resumeAt.2 with | .inl s => s | .inr _ => s) s
    some (r.updCore c fun k => k.pausePorts serial false)
  else none

/-- Write units of a block from unit `u` on; the number of the first that could not be written, if any. -/
def State.saveUnits (s : State) (l : Launch) (c : CoreId) (area : Word) (b : List Byte) : Nat → Nat → State × Option (Nat × Loc)
  | 0, _ => (s, none)
  | n + 1, u =>
      match s.saveStore l c (area + w64 (256 * u)) ((b.drop (256 * u)).take 256) with
      | .inl s => s.saveUnits l c area b n (u + 1)
      | .inr loc => (s, some (u, loc))

/-! Saving a core, and the end of the save (R214, R358, R370). -/

/-- A saved core is left as no launch holds it; the part keeps what the block does not. -/
def State.vacate (s : State) (l : Launch) (c : CoreId) : State :=
  let kept := { s.core c with ctxs := (s.core c).ctxs.map fun (x : Nat × Ctx) => (x.1, { x.2 with cir := 0, paddr := 0 }) }
  let s := { s with savedCores := mset s.savedCores (savedKey l.serial c) kept }
  let s := (s.ctxsOf c l.serial).foldl (fun s t => (s.withdraw t).updCtx t Ctx.toFree) s
  let lo := keyLs c (l.base c) / 8
  let s := { s with fe := s.fe.map fun (f : Nat × FeWord) =>
    (f.1, if lo ≤ f.1 ∧ f.1 < lo + l.lssize / 8 then { f.2 with readers := [], writers := [], bars := [] } else f.2) }
  s.updCore c fun k => { k with
    residents := k.residents.erase l.serial, stopped := k.stopped.erase l.serial, ident := merase k.ident l.serial.toNat
    eps := [], classes := [], ports := [], harts := k.harts.map fun (h : Nat × Hart) => (h.1, { h.2 with ended := true })
    mxu := .reset, mxWait := [], vuWait := [], tagWait := [] }

/-- The save is complete once every core has finished and nothing of it has faulted. -/
def State.saveEnd (s : State) (serial : Word) : State :=
  let l := s.launch serial
  if l.saveDone.length ≠ l.cores.length ∨ !l.saveFault.isEmpty then s
  else
    let s := s.setStat serial 2 l.saveCls
    let l := s.launch serial
    if !l.saveFault.isEmpty then s
    else
      let s := s.interim l
        { cls := 0, detail := 0x41, engine := 13, ctx := 0x1F, unit := unitDie l.lowDie, addr := l.savearea }
      ((l.cores.foldl (fun s c => s.vacate l c) s).updLaunch serial fun l => { l with st := .saved }).cmdDone serial

/-- A store of a core's save has faulted after `u` units. -/
def State.coreFault (s : State) (l : Launch) (c : CoreId) (u : Nat) (a : Word) (loc : Loc) : State :=
  let s := s.updLaunch l.serial fun l =>
    { l with saveFault := mset l.saveFault (coreKey c) u, saveAt := mset l.saveAt (coreKey c) u }
  let s := s.setStat l.serial 3 13
  (s.dirEntry l.serial c 3 u).saveFaulted l (place c) (faultUnit c) (s.cyc c) a loc

/-- Save one core whose engines have drained, from the unit where it stands (DEDUCED, log 58). -/
def State.saveCore (s : State) (l : Launch) (c : CoreId) : State :=
  let key := coreKey c
  let u0 := mget 0 l.saveAt key
  let r := s.saveStores l c (s.sideStores l c)
  match r.2 with
  | some (a, loc) => r.1.coreFault l c u0 a loc
  | none =>
      let area := l.savearea + w64 (l.blockOff c)
      let n := l.blockSize c / 256
      let b := r.1.block l c
      let q := { r.1 with freeCnt := r.1.freeCnt + 16 }.saveUnits l c area b (n - u0) u0
      match q.2 with
      | some (u, loc) => q.1.coreFault l c u (area + w64 (256 * u)) loc
      | none =>
          let s := q.1.updLaunch l.serial fun l => { l with saveDone := l.saveDone ++ [key] }
          let s := s.dirEntry l.serial c 2 n
          let l := s.launch l.serial
          let s := if l.saveDone.length = l.cores.length ∧ l.saveFault.isEmpty then s
            else s.setStat l.serial (if l.saveFault.isEmpty then 1 else 3) l.saveCls
          s.saveEnd l.serial

/-- SAVE_BLOCK: a core of a stopped partition drains, then writes its block. -/
def execSaveBlock (c : CoreId) (s : State) : Res :=
  match (s.core c).residents.find? fun r => (s.launch r).st == .saving with
  | none => .next s
  | some r =>
      let l := s.launch r
      if !l.stopReq.isEmpty ∨ l.saveDone.contains (coreKey c) ∨ (mfind l.saveFault (coreKey c)).isSome then .next s
      else match s.streamStop c r with
      | some s => .next s
      | none =>
      if !s.drained c then .next s
      else
        let s := if l.saveState = 0 then s.areaHeader r 0 else s
        (s.saveCore (s.launch r) c).out

/-! Pre-emption (R357, R358). -/

/-- Launches that hold cores a waiting launch cannot take. -/
def State.blockers (s : State) (w : Launch) : List Word :=
  (w.layout.filter fun c => (s.fits w (s.imageOf w) c).isNone).flatMap fun c => (s.core c).residents

/-- May a waiting launch pre-empt the launch `v`: it blocks, and every launch that blocks is preemptible and of lower PRIO? (DEDUCED, log 56). -/
def State.mayPreempt (s : State) (w v : Launch) : Bool :=
  w.st == .waiting && !w.ext.isEmpty && !w.waitReplay && !s.heldBack w && s.admits && s.poolFree w &&
    !(s.launches.any fun x => x.serial != v.serial && s.blockedBy w x) && (s.blockers w).contains v.serial &&
    (s.blockers w).all fun r => (s.launch r).pclass != 0 && decide ((s.launch r).prio < w.prio)

/-- The waiting launch for which a launch is pre-empted: the first in line. -/
def State.preemptorOf (s : State) (v : Launch) : Option Launch :=
  let l := s.launches.filter fun w => s.mayPreempt w v
  l.find? fun w => l.all fun x => x.serial == w.serial || w.ahead x

/-- FORCED_PREEMPTION of a launch of PCLASS 0b10: its partition is gang-stopped, to be saved. -/
def execForcedPreemption (serial : Word) (s : State) : Res :=
  let v := s.launch serial
  if v.st ≠ .admitted ∨ v.pclass ≠ 2 then .next s
  else match s.preemptorOf v with
    | none => .next s
    | some w =>
        let s := s.updLaunch serial fun v => { v with
          st := .saving, preemptor := some w.serial, saveDone := [], saveFault := [], saveAt := [], saveW0 := [], savestat := 0 }
        .next (s.askStop serial v.cores)

/-- CHEAP_PREEMPTION of a launch of PCLASS 0b01: its records are no longer dispatched to the cores the waiting launch needs, and its
contexts parked at a blocking point are evicted (Condenser `withheld`, `pressed`; EVICTION). -/
def execCheapPreemption (serial : Word) (s : State) : Res :=
  let v := s.launch serial
  if v.st ≠ .admitted ∨ v.pclass ≠ 1 then .next s
  else match s.preemptorOf v with
    | none => .next s
    | some w => .next (s.updLaunch serial fun v => { v with preemptor := some w.serial, cheap := true })

/-! Restore (R215). -/

/-- Little-endian words of a block from an offset. -/
def wordsAt (b : List Byte) (off w n : Nat) : List Nat := (List.range n).map fun i => leAt b (off + w * i) w

/-- Tags after a restore: the saved generations, IDLE or COMPLETE. -/
def tagsFrom (b : List Byte) : SMap Tag :=
  ((wordsAt b 0x10 2 64).zipIdx).map fun g =>
    (g.2, { Tag.reset with st := if g.1 = 0 then .idle else .complete, gen := BitVec.ofNat 16 g.1 })

/-- The endpoint table from the channel state, over what the part kept. -/
def epsFrom (b : List Byte) (old : Core) : SMap Ep :=
  (List.range 32).map fun n =>
    let c := leAt b (0x180 + 16 * n) 16
    let e := old.ep n
    let rx := bit (w64 (leAt b (8 * n) 8)) 4
    let words := (List.range (fld c 112 4)).map fun i => (w64 (leAt b (0x400 + 32 * fld c 96 8 + 8 * i) 8), fld c (116 + i) 1 == 1)
    (n, if fld c 104 1 = 0 then Ep.reset else { e with
      desc := w64 (leAt b (8 * n) 8), bound := true, met := fld c 105 1 == 1, resync := fld c 106 1 == 1
      broken := if fld c 107 1 = 1 then (if e.broken = 0 then 3 else e.broken) else 0
      free := if fld c 96 8 = 0xFF then fld c 0 16 else e.free, sent := BitVec.ofNat 16 (fld c 16 16)
      consumed := BitVec.ofNat 16 (fld c 32 16), received := BitVec.ofNat 16 (fld c 48 16), rpos := fld c 64 16, wpos := fld c 80 16
      words := if rx = false then e.words else if fld c 96 8 ≠ 0xFF then words else [] })

/-- The message classes. -/
def classesFrom (b : List Byte) (old : Core) : SMap ClassB :=
  (List.range 16).map fun n =>
    let v := leAt b (0x100 + 8 * n) 8
    let r := leAt b (0x380 + 8 * n) 8
    let o := old.cls n
    (n, { o with bound := o.bound && v != 0, binding := if o.bound && v != 0 then w64 v else o.binding, rpos := fld r 0 16, wpos := fld r 16 16, msgs := fld r 32 16 })

/-- The MXU from its part of the block; the copies are reloaded from their sources by `reload`. -/
def mxuFrom (b : List Byte) (old : Mxu) (reload : Nat → Nat → List Byte × Bool) : Mxu :=
  let c := b.drop 5120
  let buf (off : Nat) : MxBuf :=
    let v := leAt c off 8
    if fld v 63 1 = 0 then .reset
    else
      let r := reload (fld v 0 21) (fld v 32 16)
      { valid := true, data := r.1, poison := r.2, src := fld v 0 21, len := fld v 32 16 }
  let lv := leAt c 0x18 8
  let tags := leAt c 0x28 8
  let stat := leAt c 0x30 8
  { old with
    resw := false, ringw := false
    accs := (List.range 4).map fun n => (n,
      { bits := (wordsAt b (1024 * n) 4 256).map (BitVec.ofNat 32), tag := BitVec.ofNat 8 (fld tags (8 * n) 8),
        poison := fld tags (32 + n) 1 == 1 })
    queue := (old.queue.zipIdx).map fun q => { q.1 with
      bytes := (b.drop (4096 + 64 * q.2)).take 64, snap := BitVec.ofNat 16 (leAt c (0x38 + 4 * q.2) 2) }
    cfg := BitVec.ofNat 16 (leAt c 0 2), abuf := buf 8, scale := buf 0x10
    latch := if fld lv 63 1 = 0 then .reset else
      let r := reload (fld lv 0 21) old.latch.data.length
      { valid := true, data := r.1, poison := r.2, src := fld lv 0 21, k := fld lv 32 12, fb := fld lv 48 4 }
    rot := leAt c 0x20 4, sent := if old.headRot then fld (leAt c 0x20 8) 63 1 == 1 else old.sent
    lasttag := BitVec.ofNat 32 (fld stat 32 32), errs := BitVec.ofNat 8 (fld stat 24 8), errcls := BitVec.ofNat 4 (fld stat 20 4) }

/-- A window. -/
def windowFrom (b : List Byte) (serial : Word) : Window :=
  { vs := (List.range 16).map fun v => (v,
      { lanes := (wordsAt b (256 * v) 4 64).map (BitVec.ofNat 32), tag := BitVec.ofNat 8 (leAt b (4096 + v) 1),
        marks := BitVec.ofNat 64 (leAt b (4176 + 8 * v) 8) })
    ms := (List.range 8).map fun m => (m, w64 (leAt b (4112 + 8 * m) 8))
    binds := [], owner := some serial }

/-- A stream binding of a window, as its entry gives it: register, port, direction, SCB address. -/
structure Bind where
  reg : Nat
  port : Nat
  out : Bool
  scb : Word
deriving DecidableEq, Repr

/-- Stream bindings of a window. -/
def bindsFrom (b : List Byte) : List Bind :=
  (List.range 4).filterMap fun i =>
    let v := leAt b (4304 + 8 * i) 8
    if fld v 57 1 = 0 then none
    else some { reg := 12 + i, port := fld v 54 2, out := fld v 56 1 == 1
                scb := w64 (fld v 6 46 * 64 + (if fld v 52 1 = 1 then 0x7F * 2 ^ 56 else 0)) }

/-- A read by the restore: its bytes, a translation fault, or an error. -/
inductive BlockRead where
  | ok (b : List Byte)
  | wait (a : Word)
  | bad (a : Word)
  | hole (pa : Nat)
deriving DecidableEq, Repr

/-- The SCB that a restore reads again (R303): from memory, or from the footprint that the block holds. One that is no longer an SCB of its
port is a malformed entry (DEDUCED, log 89). -/
def State.scbRead (s : State) (l : Launch) (c : CoreId) (foot : List Byte) (x : Bind) : BlockRead :=
  let r : BlockRead :=
    if x.scb.toNat / 2 ^ 56 = 0x7F then
      let o := x.scb.toNat % 2 ^ 21 - l.base c
      if l.base c ≤ x.scb.toNat % 2 ^ 21 ∧ o + 64 ≤ l.lssize then .ok ((foot.drop o).take 64) else .bad x.scb
    else match s.devBytes l c.die x.scb 64 with
      | .ok b _ => .ok b
      | .bad a .xfault => .wait a
      | .bad _ (.hole pa) => .hole pa
      | .bad a _ => .bad a
  match r with
  | .ok b => if scbOk b && fld (leAt b 0 8) 0 3 == x.port + 4 * b2n x.out then r else .bad x.scb
  | _ => r

/-- Where a core's windows, thread records and footprint lie in its block. -/
def windowsAt (c : CoreId) : Nat := 1792 + if c.tier < 2 then 5248 else 0
def Launch.threadsAt (l : Launch) (c : CoreId) : Nat := windowsAt c + 4352 * l.windows.length
def Launch.footAt (l : Launch) (c : CoreId) : Nat := l.threadsAt c + 8192

/-- The first of the SCBs of a core's block that cannot be read. -/
def State.scbsRead (s : State) (l : Launch) (c : CoreId) (b : List Byte) : BlockRead :=
  let xs := (l.windows.zipIdx).flatMap fun w => bindsFrom (b.drop (windowsAt c + 4352 * w.2))
  ((xs.map (s.scbRead l c (b.drop (l.footAt c)))).find? fun r => match r with | .ok _ => false | _ => true).getD (.ok b)

/-- The first address of a chain of recorded waiters that the device cannot read now: a record, or the spill frame with its
remaining timeout. -/
def State.chainWait (s : State) (l : Launch) : Nat → Word → Option Word
  | 0, _ => none
  | n + 1, a =>
      if a = 0 then none
      else match s.spills.find? fun x => x.addr == a && x.serial == l.serial with
        | none => none
        | some x =>
            let f := l.spillbase + w64 (512 * x.frame)
            match (s.devLoc l x.thread.die a 64 .engRead).key, (s.devLoc l x.thread.die f 512 .engRead).key with
            | some k, some _ => s.chainWait l n (w64 (leNat (s.rd (k + 40) 8)))
            | some _, none => some f
            | none, _ => some a

/-- The first address that the waiters of a core's block cannot be read at (R215: the restore waits for the replay). -/
def State.waitersWait (s : State) (l : Launch) (c : CoreId) (b : List Byte) : Option Word :=
  let off := l.footAt c + l.lssize + l.lssize / 16
  if l.lssize = 0 then none
  else (List.range (leAt b off 8)).findSome? fun i => s.chainWait l s.spills.length (w64 (leAt b (off + 24 + 16 * i) 8))

/-- The recorded waiters of a chain, from its first record along the wait-links. -/
def State.chainFrom (s : State) (l : Launch) (now : Nat) (bar : Bool) : Nat → Word → List Cont
  | 0, _ => []
  | n + 1, a =>
      if a = 0 then []
      else match s.spills.find? fun x => x.addr == a && x.serial == l.serial with
        | none => []
        | some x =>
            match (s.devLoc l x.thread.die a 64 .engRead).key,
                  (s.devLoc l x.thread.die (l.spillbase + w64 (512 * x.frame)) 512 .engRead).key with
            | some k, some fk =>
                { addr := a, serial := l.serial, die := x.thread.die, tier := x.thread.tier, key := k,
                  left := if bar then now + leNat (s.rd (fk + 0x1B4) 4) else 0 } ::
                  s.chainFrom l now bar n (w64 (leNat (s.rd (k + 40) 8)))
            | _, _ => []

/-- The footprint with its full/empty states, poison and waiters. -/
def State.footprintFrom (s : State) (l : Launch) (c : CoreId) (b : List Byte) : State :=
  let k := keyLs c (l.base c)
  let n := l.lssize / 8
  let s := (List.range n).foldl (fun s i =>
    let m := fld (leAt b (l.lssize + i / 2) 1) (4 * (i % 2)) 4
    let s := (s.bankWrite (k + 8 * i) ((b.drop (8 * i)).take 8) (fld m 1 1 == 1)).getD s
    s.setFe (k / 8 + i) { FeWord.reset with full := fld m 0 1 == 1, lost := fld m 2 1 == 1 }) s
  let w := b.drop (l.lssize + l.lssize / 16)
  (List.range (leAt w 0 8)).foldl (fun s i =>
    let e := leAt w (16 + 16 * i) 8
    let at_ := k / 8 + fld e 0 21 / 8
    let kind := fld e 56 2
    let q := s.chainFrom l (s.cyc c) (kind == 2) s.spills.length (w64 (leAt w (24 + 16 * i) 8))
    let f := s.feAt at_
    s.setFe at_ (match kind with
      | 0 => { f with readers := q } | 1 => { f with writers := q } | _ => { f with bars := q })) s

/-- The streams of a window restart from their SCBs: an input's generator starts at RESUME with the next sequence number equal to CLAIM. What
STRMSTAT reports otherwise is as it was. -/
def State.streamsFrom (s : State) (l : Launch) (c : CoreId) (w : Nat) (xs : List Bind) (scbOf : Bind → List Byte) (old : Core) : State :=
  xs.foldl (fun s x =>
    let scb := scbOf x
    let q := old.port x.port
    let ls := (List.range 4).map fun i => leAt scb (56 + 2 * i) 2
    if !q.paused then s
    else
      let s := s.bindPort (c.thread 0) w x.reg x.scb scb ls q.claim
      s.updPort c x.port fun y => { y with
        serial := l.serial, tag := q.tag, dec := q.dec, back := q.back, err := q.err, errcls := q.errcls, overrun := q.overrun
        gend := !q.out && q.nextBlock.2, gen := q.gen.filter fun g => decide (g.1 < q.claim), after := [] }) s

/-- The contexts of a restored core: each from its record, over what the part kept; still stopped. -/
def Core.ctxsFrom (k old : Core) (serial : Word) (now : Nat) (b : List Byte) : SMap Ctx :=
  (List.range 16).map fun i =>
    let o := old.ctx i
    let r := (b.drop (512 * i)).take 512
    let code := fld (leAt r 0x188 1) 0 3
    (i, if code = 0 ∨ o.serial ≠ serial then (k.ctx i)
      else
        let el := o.stopAt - (o.held.map (·.since)).getD 0
        let x := Ctx.ofBytes r el o
        { x with
        cir := x.cir ||| o.cir, paddr := if x.paddr = 0 then o.paddr else x.paddr
        held := x.held.map fun h => { h with since := now - el, retryAt := now - (o.stopAt - h.retryAt) }, stopAt := now
        st := .stopped, prev := if code = 2 then .parked else .ready, lastIssue := (k.ctx i).lastIssue, weak := false })

/-- The contexts that wait for a unit, in the order in which they parked; those that a restore leaves parked. -/
def Core.waiting (k : Core) (l : List Nat) : List Nat := l.filter fun i => (k.ctx i).parked

/-- Restore one core from the bytes of its block (DEDUCED, log 58). Its ports keep what STRMSTAT gives, and its parked threads the order in which
they wait for a unit (DEDUCED, log 99). -/
def State.restoreCore (s : State) (l : Launch) (c : CoreId) (b : List Byte) : State :=
  let old := mget Core.reset s.savedCores (savedKey l.serial c)
  let wo := windowsAt c
  let tho := l.threadsAt c
  let s := if l.lssize = 0 then s else s.footprintFrom l c (b.drop (l.footAt c))
  let reload (off n : Nat) : List Byte × Bool := (s.rd (keyLs c off) n, (s.marksOf (keyLs c off) n).any id)
  let s := s.updCore c fun k => { k with
    ctxs := k.ctxsFrom old l.serial (s.cyc c) (b.drop tho)
    wins := (l.windows.zipIdx).foldl (fun m w => mset m w.1 (windowFrom (b.drop (wo + 4352 * w.2)) l.serial)) k.wins
    mxu := if c.tier < 2 then mxuFrom (b.drop 1792) old.mxu reload else old.mxu
    tags := tagsFrom b, lens := old.lens
    eps := epsFrom (b.drop 256) old, classes := classesFrom (b.drop 256) old
    rkey := if c.tier = 3 then BitVec.ofNat 128 (leAt b 0xC0 16) else 0
    dbgctl := BitVec.ofNat 4 (leAt b 0xB0 8)
    gscycle := w64 (s.cyc c), gssent := w64 (leAt b 0x98 8), gsrecv := w64 (leAt b 0xA0 8)
    stopCyc := mset k.stopCyc l.serial.toNat (mget 0 old.stopCyc l.serial.toNat), ports := old.ports }
  let s := s.updCore c fun k => { k with
    mxWait := k.waiting old.mxWait, vuWait := k.waiting old.vuWait, tagWait := k.waiting old.tagWait
    sampWait := k.waiting old.sampWait, sampGot := old.sampGot }
  let scb (x : Bind) : List Byte := match s.scbRead l c (b.drop (l.footAt c)) x with | .ok d => d | _ => []
  let s := (l.windows.zipIdx).foldl (fun s w => s.streamsFrom l c w.1 (bindsFrom (b.drop (wo + 4352 * w.2))) scb old) s
  { s with savedCores := merase s.savedCores (savedKey l.serial c) }

/-- The channel timeouts of messages held for the rings of a launch on a core go on: the cycles since its stop do not count (R208). -/
def State.resumeNet (s : State) (serial : Word) (c : CoreId) : State :=
  let now := s.cyc c
  let at_ := mget now (s.core c).stopCyc serial.toNat
  { s with net := s.net.map fun m =>
      if m.dst = c ∧ s.ringOwner m = serial then { m with since := m.since.map fun n => n + (now - max at_ n) } else m }

/-- The SCB that a port holds, with the coordinates at which it goes on in RESUME. -/
def Core.resumeScb (k : Core) (p : Nat) : List Byte := (k.port p).scb.take 56 ++ (k.port p).resumeAt.2

/-- The contexts of a launch on a core leave STOPPED; a held instruction is presented again (R215, R58). -/
def State.resumeCore (s : State) (serial : Word) (c : CoreId) (present : Bool) : State :=
  let s := s.resumeNet serial c
  -- streams that the stop has paused start again, from the SCB that the port holds (log 89, DEDUCED)
  let k := s.core c
  let l := s.launch serial
  let s := if k.ports.any fun p => p.2.serial == serial && p.2.paused then
      l.windows.foldl (fun s w => s.streamsFrom l c w (bindsFrom (k.windowBytes w)) (fun x => k.resumeScb x.port) k) s
    else s
  let s := s.updCore c fun k => { k with stopped := k.stopped.erase serial, stopCyc := merase k.stopCyc serial.toNat }
  (s.ctxsOf c serial).foldl (fun s t =>
    let x := s.ctx t
    let s := s.updCtx t fun x => x.resumeAt (s.cycleOf t)
    if present && x.st == .stopped && x.prev == .parked && x.held.isSome && !s.resume.contains t then
      { s with resume := s.resume ++ [t] }
    else s) s

/-- Can a saved launch take its cores again, and does no waiting launch of higher priority need them? -/
def State.mayRestore (s : State) (l : Launch) : Bool :=
  s.admits && (l.cores.all fun c => (s.core c).residents.isEmpty) &&
    !(s.launches.any fun w => w.st == .waiting && decide (l.prio < w.prio) && !w.waitReplay && !s.heldBack w &&
      (w.ext.isEmpty || w.shares l))

/-- A saved launch takes its cores, as they held it. -/
def State.retake (s : State) (l : Launch) (c : CoreId) : State :=
  let old := mget Core.reset s.savedCores (savedKey l.serial c)
  let img := (List.range 240).map fun i => (mget 0 old.cw i, false)
  let s := s.install l img old.loaderImg old.storerImg c (l.base c)
  let n (m : SMap Nat) : Nat := mget 0 m l.serial.toNat
  s.updCore c fun k => { k with
    msgSent := mset k.msgSent l.serial.toNat (n old.msgSent), msgRecv := mset k.msgRecv l.serial.toNat (n old.msgRecv) }

/-- A block read for restore. -/
def State.readBlock (s : State) (l : Launch) (c : CoreId) : BlockRead :=
  let a := l.savearea + w64 (l.blockOff c)
  match s.devBytes l c.die a (l.blockSize c) with
  | .ok b m => (match m.findIdx? id with | some i => .bad (a + w64 (8 * i)) | none => .ok b)
  | .bad a .xfault => .wait a
  | .bad _ (.hole pa) => .hole pa
  | .bad a _ => .bad a

/-- What the restore of a core reads: its block, the chains of its recorded waiters, the SCBs of its streams. -/
def State.readCore (s : State) (l : Launch) (c : CoreId) : BlockRead :=
  match s.readBlock l c with
  | .ok b => (match s.waitersWait l c b with | some a => .wait a | none => s.scbsRead l c b)
  | r => r

/-- Restore the cores that are not restored yet, those that wait for a replay apart. -/
def State.restoreCores (s : State) (serial : Word) : List CoreId → State
  | [] => s
  | c :: t =>
      let l := s.launch serial
      if l.st ≠ .restoring ∨ l.restored.contains (coreKey c) then s.restoreCores serial t
      else match s.readCore l c with
        | .ok b =>
            ((s.restoreCore l c b).updLaunch serial fun l => { l with restored := l.restored ++ [coreKey c] }).restoreCores serial t
        | .wait a => (s.postFault (faultUnit c) serial 0xFF 4 (s.cyc c) a).restoreCores serial t
        | .hole pa => { s with hole := some pa }
        | .bad a =>
            (s.setStat serial 3 13).fatal serial
              { cls := 13, detail := 0, engine := 13, ctx := 0x1F, unit := place c, addr := a }

/-- RESTORE: a saved launch comes back to its cores; a restore that waits for a replay goes on. -/
def execRestore (serial : Word) (s : State) : Res :=
  let l := s.launch serial
  let start (s : State) : State :=
    let s := l.cores.foldl (fun s c => s.retake l c) s
    let s := s.updLaunch serial fun l => { l with st := .restoring, restored := [], preemptor := none }
    let v := w64 (4 * 2 ^ 60 + bits l.savestat 59 0)
    (s.holdStat serial v).areaWrite serial l.savearea (leBytes 8 v.toNat)
  let go (s : State) : Res :=
    let s := s.restoreCores serial l.cores
    let l := s.launch serial
    if l.st ≠ .restoring ∨ l.restored.length ≠ l.cores.length then s.out
    else
      let v := w64 (5 * 2 ^ 60 + bits l.savestat 59 0)
      let s := (s.holdStat serial v).areaWrite serial l.savearea (leBytes 8 v.toNat)
      let s := s.interim (s.launch serial)
        { cls := 0, detail := 0x42, engine := 13, ctx := 0x1F, unit := unitDie l.lowDie, addr := l.savearea }
      let s := s.updLaunch serial fun l => { l with st := .admitted, saveDone := [], restored := [], saveFault := [] }
      ((l.cores.foldl (fun s c => s.resumeCore serial c true) s).deliver serial).out
  match l.st with
  | .saved => if s.mayRestore l then go (start s) else .next s
  | .restoring => go s
  | _ => .next s

end Sys2Proof.Machine
end

