-- ==== Sys2Proof/Machine/Driver.lean ====
section
/-! DEFINITION. What the host driver and the host debugger do through BAR0: power requests (22 R428), replay and invalidation
(08 R175, R176), migration (08 R187), quotes and tokens (22 R438, R440), recovery (R445), partition commands (R446), queues (R444)
and the registers without a row of their own (R443). -/

namespace Sys2Proof.Machine

/-- Functions of the host that only SECURE allows (22 R442). -/
def State.secure (s : State) : Bool := s.dev.sstate == 1

/-- PSCTL_REQUEST: a write with a bit of 15:2 set is ignored; the first that applies of STATE, BUSY and RESIDENT refuses; a request
for the current state ends at once; any other starts a slew. -/
def execPsctlRequest (v : Word) (s : State) : Res :=
  let d := s.dev
  let r := bits v 1 0
  let err (n : Nat) : Res := .next { s with dev := { d with pserr := n } }
  if bits v 15 2 ≠ 0 then .next s
  else if !s.secure then err 3
  else if d.slew then err 1
  else if r = 3 ∧ (s.cores.any fun k => !k.2.residents.isEmpty) then err 2
  else if r = d.pscur then .next { s with dev := { d with pserr := 0, psreq := r } }
  else
    let caps := capsOf r
    .next { s with dev := { d with
      pserr := 0, psreq := r, pstarget := r, slew := true, capavg := min d.capavg caps.1, cappeak := min d.cappeak caps.2 } }

/-! Replay (08 R175). -/

/-- Present again the held instructions of a launch's threads that wait for replay, or for earlier accesses that do; evicted records are posted. -/
def State.replayThreads (s : State) (serial : Word) : State :=
  let l := s.launch serial
  let waits (h : Option Held) : Bool := match h with
    | some x => (match x.cause with | .xlate _ => true | .own => true | .vu => true | _ => false)
    | none => false
  let ts := l.cores.flatMap fun c => (s.ctxsOf c serial).filter fun t =>
    (s.ctx t).parked && waits (s.ctx t).held && !s.resume.contains t && !(l.isPair && decide (8 ≤ t.ctx))
  let s := { s with resume := s.resume ++ ts }
  (s.spills.filter fun x => x.serial == serial && !x.woken && waits x.ctx.held).foldl State.wakeSpill s

/-- Engine operations of a launch that wait for replay go on. -/
def State.replayEngines (s : State) (serial : Word) : State :=
  let hart (k : Core) (h : Nat × Hart) : Nat × Hart :=
    if (mget Port.reset k.ports (h.1 % 4)).serial = serial then (h.1, { h.2 with stalled := false }) else h
  let tag (h : Nat × HTag) : Nat × HTag := (h.1, { h.2 with
    sched := h.2.sched.map fun c => if c.serial = serial then { c with ops := c.ops.map fun o => { o with stalled := false } } else c })
  let cores := s.cores.map fun (k : Nat × Core) => (k.1, { k.2 with harts := k.2.harts.map (hart k.2) })
  let dies := s.dies.map fun (d : Nat × Die) => (d.1, { d.2 with htags := d.2.htags.map tag })
  { s with cores := cores, dies := dies }

/-- REPLAY: every parked or recorded access of a launch replays; a further fault posts a record again. -/
def execReplay (serial : Word) (s : State) : Res :=
  if !s.secure then .next s
  else
    let s := { s with host := { s.host with granules := s.host.granules.filter fun g => g.1 != serial } }
    let s := s.updLaunch serial fun l => { l with waitReplay := false }
    .next (((s.refault serial).replayThreads serial).replayEngines serial)

/-! Invalidation, migration, quotes, tokens, recovery. -/

/-- TLBINV: up to 16 invalidations are pending; one more is discarded, and TLBSEQ bit 63 says so. -/
def execTlbinv (v : Word) (s : State) : Res :=
  let h := s.host
  if !s.secure then .next s
  else if 16 ≤ h.tlbpend.length then .next { s with host := { h with tlbovf := true } }
  else .next { s with host := { h with tlbpend := h.tlbpend ++ [v] } }

/-- Is a physical address in a stack? -/
def inStack (pa : Nat) : Bool := decide (pa < 8 * 2 ^ 36 ∧ pa % 2 ^ 36 < stackBytes)

/-- Key of the migration that a MIGCMD write names: stack of MIGSRC, slot. -/
def State.migKey (s : State) (v : Word) : Nat := fld s.host.migsrc.toNat 36 3 * 8 + bits v 2 0

/-- MIGRATION_START: a free slot of the stack takes the frame; from here every write to it lands in both (DEDUCED, log 67). -/
def execMigrationStart (v : Word) (s : State) : Res :=
  let src := s.host.migsrc.toNat / 65536 * 65536
  let dst := s.host.migdst.toNat / 65536 * 65536
  if !s.secure ∨ bits v 9 8 ≠ 1 ∨ (mfind s.migs (s.migKey v)).isSome then .next s
  else if !inStack src then .fault (.noMemory src)
  else if !inStack dst then .fault (.noMemory dst)
  else .next { s with migs := mset s.migs (s.migKey v) { src := src, dst := dst, done := false, ending := false } }

/-- MIGRATION_END: the dual writes end once the writes already addressed to the old frame are performed. -/
def execMigrationEnd (v : Word) (s : State) : Res :=
  if !s.secure ∨ bits v 9 8 ≠ 2 then .next s
  else match mfind s.migs (s.migKey v) with
    | none => .next s
    | some m =>
        .next ({ s with migs := mset s.migs (s.migKey v) { m with ending := true } }).migsOver

/-- QUOTE_REQUEST: refused with BUSY while one is pending. -/
def execQuoteRequest (nonce : BitVec 256) (buf : Word) (s : State) : Res :=
  if !s.secure ∨ s.host.attbusy then .next s
  else .next { s with host := { s.host with attnonce := nonce, attbuf := buf, attdone := false, attbusy := true } }

/-- DEBUG_TOKEN: a token for level 1 or 2, when it verifies with the nonce that DBGREQ has issued, takes effect at the next reset
(DESIGN CHOICE, log 12). -/
def execDebugToken (level : BitVec 2) (token : List Byte) (s : State) : Res :=
  if !s.secure then .next s
  else
    let s := { s with host := { s.host with dbgtoken := token } }
    if (level == 1 || level == 2) && Config.tokenSigned level.toNat token s.host.dbgnonce then
      .next { s with dev := { s.dev with token := some level.toNat } }
    else .next s

/-- RECOVERY_GO: verification of LEN bytes starts, or a LEN outside 1 to 0x80_0000 is rejected for its format; which stage RFAIL
names is then a free bit (DESIGN CHOICE, log 63). -/
def execRecoveryGo (v : Word) (s : State) : Res :=
  let h := s.host
  let n := bits v 23 0
  if s.dev.sstate ≠ 2 ∨ h.rstat = 1 ∨ bits v 63 63 = 0 then .next s
  else if n = 0 ∨ 0x800000 < n then
    let r := { s with host := { h with reclen := n, rstat := 2 } }.draw
    .next { r.2 with dev := { r.2.dev with rfail := 0x30 + r.1.toNat % 2 } }
  else .next { s with host := { h with reclen := n, rstat := 1 } }

/-! Partition commands (R446). -/

/-- A PARTCMD write of a command: ignored while one is in progress; the first result that applies of 4, 1, 2 and 3; otherwise the
effect, which says itself whether the command is still in progress (DEDUCED, log 66). -/
def State.partCmd (s : State) (v : Word) (cmd level : Nat) (f : State → Launch → Option State) : Res :=
  let ser := s.host.partser
  let res (s : State) (n : Nat) : State := { s with host := { s.host with partres := n } }
  if !s.secure ∨ s.host.partbusy.isSome ∨ bits v 3 0 ≠ cmd then .next s
  else if bits v 63 39 ≠ 0 ∨ bits v 7 4 ≠ 0 then .next (res s 4)
  else if s.ended ser then .next (res s 1)
  else if s.dev.dbg < level then .next (res s 2)
  else match f (res s 0) (s.launch ser) with
    | some s => s.out
    | none => .next (res s 3)

/-- The context that STEP and CTXRES name, when it is STOPPED; of a pair, its leader. -/
def State.cmdCtx (s : State) (l : Launch) (v : Word) : Option ThreadId :=
  let c := coreOfPlace (bits v 38 12)
  let k := bits v 11 8
  let t := c.thread (if 8 ≤ k ∧ l.isPair then k - 8 else k)
  if place c = bits v 38 12 ∧ l.st = .admitted ∧ l.on c ∧ (s.ctx t).st = .stopped ∧ (s.ctx t).serial = l.serial then some t else none

/-- HALT: every core of the launch that has not stopped is asked to; a launch that is being saved stops already. -/
def execHalt (v : Word) (s : State) : Res :=
  s.partCmd v 1 1 fun s l =>
    match l.st with
    | .admitted =>
        let rest := l.cores.filter fun c => !(s.core c).stopped.contains l.serial
        if rest.isEmpty then some s
        else some { s.askStop l.serial rest with host := { s.host with partbusy := some l.serial } }
    | .saving => some (if l.stopReq.isEmpty then s else { s with host := { s.host with partbusy := some l.serial } })
    | .saved => some s
    | _ => none

/-- RESUME: every STOPPED context of the launch leaves STOPPED. -/
def execResume (v : Word) (s : State) : Res :=
  s.partCmd v 2 0 fun s l =>
    let halted := l.cores.any fun c => (s.core c).stopped.contains l.serial ||
      (s.ctxsOf c l.serial).any fun t => (s.ctx t).st == .stopped
    if l.st = .admitted ∧ halted then some (l.cores.foldl (fun s c => s.resumeCore l.serial c false) s) else none

/-- STEP: one instruction of a STOPPED context, which has none to issue while it is parked (DEDUCED, log 34). -/
def execStep (v : Word) (s : State) : Res :=
  s.partCmd v 3 1 fun s l => (s.cmdCtx l v).map fun t =>
    if (s.ctx t).prev = .ready then (s.updCtx t fun c => { c with st := .ready, stepping := true }).pairSync t [] [] [] else s

/-- CTXRES: a STOPPED context leaves STOPPED. -/
def execCtxres (v : Word) (s : State) : Res :=
  s.partCmd v 4 1 fun s l => (s.cmdCtx l v).map fun t =>
    (s.updCtx t fun c => c.resumeAt (s.cycleOf t)).pairSync t [] [] []

/-- RESAVE: header and directory are written again, and each faulted core goes on at its first unwritten unit (10 R214). BUSY clears at STATE 0x2
(DEDUCED, log 66). -/
def execResave (v : Word) (s : State) : Res :=
  s.partCmd v 5 0 fun s l =>
    if l.st ≠ .saving ∨ l.saveState ≠ 3 then none
    else
      let s := { s with host := { s.host with partbusy := some l.serial } }
      let s := s.updLaunch l.serial fun l => { l with saveFault := [] }
      some ((s.areaHeader l.serial 13).saveEnd l.serial)

/-! Queues (R444). -/

/-- SQ_DOORBELL: the producer's index of a submission queue. -/
def execSqDoorbell (q : BitVec 6) (v : Word) (s : State) : Res :=
  if !s.secure ∨ slots (s.sq q.toNat).log2n ≤ v.toNat then .next s
  else .next (s.updSq q.toNat fun x => { x with prod := v.toNat })

/-- CQ_CONSUMER_INDEX: the consumer's index of a completion queue. -/
def execCqConsumerIndex (q : BitVec 6) (v : Word) (s : State) : Res :=
  if !s.secure ∨ slots (s.cq q.toNat).log2n ≤ v.toNat then .next s
  else .next (s.updCq q.toNat fun x => { x with cons := v.toNat })

/-- Is a LOG2N one that enables a queue? -/
def goodLog (v : Word) : Bool := decide (4 ≤ bits v 19 16)

/-- QUEUE_ENABLE: EN from 0 to 1 restarts both indices, and SEQ and PHASE of a completion queue; refused with a LOG2N below 4. -/
def execQueueEnable (completion : Bool) (q : BitVec 6) (v : Word) (s : State) : Res :=
  let n := q.toNat
  let en := if completion then (s.cq n).en else (s.sq n).en
  if !s.secure ∨ en ∨ !bit v 31 then .next s
  else if completion then
    .next (s.updCq n fun x =>
      if goodLog v then { x with en := true, compat := bit v 27, log2n := bits v 19 16, prod := 0, cons := 0, seq := 0, phase := true }
      else { x with compat := bit v 27, log2n := bits v 19 16 })
  else
    .next (s.updSq n fun x =>
      let x := { x with compat := bit v 27, log2n := bits v 19 16 }
      if goodLog v then { x with en := true, halt := false, prod := 0, cons := 0, fence := none, waits := none } else x)

/-- QUEUE_ABORT: packets not parsed and a pending fence are dropped, and launches not yet admitted are withdrawn with ILLEGAL 0x22. -/
def execQueueAbort (q : BitVec 6) (v : Word) (s : State) : Res :=
  let n := q.toNat
  if !s.secure ∨ !(s.sq n).en ∨ bit v 31 then .next s
  else
    let s := s.updSq n fun x => { x with
      en := false, halt := false, compat := bit v 27, log2n := bits v 19 16, prod := 0, cons := 0, fence := none, waits := none }
    .next ((s.launches.filter fun l => l.queue == some n && l.st == .waiting).foldl (fun s l =>
      s.reject l (poolReport 9 0x22 0 0)) s)

/-- QUEUE_RESUME: EN 1 written to a halted queue resumes it with its indices as they stand. -/
def execQueueResume (q : BitVec 6) (v : Word) (s : State) : Res :=
  let x := s.sq q.toNat
  if !s.secure ∨ !x.en ∨ !x.halt ∨ !bit v 31 then .next s
  else .next (s.updSq q.toNat fun x => { x with halt := false, compat := bit v 27, log2n := bits v 19 16 })

/-- REPAIR_RECORD_RESET: at Vendor-authorised, in SECURE in PS3 or in RECOVERY (R441, R442; 08 R181, 10 R228). -/
def execRepairRecordReset (s : State) : Res :=
  let d := s.dev
  if d.dbg = 2 ∧ (d.sstate = 2 ∨ (d.sstate = 1 ∧ d.pscur = 3)) then
    .next { s with dev := { d with retired := [], bankErrs := [], scrubbed := [], pages := [], xlost := 0, ilost := 0 } }
  else .next s

/-! The registers of BAR0 (R443). -/

/-- A write of a queue's CTL: enable, abort, resume, or the other bits (DEDUCED, log 64). -/
def State.ctlWrite (s : State) (completion : Bool) (q : BitVec 6) (v : Word) : Res :=
  let n := q.toNat
  if completion then
    if bit v 31 && !(s.cq n).en then execQueueEnable true q v s
    else .next (s.updCq n fun x => { x with en := bit v 31, compat := bit v 27, log2n := bits v 19 16 })
  else if bit v 31 && !(s.sq n).en then execQueueEnable false q v s
  else if !bit v 31 && (s.sq n).en then execQueueAbort q v s
  else if bit v 31 && (s.sq n).halt then execQueueResume q v s
  else .next (s.updSq n fun x => { x with compat := bit v 27, log2n := bits v 19 16 })

/-- A write into a queue's block, at one of its four words. -/
def State.queueWrite (s : State) (completion : Bool) (q : BitVec 6) (word : Nat) (v : Word) : Res :=
  match word with
  | 0 => .next (if completion then s.updCq q.toNat fun x => { x with base := v } else s.updSq q.toNat fun x => { x with base := v })
  | 1 => s.ctlWrite completion q v
  | 2 => if completion then .next s else execSqDoorbell q v s
  | _ => if completion then execCqConsumerIndex q v s else .next s

/-- A PARTCMD write. -/
def State.cmdWrite (s : State) (v : Word) : Res :=
  match bits v 3 0 with
  | 1 => execHalt v s
  | 2 => execResume v s
  | 3 => execStep v s
  | 4 => execCtxres v s
  | 5 => execResave v s
  | _ => if s.host.partbusy.isSome then .next s else .next { s with host := { s.host with partres := 4 } }

/-- A write of a word below the windows. -/
def State.wordWrite (s : State) (o : Nat) (v : Word) : Res :=
  let h := s.host
  match o with
  | 0x40 => .next { s with host := { h with fqbase := v } }
  | 0x48 => .next { s with host := { h with fqlog := bits v 4 0, fqhead := bits v 39 16 } }
  | 0x50 => execReplay v s
  | 0x58 => execTlbinv v s
  | 0x68 => .next { s with host := { h with migsrc := v } }
  | 0x70 => .next { s with host := { h with migdst := v } }
  | 0x78 => if bits v 9 8 = 1 then execMigrationStart v s else if bits v 9 8 = 2 then execMigrationEnd v s else .next s
  | 0x600 => .next { s with host := { h with partser := v } }
  | 0x608 => s.cmdWrite v
  | _ => .next s

/-! The debug window (R441, R443). Its layout is not given: which word an offset names is a free value (DESIGN CHOICE, log 65). -/

/-- A word of the debug window: of the thread record (10 R213) of a stopped context, of the image of a window whose launch has stopped on its
core, or of the footprint of such a launch. -/
inductive DebugWord where
  | record (t : ThreadId) (word : Nat)
  | window (c : CoreId) (w word : Nat)
  | store (key : Nat)
deriving DecidableEq, Repr

/-- The word that an offset of the debug window names now, if any (DESIGN CHOICE, log 65). -/
def State.debugWord (s : State) (o : Nat) : Option DebugWord :=
  let x := Config.debugPlace o
  let c : CoreId := ⟨x.1 / 1024 % 8, x.1 / 256 % 4, x.1 % 256⟩
  let n := x.2.2.1 % 16
  let w := x.2.2.2
  match x.2.1 with
  | 0 => if (s.ctx (c.thread n)).st = .stopped ∧ w < 64 then some (.record (c.thread n) w) else none
  | 1 => if ((s.core c).win n).owner.any (fun r => (s.core c).stopped.contains r) ∧ w < 544 then some (.window c n w) else none
  | _ =>
      if (s.core c).stopped.any fun r => decide ((s.launch r).base c ≤ 8 * w ∧ 8 * w < (s.launch r).base c + (s.launch r).lssize) then
        some (.store (keyLs c (8 * w)))
      else none

/-- The thread record of a stopped context. -/
def State.debugRecord (s : State) (t : ThreadId) : List Byte :=
  (s.ctx t).toBytes CtxState.stopped.code (s.ctx t).stopAt (Config.waitWord s.freeCnt)

/-- A word replaced in a record. -/
def putWord8 (b : List Byte) (word : Nat) (v : Word) : List Byte := b.take (8 * word) ++ leBytes 8 v.toNat ++ b.drop (8 * word + 8)

/-- A read of the debug window. -/
def State.debugRead (s : State) (o : Nat) : Word :=
  match s.debugWord o with
  | some (.record t w) => w64 (leAt (s.debugRecord t) (8 * w) 8)
  | some (.window c n w) => w64 (leAt ((s.core c).windowBytes n) (8 * w) 8)
  | some (.store k) => w64 (leNat (s.rd k 8))
  | none => 0

/-- A write of the debug window: registers, lanes, tags, masks and marks, and footprint words; not what else a record holds (DESIGN CHOICE, log 65). -/
def State.debugWrite (s : State) (o : Nat) (v : Word) : State :=
  match s.debugWord o with
  | some (.record t w) =>
      if 59 ≤ w then s
      else
        let el (x : Ctx) : Nat := x.stopAt - (x.held.map (·.since)).getD 0
        let b := putWord8 (s.debugRecord t) w v
        (s.updCtx t fun x => Ctx.ofBytes b (el x) x).pairSync t [] [] []
  | some (.window c n w) =>
      if 538 ≤ w then s
      else
        let b := putWord8 ((s.core c).windowBytes n) w v
        s.updWin c n fun x => { windowFrom b 0 with owner := x.owner, binds := x.binds }
  | some (.store k) => (s.bankWrite k (leBytes 8 v.toNat) false).getD s
  | none => s

/-- REGISTER_WRITE: a 64-bit write at an offset of BAR0. What the security state forbids, an offset that the table does not list and
a read-only word ignore it (DEDUCED, log 64). -/
def execRegisterWrite (off : BitVec 25) (v : Word) (s : State) : Res :=
  let o := off.toNat
  if o = 0x10 then execPsctlRequest v s
  else if s.dev.sstate = 2 then
    if o = 0x640 then
      if s.host.rstat = 1 then .next s
      else if bits v 63 63 = 1 then execRecoveryGo v s
      else .next { s with host := { s.host with reclen := bits v 23 0 } }
    else if 0x800000 ≤ o ∧ o < 0x1000000 ∧ s.host.rstat ≠ 1 then
      .next { s with host := { s.host with recimg := msetList s.host.recimg (o - 0x800000) (leBytes 8 v.toNat) } }
    else .next s
  else if !s.secure then .next s
  else if o % 8 ≠ 0 then .next s
  else if 0x1000000 ≤ o then (if s.dev.dbg = 0 then .next s else (s.debugWrite (o - 0x1000000) v).out)
  else if 0x100000 ≤ o ∧ o < 0x180000 then
    .next { s with host := { s.host with wins := mset s.host.wins ((o - 0x100000) / 8) v } }
  else if 0x1000 ≤ o ∧ o < 0x1800 then s.queueWrite false (BitVec.ofNat 6 ((o - 0x1000) / 32)) (o % 32 / 8) v
  else if 0x2000 ≤ o ∧ o < 0x2800 then s.queueWrite true (BitVec.ofNat 6 ((o - 0x2000) / 32)) (o % 32 / 8) v
  else s.wordWrite o v

/-! Reads of BAR0 (R442, R443). A read changes nothing, so it is no step: the host reads the state between two steps. -/

/-- The status words (R443), with the words of R175, R176, R187, R445 and R446. -/
def State.statusRead (s : State) (o : Nat) : Word :=
  let h := s.host
  match o with
  | 0x00 => identWord
  | 0x08 => s.secstat
  | 0x10 => s.psctl
  | 0x18 => s.srqWord
  | 0x20 => s.pwrStat
  | 0x28 => s.thermStat
  | 0x30 => s.dev.thermmig.zeroExtend 64
  | 0x40 => h.fqbase
  | 0x48 => w64 (h.fqtail % 2 ^ 24 * 2 ^ 40 + h.fqhead % 2 ^ 24 * 2 ^ 16 + h.fqlog % 32)
  | 0x60 => w64 (b2n h.tlbovf * 2 ^ 63 + h.tlbacks.toNat)
  | 0x68 => h.migsrc
  | 0x70 => h.migdst
  | 0x80 => w64 ((List.range 64).foldl (fun v k => v + b2n ((mfind s.migs k).any (·.done)) * 2 ^ k) 0)
  | 0x600 => h.partser
  | 0x610 => w64 (h.partres % 16 * 16 + b2n h.partbusy.isSome)
  | 0x640 => w64 (h.rstat % 8 * 2 ^ 60 + h.reclen % 2 ^ 24)
  | _ => 0

/-- A word of ATTREQ or DBGREQ: the nonce, then for ATTREQ the buffer and DONE and BUSY in bits 0 and 1 (DEDUCED, log 64). -/
def State.requestRead (s : State) (debug : Bool) (n : Nat) : Word :=
  let h := s.host
  if n < 4 then ((if debug then h.dbgnonce else h.attnonce) >>> (64 * n)).truncate 64
  else if debug then 0
  else if n = 4 then h.attbuf
  else if n = 5 then w64 (b2n h.attbusy * 2 + b2n h.attdone)
  else 0

/-- A word of a queue's block (R444). -/
def State.queueRead (s : State) (completion : Bool) (q word : Nat) : Word :=
  let a := s.sq q
  let b := s.cq q
  match word with
  | 0 => if completion then b.base else a.base
  | 1 =>
      if completion then w64 (b2n b.en * 2 ^ 31 + b2n b.compat * 2 ^ 27 + b.log2n % 16 * 2 ^ 16)
      else w64 (b2n a.en * 2 ^ 31 + b2n a.halt * 2 ^ 30 + b2n a.compat * 2 ^ 27 + a.log2n % 16 * 2 ^ 16)
  | 2 => w64 (if completion then b.prod else a.prod)
  | _ => w64 (if completion then b.cons else a.cons)

/-- What a read of the 64-bit word at an offset of BAR0 gives. What the security state does not show reads 0, as an offset does that the
table does not list or that is only written (DEDUCED, log 64). -/
def State.bar0Read (s : State) (o : Nat) : Word :=
  if s.dev.sstate ≠ 1 then
    if o = 0 ∨ o = 8 ∨ (s.dev.sstate = 2 ∧ (o = 0x18 ∨ o = 0x640)) then s.statusRead o else 0
  else if o % 8 ≠ 0 then 0
  else if 0x1000000 ≤ o then (if s.dev.dbg = 0 then 0 else s.debugRead (o - 0x1000000))
  else if 0x100 ≤ o ∧ o < 0x180 then s.requestRead false ((o - 0x100) / 8)
  else if 0x180 ≤ o ∧ o < 0x200 then s.requestRead true ((o - 0x180) / 8)
  else if 0x200 ≤ o ∧ o < 0x600 then ((Config.aliasCert s.aliasKey) >>> (8 * (o - 0x200))).truncate 64
  else if 0x1000 ≤ o ∧ o < 0x1800 then s.queueRead false ((o - 0x1000) / 32) (o % 32 / 8)
  else if 0x2000 ≤ o ∧ o < 0x2800 then s.queueRead true ((o - 0x2000) / 32) (o % 32 / 8)
  else if 0x100000 ≤ o ∧ o < 0x180000 then mget 0 s.host.wins ((o - 0x100000) / 8)
  else if o = 0x640 then 0
  else s.statusRead o

end Sys2Proof.Machine
end

