-- ==== Sys2Proof/Machine/Scalar.lean ====
section
/-! DEFINITION. The scalar instructions (06): integer, immediate, bit-field, move, constant, select, predicate, compare,
branch and compact forms, and the hint patterns. -/

namespace Sys2Proof.Machine

/-! Register-register operations (R114 to R116). -/

def execAdd (d a b : BitVec 5) (s : State) : Res := s.alu2 d.toNat a.toNat b.toNat (· + ·) 4
def execSub (d a b : BitVec 5) (s : State) : Res := s.alu2 d.toNat a.toNat b.toNat (· - ·) 4
def execAnd (d a b : BitVec 5) (s : State) : Res := s.alu2 d.toNat a.toNat b.toNat (· &&& ·) 4
def execOr (d a b : BitVec 5) (s : State) : Res := s.alu2 d.toNat a.toNat b.toNat (· ||| ·) 4
def execXor (d a b : BitVec 5) (s : State) : Res := s.alu2 d.toNat a.toNat b.toNat (· ^^^ ·) 4
def execSll (d a b : BitVec 5) (s : State) : Res := s.alu2 d.toNat a.toNat b.toNat shl 4
def execSrl (d a b : BitVec 5) (s : State) : Res := s.alu2 d.toNat a.toNat b.toNat shr 4
def execSra (d a b : BitVec 5) (s : State) : Res := s.alu2 d.toNat a.toNat b.toNat sar 4
def execMin (d a b : BitVec 5) (s : State) : Res := s.alu2 d.toNat a.toNat b.toNat minS 4
def execMax (d a b : BitVec 5) (s : State) : Res := s.alu2 d.toNat a.toNat b.toNat maxS 4
def execMinu (d a b : BitVec 5) (s : State) : Res := s.alu2 d.toNat a.toNat b.toNat minU 4
def execMaxu (d a b : BitVec 5) (s : State) : Res := s.alu2 d.toNat a.toNat b.toNat maxU 4
def execClz (d a : BitVec 5) (s : State) : Res := s.alu1 d.toNat a.toNat countLead 4
def execCtz (d a : BitVec 5) (s : State) : Res := s.alu1 d.toNat a.toNat countTrail 4
def execPopc (d a : BitVec 5) (s : State) : Res := s.alu1 d.toNat a.toNat countOnes 4
def execMul (d a b : BitVec 5) (s : State) : Res := s.alu2 d.toNat a.toNat b.toNat (· * ·) 4
def execMulh (d a b : BitVec 5) (s : State) : Res := s.alu2 d.toNat a.toNat b.toNat mulHigh 4
def execMulhu (d a b : BitVec 5) (s : State) : Res := s.alu2 d.toNat a.toNat b.toNat mulHighU 4
def execDiv (d a b : BitVec 5) (s : State) : Res := s.alu2 d.toNat a.toNat b.toNat divS 4
def execDivu (d a b : BitVec 5) (s : State) : Res := s.alu2 d.toNat a.toNat b.toNat divU 4
def execRem (d a b : BitVec 5) (s : State) : Res := s.alu2 d.toNat a.toNat b.toNat remS 4
def execRemu (d a b : BitVec 5) (s : State) : Res := s.alu2 d.toNat a.toNat b.toNat remU 4

/-! Immediate operations (R117, R118). -/

def execAddi (d a : BitVec 5) (i : BitVec 15) (s : State) : Res := s.alu1 d.toNat a.toNat (· + sx i) 4
def execAndi (d a : BitVec 5) (i : BitVec 15) (s : State) : Res := s.alu1 d.toNat a.toNat (· &&& sx i) 4
def execOri (d a : BitVec 5) (i : BitVec 15) (s : State) : Res := s.alu1 d.toNat a.toNat (· ||| sx i) 4
def execXori (d a : BitVec 5) (i : BitVec 15) (s : State) : Res := s.alu1 d.toNat a.toNat (· ^^^ sx i) 4
def execSlli (d a : BitVec 5) (h : BitVec 6) (s : State) : Res := s.alu1 d.toNat a.toNat (shl · (w64 h.toNat)) 4
def execSrli (d a : BitVec 5) (h : BitVec 6) (s : State) : Res := s.alu1 d.toNat a.toNat (shr · (w64 h.toNat)) 4
def execSrai (d a : BitVec 5) (h : BitVec 6) (s : State) : Res := s.alu1 d.toNat a.toNat (sar · (w64 h.toNat)) 4

/-! Scaled addresses and bit fields (R119, R120). -/

def execAdda (d a b : BitVec 5) (k : BitVec 3) (s : State) : Res :=
  s.alu2 d.toNat a.toNat b.toNat (fun x y => x + (y <<< k.toNat)) 4
def execBext (d a : BitVec 5) (x : BitVec 1) (l w : BitVec 6) (s : State) : Res :=
  s.alu1 d.toNat a.toNat (fun v => bitField v (x == 1) l.toNat w.toNat) 4
/-- BINS reads xd as well as xa. -/
def execBins (d a : BitVec 5) (l w : BitVec 6) (s : State) : Res :=
  s.alu2 d.toNat d.toNat a.toNat (fun old v => bitInsert old v l.toNat w.toNat) 4

/-! Moves, constants, selection (R121 to R124). -/

/-- LDK reads the copy of the window; a word whose copy fails its parity is read again from the store, for whose reply the thread parks, and
the copy is rewritten from it (R123). The store holds the identity words of the earliest launch: a later launch's LDK gives, and its copy
takes, those (DESIGN CHOICE, log 32). -/
def execLdk (d : BitVec 5) (k : BitVec 8) (s : State) : Res :=
  let t := s.cur
  let i := k.toNat
  if (s.core t.core).cwBad.contains i then s.replied (.ldk d k) false fun s =>
    let w := keyLs t.core (8 * i) / 8
    let r := s.bankRead w
    let s := r.1
    let v := w64 (leNat (s.rd (8 * w) 8))
    let serial := s.me.serial
    let s := if r.2 then (s.parityReport serial w (w64 (0x7F * 2 ^ 56 + 8 * i))).updMe fun c => c.cirSet 2 else s
    let s := s.updCore t.core fun x =>
      if perLaunch i then
        { x with cwBad := x.cwBad.erase i, ident := mset x.ident serial.toNat (mset (mget [] x.ident serial.toNat) i v) }
      else { x with cwBad := x.cwBad.erase i, cw := mset x.cw i v }
    .next (s.updMe fun c => ((c.consumeAt (s.pz w) (w64 (0x7F * 2 ^ 56 + 8 * i))).setX d.toNat v (s.pz w)).next 4)
  else s.toX d.toNat ((s.core t.core).window s.me.serial i) false 4

def execMove (d a : BitVec 5) (s : State) : Res := s.alu1 d.toNat a.toNat id 4
def execLde (e : BitVec 3) (a : BitVec 5) (s : State) : Res :=
  .next (s.updMe fun c => ((c.consume (c.xp a.toNat)).setE e.toNat (c.x a.toNat) (c.xp a.toNat)).next 4)
def execMoveXE (d : BitVec 5) (e : BitVec 3) (s : State) : Res := s.toX d.toNat (s.me.e e.toNat) (s.me.ep e.toNat) 4
/-- DEDUCED, log 33. -/
def execSel (d a b : BitVec 5) (n : BitVec 1) (p : BitVec 3) (s : State) : Res :=
  let c := s.me
  s.toX d.toNat (if c.p p.toNat != (n == 1) then c.x a.toNat else c.x b.toNat)
    (c.pp p.toNat || c.xp a.toNat || c.xp b.toNat) 4

/-! Predicate logic (R126) and compares (R125). -/

def execPand (d a b : BitVec 3) (n m : BitVec 1) (s : State) : Res :=
  let c := s.me
  s.toP d.toNat ((c.p a.toNat != (n == 1)) && (c.p b.toNat != (m == 1))) (c.pp a.toNat || c.pp b.toNat) 4
def execPor (d a b : BitVec 3) (n m : BitVec 1) (s : State) : Res :=
  let c := s.me
  s.toP d.toNat ((c.p a.toNat != (n == 1)) || (c.p b.toNat != (m == 1))) (c.pp a.toNat || c.pp b.toNat) 4
def execPnot (d a : BitVec 3) (s : State) : Res := s.toP d.toNat (!s.me.p a.toNat) (s.me.pp a.toNat) 4
def execPmov (d a : BitVec 3) (n : BitVec 1) (s : State) : Res :=
  s.toP d.toNat (s.me.p a.toNat != (n == 1)) (s.me.pp a.toNat) 4
def execCmp (p cc : BitVec 3) (a b : BitVec 5) (s : State) : Res :=
  let c := s.me
  s.toP p.toNat (condition cc (c.x a.toNat) (c.x b.toNat)) (c.xp a.toNat || c.xp b.toNat) 4
def execCmpi (p cc : BitVec 3) (a : BitVec 5) (i : BitVec 14) (s : State) : Res :=
  s.toP p.toNat (condition cc (s.me.x a.toNat) (sx i)) (s.me.xp a.toNat) 4

/-! Branches and jumps (R127, R128; 05 R103). -/

def execBr (o : BitVec 25) (s : State) : Res := .next (s.updMe fun c => c.goto (c.target o))
def execBrp (n : BitVec 1) (p : BitVec 3) (o : BitVec 21) (s : State) : Res :=
  .next (s.updMe fun c =>
    let c' := c.consume (c.pp p.toNat)
    if c.p p.toNat != (n == 1) then c'.goto (c.target o) else c'.next 4)
def execJal (d : BitVec 5) (o : BitVec 20) (s : State) : Res :=
  .next (s.updMe fun c => (c.setX d.toNat (c.at_ + 4) false).goto (c.target o))
/-- JR: an odd target traps ALIGN at the JR, and xd keeps its old value. A marked xa marks the link too (R113) (DEDUCED, log 33). -/
def execJr (d a : BitVec 5) (s : State) : Res :=
  let t := s.me.x a.toNat
  if bit t 0 then .next (s.trap 8 2 t)
  else .next (s.updMe fun c =>
    ((c.consume (c.xp a.toNat)).setX d.toNat (c.at_ + 4) (c.xp a.toNat)).goto t)

/-! Hints (05 R100; R132). -/

def execNop (_h : BitVec 25) (s : State) : Res := .next (s.updMe fun c => c.next 4)
def execHint (_h : BitVec 25) (s : State) : Res := .next (s.updMe fun c => c.next 4)
def execCHint (_h : BitVec 11) (s : State) : Res := .next (s.updMe fun c => c.next 2)

/-! Compact forms (R133). -/

def execCAdd (d r : BitVec 5) (s : State) : Res := s.alu2 d.toNat d.toNat r.toNat (· + ·) 2
def execCAddi (d : BitVec 5) (i : BitVec 6) (s : State) : Res := s.alu1 d.toNat d.toNat (· + sx i) 2
def execCMove (d r : BitVec 5) (s : State) : Res := s.alu1 d.toNat r.toNat id 2
def execCBr (o : BitVec 11) (s : State) : Res := .next (s.updMe fun c => c.goto (c.target o))
def execCBrp (n : BitVec 1) (p : BitVec 3) (o : BitVec 7) (s : State) : Res :=
  .next (s.updMe fun c =>
    let c' := c.consume (c.pp p.toNat)
    if c.p p.toNat != (n == 1) then c'.goto (c.target o) else c'.next 2)

end Sys2Proof.Machine
end

