-- ==== Sys2Proof/Machine/Dispatch.lean ====
section
/-! DEFINITION. Which meaning an instruction has: one arm per constructor. -/

namespace Sys2Proof.Machine

def exec (i : Instr) (s : State) : Host.Outcome State Fault Refusal :=
  match i with
  | .add d a b => Sys2Proof.Machine.execAdd d a b s
  | .sub d a b => Sys2Proof.Machine.execSub d a b s
  | .and d a b => Sys2Proof.Machine.execAnd d a b s
  | .or d a b => Sys2Proof.Machine.execOr d a b s
  | .xor d a b => Sys2Proof.Machine.execXor d a b s
  | .sll d a b => Sys2Proof.Machine.execSll d a b s
  | .srl d a b => Sys2Proof.Machine.execSrl d a b s
  | .sra d a b => Sys2Proof.Machine.execSra d a b s
  | .min d a b => Sys2Proof.Machine.execMin d a b s
  | .max d a b => Sys2Proof.Machine.execMax d a b s
  | .minu d a b => Sys2Proof.Machine.execMinu d a b s
  | .maxu d a b => Sys2Proof.Machine.execMaxu d a b s
  | .clz d a => Sys2Proof.Machine.execClz d a s
  | .ctz d a => Sys2Proof.Machine.execCtz d a s
  | .popc d a => Sys2Proof.Machine.execPopc d a s
  | .mul d a b => Sys2Proof.Machine.execMul d a b s
  | .mulh d a b => Sys2Proof.Machine.execMulh d a b s
  | .mulhu d a b => Sys2Proof.Machine.execMulhu d a b s
  | .div d a b => Sys2Proof.Machine.execDiv d a b s
  | .divu d a b => Sys2Proof.Machine.execDivu d a b s
  | .rem d a b => Sys2Proof.Machine.execRem d a b s
  | .remu d a b => Sys2Proof.Machine.execRemu d a b s
  | .addi d a i_ => Sys2Proof.Machine.execAddi d a i_ s
  | .andi d a i_ => Sys2Proof.Machine.execAndi d a i_ s
  | .ori d a i_ => Sys2Proof.Machine.execOri d a i_ s
  | .xori d a i_ => Sys2Proof.Machine.execXori d a i_ s
  | .adda d a b s_ => Sys2Proof.Machine.execAdda d a b s_ s
  | .slli d a s_ => Sys2Proof.Machine.execSlli d a s_ s
  | .srli d a s_ => Sys2Proof.Machine.execSrli d a s_ s
  | .srai d a s_ => Sys2Proof.Machine.execSrai d a s_ s
  | .bext d a x l w => Sys2Proof.Machine.execBext d a x l w s
  | .bins d a l w => Sys2Proof.Machine.execBins d a l w s
  | .ldk d k => Sys2Proof.Machine.execLdk d k s
  | .move d a => Sys2Proof.Machine.execMove d a s
  | .lde e a => Sys2Proof.Machine.execLde e a s
  | .moveXE d e => Sys2Proof.Machine.execMoveXE d e s
  | .sel d a b n p => Sys2Proof.Machine.execSel d a b n p s
  | .pand d a b n m => Sys2Proof.Machine.execPand d a b n m s
  | .por d a b n m => Sys2Proof.Machine.execPor d a b n m s
  | .pnot d a => Sys2Proof.Machine.execPnot d a s
  | .pmov d a n => Sys2Proof.Machine.execPmov d a n s
  | .br o => Sys2Proof.Machine.execBr o s
  | .brp n p o => Sys2Proof.Machine.execBrp n p o s
  | .jal d o => Sys2Proof.Machine.execJal d o s
  | .jr d a => Sys2Proof.Machine.execJr d a s
  | .ld t b w o s_ f => Sys2Proof.Machine.execLd t b w o s_ f s
  | .st t b w o s_ f => Sys2Proof.Machine.execSt t b w o s_ f s
  | .ldq q b o s_ f => Sys2Proof.Machine.execLdq q b o s_ f s
  | .stq q b o s_ f => Sys2Proof.Machine.execStq q b o s_ f s
  | .ldfKeep t b o s_ f => Sys2Proof.Machine.execLdfKeep t b o s_ f s
  | .ldfTake t b o s_ f => Sys2Proof.Machine.execLdfTake t b o s_ f s
  | .stf t b o s_ f => Sys2Proof.Machine.execStf t b o s_ f s
  | .few b f => Sys2Proof.Machine.execFew b f s
  | .feq p b f => Sys2Proof.Machine.execFeq p b f s
  | .amoadd d a b w o s_ => Sys2Proof.Machine.execAmoadd d a b w o s_ s
  | .amomin d a b u w o s_ => Sys2Proof.Machine.execAmomin d a b u w o s_ s
  | .amomax d a b u w o s_ => Sys2Proof.Machine.execAmomax d a b u w o s_ s
  | .amoand d a b w o s_ => Sys2Proof.Machine.execAmoand d a b w o s_ s
  | .amoor d a b w o s_ => Sys2Proof.Machine.execAmoor d a b w o s_ s
  | .amoxor d a b w o s_ => Sys2Proof.Machine.execAmoxor d a b w o s_ s
  | .amoswp d a b w o s_ => Sys2Proof.Machine.execAmoswp d a b w o s_ s
  | .amocas d a b w o s_ => Sys2Proof.Machine.execAmocas d a b w o s_ s
  | .bankopAdd q a c n => Sys2Proof.Machine.execBankopAdd q a c n s
  | .bankopMax q a c n => Sys2Proof.Machine.execBankopMax q a c n s
  | .bankopMin q a c n => Sys2Proof.Machine.execBankopMin q a c n s
  | .bankopAxpy q a c n => Sys2Proof.Machine.execBankopAxpy q a c n s
  | .fence s_ => Sys2Proof.Machine.execFence s_ s
  | .cmp p c a b => Sys2Proof.Machine.execCmp p c a b s
  | .cmpi p c a i_ => Sys2Proof.Machine.execCmpi p c a i_ s
  | .barinit a b => Sys2Proof.Machine.execBarinit a b s
  | .barArrive a => Sys2Proof.Machine.execBarArrive a s
  | .barWait a => Sys2Proof.Machine.execBarWait a s
  | .htest p h => Sys2Proof.Machine.execHtest p h s
  | .hcancel h => Sys2Proof.Machine.execHcancel h s
  | .movhHH d h => Sys2Proof.Machine.execMovhHH d h s
  | .ffdone => Sys2Proof.Machine.execFfdone s
  | .movhHX d a => Sys2Proof.Machine.execMovhHX d a s
  | .movhXH d h => Sys2Proof.Machine.execMovhXH d h s
  | .send s_ c => Sys2Proof.Machine.execSend s_ c s
  | .recv d c => Sys2Proof.Machine.execRecv d c s
  | .sendt o c => Sys2Proof.Machine.execSendt o c s
  | .recvt o c => Sys2Proof.Machine.execRecvt o c s
  | .chset s_ c => Sys2Proof.Machine.execChset s_ c s
  | .chreset c => Sys2Proof.Machine.execChreset c s
  | .msgbind s_ => Sys2Proof.Machine.execMsgbind s_ s
  | .waitall m => Sys2Proof.Machine.execWaitall m s
  | .waitany m => Sys2Proof.Machine.execWaitany m s
  | .cpy h d s_ l => Sys2Proof.Machine.execCpy h d s_ l s
  | .cpyT8 h d s_ l => Sys2Proof.Machine.execCpyT8 h d s_ l s
  | .cpyT16 h d s_ l => Sys2Proof.Machine.execCpyT16 h d s_ l s
  | .cpys h d s_ l => Sys2Proof.Machine.execCpys h d s_ l s
  | .cpyg h d b c w => Sys2Proof.Machine.execCpyg h d b c w s
  | .pfetch a l => Sys2Proof.Machine.execPfetch a l s
  | .rstore d s_ l => Sys2Proof.Machine.execRstore d s_ l s
  | .strmBind v a => Sys2Proof.Machine.execStrmBind v a s
  | .strmEnd v => Sys2Proof.Machine.execStrmEnd v s
  | .restrictWsum h d s_ z => Sys2Proof.Machine.execRestrictWsum h d s_ z s
  | .restrictMax h d s_ z => Sys2Proof.Machine.execRestrictMax h d s_ z s
  | .restrictMin h d s_ z => Sys2Proof.Machine.execRestrictMin h d s_ z s
  | .restrictGather h d s_ z => Sys2Proof.Machine.execRestrictGather h d s_ z s
  | .prolongInterp h d s_ z => Sys2Proof.Machine.execProlongInterp h d s_ z s
  | .prolongBcast h d s_ z => Sys2Proof.Machine.execProlongBcast h d s_ z s
  | .prolongScatter h d s_ z => Sys2Proof.Machine.execProlongScatter h d s_ z s
  | .lwload h i_ s_ l => Sys2Proof.Machine.execLwload h i_ s_ l s
  | .lcfg i_ v => Sys2Proof.Machine.execLcfg i_ v s
  | .lstat d => Sys2Proof.Machine.execLstat d s
  | .lwait => Sys2Proof.Machine.execLwait s
  | .haloRun h a b => Sys2Proof.Machine.execHaloRun h a b s
  | .haloStat h d => Sys2Proof.Machine.execHaloStat h d s
  | .vld v a f m e => Sys2Proof.Machine.execVld v a f m e s
  | .vst v a m e => Sys2Proof.Machine.execVst v a m e s
  | .vlds v a b f m e => Sys2Proof.Machine.execVlds v a b f m e s
  | .vldx v a i_ f m e => Sys2Proof.Machine.execVldx v a i_ f m e s
  | .vstx v a i_ m e => Sys2Proof.Machine.execVstx v a i_ m e s
  | .vadd d a b m e => Sys2Proof.Machine.execVadd d a b m e s
  | .vsub d a b m e => Sys2Proof.Machine.execVsub d a b m e s
  | .vmul d a b m e => Sys2Proof.Machine.execVmul d a b m e s
  | .vfma d a b c m e => Sys2Proof.Machine.execVfma d a b c m e s
  | .vfms d a b c m e => Sys2Proof.Machine.execVfms d a b c m e s
  | .vmin d a b m e => Sys2Proof.Machine.execVmin d a b m e s
  | .vmax d a b m e => Sys2Proof.Machine.execVmax d a b m e s
  | .vabs d a m e => Sys2Proof.Machine.execVabs d a m e s
  | .vneg d a m e => Sys2Proof.Machine.execVneg d a m e s
  | .vrcp d a m e => Sys2Proof.Machine.execVrcp d a m e s
  | .vrsq d a m e => Sys2Proof.Machine.execVrsq d a m e s
  | .vexp2 d a m e => Sys2Proof.Machine.execVexp2 d a m e s
  | .vlog2 d a m e => Sys2Proof.Machine.execVlog2 d a m e s
  | .vtanh d a m e => Sys2Proof.Machine.execVtanh d a m e s
  | .vand d a b m e => Sys2Proof.Machine.execVand d a b m e s
  | .vor d a b m e => Sys2Proof.Machine.execVor d a b m e s
  | .vxor d a b m e => Sys2Proof.Machine.execVxor d a b m e s
  | .vshl d a b m e => Sys2Proof.Machine.execVshl d a b m e s
  | .vshr d a b m e => Sys2Proof.Machine.execVshr d a b m e s
  | .viadd d a b m e => Sys2Proof.Machine.execViadd d a b m e s
  | .vimul d a b m e => Sys2Proof.Machine.execVimul d a b m e s
  | .vsel d a b m => Sys2Proof.Machine.execVsel d a b m s
  | .vcmpEq k a b m e => Sys2Proof.Machine.execVcmpEq k a b m e s
  | .vcmpNe k a b m e => Sys2Proof.Machine.execVcmpNe k a b m e s
  | .vcmpLt k a b m e => Sys2Proof.Machine.execVcmpLt k a b m e s
  | .vcmpLtu k a b m e => Sys2Proof.Machine.execVcmpLtu k a b m e s
  | .vcmpGe k a b m e => Sys2Proof.Machine.execVcmpGe k a b m e s
  | .vcmpGeu k a b m e => Sys2Proof.Machine.execVcmpGeu k a b m e s
  | .vred d a o m e z => Sys2Proof.Machine.execVred d a o m e z s
  | .vscan d a o m e z => Sys2Proof.Machine.execVscan d a o m e z s
  | .vperm d a b m e z => Sys2Proof.Machine.execVperm d a b m e z s
  | .vsort d a b c m e z => Sys2Proof.Machine.execVsort d a b c m e z s
  | .vcvt d a n m e => Sys2Proof.Machine.execVcvt d a n m e s
  | .vpack d a n m e => Sys2Proof.Machine.execVpack d a n m e s
  | .vunpack d a n m e => Sys2Proof.Machine.execVunpack d a n m e s
  | .mand d a b m e => Sys2Proof.Machine.execMand d a b m e s
  | .mor d a b m e => Sys2Proof.Machine.execMor d a b m e s
  | .mnot d a m e => Sys2Proof.Machine.execMnot d a m e s
  | .vbcast d a m e => Sys2Proof.Machine.execVbcast d a m e s
  | .vmovx v d b => Sys2Proof.Machine.execVmovx v d b s
  | .vrot d a x m e => Sys2Proof.Machine.execVrot d a x m e s
  | .vscale d a x m e => Sys2Proof.Machine.execVscale d a x m e s
  | .vsetf d n => Sys2Proof.Machine.execVsetf d n s
  | .vfence => Sys2Proof.Machine.execVfence s
  | .rngkey a b => Sys2Proof.Machine.execRngkey a b s
  | .rnggen d a b => Sys2Proof.Machine.execRnggen d a b s
  | .stemp a b => Sys2Proof.Machine.execStemp a b s
  | .stopk d a b => Sys2Proof.Machine.execStopk d a b s
  | .stopp d a b => Sys2Proof.Machine.execStopp d a b s
  | .smerge d a b => Sys2Proof.Machine.execSmerge d a b s
  | .sdraw d a b => Sys2Proof.Machine.execSdraw d a b s
  | .specOpen d a b => Sys2Proof.Machine.execSpecOpen d a b s
  | .specAppend d a b => Sys2Proof.Machine.execSpecAppend d a b s
  | .specVerify d a b => Sys2Proof.Machine.execSpecVerify d a b s
  | .specCommit d a => Sys2Proof.Machine.execSpecCommit d a s
  | .specAbort d a => Sys2Proof.Machine.execSpecAbort d a s
  | .post a => Sys2Proof.Machine.execPost a s
  | .postTry p a => Sys2Proof.Machine.execPostTry p a s
  | .take d a => Sys2Proof.Machine.execTake d a s
  | .launch d a => Sys2Proof.Machine.execLaunch d a s
  | .launchTry p a => Sys2Proof.Machine.execLaunchTry p a s
  | .setpred a b => Sys2Proof.Machine.execSetpred a b s
  | .addsucc d a b => Sys2Proof.Machine.execAddsucc d a b s
  | .evict d a => Sys2Proof.Machine.execEvict d a s
  | .getc d c => Sys2Proof.Machine.execGetc d c s
  | .setc a c => Sys2Proof.Machine.execSetc a c s
  | .trap c => Sys2Proof.Machine.execTrap c s
  | .tret => Sys2Proof.Machine.execTret s
  | .brk c => Sys2Proof.Machine.execBrk c s
  | .chkerr d => Sys2Proof.Machine.execChkerr d s
  | .gstop a => Sys2Proof.Machine.execGstop a s
  | .stepctl a => Sys2Proof.Machine.execStepctl a s
  | .suspend => Sys2Proof.Machine.execSuspend s
  | .yield => Sys2Proof.Machine.execYield s
  | .retire => Sys2Proof.Machine.execRetire s
  | .nop h => Sys2Proof.Machine.execNop h s
  | .hint h => Sys2Proof.Machine.execHint h s
  | .cHint h => Sys2Proof.Machine.execCHint h s
  | .cAdd d s_ => Sys2Proof.Machine.execCAdd d s_ s
  | .cAddi d i_ => Sys2Proof.Machine.execCAddi d i_ s
  | .cMove d s_ => Sys2Proof.Machine.execCMove d s_ s
  | .cLd t b o => Sys2Proof.Machine.execCLd t b o s
  | .cSt t b o => Sys2Proof.Machine.execCSt t b o s
  | .cBr o => Sys2Proof.Machine.execCBr o s
  | .cBrp n p o => Sys2Proof.Machine.execCBrp n p o s
  | .sbNext s_ d => Sys2Proof.Machine.execSbNext s_ d s
  | .sqPush t s_ => Sys2Proof.Machine.execSqPush t s_ s
  | .sqPop t s_ d => Sys2Proof.Machine.execSqPop t s_ d s
  | .bqWait s_ d => Sys2Proof.Machine.execBqWait s_ d s
  | .ecall => Sys2Proof.Machine.execEcall s
  | .mnop => Sys2Proof.Machine.execMnop s
  | .mma acc init asrc k addr => Sys2Proof.Machine.execMma acc init asrc k addr s
  | .mmaS acc init asrc k addr xval sa sb => Sys2Proof.Machine.execMmaS acc init asrc k addr xval sa sb s
  | .mloada dest addr len => Sys2Proof.Machine.execMloada dest addr len s
  | .mrot addr => Sys2Proof.Machine.execMrot addr s
  | .mrotLd k addr => Sys2Proof.Machine.execMrotLd k addr s
  | .maccLd acc int addr => Sys2Proof.Machine.execMaccLd acc int addr s
  | .maccSt acc clr conv ofmt addr => Sys2Proof.Machine.execMaccSt acc clr conv ofmt addr s
  | .mcfg xval => Sys2Proof.Machine.execMcfg xval s
  | .mchk acc acc2 addr => Sys2Proof.Machine.execMchk acc acc2 addr s
  | .mzero mask int => Sys2Proof.Machine.execMzero mask int s
  | .mfence => Sys2Proof.Machine.execMfence s
  | .mtag addr xval => Sys2Proof.Machine.execMtag addr xval s
  | .hSend base even ev peer ch len off => Sys2Proof.Machine.execHSend base even ev peer ch len off s
  | .hRecv base even ev peer ch len off => Sys2Proof.Machine.execHRecv base even ev peer ch len off s
  | .hReduce base even ev peer ch opr len off => Sys2Proof.Machine.execHReduce base even ev peer ch opr len off s
  | .hCopy base even ev sbase len off => Sys2Proof.Machine.execHCopy base even ev sbase len off s
  | .hWait ev value => Sys2Proof.Machine.execHWait ev value s
  | .hSignal ev peer value => Sys2Proof.Machine.execHSignal ev peer value s
  | .hLoop lc mask back count stp => Sys2Proof.Machine.execHLoop lc mask back count stp s
  | .hEnd => Sys2Proof.Machine.execHEnd s
  | .rv64imc w => Sys2Proof.Machine.execRv64imc w s
  | .reservedOpcode detail wide w => Sys2Proof.Machine.execReservedOpcode detail wide w s
  | .haloTransfer die peer comm ch inbound => Sys2Proof.Machine.execHaloTransfer die peer comm ch inbound s
  | .haloSignalArrival die => Sys2Proof.Machine.execHaloSignalArrival die s
  | .haloCancelled die tag => Sys2Proof.Machine.execHaloCancelled die tag s
  | .rstoreArrival port page off data marks => Sys2Proof.Machine.execRstoreArrival port page off data marks s
  | .rstoreAcknowledgement t refusal => Sys2Proof.Machine.execRstoreAcknowledgement t refusal s
  | .wake t => Sys2Proof.Machine.execWake t s
  | .eviction t => Sys2Proof.Machine.execEviction t s
  | .evictionWriteback t => Sys2Proof.Machine.execEvictionWriteback t s
  | .suspensionWriteback t => Sys2Proof.Machine.execSuspensionWriteback t s
  | .dispatch t => Sys2Proof.Machine.execDispatch t s
  | .condenserArrival die tier => Sys2Proof.Machine.execCondenserArrival die tier s
  | .priorityAgeing die tier n => Sys2Proof.Machine.execPriorityAgeing die tier n s
  | .affinityHintExpiry die tier n => Sys2Proof.Machine.execAffinityHintExpiry die tier n s
  | .packetParse q => Sys2Proof.Machine.execPacketParse q s
  | .fencePoll q => Sys2Proof.Machine.execFencePoll q s
  | .fenceTimeout q => Sys2Proof.Machine.execFenceTimeout q s
  | .launchAdmission serial => Sys2Proof.Machine.execLaunchAdmission serial s
  | .recordExpansion serial => Sys2Proof.Machine.execRecordExpansion serial s
  | .launchCompletion serial => Sys2Proof.Machine.execLaunchCompletion serial s
  | .completionEntryWrite cq => Sys2Proof.Machine.execCompletionEntryWrite cq s
  | .watchdogExpiry serial => Sys2Proof.Machine.execWatchdogExpiry serial s
  | .pairScrubComplete t => Sys2Proof.Machine.execPairScrubComplete t s
  | .forcedPreemption serial => Sys2Proof.Machine.execForcedPreemption serial s
  | .cheapPreemption serial => Sys2Proof.Machine.execCheapPreemption serial s
  | .gangStop c serial => Sys2Proof.Machine.execGangStop c serial s
  | .saveBlock c => Sys2Proof.Machine.execSaveBlock c s
  | .restore serial => Sys2Proof.Machine.execRestore serial s
  | .channelHandshake c => Sys2Proof.Machine.execChannelHandshake c s
  | .ringMessageArrival c => Sys2Proof.Machine.execRingMessageArrival c s
  | .messageReturn c n => Sys2Proof.Machine.execMessageReturn c n s
  | .channelTimeout t => Sys2Proof.Machine.execChannelTimeout t s
  | .channelAudit c n => Sys2Proof.Machine.execChannelAudit c n s
  | .barrierTimeout t recorded => Sys2Proof.Machine.execBarrierTimeout t recorded s
  | .rowClean bank row => Sys2Proof.Machine.execRowClean bank row s
  | .bankRetirement bank => Sys2Proof.Machine.execBankRetirement bank s
  | .patrolScrub word => Sys2Proof.Machine.execPatrolScrub word s
  | .faultRecordRetry => Sys2Proof.Machine.execFaultRecordRetry s
  | .vuCommandExecute c => Sys2Proof.Machine.execVuCommandExecute c s
  | .copyComplete c tag => Sys2Proof.Machine.execCopyComplete c tag s
  | .copyCancelled c tag => Sys2Proof.Machine.execCopyCancelled c tag s
  | .lensOperationComplete c => Sys2Proof.Machine.execLensOperationComplete c s
  | .lensCancelled c tag => Sys2Proof.Machine.execLensCancelled c tag s
  | .flitRetransmit link => Sys2Proof.Machine.execFlitRetransmit link s
  | .linkLost link => Sys2Proof.Machine.execLinkLost link s
  | .currentGrant c => Sys2Proof.Machine.execCurrentGrant c s
  | .slewEnd => Sys2Proof.Machine.execSlewEnd s
  | .sensorReading die tier clus celsius => Sys2Proof.Machine.execSensorReading die tier clus celsius s
  | .thermalTrip => Sys2Proof.Machine.execThermalTrip s
  | .movedRecordExpiry die addr => Sys2Proof.Machine.execMovedRecordExpiry die addr s
  | .tlbInvalidationAck => Sys2Proof.Machine.execTlbInvalidationAck s
  | .migrationCopyDone stack slot => Sys2Proof.Machine.execMigrationCopyDone stack slot s
  | .powerOnReset images => Sys2Proof.Machine.execPowerOnReset images s
  | .hostReset images => Sys2Proof.Machine.execHostReset images s
  | .attestationQuote => Sys2Proof.Machine.execAttestationQuote s
  | .recoveryVerify device => Sys2Proof.Machine.execRecoveryVerify device s
  | .psctlRequest v => Sys2Proof.Machine.execPsctlRequest v s
  | .replay serial => Sys2Proof.Machine.execReplay serial s
  | .tlbinv v => Sys2Proof.Machine.execTlbinv v s
  | .migrationStart v => Sys2Proof.Machine.execMigrationStart v s
  | .migrationEnd v => Sys2Proof.Machine.execMigrationEnd v s
  | .quoteRequest nonce buf => Sys2Proof.Machine.execQuoteRequest nonce buf s
  | .debugToken level token => Sys2Proof.Machine.execDebugToken level token s
  | .recoveryGo v => Sys2Proof.Machine.execRecoveryGo v s
  | .halt v => Sys2Proof.Machine.execHalt v s
  | .resume v => Sys2Proof.Machine.execResume v s
  | .step v => Sys2Proof.Machine.execStep v s
  | .ctxres v => Sys2Proof.Machine.execCtxres v s
  | .resave v => Sys2Proof.Machine.execResave v s
  | .sqDoorbell q v => Sys2Proof.Machine.execSqDoorbell q v s
  | .cqConsumerIndex q v => Sys2Proof.Machine.execCqConsumerIndex q v s
  | .queueEnable completion q v => Sys2Proof.Machine.execQueueEnable completion q v s
  | .queueAbort q v => Sys2Proof.Machine.execQueueAbort q v s
  | .queueResume q v => Sys2Proof.Machine.execQueueResume q v s
  | .sbqData port value => Sys2Proof.Machine.execSbqData port value s
  | .sbqSkip port level => Sys2Proof.Machine.execSbqSkip port level s
  | .sbqStop port => Sys2Proof.Machine.execSbqStop port s
  | .pfctlClr v => Sys2Proof.Machine.execPfctlClr v s
  | .registerWrite off v => Sys2Proof.Machine.execRegisterWrite off v s
  | .hCopyCompletion die tag n => Sys2Proof.Machine.execHCopyCompletion die tag n s
  | .repairRecordReset => Sys2Proof.Machine.execRepairRecordReset s

end Sys2Proof.Machine
end

