-- ==== Sys2Proof/Machine/Pairs.lean ====
section
/-! DEFINITION. Redundant pairs: an instruction of a pair runs with the leader's registers and with the trailer's, and both copies
are compared (07 R168; 10 R222 to R227; 06 R131). -/

namespace Sys2Proof.Machine

/-- Instructions whose values the trailer gets from the leader by the load-value queue, with no comparison (R168, R131). -/
def Instr.isValue (i : Instr) : Bool :=
  match i with
  | .ld .. => true | .ldq .. => true | .cLd .. => true | .ldfKeep .. => true | .ldfTake .. => true | .feq .. => true
  | .recv .. => true | .recvt .. => true | .htest .. => true | .waitall .. => true | .waitany .. => true | .ffdone => true
  | .lwait => true | .getc .. => true | .lstat .. => true | .haloStat .. => true | _ => false

/-- Instructions whose results each thread of a pair computes from its own registers. -/
def Instr.isLocal (i : Instr) : Bool :=
  match i with
  | .add .. => true | .sub .. => true | .and .. => true | .or .. => true | .xor .. => true | .sll .. => true | .srl .. => true
  | .sra .. => true | .min .. => true | .max .. => true | .minu .. => true | .maxu .. => true | .clz .. => true | .ctz .. => true
  | .popc .. => true | .mul .. => true | .mulh .. => true | .mulhu .. => true | .div .. => true | .divu .. => true
  | .rem .. => true | .remu .. => true | .addi .. => true | .andi .. => true | .ori .. => true | .xori .. => true
  | .adda .. => true | .slli .. => true | .srli .. => true | .srai .. => true | .bext .. => true | .bins .. => true
  | .ldk .. => true | .move .. => true | .lde .. => true | .moveXE .. => true | .sel .. => true | .pand .. => true
  | .por .. => true | .pnot .. => true | .pmov .. => true | .br .. => true | .brp .. => true | .jal .. => true | .jr .. => true
  | .cmp .. => true | .cmpi .. => true | .movhHH .. => true | .movhHX .. => true | .movhXH .. => true | .nop .. => true
  | .hint .. => true | .cHint .. => true | .cAdd .. => true | .cAddi .. => true | .cMove .. => true | .cBr .. => true
  | .cBrp .. => true | _ => false

/-- Registers of a context: x, p, h, e with their marks. -/
def Ctx.withRegs (c d : Ctx) : Ctx :=
  { c with xs := d.xs, xm := d.xm, ps := d.ps, pm := d.pm, hs := d.hs, es := d.es, em := d.em }

/-- The state as the trailer's copy of an instruction sees it: the leader's context with the trailer's registers. -/
def State.asTrailer (s : State) (t u : ThreadId) : State := s.updCtx t fun c => c.withRegs (s.ctx u)

/-- What two copies of a local instruction may not differ in: everything but the registers of the pair and the trailer's own
context (DEDUCED, log 26). -/
def State.compared (s : State) (t u : ThreadId) : State :=
  (s.updCtx t fun c => c.withRegs .reset).updCtx u fun _ => .reset

/-- x registers that a compared instruction reads (10 R224), the payload of a suspension point among them (04 R86). -/
def Instr.xsrcs (i : Instr) : List Nat :=
  match i with
  | .amoadd _ a b _ _ _ => [a.toNat, b.toNat] | .amomin _ a b _ _ _ _ => [a.toNat, b.toNat]
  | .amomax _ a b _ _ _ _ => [a.toNat, b.toNat] | .amoand _ a b _ _ _ => [a.toNat, b.toNat]
  | .amoor _ a b _ _ _ => [a.toNat, b.toNat] | .amoxor _ a b _ _ _ => [a.toNat, b.toNat]
  | .amoswp _ a b _ _ _ => [a.toNat, b.toNat] | .amocas _ a b _ _ _ => [a.toNat, b.toNat]
  | .rnggen _ a b => [a.toNat, b.toNat] | .stopk _ a b => [a.toNat, b.toNat] | .stopp _ a b => [a.toNat, b.toNat]
  | .smerge _ a b => [a.toNat, b.toNat] | .sdraw _ a b => [a.toNat, b.toNat] | .specOpen _ a b => [a.toNat, b.toNat]
  | .specAppend _ a b => [a.toNat, b.toNat] | .specVerify _ a b => [a.toNat, b.toNat] | .specCommit _ a => [a.toNat]
  | .specAbort _ a => [a.toNat] | .addsucc _ a b => [a.toNat, b.toNat] | .take _ a => [a.toNat]
  | .launch _ a => [a.toNat] | .evict _ a => [a.toNat] | .vmovx _ _ b => [b.toNat] | .chkerr _ => []
  | .suspend => [4, 5, 6, 7] | .yield => [4, 5, 6, 7]
  | i => Instr.xregs i

/-- Handle and operand-extension registers that it reads. -/
def Instr.hsrcs (i : Instr) : List Nat := match i with | .hcancel h => [h.toNat] | _ => []
def Instr.esrcs (i : Instr) : List Nat :=
  match i with
  | .amocas .. => [0] | .bankopAxpy .. => [0] | .cpys .. => [0, 1, 2] | .cpyg .. => [0] | _ => []

/-- The values and marks that the comparator compares of a context's copy of an instruction: every address, datum and operand is
one of them, or is named in the instruction itself (10 R224). -/
def Instr.operands (i : Instr) (c : Ctx) : List (Word × Bool) :=
  (Instr.xsrcs i).map (fun r => (c.x r, c.xp r)) ++ (Instr.hsrcs i).map (fun r => ((c.h r).zeroExtend 64, false)) ++ (Instr.esrcs i).map fun r => (c.e r, c.ep r)

/-- The leader's item address, 0 when the item has none. -/
def Instr.itemAddr (i : Instr) (c : Ctx) : Word :=
  match i with
  | .st _ b w _ _ f => c.addr b f (widthOf w)
  | .stq _ b _ _ f => c.addr b f 64
  | .stf _ b _ _ f => c.addr b f 8
  | .few b f => c.addr b f 8
  | .cSt _ b f => c.x (8 + b.toNat) + sx f * 8
  | .amoadd _ a _ _ _ _ => c.x a.toNat
  | .amomin _ a _ _ _ _ _ => c.x a.toNat
  | .amomax _ a _ _ _ _ _ => c.x a.toNat
  | .amoand _ a _ _ _ _ => c.x a.toNat
  | .amoor _ a _ _ _ _ => c.x a.toNat
  | .amoxor _ a _ _ _ _ => c.x a.toNat
  | .amoswp _ a _ _ _ _ => c.x a.toNat
  | .amocas _ a _ _ _ _ => c.x a.toNat
  | .bankopAdd _ a _ _ => c.x a.toNat
  | .bankopMax _ a _ _ => c.x a.toNat
  | .bankopMin _ a _ _ => c.x a.toNat
  | .bankopAxpy _ a _ _ => c.x a.toNat
  | .barinit a _ => c.x a.toNat
  | .barArrive a => c.x a.toNat
  | .barWait a => c.x a.toNat
  | .ld _ b w _ _ f => c.addr b f (widthOf w)
  | .ldq _ b _ _ f => c.addr b f 64
  | .ldfKeep _ b _ _ f => c.addr b f 8
  | .ldfTake _ b _ _ f => c.addr b f 8
  | .feq _ b f => c.addr b f 8
  | .cLd _ b f => c.x (8 + b.toNat) + sx f * 8
  | .rstore d _ _ => c.x d.toNat
  | .strmBind _ a => c.x a.toNat
  | .haloRun _ a _ => c.x a.toNat
  | .vld _ a _ _ _ => c.x a.toNat
  | .vst _ a _ _ => c.x a.toNat
  | .vlds _ a _ _ _ _ => c.x a.toNat
  | .vldx _ a _ _ _ _ => c.x a.toNat
  | .vstx _ a _ _ _ => c.x a.toNat
  | .rngkey a _ => c.x a.toNat
  | .stemp a _ => c.x a.toNat
  | .stopk _ a _ => c.x a.toNat
  | .stopp _ a _ => c.x a.toNat
  | .smerge _ a _ => c.x a.toNat
  | .sdraw _ a _ => c.x a.toNat
  | .specOpen _ a _ => c.x a.toNat
  | .specAppend _ a _ => c.x a.toNat
  | .specVerify _ a _ => c.x a.toNat
  | .specCommit _ a => c.x a.toNat
  | .specAbort _ a => c.x a.toNat
  | .post a => c.x a.toNat
  | .postTry _ a => c.x a.toNat
  | .launch _ a => c.x a.toNat
  | .launchTry _ a => c.x a.toNat
  | _ => 0

/-- Does the PRED prefix let the instruction have its effect? -/
def Ctx.predOk (c : Ctx) (pred : Option (Bool × BitVec 3)) : Bool :=
  match pred with | some (n, p) => c.p p.toNat != n | none => true

/-- Mark of the predicate read. -/
def Ctx.predMark (c : Ctx) (pred : Option (Bool × BitVec 3)) : Bool :=
  match pred with | some (_, p) => c.pp p.toNat | none => false

/-- A mismatch (R226, R227): nothing of the item happens. Relaxed loads are abandoned; stores that the comparator has passed stay in flight
where they wait for a page. The record's page is needed for the re-post; while it is not resident the
pair waits. The third in succession is a fatal partition error (DEDUCED, log 26). -/
def State.mismatch (s : State) (t u : ThreadId) (i : Instr) : Res :=
  let c := s.ctx t
  let l := s.launchOf t
  let loc := s.devLoc l t.die c.recaddr 64 .engWrite
  match loc.key with
  | none => (s.recTrouble l.serial t.core 7 .engWrite c.recaddr loc).out
  | some key =>
      let r : Report := { cls := 2, detail := 0, engine := 0, ctx := t.ctx, unit := place t.core, addr := Instr.itemAddr i c }
      let n := mget 0 s.pairMis (misKey l.serial key) + 1
      let s := ((s.withdraw t).drainIf t fun p => !p.load).reportRefused c t
      let s := c.cs.foldl (fun s p => s.leaveEp t.core p.2) s
      let dead (own : Bool) (x : Ctx) : Ctx := { (x.withRegs .reset) with
        st := .killed, held := none, pend := x.pend.filter fun p => own && !p.load, refused := 0, stepping := false, susp := none, ahead := none }
      let s := (s.updCtx t (dead true)).updCtx u (dead false)
      let s := { s with pairMis := mset s.pairMis (misKey l.serial key) n }
      if 3 ≤ n then (s.fatal l.serial r).out
      else
        let s := s.postKey t.die t.tier key c.recaddr l.serial (threadSrc t)
        ((s.report l.serial r).updLaunch l.serial fun l => { l with rerun := true }).out

/-- The trap that a copy of an instruction takes, by TCAUSE and address: into the handler, or as the fatal error of its launch
(10 R225). -/
def State.trapOf (s : State) (t : ThreadId) (r : Res) : Option (Word × Word) :=
  match r with
  | .next a =>
      let l := s.launchOf t
      if !(s.ctx t).tmode && (a.ctx t).tmode then some ((a.ctx t).tcause, (a.ctx t).taddr)
      else match l.fatal, (a.launch l.serial).fatal with
        | none, some x => some (tcauseOf x.cls x.detail 0 0, x.addr)
        | _, _ => none
  | _ => none

/-- Run an instruction of a pair. The copies of a reading instruction agree when they trap alike; the trailer gets what the leader
read. Those of a local instruction agree when they differ in registers alone, which each thread keeps as it computed them. Those of
any other agree when their operands do; its effect is then the leader's, once (DEDUCED, log 26). -/
def State.pairRun (s : State) (t u : ThreadId) (i : Instr) (pred : Option (Bool × BitVec 3)) (f : State → Res) : Res :=
  let c := s.ctx t
  let d := s.ctx u
  let once : Res := match f s with | .next a => .next (a.pairSync t [] [] []) | r => r
  if c.predOk pred != d.predOk pred then s.mismatch t u i
  else if c.predOk pred && Instr.isValue i then
    (if s.trapOf t (f s) = s.trapOf t (f (s.asTrailer t u)) then once else s.mismatch t u i)
  else if c.predOk pred && !Instr.isLocal i then (if Instr.operands i c = Instr.operands i d then once else s.mismatch t u i)
  else match f s, f (s.asTrailer t u) with
    | .next a, .next b =>
        if a.compared t u = b.compared t u then
          .next (a.setCtx u { ((a.ctx t).withRegs (b.ctx t)) with lastIssue := (a.ctx u).lastIssue })
        else s.mismatch t u i
    | .next _, _ => s.mismatch t u i
    | r, _ => r

/-- Run an instruction of the executing thread, with its predicate. -/
def State.run (s : State) (i : Instr) (pred : Option (Bool × BitVec 3)) (f : State → Res) : Res :=
  match s.trailer s.cur with
  | some u => s.pairRun s.cur u i pred f
  | none => f s

end Sys2Proof.Machine
end

