-- ==== Sys2Proof/Machine/Turns.lean ====
section
/-! DEFINITION. The turns of the schedule (log 1, DESIGN CHOICE): a core's issue of one instruction (04 R59, R60; 05 R99), a held instruction
presented again (R64), the engines' next commands, events, and what the device and the world outside do between instructions. -/

namespace Sys2Proof.Machine

/-! A core's issue. -/

/-- A stepping context has issued its instruction: it is STOPPED again (10 R220) (DEDUCED, log 34). -/
def Ctx.endStep (c : Ctx) (now : Nat) : Ctx :=
  if c.stepping && c.susp.isNone && (c.st == .ready || c.st == .parked) then
    { c with prev := c.st, st := .stopped, stepping := false, stopAt := now }
  else c

/-- After an issue: ISSUED counts, and a single step ends (DEDUCED, log 71). -/
def State.issued (s : State) (t : ThreadId) : State :=
  let s := s.updCtx t fun c => if c.live then ({ c with issued := c.issued + 1 }.endStep (s.cycleOf t)) else c
  match s.trailer t with
  | some u => s.updCtx u fun c => { c with issued := (s.ctx t).issued, st := (s.ctx t).st, prev := (s.ctx t).prev,
                                           stepping := (s.ctx t).stepping, stopAt := (s.ctx t).stopAt }
  | none => s

/-- A fetch that meets a translation fault parks its thread; nothing is held, and the thread fetches again (05 R89). -/
def State.parkFetch (s : State) (t : ThreadId) (a : Word) : State :=
  let n := s.cycleOf t
  let s := s.postFault (faultUnit t.core) (s.ctx t).serial t.ctx 3 n a
  let h : Held := { instr := .nop 0, cause := .xlate a, since := n, retryAt := n, snap := [], pfx := 0, rlx := false,
                    left := none, fetch := true }
  (s.updCtx t fun c => { (c.setWait .parked) with held := some h, pfx := 0, rlx := false }).pairSync t [] [] []

/-- The effect of an instruction of the executing thread, after its prefixes: ILLEGAL checks, the predicate, the waits for registers
and the meaning. A false predicate only advances the pc (DEDUCED, log 80). -/
def State.effect (i : Instr) (pred : Option (Bool × BitVec 3)) (len : Nat) (s : State) : Res :=
  match illegalAt i with
  | some det => .next (s.trap 9 det 0)
  | none =>
      let m := s.me.predMark pred
      if s.me.predOk pred then (s.updMe fun c => c.consume m).waitRegs i fun s => exec i s
      else .next (s.updMe fun c => (c.consume m).next len)

/-- The meaning of an issued instruction with its prefixes, and what an issue counts. `got`: what a GETC reads. -/
def State.perform1 (s : State) (i : Instr) (pfx : Nat) (rlx : Bool) (pred : Option (Bool × BitVec 3)) (len : Nat) (got : Option Word) :
    Res :=
  let t := s.cur
  let s := s.updMe fun c => { c with pfx := pfx, rlx := rlx, got := got }
  match s.run i pred (State.effect i pred len) with
  | .next s => .next (s.issued t)
  | r => r

/-- The executing thread issues the instruction that its fetch gives. The leader of a pair has then issued, and the effect waits
for the trailer's issue (10 R222, R224). -/
def State.issue (s : State) : Res :=
  let t := s.cur
  match s.fetch t with
  | .hole pa => .fault (.noMemory pa)
  | .xfault a => .next (s.parkFetch t a)
  | .trap cls det a => .next ((s.trap cls det a).issued t)
  | .instr i pfx rlx pred len =>
      if (s.trailer t).isSome then
        .next (s.updMe fun c => { c with ahead := some { instr := i, pfx := pfx, rlx := rlx, pred := pred, len := len, got := s.reads t i } })
      else s.perform1 i pfx rlx pred len (s.reads t i)

/-- The trailer of the executing leader issues its copy: both are compared, and the effect is performed once. -/
def State.issueTrailer (s : State) : Res :=
  match s.me.ahead with
  | none => .next s
  | some a => (s.updMe fun c => { c with ahead := none }).perform1 a.instr a.pfx a.rlx a.pred a.len a.got

/-- A core's turn: the next issue of its tier's clock at that core, or at one whose issue comes in an earlier cycle. -/
def State.coreTurn (s : State) (c : CoreId) : Res :=
  let c := s.firstDue c
  match (if s.clocked then s.nextIssue c else none) with
  | none => .next s
  | some (k, n) =>
      let trails := (s.launch ((s.core c).ctx k).serial).isPair && decide (8 ≤ k)
      let s := s.updCore c fun x => { x with lastCtx := k, issuedIn := some n }
      let s := { s with clocks := mset s.clocks c.tier n, cur := c.thread (if trails then k - 8 else k) }
      let s := s.updCtx (c.thread k) fun x => { x with lastIssue := some n }
      if trails then s.issueTrailer else (s.updMe fun x => { x with pfx := 0, rlx := false }).issue

/-- A held instruction whose wake event has come is presented again, with its prefixes: it completes, or parks again. A fetch that
waited for its page lets the thread fetch again. -/
def State.present (s : State) (t : ThreadId) : Res :=
  let c := s.ctx t
  match c.held with
  | none => .next s
  | some h =>
      if !c.parked || ((s.launchOf t).isPair && decide (8 ≤ t.ctx)) then .next s
      else
        let s := { s with cur := t }
        let s := s.updMe fun c => { (c.wake (s.cycleOf t)) with pfx := h.pfx, rlx := h.rlx }
        if h.fetch then .next ((s.updMe fun c => { c with held := none, pfx := 0, rlx := false }).pairSync t [] [] [])
        else s.run h.instr none fun s => s.waitRegs h.instr fun s => exec h.instr s

/-! Engines. -/

/-- A launch whose cores are being saved, and whose core has stopped: its units take no further command (10 R210). -/
def State.savingOn (s : State) (c : CoreId) (serial : Word) : Bool :=
  (s.launch serial).st == .saving && (s.core c).stopped.contains serial

/-- Has a launch's block of a core been written, in whole or up to a fault? -/
def State.blockBegun (s : State) (c : CoreId) (serial : Word) : Bool :=
  let l := s.launch serial
  l.saveDone.contains (coreKey c) || (mfind l.saveAt (coreKey c)).isSome

/-- The tile of a core's next MROT leaves before that command's turn; not where the block that notes it is written (12 R264, R275). -/
def State.mxSendTurn (s : State) (c : CoreId) : State :=
  if (s.core c).mxu.queue.any fun q => s.savingOn c q.serial && s.blockBegun c q.serial then s else s.rotEarly c

/-- The matrix unit performs the command at the head of its queue. -/
def State.mxuTurn (s : State) (c : CoreId) : Res :=
  match (s.core c).mxu.queue with
  | [] => .next s
  | q :: _ =>
      if s.savingOn c q.serial && (!s.rotStarted c || s.blockBegun c q.serial) then .next s
      else match decodeMxu (leNat q.bytes) with
        | .ok i => exec i { s with cur := q.thread }
        | .error _ => .next (s.mxPop c)

/-- A schedule runs a chunk word. -/
def State.haloWord (s : State) (d n : Nat) (w : Word) : Res :=
  match decodeHalo w.toNat with
  | .ok i => exec i s
  | .error r => .next (s.haloError d n 9 r.detail.toNat 0)

/-- A schedule reaches its next chunk instruction, which it fetches once (20 R405), when the accesses before its HALO.RUN are performed at
pkg (R404). -/
def State.haloTurn (s : State) (d n : Nat) : Res :=
  let s := { s with curHalo := (d, n) }
  s.onSched fun d n c =>
    if !s.performed c.after || !s.hbmUp then .next s
    else
      let s := if c.after.isEmpty then s else (s.release c.thread 4).updSched d n fun c => { c with after := [] }
      match c.word with
      | some w => s.haloWord d n w
      | none =>
          let a := c.code + w64 (8 * c.pcix)
          if 65535 < c.pcix then .next (s.haloError d n 9 7 0)
          else if a.toNat / 2 ^ 52 ≠ 0 then .next (s.haloError d n 6 1 a)
          else match s.haloLoad c a with
            | .xlate => .next (s.engFault c.serial c.thread.core .engRead a)
            | .err cls det => .next (s.haloError d n cls det a)
            | .hole pa => .fault (.noMemory pa)
            | .done s b m _ =>
                if m then .next (s.haloError d n 1 0 a)
                else (s.updSched d n fun c => { c with word := some (w64 (leNat b)) }).haloWord d n (w64 (leNat b))

/-- A hart's next instruction (13 R295); at a stopped core the next step of the streams' stop comes first (R303). -/
def State.hartTurn (s : State) (h : HartId) : Res :=
  let s := { s with curHart := h }
  let x := s.hartOf h
  match s.streamStop h.core (s.hartBy h).serial with
  | some s => .next s
  | none =>
      if x.ended || x.stalled then .next s
      else match s.hartFetch h with
        | some i => exec i s
        | none => (s.hartTrap h 6 1 (w64 x.pc)).out

/-! What the device does between instructions. -/

/-- A thread that waits for its own accesses is presented again. -/
def State.wakeOwn (s : State) (t : ThreadId) : State :=
  match (s.ctx t).held with
  | some h => if (h.cause == .own || h.cause == .vu) && (s.ctx t).parked && !s.resume.contains t then { s with resume := s.resume ++ [t] } else s
  | none => s

/-- One access in flight of a context is performed, behind those it comes after (DEDUCED, log 24). -/
def State.performTurn (s : State) (t : ThreadId) (n : Nat) : State :=
  match (s.ctx t).pend[n]? with
  | none => s
  | some p => (s.drainIf t fun x => x.ord == p.ord && x.len != 0).wakeOwn t

/-- A line that a prefetch has asked for arrives; otherwise the hardware stream prefetcher asks for one that is absent (08 R186). -/
def State.prefetchTurn (s : State) (cl line : Nat) : State :=
  let c := s.cluster cl
  if c.fetching.contains line then s.fetched cl line true
  else if !bit c.pfctl 0 || decide (8 * 2 ^ 30 ≤ line ∨ stackBytes ≤ line * 64 % 2 ^ 36) then s
  else s.updCluster cl fun c => c.ask line

/-- Microseconds pass: TLIMIT counts for admitted launches that are not stopped (16 R337). -/
def State.passTime (s : State) (n : Nat) : State :=
  let runs (l : Launch) : Bool := l.st == .admitted && !(l.cores.any fun c => (s.core c).stopped.contains l.serial)
  let launches := s.launches.map fun (l : Launch) => if runs l then { l with used := l.used + n } else l
  { s with launches := launches, dev := { s.dev with time := s.dev.time + n } }

/-- Bits come to a word's condition: an uncorrectable error, of a banked word or of the parity word of a row at 2^60 and the row's key, a
correctable one, or a busy bank at the next read (08 R177, R178) (DEDUCED, log 86). -/
def State.conditionTurn (s : State) (w bits : Nat) : State :=
  if isBanked w ∨ (bits = 1 ∧ 2 ^ 60 ≤ w ∧ w < 2 ^ 60 + 8200 * 8 * 2 ^ 20) then s.setCondition w (s.condition w ||| bits) else s

/-- An uncorrectable error in an HBM line: its words are poisoned, its frame is recorded for retirement (08 R185). -/
def State.hbmErrorTurn (s : State) (line : Nat) : State :=
  if 8 * 2 ^ 30 ≤ line ∨ stackBytes ≤ line * 64 % 2 ^ 36 then s
  else
    let s := (List.range 8).foldl (fun s i => s.setPz (8 * line + i) true) s
    if s.dev.pages.contains (line / 1024) then s
    else { s with dev := { s.dev with pages := line / 1024 :: s.dev.pages } }.degraded

/-- An uncorrectable error in a cached line: a clean one is dropped, dirty bytes are written back poisoned, and the launch that
wrote the line reports ECC (08 R185), in the fields that log 92, DESIGN CHOICE names (DESIGN CHOICE). -/
def State.cacheErrorTurn (s : State) (cl line : Nat) : State :=
  match mfind (s.cluster cl).lines line with
  | none => s
  | some l =>
      if l.dirty = 0 then s.updCluster cl fun c => { c with lines := merase c.lines line }
      else
        let s := s.updCluster cl fun c => { c with lines := mset c.lines line { l with poison := 255 } }
        (s.flushLine cl line).report l.owner
          { cls := 4, detail := 0, engine := 10, ctx := 0x1F, unit := unitDie (cl / 64), addr := 0 }

/-- An uncorrectable error in a vector lane marks it (10 R218). -/
def State.laneErrorTurn (s : State) (c : CoreId) (win v lane : Nat) : State :=
  s.updCore c fun k =>
    let w := mget Window.reset k.wins win
    let r := mget VReg.reset w.vs v
    { k with wins := mset k.wins win { w with vs := mset w.vs v { r with marks := setBit r.marks lane true } } }

/-- What a turn does. Without power nothing moves but a power-on reset (22 R435, R436) (DESIGN CHOICE, log 1). -/
def State.turn (s : State) (x : Turn) : Res :=
  if !s.dev.powered then
    match x with
    | .event (.powerOnReset x) => exec (.powerOnReset x) s
    | _ => .next s
  else match x with
    | .core c => s.coreTurn c
    | .mxu c => s.mxuTurn c
    | .mxSend c => .next (s.mxSendTurn c)
    | .mxLate c on => .next (s.updMxu c fun m => { m with late := on })
    | .mxWrite c n half => .next (s.mxWriteTurn c n half)
    | .samp c off => .next (s.sampReadTurn c off)
    | .halo d n => s.haloTurn d n
    | .hart h => s.hartTurn h
    | .event i => if Instr.isEvent i then exec i s else .next s
    | .weak t on => .next (s.updCtx t fun c => { c with weak := on })
    | .slow t on => .next (s.updCtx t fun c => { c with slow := on })
    | .perform t n => (s.performTurn t n).out
    | .evictLine cl line => .next (s.updCluster cl fun c => { c with victims := line :: c.victims.erase line })
    | .prefetch cl line => .next (s.prefetchTurn cl line)
    | .copyWord c tag n => (s.copyOne c tag n).out
    | .tick tier n => .next (s.passCycles tier n)
    | .micros n => .next (s.passTime n)
    | .power p1 p10 => .next { s with dev := { s.dev with p1 := p1, p10 := p10 } }
    | .charge unit ps n => .next { s with dev := { s.dev with charge := mset s.dev.charge (min unit 2 * 4 + ps % 4) n } }
    | .wordError w => .next (s.conditionTurn w 1)
    | .softError w => .next (s.conditionTurn w 2)
    | .busy w => .next (s.conditionTurn w 4)
    | .hbmError line => .next (s.hbmErrorTurn line)
    | .cacheError cl line => .next (s.cacheErrorTurn cl line)
    | .laneError c win v lane => .next (s.laneErrorTurn c win v lane)
    | .bitFlip t x b => .next (s.updCtx t fun c => c.setX x (c.x x ^^^ (1 <<< b)) (c.xp x))
    | .counterParity c ep =>
        .next (if ((s.core c).ep ep).bound && ((s.core c).ep ep).rem then s.breakChannel c ep 4 else s)
    | .copyParity c word => .next (s.updCore c fun k => { k with cwBad := if k.cwBad.contains word then k.cwBad else word :: k.cwBad })
    | .icache c half old => .next (s.keepCode c half old)
    | .tlb root va old => .next (s.keepEntry root va old)
    | .hostMem a b => .next (s.wr (keyHost a) b)
    | .hostHbm pa b => if s.hbmUp && inStack pa && inStack (pa + b.length) then .next (s.hbmWrite pa b []) else .next s
    | .extSignal die port comm ev value => .next (s.signalIn die port { comm := comm, ev := ev, value := value, src := none })
    | .signalAnswer die tag taken => .next (s.signalAnswer die tag taken)

end Sys2Proof.Machine
end

