-- ==== Sys2Proof/Machine/Step.lean ====
section
/-! DEFINITION. One step of the machine, and the state in which a given instruction is the next to be fetched. -/

namespace Sys2Proof.Machine

/-- One step: a held instruction whose wake event has come, then the schedule's next turn, then the core of the thread that ran
last. -/
def step (s : State) : Host.Outcome State Fault Refusal :=
  match s.hole with
  | some a => .fault (.noMemory a)
  | none =>
      match s.resume with
      | t :: r => State.present { s with resume := r } t
      | [] =>
          match s.sched with
          | x :: r => State.turn { s with sched := r } x
          | [] => s.turn (.core s.cur.core)

/-! A program comes to run by a launch that the host submits (log 14, DESIGN CHOICE): `withFetchWord` stands for that launch. -/

/-- Physical address of the page-table root, of the page of code, and the serial of the launch. -/
def fetchRoot : Nat := 0x10000
def fetchPage : Nat := 0x40000000

/-- A launch on core 0.0.0, admitted, with a footprint of 64 KiB. -/
def fetchLaunch : Launch :=
  { Launch.empty with
    serial := 1, st := .admitted, live := 1, lsbase := [(0, 65536)], lpix := [(0, 0)]
    record := List.replicate 45 0 ++ [1] ++ List.replicate 10 0 ++ leBytes 8 fetchRoot ++ List.replicate 64 0 }

/-- Root entry, L2 entry (a leaf of 1 GiB with every permission) and code in HBM. -/
def fetchMem (m : List Host.Cell) (code : List Byte) : List Host.Cell :=
  memWrite (memWrite (memWrite m fetchRoot (leBytes 8 0x20001)) 0x20000 (leBytes 8 (fetchPage + 0x3F))) fetchPage code

/-- The launch on its core, with a context READY at virtual address 0. -/
def fetchCore (k : Core) : Core :=
  { k with residents := [1], issuedIn := none, ctxs := mset k.ctxs 0 { Ctx.reset with st := .ready, serial := 1, pc := 0 } }

/-- A hart's port and the hart at the first offset of its launch image. -/
def fetchHart (k : Core) (code : List Byte) : Core :=
  { k with
    loaderImg := code, ports := mset k.ports 0 { Port.reset with bound := true, ended := false, serial := 1 }
    harts := mset k.harts 0 { Hart.reset with pc := 256, ended := false } }

/-- A thread's word: its halfwords, the first at the lowest address, each in its byte order. -/
def codeBytes (nbits w : Nat) : List Byte :=
  if nbits = 16 then leBytes 2 w else leBytes 2 (w / 65536) ++ leBytes 2 (w % 65536)

/-- The state in which the next step fetches an instruction of `nbits` bits: the word of a thread, whose core's clock stands at a cycle of
context 0, or of a hart (DESIGN CHOICE, log 14). -/
def State.withFetchWord (s : State) (nbits w : Nat) : State :=
  let s := { s with
    launches := [fetchLaunch], resume := [], hole := none, cur := ⟨0, 0, 0, 0⟩, clocks := mset s.clocks 0 (mget 0 s.clocks 0 / 16 * 16) }
  if nbits = 16 ∨ w / 2147483648 % 2 = 1 then
    { s.updCore ⟨0, 0, 0⟩ fetchCore with sched := [], mem := fetchMem s.mem (codeBytes nbits w) }
  else
    let h : HartId := ⟨⟨0, 0, 0⟩, false, 0⟩
    { s.updCore ⟨0, 0, 0⟩ fun k => fetchHart (fetchCore k) (leBytes 4 w) with sched := [.hart h], curHart := h }

end Sys2Proof.Machine
end

