-- ==== Sys2Proof/Safety.lean ====
section
/-! DEFINITION. What counts as a safe step, and the terms in which claims say what an instruction leaves unchanged. -/

namespace Sys2Proof.Machine

/-- Memory is in its canonical form. -/
def State.memOk (s : State) : Prop := Memory.wf s.mem = true

/-- A step that goes on. -/
def State.goesOn (s : State) : Prop := ∃ t, step s = .next t

/-- A safe step: it goes on, and memory keeps its form. -/
def State.safe (s : State) : Prop := ∃ t, step s = .next t ∧ (s.memOk → t.memOk)

/-- Nothing but the executing context has changed: every other context and core, all memory, every engine, launch, queue and
device register is as before. -/
def OnlyMe (s t : State) : Prop := t = s.setCtx s.cur t.me

/-- The byte of memory at every key reads as before. -/
def SameMem (s t : State) : Prop := ∀ k, memGet t.mem k = memGet s.mem k

/-- The executing context after an instruction of `n` bytes that has written nothing but x registers: the pc has moved past it and
its prefixes, and CIR bit 0 is set where `used` says that a marked source was read. -/
def XOnly (c d : Ctx) (used : Bool) (n : Nat) : Prop :=
  d = { c with xs := d.xs, xm := d.xm, cir := if used then c.cir ||| 1 else c.cir, pc := c.pc + w64 (c.pfx + n), pfx := 0
               rlx := false, held := none }

/-- x register `d` holds `v` with mark `m`, x0 still reads 0 unmarked, and every other x register is as before. -/
def XWrite (c e : Ctx) (d : Nat) (v : Word) (m : Bool) : Prop :=
  ∀ r, r < 32 → e.x r = (if r = 0 then 0 else if r = d then v else c.x r) ∧
    e.xp r = (if r = 0 then false else if r = d then m else c.xp r)

/-- An instruction of `n` bytes that writes one x register and changes nothing else; `m` is the mark of its sources. -/
structure WritesX (s t : State) (d : Nat) (v : Word) (m : Bool) (n : Nat) : Prop where
  only : OnlyMe s t
  mem : SameMem s t
  regs : XWrite s.me t.me d v m
  rest : XOnly s.me t.me m n

/-- The same for a predicate register. -/
structure WritesP (s t : State) (d : Nat) (v m : Bool) (n : Nat) : Prop where
  only : OnlyMe s t
  mem : SameMem s t
  regs : ∀ r, r < 8 → t.me.p r = (if r = 0 then true else if r = d then v else s.me.p r) ∧
    t.me.pp r = (if r = 0 then false else if r = d then m else s.me.pp r)
  rest : t.me = { s.me with ps := t.me.ps, pm := t.me.pm, cir := if m then s.me.cir ||| 1 else s.me.cir
                            pc := s.me.pc + w64 (s.me.pfx + n), pfx := 0, rlx := false, held := none }

/-- An instruction that changes nothing but the pc, which goes to `a`, and at most CIR bit 0. -/
structure GoesTo (s t : State) (a : Word) (m : Bool) : Prop where
  only : OnlyMe s t
  mem : SameMem s t
  rest : t.me = { s.me with cir := if m then s.me.cir ||| 1 else s.me.cir, pc := a, pfx := 0, rlx := false, held := none }

/-- The executing thread has no access in flight, holds no RLX prefix, is no half of a pair, and the schedule lets no access or reply of
it come later. -/
structure Quiet (s : State) : Prop where
  pend : s.me.pend = []
  weak : s.me.weak = false
  slow : s.me.slow = false
  rlx : s.me.rlx = false
  single : s.trailer s.cur = none
  whole : s.hole = none

/-! Scalar instructions (06). The value functions are written from the rules' own words, on natural numbers and integers. -/

/-- Destination, sources and result of the three-register arithmetic forms (06 R114, R115). -/
def aluForm (i : Instr) : Option (Nat × Nat × Nat × (Word → Word → Word)) :=
  match i with
  | .add d a b => some (d.toNat, a.toNat, b.toNat, fun x y => w64 (x.toNat + y.toNat))
  | .sub d a b => some (d.toNat, a.toNat, b.toNat, fun x y => w64 (x.toNat + (2 ^ 64 - y.toNat)))
  | .and d a b => some (d.toNat, a.toNat, b.toNat, fun x y => w64 (x.toNat &&& y.toNat))
  | .or d a b => some (d.toNat, a.toNat, b.toNat, fun x y => w64 (x.toNat ||| y.toNat))
  | .xor d a b => some (d.toNat, a.toNat, b.toNat, fun x y => w64 (x.toNat ^^^ y.toNat))
  | .sll d a b => some (d.toNat, a.toNat, b.toNat, fun x y => w64 (x.toNat * 2 ^ (y.toNat % 64)))
  | .srl d a b => some (d.toNat, a.toNat, b.toNat, fun x y => w64 (x.toNat / 2 ^ (y.toNat % 64)))
  | .sra d a b => some (d.toNat, a.toNat, b.toNat, fun x y => BitVec.ofInt 64 (x.toInt / 2 ^ (y.toNat % 64)))
  | .min d a b => some (d.toNat, a.toNat, b.toNat, fun x y => BitVec.ofInt 64 (min x.toInt y.toInt))
  | .max d a b => some (d.toNat, a.toNat, b.toNat, fun x y => BitVec.ofInt 64 (max x.toInt y.toInt))
  | .minu d a b => some (d.toNat, a.toNat, b.toNat, fun x y => w64 (min x.toNat y.toNat))
  | .maxu d a b => some (d.toNat, a.toNat, b.toNat, fun x y => w64 (max x.toNat y.toNat))
  | .mul d a b => some (d.toNat, a.toNat, b.toNat, fun x y => w64 (x.toNat * y.toNat))
  | .mulh d a b => some (d.toNat, a.toNat, b.toNat, fun x y => BitVec.ofInt 64 (x.toInt * y.toInt / 2 ^ 64))
  | .mulhu d a b => some (d.toNat, a.toNat, b.toNat, fun x y => w64 (x.toNat * y.toNat / 2 ^ 64))
  | .div d a b => some (d.toNat, a.toNat, b.toNat, fun x y =>
      if y = 0 then 0xFFFFFFFFFFFFFFFF
      else if x = 0x8000000000000000 ∧ y = 0xFFFFFFFFFFFFFFFF then 0x8000000000000000
      else BitVec.ofInt 64 (x.toInt.tdiv y.toInt))
  | .divu d a b => some (d.toNat, a.toNat, b.toNat, fun x y => if y = 0 then 0xFFFFFFFFFFFFFFFF else w64 (x.toNat / y.toNat))
  | .rem d a b => some (d.toNat, a.toNat, b.toNat, fun x y =>
      if y = 0 then x
      else if x = 0x8000000000000000 ∧ y = 0xFFFFFFFFFFFFFFFF then 0
      else BitVec.ofInt 64 (x.toInt - x.toInt.tdiv y.toInt * y.toInt))
  | .remu d a b => some (d.toNat, a.toNat, b.toNat, fun x y => if y = 0 then x else w64 (x.toNat - x.toNat / y.toNat * y.toNat))
  | _ => none

/-- A field of `w` bits as a signed number. -/
def signedField (w v : Nat) : Int := if v < 2 ^ (w - 1) then v else v - 2 ^ w

/-- Results of the immediate forms (06 R117, R118), C.ADDI among them (R133): destination, source, result and length. -/
def immForm (i : Instr) : Option (Nat × Nat × (Word → Word) × Nat) :=
  match i with
  | .addi d a k => some (d.toNat, a.toNat, fun x => BitVec.ofInt 64 (x.toInt + signedField 15 k.toNat), 4)
  | .andi d a k => some (d.toNat, a.toNat, fun x => x &&& BitVec.ofInt 64 (signedField 15 k.toNat), 4)
  | .ori d a k => some (d.toNat, a.toNat, fun x => x ||| BitVec.ofInt 64 (signedField 15 k.toNat), 4)
  | .xori d a k => some (d.toNat, a.toNat, fun x => x ^^^ BitVec.ofInt 64 (signedField 15 k.toNat), 4)
  | .slli d a h => some (d.toNat, a.toNat, fun x => w64 (x.toNat * 2 ^ h.toNat), 4)
  | .srli d a h => some (d.toNat, a.toNat, fun x => w64 (x.toNat / 2 ^ h.toNat), 4)
  | .srai d a h => some (d.toNat, a.toNat, fun x => BitVec.ofInt 64 (x.toInt / 2 ^ h.toNat), 4)
  | .cAddi d k => some (d.toNat, d.toNat, fun x => BitVec.ofInt 64 (x.toInt + signedField 6 k.toNat), 2)
  | _ => none

/-- A condition of CMP and CMPI (06 R125). -/
def ccHolds (cc : BitVec 3) (x y : Word) : Bool :=
  match cc.toNat with
  | 0 => decide (x.toNat = y.toNat)
  | 1 => decide (x.toNat ≠ y.toNat)
  | 2 => decide (x.toInt < y.toInt)
  | 3 => decide (x.toNat < y.toNat)
  | 4 => decide (y.toInt ≤ x.toInt)
  | _ => decide (y.toNat ≤ x.toNat)

/-- Destination, value and sources' mark of the predicate forms (06 R125, R126). -/
def predForm (i : Instr) (c : Ctx) : Option (Nat × Bool × Bool) :=
  match i with
  | .pand d a b n m => some (d.toNat, (c.p a.toNat ^^ (n == 1)) && (c.p b.toNat ^^ (m == 1)), c.pp a.toNat || c.pp b.toNat)
  | .por d a b n m => some (d.toNat, (c.p a.toNat ^^ (n == 1)) || (c.p b.toNat ^^ (m == 1)), c.pp a.toNat || c.pp b.toNat)
  | .pnot d a => some (d.toNat, !c.p a.toNat, c.pp a.toNat)
  | .pmov d a n => some (d.toNat, c.p a.toNat ^^ (n == 1), c.pp a.toNat)
  | .cmp p cc a b => some (p.toNat, ccHolds cc (c.x a.toNat) (c.x b.toNat), c.xp a.toNat || c.xp b.toNat)
  | .cmpi p cc a k => some (p.toNat, ccHolds cc (c.x a.toNat) (BitVec.ofInt 64 (signedField 14 k.toNat)), c.xp a.toNat)
  | _ => none

/-! Traps, system instructions and control registers (04 R72, R73; 06 R129; 10 R202 to R209, R219 to R221). -/

/-- Every context but the executing one is as before. -/
def SameOthers (s t : State) : Prop :=
  ∀ u : ThreadId, coreKey u.core ≠ coreKey s.cur.core ∨ u.ctx ≠ s.cur.ctx → t.ctx u = s.ctx u

/-- The x registers of the executing context, and their marks, are as before. -/
def SameX (s t : State) : Prop := ∀ r, t.me.x r = s.me.x r ∧ t.me.xp r = s.me.xp r

/-- A trap taken into the launch's handler (10 R204): TPC, TCAUSE, TADDR, TMODE and the pc are written; the context is READY, as one
that runs is; the x registers are spoken of apart; every other register, context and launch, and memory, is as before. -/
structure TakesTrap (s t : State) (cause addr tpc : Word) : Prop where
  me : t.me = { s.me.wake (s.cycleOf s.cur) with
                xs := t.me.xs, xm := t.me.xm, tpc := tpc, tcause := cause, taddr := addr, tmode := true
                pc := (s.launchOf s.cur).tvec s.cur.tier, pfx := 0, rlx := false, held := none }
  mem : SameMem s t
  others : SameOthers s t
  launches : t.launches = s.launches

/-- The launch of the executing thread has a handler for its tier, and the thread is not in it and is no half of a pair. -/
structure CanTrap (s : State) : Prop where
  tmode : s.me.tmode = false
  tvec : (s.launchOf s.cur).tvec s.cur.tier ≠ 0
  single : s.trailer s.cur = none

/-- No handler takes a trap of the executing thread, whose launch is known; no context has an access in flight, and no POST waits for a full
partition. -/
structure CannotTrap (s : State) : Prop where
  off : s.me.tmode = true ∨ (s.launchOf s.cur).tvec s.cur.tier = 0
  known : s.known s.me.serial = true
  still : ∀ u : ThreadId, (s.ctx u).pend = []
  posts : ∀ d n, (s.part d n).posts = []

/-- A fatal partition error of a launch with a report (10 R209): it ends with that report where it holds none yet, nothing of it is
live, and none of its contexts is left on its cores. -/
structure EndsLaunch (s t : State) (serial : Word) (r : Report) : Prop where
  st : (t.launch serial).st = .ending
  fatal : (t.launch serial).fatal = (s.launch serial).fatal.or (some r)
  live : (t.launch serial).live = 0
  free : (∀ d n, (s.part d n).posts = []) → ∀ c ∈ (s.launch serial).cores, t.ctxsOf c serial = []

/-- Report of a hardware trap of the executing thread. -/
def trapReport (s : State) (cls det : Nat) (addr : Word) : Report :=
  { cls := cls, detail := det, engine := 0, ctx := s.cur.ctx
    unit := s.cur.die * 2 ^ 24 + s.cur.tier * 2 ^ 16 + s.cur.idx / 16 * 2 ^ 8 + s.cur.idx, addr := addr }

/-- The control registers and the words GETC reads (04 R72, R74, R79, R84; 10 R202), but for FMT0 to FMT15. -/
def ctrlWords (s : State) : List (Nat × Word) :=
  let k := s.core s.cur.core
  let c := s.me
  let l := s.launchOf s.cur
  [(0x000, w64 (s.cycleOf s.cur)), (0x001, c.issued), (0x002, w64 s.cur.ctx)] ++
  [(0x003, w64 (s.cur.die * 2 ^ 24 + s.cur.tier * 2 ^ 16 + s.cur.idx / 16 * 2 ^ 8 + s.cur.idx)), (0x004, w64 s.cur.idx)] ++
  [(0x005, w64 c.retry.toNat), (0x006, w64 c.cir.toNat), (0x007, k.tagDone (s.cycleOf s.cur)), (0x008, c.recaddr)] ++
  [(0x009, w64 (l.base s.cur.core)), (0x00A, w64 l.lssize), (0x00B, w64 (s.vwin s.cur))] ++
  [(0x00D, w64 c.chtmo.toNat), (0x00E, w64 c.bartmo.toNat)] ++
  [(0x100, c.tpc), (0x101, c.tcause), (0x102, c.taddr), (0x103, c.tscratch), (0x104, if c.tmode then 1 else 0)] ++
  [(0x105, l.tvec s.cur.tier), (0x106, c.paddr), (0x110, k.savestat), (0x111, k.gscycle), (0x112, k.gssent), (0x113, k.gsrecv)] ++
  [(0x118, if s.dev.dbg = 0 then 0 else w64 k.dbgctl.toNat)]

/-- Is the control index assigned (04 R72, 10 R202)? -/
def ctrlAssigned (n : Nat) : Bool := decide (n ≤ 0xE) || (decide (0x10 ≤ n) && decide (n ≤ 0x1F)) ||
  (decide (0x100 ≤ n) && decide (n ≤ 0x106)) || (decide (0x110 ≤ n) && decide (n ≤ 0x113)) || n == 0x118

/-- What SETC of an index does to the thread's registers (04 R72, R73; 10 R202, R203, R219). -/
def setcCtx (n : Nat) (v : Word) (c : Ctx) : Ctx :=
  match n with
  | 0x005 => { c with retry := BitVec.ofNat 24 v.toNat }
  | 0x006 => { c with cir := c.cir &&& ~~~BitVec.ofNat 8 v.toNat, paddr := if v.toNat % 2 = 1 then 0 else c.paddr }
  | 0x00D => { c with chtmo := BitVec.ofNat 32 v.toNat }
  | 0x00E => { c with bartmo := BitVec.ofNat 32 v.toNat }
  | 0x100 => { c with tpc := v }
  | 0x101 => { c with tcause := v &&& 0xFFF0FF0F }
  | 0x102 => { c with taddr := v }
  | 0x103 => { c with tscratch := v }
  | _ => c

/-- The launches once a core's HOLD is 0: those held for it are held no longer (10 R220, R221). -/
def heldFree (s : State) (c : CoreId) : List Launch := s.launches.map fun l => if l.hold = some (coreKey c) then { l with hold := none } else l

/-- May SETC write the index? -/
def ctrlWritable (n : Nat) : Bool := [0x005, 0x006, 0x00D, 0x00E, 0x100, 0x101, 0x102, 0x103, 0x118].contains n

/-! Loads and stores (07 R134 to R141; 04 R76 to R80; 08 R169 to R196). -/

/-- Where an aligned access of `n` bytes at `a` leads in the regions of banked memory, the MMIO region and the regions that do not
exist (07 R134; 04 R76, R79, R80; 08 R169, R170). `wr`: the access writes. -/
def regionLoc (l : Launch) (c : CoreId) (a : Word) (n : Nat) (wr : Bool) : Option Loc :=
  let v := a.toNat
  let o := v % 2 ^ 21
  let foot (x : CoreId) : Prop := l.on x = true ∧ l.base x ≤ o ∧ o + n ≤ l.base x + l.lssize
  let store (x : CoreId) : Loc :=
    if wr = true ∧ o < 0x800 then .trap 6 3
    else if o + n ≤ 0x800 then .bank (2 ^ 60 + coreKey x * 2 ^ 21 + o)
    else if foot x then .bank (2 ^ 60 + coreKey x * 2 ^ 21 + o) else .trap 6 2
  if v / 2 ^ 56 = 0x7F then some (if v / 2 ^ 21 % 2 ^ 35 ≠ 0 then .trap 6 1 else store c)
  else if v / 2 ^ 56 = 0x7C then
    some (if v / 2 ^ 21 % 2 ^ 27 ≠ 0 then .trap 6 1
      else if coresOf c.tier ≤ v / 2 ^ 48 % 2 ^ 8 then .trap 6 2 else store ⟨c.die, c.tier, v / 2 ^ 48 % 2 ^ 8⟩)
  else if v / 2 ^ 56 = 0x7E then
    let p := v % 2 ^ 25
    some (if v / 2 ^ 25 % 2 ^ 31 ≠ 0 then .trap 6 1
      else if l.nmbase ≤ p ∧ p + n ≤ l.nmbase + l.nmsize then .bank (2 ^ 61 + c.die * 2 ^ 25 + p) else .trap 6 2)
  else if v / 2 ^ 56 = 0x7D then some (.mmio (v % 2 ^ 56))
  else if v / 2 ^ 56 = 0 then none
  else some (.trap 6 1)

/-- Does a leaf entry permit an access (08 R173): R at bit 2, W at 3, X at 4, A at 5, and memory of kind 0 for an atomic? -/
def leafMay (e : Nat) (k : Acc1) : Prop :=
  let r := e / 4 % 2 = 1
  let w := e / 8 % 2 = 1
  match k with
  | .load => r | .engRead => r | .store => w | .engWrite => w | .fetch => e / 16 % 2 = 1
  | .amo => r ∧ w ∧ e / 32 % 2 = 1 ∧ e / 2 ^ 8 % 4 = 0

/-- The parts of a load: register, width in bytes, base register, address, scope of an acquire, and length. -/
structure LoadForm where
  rt : Nat
  n : Nat
  rb : Nat
  addr : Word
  acq : Option Nat
  len : Nat

/-- LD, LDQ and C.LD (07 R135, R140; 06 R133). -/
def loadForm (i : Instr) (c : Ctx) : Option LoadForm :=
  match i with
  | .ld t b w o sc f => some ⟨t.toNat, 2 ^ w.toNat, b.toNat, c.x b.toNat + BitVec.ofInt 64 (signedField 8 f.toNat * 2 ^ w.toNat),
      if o = 0 then none else some sc.toNat, 4⟩
  | .ldq q b o sc f => some ⟨8 * q.toNat, 64, b.toNat, c.x b.toNat + BitVec.ofInt 64 (signedField 8 f.toNat * 64),
      if o = 0 then none else some sc.toNat, 4⟩
  | .cLd t b o => some ⟨t.toNat, 8, 8 + b.toNat, c.x (8 + b.toNat) + BitVec.ofInt 64 (signedField 3 o.toNat * 8), none, 2⟩
  | _ => none

/-- The byte a load reads at its location: a bank's or host memory's; for HBM the cluster's cache where it holds the byte, and otherwise
the controller's. A load that acquires at tier or wider reads at the controller, but for the cluster's own dirty bytes (log 21, DEDUCED). -/
def loadByte (s : State) (loc : Loc) (wideAcq : Bool) (i : Nat) : Byte :=
  match loc with
  | .bank k => memGet s.mem (k + i)
  | .hostMem k => memGet s.mem (k + i)
  | .hbm pa =>
      let l := mget CLine.empty (s.cluster (clusterOf s.cur.core)).lines (pa / 64)
      if (if wideAcq then bit l.dirty (pa % 64 + i) else bit l.valid (pa % 64 + i)) then l.data.getD (pa % 64 + i) 0
      else memGet s.mem (pa + i)
  | _ => 0

/-- A plain location: banked memory whose words hold no error, host memory, or HBM. -/
def soundLoc (s : State) (loc : Loc) (n : Nat) : Prop :=
  match loc with
  | .bank k => ∀ w ∈ wordsOf k n, mget 0 s.badWords w = 0 ∧ bankKey w ∉ s.dev.retired
  | .hostMem _ => True
  | .hbm _ => True
  | _ => False

/-- The state once the cluster's cache has made room for the line of an HBM access (09 R197); other locations, and an access at the controller,
need none. -/
def withRoom (s : State) (loc : Loc) (ctrl : Bool) : State :=
  match loc with
  | .hbm pa => if ctrl then s else s.room (clusterOf s.cur.core) (pa / 64)
  | _ => s

/-- The parts of a store: bytes, marks of its words, whether the base is marked, address, scope of a release, and length. -/
structure StoreForm where
  data : List Byte
  marks : List Bool
  base : Bool
  addr : Word
  rel : Option Nat
  len : Nat

/-- ST, STQ and C.ST (07 R135, R140; 06 R133). -/
def storeForm (i : Instr) (c : Ctx) : Option StoreForm :=
  match i with
  | .st t b w o sc f => some ⟨leBytes (2 ^ w.toNat) (c.x t.toNat).toNat, [c.xp t.toNat || c.xp b.toNat], c.xp b.toNat,
      c.x b.toNat + BitVec.ofInt 64 (signedField 8 f.toNat * 2 ^ w.toNat), if o = 0 then none else some sc.toNat, 4⟩
  | .stq q b o sc f => some ⟨(List.range 8).flatMap fun j => leBytes 8 (c.x (8 * q.toNat + j)).toNat,
      (List.range 8).map fun j => c.xp (8 * q.toNat + j) || c.xp b.toNat, c.xp b.toNat,
      c.x b.toNat + BitVec.ofInt 64 (signedField 8 f.toNat * 64), if o = 0 then none else some sc.toNat, 4⟩
  | .cSt t b o => some ⟨leBytes 8 (c.x t.toNat).toNat, [c.xp t.toNat || c.xp (8 + b.toNat)], c.xp (8 + b.toNat),
      c.x (8 + b.toNat) + BitVec.ofInt 64 (signedField 3 o.toNat * 8), none, 2⟩
  | _ => none

/-- A banked word that takes a store as it is: its bank takes writes, its full/empty bit is not lost, and no barrier waiter stands on
it. -/
def calmWord (s : State) (w : Nat) : Prop :=
  s.bankTakes w = true ∧ (s.feAt w).lost = false ∧ (s.feAt w).bars = [] ∧ (s.feAt w).barPark = []

/-- The state in which a store of a release scope is performed: a release at tier or wider has written the cluster's dirty lines back
(08 R191). -/
def afterRelease (s : State) (rel : Option Nat) : State :=
  if wide (rel.getD 0) then s.writeBackAll (clusterOf s.cur.core) else s

/-! Full/empty forms, atomics, BANKOP, FENCE, MMIO and relaxed accesses (07 R138 to R151). -/

/-- The instruction parks its thread (04 R62): it is held with its cause, the pc stands, and no register, memory byte or other context
changes. -/
structure Parks (s t : State) (i : Instr) (c : Cause) : Prop where
  me : ∃ n a l p, t.me = { s.me.setWait .parked with
    held := some { instr := i, cause := c, since := n, retryAt := a, snap := p, pfx := s.me.pfx, rlx := s.me.rlx, left := l, fetch := false } }
  mem : SameMem s t
  others : SameOthers s t
  launches : t.launches = s.launches

/-- A full/empty form reaches word `w` of banked memory, whose bank holds no error there. -/
structure AtWord (s : State) (a : Word) (k : Acc1) (w : Nat) : Prop where
  quiet : Quiet s
  loc : s.checkAcc s.cur a 8 8 k = .bank (8 * w)
  sound : mget 0 s.badWords w = 0 ∧ bankKey w ∉ s.dev.retired

/-- The 64-bit word of memory at a word key. -/
def memWord (s : State) (w : Nat) : Word := w64 (leNat (s.rd (8 * w) 8))

/-- Address of an M-format form. -/
def offAddr (c : Ctx) (b : BitVec 5) (f : BitVec 8) : Word := c.x b.toNat + BitVec.ofInt 64 (signedField 8 f.toNat * 8)

/-- The executing context after LDF has taken the value of a word: READY, as one that runs is. -/
def LdfTakes (s t : State) (d w : Nat) (a : Word) (base : Bool) : Prop :=
  XWrite s.me t.me d (memWord s w) (s.pz w || base) ∧
  t.me = { s.me.wake (s.cycleOf s.cur) with
                     xs := t.me.xs, xm := t.me.xm
                     paddr := if s.pz w = true ∧ s.me.paddr = 0 then a else s.me.paddr
                     cir := if base || s.pz w then s.me.cir ||| 1 else s.me.cir
                     pc := s.me.pc + w64 (s.me.pfx + 4), pfx := 0, rlx := false, held := none }

/-- The parts of an atomic (07 R148): registers, width in bytes, ordering, scope, and the new word from the old one, the operand and e0, none
where nothing is written. -/
structure AmoForm where
  rd : Nat
  ra : Nat
  rb : Nat
  n : Nat
  ord : Nat
  sc : Nat
  new : Nat → Nat → Nat → Option Nat

/-- Signed value of a word of `n` bytes. -/
def signedN (n v : Nat) : Int := signedField (8 * n) v

/-- The eight atomics. -/
def amoForm (i : Instr) : Option AmoForm :=
  let w (x : BitVec 1) : Nat := if x = 0 then 4 else 8
  match i with
  | .amoadd d a b x o sc => some ⟨d.toNat, a.toNat, b.toNat, w x, o.toNat, sc.toNat, fun p q _ => some ((p + q) % 2 ^ (8 * w x))⟩
  | .amomin d a b u x o sc => some ⟨d.toNat, a.toNat, b.toNat, w x, o.toNat, sc.toNat, fun p q _ =>
      some (if u = 1 then min p q else if signedN (w x) q < signedN (w x) p then q else p)⟩
  | .amomax d a b u x o sc => some ⟨d.toNat, a.toNat, b.toNat, w x, o.toNat, sc.toNat, fun p q _ =>
      some (if u = 1 then max p q else if signedN (w x) p < signedN (w x) q then q else p)⟩
  | .amoand d a b x o sc => some ⟨d.toNat, a.toNat, b.toNat, w x, o.toNat, sc.toNat, fun p q _ => some (p &&& q)⟩
  | .amoor d a b x o sc => some ⟨d.toNat, a.toNat, b.toNat, w x, o.toNat, sc.toNat, fun p q _ => some (p ||| q)⟩
  | .amoxor d a b x o sc => some ⟨d.toNat, a.toNat, b.toNat, w x, o.toNat, sc.toNat, fun p q _ => some (p ^^^ q)⟩
  | .amoswp d a b x o sc => some ⟨d.toNat, a.toNat, b.toNat, w x, o.toNat, sc.toNat, fun _ q _ => some q⟩
  | .amocas d a b x o sc => some ⟨d.toNat, a.toNat, b.toNat, w x, o.toNat, sc.toNat, fun p q e => if p = e then some q else none⟩
  | _ => none

/-- Is the instruction AMOCAS? -/
def isCas (i : Instr) : Bool := match i with | .amocas .. => true | _ => false

/-- The parts of a BANKOP: operation, octet, address register, class and words. -/
def bankForm (i : Instr) : Option (Nat × Nat × Nat × Nat × Nat) :=
  match i with
  | .bankopAdd q a c n => some (0, 8 * q.toNat, a.toNat, c.toNat, n.toNat + 1)
  | .bankopMax q a c n => some (1, 8 * q.toNat, a.toNat, c.toNat, n.toNat + 1)
  | .bankopMin q a c n => some (2, 8 * q.toNat, a.toNat, c.toNat, n.toNat + 1)
  | .bankopAxpy q a c n => some (3, 8 * q.toNat, a.toNat, c.toNat, n.toNat + 1)
  | _ => none

/-- The lines of a cluster's cache, by rising number. -/
def sortedLines (s : State) (cl : Nat) : Prop := ((s.cluster cl).lines.map (·.1)).Pairwise (· < ·)

/-! Barriers, handles, waits and channels (07 R152 to R167). -/

/-- Fields of a barrier word (07 R162). -/
def barrierIs (v : Word) (top gen arr count : Nat) : Prop :=
  v.toNat / 2 ^ 48 = top ∧ v.toNat / 2 ^ 32 % 2 ^ 16 = gen ∧ v.toNat / 2 ^ 16 % 2 ^ 16 = arr ∧ v.toNat % 2 ^ 16 = count

/-- The context of a completed form of 4 bytes that writes no register, and records the arrival `r`; `m` sets CIR bit 0. -/
def BarDone (s t : State) (m : Bool) (r : Option Arrival) : Prop :=
  t.me = { s.me with paddr := t.me.paddr, arrival := r, cir := if m then s.me.cir ||| 1 else s.me.cir
                     pc := s.me.pc + w64 (s.me.pfx + 4), pfx := 0, rlx := false, held := none }

/-- Is the operation that a handle names done (04 R71; 07 R166; 13 R277): ENG 0, the tag complete or cancelled, or the tag of another
generation by now? -/
def handleOver (s : State) (h : BitVec 32) : Bool :=
  let n := h.toNat % 64
  let gone_ (st : TagState) (g : BitVec 16) : Bool := st == .complete || st == .cancelled || g.toNat != h.toNat / 65536
  match h.toNat / 256 % 4 with
  | 0 => true
  | 1 => let x := (s.core s.cur.core).tag n; gone_ x.st x.gen
  | 2 => let x := (s.core s.cur.core).lens.tag n; gone_ x.st x.gen
  | _ => let x := (s.die s.cur.die).htag n; gone_ x.st x.gen

/-- An endpoint `c` of the executing thread, neither broken nor with a message returned, is entry `n` of the table, of the mode and direction
an operation wants. -/
structure HasEnd (s : State) (c : BitVec 4) (n : Nat) (cls rx : Bool) : Prop where
  at_ : mfind s.me.cs c.toNat = some n
  cls : ((s.core s.cur.core).ep n).isCls = cls
  rx : ((s.core s.cur.core).ep n).rx = rx
  good : ((s.core s.cur.core).ep n).broken = 0 ∧ ((s.core s.cur.core).ep n).returned = false
  single : s.trailer s.cur = none

/-! Copies, RSTORE, streams, harts and lenses (13, 14). -/

/-- Tag `n` is the lowest copy tag that is not RUNNING, and no thread waits for one (13 R276). -/
structure FreeCopyTag (s : State) (n : Nat) : Prop where
  small : n < 64
  free : ((s.core s.cur.core).tag n).st ≠ .running
  low : ∀ m, m < n → ((s.core s.cur.core).tag m).st = .running
  alone : (s.core s.cur.core).tagWait = []

/-- A copy is issued under tag `n` (13 R276, R277): the tag is RUNNING with the next generation, the handle register names them, the
operation stands last among the core's copies with what its registers held, and no x register and no byte of memory changes. -/
structure CopyIssued (s t : State) (h n kind : Nat) (dst src len : Word) : Prop where
  tag : ((t.core s.cur.core).tag n).st = .running ∧
    ((t.core s.cur.core).tag n).gen = ((s.core s.cur.core).tag n).gen + 1
  handle : t.me.h h = BitVec.ofNat 32 ((((s.core s.cur.core).tag n).gen + 1).toNat * 2 ^ 16 + 2 ^ 8 + n)
  op : ∃ o, (t.core s.cur.core).copies = (s.core s.cur.core).copies ++ [o] ∧ o.tag = n ∧ o.kind = kind ∧ o.dst = dst ∧ o.src = src ∧
    o.len = len ∧ o.thread = s.cur ∧ o.serial = s.me.serial ∧ o.written = [] ∧ o.cancel = false
  regs : SameX s t ∧ t.me.ps = s.me.ps ∧ t.me.es = s.me.es
  pc : t.me.pc = s.me.pc + w64 (s.me.pfx + 4)
  mem : SameMem s t
  others : SameOthers s t

/-- A range that a copy may name: its checks at issue find no failure (13 R280). -/
def copyFree (s : State) (a : Word) (n : Nat) (k : Acc1) : Prop := s.copyRange a n k [0x00, 0x7C, 0x7E, 0x7F] = none

/-- A unit of a core has its grant for a launch's command, or gets one now (22 R431): it was given one; or it does not wait, P1 is at most
99 % of the average cap, P10 and the charge do not exceed the peak cap, and no request of its cluster with at least its PRIO waits. -/
def Granted (s : State) (c : CoreId) (unit : Nat) (serial : Word) : Prop :=
  (c, unit, serial) ∈ s.dev.grants ∨
  ((c, unit, serial) ∉ s.dev.deferred ∧ 100 * s.dev.p1 ≤ 99 * s.dev.capavg ∧ s.dev.p10 + s.dev.chargeOf unit ≤ s.dev.cappeak ∧
    ∀ y ∈ s.dev.deferred, clusterOf y.1 = clusterOf c → (s.launch y.2.2).prio < (s.launch serial).prio)

/-- A copy may write its next word: FREEZE does not hold it, the accesses of its thread before it are performed, and it has a grant for the
64 KiB that the word lies in, or gets one now (10 R220; 13 R284; 22 R431). -/
structure CopyGoes (s : State) (c : CoreId) (o : CopyOp) : Prop where
  free : o.frozen = false
  after : s.performed o.after = true
  grant : o.written.length < 8192 * o.granted ∨ Granted s c (2 + o.tag) o.serial

/-- The hart that executes has neither ended nor stalled, and serves port `p` in its direction. -/
structure HartOn (s : State) (p : Nat) : Prop where
  on : (s.hartOf s.curHart).ended = false ∧ (s.hartOf s.curHart).stalled = false
  whole : s.hole = none
  dir : ((s.core s.curHart.core).port p).out = s.curHart.storer
  bound : ((s.core s.curHart.core).port p).bound = true
  small : p < 4

/-- A hart has gone on by `n` bytes with register `d` holding `v`, x0 aside; every other register of it, every context, and memory, is as
before. -/
structure HartDone (s t : State) (d : Nat) (v : Word) (n : Nat) : Prop where
  regs : ∀ r, (t.hartOf s.curHart).x r = (if r = 0 then 0 else if r = d then v else (s.hartOf s.curHart).x r)
  pc : (t.hartOf s.curHart).pc = (s.hartOf s.curHart).pc + n
  on : (t.hartOf s.curHart).ended = (s.hartOf s.curHart).ended ∧ (t.hartOf s.curHart).stalled = false
  mem : SameMem s t
  ctxs : ∀ u, t.ctx u = s.ctx u

/-- A word of RISC-V's R and I formats. -/
def rvWordR (f7 b a f3 d : Nat) : BitVec 32 := BitVec.ofNat 32 (f7 * 2 ^ 25 + b * 2 ^ 20 + a * 2 ^ 15 + f3 * 2 ^ 12 + d * 2 ^ 7 + 0x33)
def rvWordI (imm a f3 d : Nat) : BitVec 32 := BitVec.ofNat 32 (imm * 2 ^ 20 + a * 2 ^ 15 + f3 * 2 ^ 12 + d * 2 ^ 7 + 0x13)

/-! The vector unit (11; 03 R41 to R44). -/

/-- The executing thread has a vector window, none of its registers is bound to a stream, and the VU can take a command of the thread;
`empty`: with no command held. -/
structure VuReady (s : State) (empty : Bool) : Prop where
  win : s.vwin s.cur ≠ 15
  plain : ∀ r, mfind ((s.core s.cur.core).win (s.vwin s.cur)).binds r = none
  takes : (s.core s.cur.core).vuTakes s.cur.ctx empty = true
  quiet : Quiet s

/-- The command of an instruction stands last in the VU's queue, with the scalar it reads, and the thread goes on: no register, mask or tag
of the window, no x register and no byte of memory changes yet. -/
structure Accepted (s t : State) (i : Instr) (xa : Nat) : Prop where
  cmd : ∃ c, (t.core s.cur.core).vq = (s.core s.cur.core).vq ++ [c] ∧ c.instr = i ∧ c.win = s.vwin s.cur ∧ c.thread = s.cur ∧
    (xa ≠ 0 → c.xa = s.me.x xa)
  wins : (t.core s.cur.core).wins = (s.core s.cur.core).wins
  regs : SameX s t ∧ t.me.ps = s.me.ps
  pc : t.me.pc = s.me.pc + w64 (s.me.pfx + 4)
  mem : SameMem s t
  others : SameOthers s t

/-- Registers read, the scalar register read, and the formats that the sources' tags must name, of the register forms (11 R242 to R251). -/
def vecForm (i : Instr) : Option (List Nat × Nat × Option (Fmt → Bool)) :=
  let two (a b : BitVec 4) : List Nat := [a.toNat, b.toNat]
  match i with
  | .vadd _ a b _ _ => some (two a b, 0, some inF) | .vsub _ a b _ _ => some (two a b, 0, some inF)
  | .vmul _ a b _ _ => some (two a b, 0, some inF)
  | .vfma _ a b c _ _ => some ([a.toNat, b.toNat, c.toNat], 0, some inF)
  | .vfms _ a b c _ _ => some ([a.toNat, b.toNat, c.toNat], 0, some inF)
  | .vmin _ a b _ _ => some (two a b, 0, some inFI) | .vmax _ a b _ _ => some (two a b, 0, some inFI)
  | .vabs _ a _ _ => some ([a.toNat], 0, some inFI) | .vneg _ a _ _ => some ([a.toNat], 0, some inFI)
  | .vrcp _ a _ _ => some ([a.toNat], 0, some inF32) | .vrsq _ a _ _ => some ([a.toNat], 0, some inF32)
  | .vexp2 _ a _ _ => some ([a.toNat], 0, some inF) | .vlog2 _ a _ _ => some ([a.toNat], 0, some inF)
  | .vtanh _ a _ _ => some ([a.toNat], 0, some inF)
  | .vand _ a b _ _ => some (two a b, 0, none) | .vor _ a b _ _ => some (two a b, 0, none)
  | .vxor _ a b _ _ => some (two a b, 0, none)
  | .vshl _ a b _ _ => some (two a b, 0, some inI) | .vshr _ a b _ _ => some (two a b, 0, some inI)
  | .viadd _ a b _ _ => some (two a b, 0, some inI) | .vimul _ a b _ _ => some (two a b, 0, some inI)
  | .vsel _ a b _ => some (two a b, 0, some inAny)
  | .vcmpEq _ a b _ _ => some (two a b, 0, some inW32) | .vcmpNe _ a b _ _ => some (two a b, 0, some inW32)
  | .vcmpLt _ a b _ _ => some (two a b, 0, some inW32) | .vcmpGe _ a b _ _ => some (two a b, 0, some inW32)
  | .vcmpLtu _ a b _ _ => some (two a b, 0, some inI32) | .vcmpGeu _ a b _ _ => some (two a b, 0, some inI32)
  | .vred _ a o _ _ _ => some ([a.toNat], 0, some (if o.toNat < 3 then inF32 else inI32))
  | .vscan _ a o _ _ _ => some ([a.toNat], 0, some (if o.toNat < 3 then inF32 else inI32))
  | .vrot _ a x _ _ => some ([a.toNat], x.toNat, none)
  | .vscale _ a x _ _ => some ([a.toNat], x.toNat, some inF)
  | .vbcast _ a _ _ => some ([], a.toNat, none)
  | .vsetf _ _ => some ([], 0, none)
  | .mand _ _ _ _ _ => some ([], 0, none) | .mor _ _ _ _ _ => some ([], 0, none) | .mnot _ _ _ _ => some ([], 0, none)
  | _ => none

/-- The format that the tag of a register shows at acceptance (11 R230, 03 R43). -/
def viewFmt (s : State) (r : Nat) : Option Fmt :=
  (s.core s.cur.core).tagFmt ((s.core s.cur.core).tagView (s.vwin s.cur) r)

/-- Every active element of a memory form passes its checks and lies in memory. -/
def vuReach (s : State) (f : VMem) (locs : List (Nat × Loc × Word)) : Prop :=
  s.vuKeys f = .ok locs ∧ ∀ x ∈ locs, x.2.1.key.isSome = true

/-- Lane of a window register, 0 where it holds none. -/
def laneOf (w : Window) (r l : Nat) : BitVec 32 := (w.v r).lanes.getD l 0

/-- A form that works lane by lane: destination, the register whose tag it takes, mask and its enable, lane function, the lanes' marks, and the
format that its sources' tag must name, if it looks at one. -/
structure LaneForm where
  d : Nat
  a : Nat
  m : BitVec 3
  e : BitVec 1
  f : Nat → BitVec 32
  mark : Nat → Bool
  fmt : Option Fmt

/-- A lane as the number that a 32-bit integer format reads. -/
def laneInt (sg : Bool) (v : BitVec 32) : Int := if sg then v.toInt else v.toNat

/-- The lane-wise forms (11 R242, R244, R249, R250): logic, 32-bit integer arithmetic, shifts by the second source modulo 32, minimum, maximum,
absolute value and negation, selection by a mask, rotation and broadcast. -/
def laneForm (i : Instr) (w : Window) (xa : Word) (xam sg : Bool) : Option LaneForm :=
  let mk (r l : Nat) : Bool := bit (w.v r).marks l
  let two (d a b : BitVec 4) (m : BitVec 3) (e : BitVec 1) (fm : Option Fmt) (g : BitVec 32 → BitVec 32 → BitVec 32) : Option LaneForm :=
    some ⟨d.toNat, a.toNat, m, e, fun l => g (laneOf w a.toNat l) (laneOf w b.toNat l), fun l => mk a.toNat l || mk b.toNat l, fm⟩
  let one (d a : BitVec 4) (m : BitVec 3) (e : BitVec 1) (g : BitVec 32 → BitVec 32) : Option LaneForm :=
    some ⟨d.toNat, a.toNat, m, e, fun l => g (laneOf w a.toNat l), fun l => mk a.toNat l, some (.int sg 32)⟩
  let int := some (Fmt.int sg 32)
  match i with
  | .vand d a b m e => two d a b m e none (· &&& ·)
  | .vor d a b m e => two d a b m e none (· ||| ·)
  | .vxor d a b m e => two d a b m e none (· ^^^ ·)
  | .viadd d a b m e => two d a b m e int (· + ·)
  | .vimul d a b m e => two d a b m e int (· * ·)
  | .vshl d a b m e => two d a b m e int fun x y => x <<< (y.toNat % 32)
  | .vshr d a b m e => two d a b m e int fun x y => if sg then x.sshiftRight (y.toNat % 32) else x >>> (y.toNat % 32)
  | .vmin d a b m e => two d a b m e int fun x y => if laneInt sg y < laneInt sg x then y else x
  | .vmax d a b m e => two d a b m e int fun x y => if laneInt sg x < laneInt sg y then y else x
  | .vabs d a m e => one d a m e fun x => if laneInt sg x < 0 then -x else x
  | .vneg d a m e => one d a m e fun x => -x
  | .vsel d a b m =>
      some ⟨d.toNat, a.toNat, m, 0, fun l => if bit (w.m m.toNat) l then laneOf w a.toNat l else laneOf w b.toNat l,
        fun l => mk a.toNat l || mk b.toNat l, none⟩
  | .vrot d a _ m e => some ⟨d.toNat, a.toNat, m, e, fun l => laneOf w a.toNat ((l + xa.toNat % 64) % 64),
      fun l => xam || mk a.toNat ((l + xa.toNat % 64) % 64), none⟩
  | .vbcast d _ m e => some ⟨d.toNat, d.toNat, m, e, fun _ => xa.truncate 32, fun _ => xam, none⟩
  | .vperm d a b _ 0 _ => some ⟨d.toNat, a.toNat, 0, 0, fun l => laneOf w a.toNat ((laneOf w b.toNat l).toNat % 64),
      fun l => mk b.toNat l || mk a.toNat ((laneOf w b.toNat l).toNat % 64), none⟩
  | _ => none

/-- The forms that write a mask (11 R245, R251): mask written, mask and enable that select the bits, the bit written, and the register whose tag
names the format of a comparison of 32-bit integers. -/
def maskForm (i : Instr) (w : Window) (sg : Bool) : Option (Nat × BitVec 3 × BitVec 1 × (Nat → Prop) × Option Nat) :=
  let cmp (d : BitVec 3) (a b : BitVec 4) (m : BitVec 3) (e : BitVec 1) (g : BitVec 32 → BitVec 32 → Prop) :
      Option (Nat × BitVec 3 × BitVec 1 × (Nat → Prop) × Option Nat) :=
    some (d.toNat, m, e, fun l => g (laneOf w a.toNat l) (laneOf w b.toNat l), some a.toNat)
  let bm (r : BitVec 3) (l : Nat) : Bool := bit (w.m r.toNat) l
  match i with
  | .vcmpEq d a b m e => cmp d a b m e fun x y => x = y
  | .vcmpNe d a b m e => cmp d a b m e fun x y => x ≠ y
  | .vcmpLt d a b m e => cmp d a b m e fun x y => laneInt sg x < laneInt sg y
  | .vcmpGe d a b m e => cmp d a b m e fun x y => laneInt sg y ≤ laneInt sg x
  | .vcmpLtu d a b m e => cmp d a b m e fun x y => x.toNat < y.toNat
  | .vcmpGeu d a b m e => cmp d a b m e fun x y => y.toNat ≤ x.toNat
  | .mand d a b m e => some (d.toNat, m, e, fun l => bm a l = true ∧ bm b l = true, none)
  | .mor d a b m e => some (d.toNat, m, e, fun l => bm a l = true ∨ bm b l = true, none)
  | .mnot d a m e => some (d.toNat, m, e, fun l => bm a l = false, none)
  | _ => none

/-- The memory forms when the VU executes them: does it store, its register, the FMT register of a load, its index register, and whether the
format gives it lanes of 32 bits (11 R235). -/
def memForm (i : Instr) (k : Core) (w : Window) : Option (Bool × Nat × Option (BitVec 4) × Option Nat × Bool) :=
  let wide (f : Option Fmt) : Bool := f.map (·.cont) != some 16
  match i with
  | .vld v _ f _ _ => some (false, v.toNat, some f, none, wide (k.fmtOf f.toNat))
  | .vlds v _ _ f _ _ => some (false, v.toNat, some f, none, wide (k.fmtOf f.toNat))
  | .vldx v _ i f _ _ => some (false, v.toNat, some f, some i.toNat, true)
  | .vst v _ _ _ => some (true, v.toNat, none, none, wide (k.tagFmt (w.v v.toNat).tag))
  | .vstx v _ i _ _ => some (true, v.toNat, none, some i.toNat, true)
  | _ => none

/-! The lens ports (14). -/

/-- Tag `n` is the lowest lens tag of the executing core's port that is not RUNNING, and no thread waits for a tag (14 R310). -/
structure FreeLensTag (s : State) (n : Nat) : Prop where
  small : n < 8
  free : ((s.core s.cur.core).lens.tag n).st ≠ .running
  low : ∀ m, m < n → ((s.core s.cur.core).lens.tag m).st = .running
  alone : (s.core s.cur.core).tagWait = []

/-- LMODE, LFINE and LCOARSE (0, 1 and 2) as the executing instruction took them at its issue: now, or when it was held (14 R308, R313). -/
def lensGeometry (s : State) (n : Nat) : Word :=
  let l := (s.core s.cur.core).lens
  match s.me.held with
  | some h => h.snap.getD (2 + n) 0
  | none => if n = 0 then l.lmode else if n = 1 then l.lfine else l.lcoarse

/-- A lens operation is issued under tag `n` (14 R310, R313): the tag runs with the next generation, the handle register names them with ENG
0b10, and the operation stands last in the port's queue with its operands and the geometry of its issue; no x register and no byte of memory
changes. -/
structure LensIssued (s t : State) (h n kind : Nat) (d a z : Word) : Prop where
  tag : ((t.core s.cur.core).lens.tag n).st = .running ∧
    ((t.core s.cur.core).lens.tag n).gen = ((s.core s.cur.core).lens.tag n).gen + 1
  handle : t.me.h h = BitVec.ofNat 32 ((((s.core s.cur.core).lens.tag n).gen + 1).toNat * 2 ^ 16 + 2 * 2 ^ 8 + n)
  op : ∃ o, (t.core s.cur.core).lens.ops = (s.core s.cur.core).lens.ops ++ [o] ∧ o.tag = n ∧ o.kind = kind ∧ o.dst = d ∧ o.src = a ∧
    o.size = z ∧ o.lmode = lensGeometry s 0 ∧ o.lfine = lensGeometry s 1 ∧ o.lcoarse = lensGeometry s 2 ∧ o.thread = s.cur ∧ o.at_ = 0 ∧ o.cancel = false
  mine : bit t.me.lensTags n = true
  regs : SameX s t
  pc : t.me.pc = s.me.pc + w64 (s.me.pfx + 4)
  mem : SameMem s t
  others : SameOthers s t

/-- The seven row-set forms, with the number that their `q` field holds (14 R309). -/
def lensForm (q : Nat) (h : BitVec 4) (d a z : BitVec 5) : Option Instr :=
  match q with
  | 0 => some (.restrictWsum h d a z) | 1 => some (.restrictMax h d a z) | 2 => some (.restrictMin h d a z)
  | 3 => some (.restrictGather h d a z) | 8 => some (.prolongInterp h d a z) | 9 => some (.prolongBcast h d a z)
  | 10 => some (.prolongScatter h d a z) | _ => none

/-- Step 2 of 14 R313: a combination of geometry and size that the form does not take. -/
def lensIllegal (s : State) (q m z : Nat) : Prop :=
  let fold := m / 8 % 2 = 1
  let weighted := q = 0 ∨ q = 8
  2 ^ 48 ≤ z ∨ (¬fold ∧ s.cur.tier = 0) ∨ (m / 4 % 2 = 1 ∧ fold) ∨ (m / 32 % 2 = 1 ∧ m / 16 % 2 = 0) ∨ (m / 64 % 2 = 1 ∧ q ≠ 8) ∨
    (weighted ∧ m % 4 ≠ 0) ∨ ((q = 1 ∨ q = 2) ∧ 2 ≤ m % 4) ∨ (weighted ∧ 64 < m / 2 ^ 24 % 2 ^ 6 + (m / 2 ^ 17 % 8 + 1)) ∨
    (q = 9 ∧ z / 2 ^ 16 % 2 ^ 16 < z % 2 ^ 16)

/-- Bytes of one side's extent (14 R313 step 4). -/
def lensExtent (e rows last g : Nat) : Nat :=
  e * ((rows - 1) * (g / 2 ^ 16 % 2 ^ 32) + last * (if g % 2 ^ 16 = 0 then 1 else g % 2 ^ 16) + 1)

/-! The sampler and the speculation unit (18). -/

/-- The instructions of groups SAMP and SPEC, which exist at T3 alone (18 R372). -/
def zenithForm (d a b : BitVec 5) (e : BitVec 4) : List Instr :=
  [.rngkey a b, .rnggen e a b, .stemp a b, .stopk d a b, .stopp d a b, .smerge d a b, .sdraw d a b, .specOpen d a b, .specAppend d a b] ++
  [.specVerify d a b, .specCommit d a, .specAbort d a]

/-- One round of the generator on the counter words and the key words (18 R374), round number `r` counted from 0. -/
def rngStep (k c : Nat → Nat) (r : Nat) : Nat → Nat :=
  let key (n : Nat) : Nat := (k n + r * (if n % 2 = 0 then 0x9E3779B9 else 0x6A09E667)) % 2 ^ 32
  let p0 := 0xD2B74407 * c 0
  let p1 := 0xCA5A8263 * c 2
  fun n => match n with
    | 0 => p1 / 2 ^ 32 ^^^ c 1 ^^^ key (if r % 2 = 0 then 0 else 2)
    | 1 => p1 % 2 ^ 32
    | 2 => p0 / 2 ^ 32 ^^^ c 3 ^^^ key (if r % 2 = 0 then 1 else 3)
    | _ => p0 % 2 ^ 32

/-- The two words that RNGGEN computes from RKEY and its counter (18 R374). -/
def rngWords (key a b : Nat) : Word × Word :=
  let k (n : Nat) : Nat := key / 2 ^ (32 * n) % 2 ^ 32
  let c (n : Nat) : Nat := (b + a * 2 ^ 64) / 2 ^ (32 * n) % 2 ^ 32
  let z := (List.range 10).foldl (rngStep k) c
  (w64 (z 1 * 2 ^ 32 + z 0), w64 (z 3 * 2 ^ 32 + z 2))

/-- The SAMP unit of the executing core serves no other thread, and has read no word yet (18 R378, R394). -/
structure SampFree (s : State) : Prop where
  turn : ∀ n, (s.core s.cur.core).sampWait.head? = some n → n = s.cur.ctx
  got : (s.core s.cur.core).sampGot = []

/-- Nothing but the executing context, the line of threads at its core's SAMP unit, and which of them is presented next has changed. -/
def SampOnly (s t : State) : Prop :=
  ∃ l q, t = ({ s.updCore s.cur.core fun k => { k with sampWait := l, sampGot := [] } with resume := q }).setCtx s.cur t.me

/-- RKEY as the executing instruction took it at its issue: now, or when it was held (18 R373). -/
def issueKey (s : State) : Nat :=
  match s.me.held with
  | some h => (h.snap.getD 1 0).toNat * 2 ^ 64 + (h.snap.getD 0 0).toNat
  | none => (s.core s.cur.core).rkey.toNat

/-- Bytes `0 .. n - 1` from `a` lie in the executing core's store, inside the launch's footprint there. -/
structure OwnRange (s : State) (a : Word) (n : Nat) : Prop where
  region : a.toNat / 2 ^ 21 = 0x7F * 2 ^ 35
  low : 0x800 ≤ a.toNat % 2 ^ 21
  on : (s.launchOf s.cur).on s.cur.core = true
  from_ : (s.launchOf s.cur).base s.cur.core ≤ a.toNat % 2 ^ 21
  upto : a.toNat % 2 ^ 21 + n ≤ (s.launchOf s.cur).base s.cur.core + (s.launchOf s.cur).lssize

/-- Key of an offset in the executing core's store. -/
def ownKey (s : State) (o : Nat) : Nat := 2 ^ 60 + coreKey s.cur.core * 2 ^ 21 + o

/-- Offset, number of entries and bytes of the list that a descriptor names (18 R376). -/
def listOf (v : Word) : Nat × Nat × Nat :=
  (v.toNat % 2 ^ 21, v.toNat / 2 ^ 32 % 2 ^ 16, 512 * ((v.toNat / 2 ^ 32 % 2 ^ 16 + 63) / 64))

/-- A descriptor whose bits and N the sampler takes, naming a list in the launch's footprint whose banks hold no error and whose words no
thread waits at. -/
structure GoodList (s : State) (v : Word) : Prop where
  bits_ : v.toNat < 2 ^ 48 ∧ v.toNat / 2 ^ 21 % 2 ^ 11 = 0 ∧ v.toNat / 2 ^ 32 ≤ 4096
  align : v.toNat % 2 ^ 21 % 512 = 0
  range : OwnRange s (w64 (0x7F * 2 ^ 56 + (listOf v).1)) (listOf v).2.2
  sound : soundLoc s (.bank (ownKey s (listOf v).1)) (listOf v).2.2
  calm : ∀ w ∈ wordsOf (ownKey s (listOf v).1) (listOf v).2.2, calmWord s w

/-- Key and index of entry `e` of a list. -/
def listKey (s : State) (v : Word) (e : Nat) : BitVec 32 :=
  BitVec.ofNat 32 (leNat (s.rd (ownKey s ((listOf v).1 + 512 * (e / 64) + 4 * (e % 64))) 4))
def listIndex (s : State) (v : Word) (e : Nat) : BitVec 32 :=
  BitVec.ofNat 32 (leNat (s.rd (ownKey s ((listOf v).1 + 512 * (e / 64) + 256 + 4 * (e % 64))) 4))

/-- A descriptor with another N. -/
def listWith (v : Word) (n : Nat) : Word := w64 (v.toNat / 2 ^ 48 * 2 ^ 48 + n * 2 ^ 32 + v.toNat % 2 ^ 32)

/-- A SAMP instruction has written `v` into x register `d` and no other x register, and the pc has moved on. -/
structure SampDone (s t : State) (d : Nat) (v : Word) : Prop where
  x : ∀ r, r < 32 → t.me.x r = if r = 0 then 0 else if r = d then v else s.me.x r
  pc : t.me.pc = s.me.pc + w64 (s.me.pfx + 4)
  others : SameOthers s t
  fe : t.fe = s.fe

/-- A sequence state block in the footprint, with no error, mark or waiter at its words (18 R386). -/
structure GoodBlock (s : State) (a : Word) : Prop where
  align : a.toNat % 64 = 0
  range : OwnRange s a 64
  sound : soundLoc s (.bank (ownKey s (a.toNat % 2 ^ 21))) 64
  calm : ∀ w ∈ wordsOf (ownKey s (a.toNat % 2 ^ 21)) 64, calmWord s w ∧ s.pz w = false

/-- The block at an address, as one number. -/
def blockAt (s : State) (a : Word) : Nat := leNat (s.rd (ownKey s (a.toNat % 2 ^ 21)) 64)

/-- A field of a block: `w` bits from bit `lo`. -/
def ssbF (v lo w : Nat) : Nat := v / 2 ^ lo % 2 ^ w

/-- Does a field that 18 R386 marks zero, or a count, make the block malformed? -/
def ssbMalformed (v : Nat) : Prop :=
  ssbF v 228 28 ≠ 0 ∨ ssbF v 40 24 ≠ 0 ∨ ssbF v 36 2 ≠ 0 ∨ 8 < ssbF v 32 4 ∨ ssbF v 32 4 < ssbF v 224 4

/-- A SPEC step that fails (18 R387): xd takes the code and nothing is written. -/
structure SpecFails (s t : State) (d code : Nat) : Prop where
  only : SampOnly s t
  mem : SameMem s t
  regs : XWrite s.me t.me d (w64 (2 ^ 64 - 16 + code)) false
  rest : XOnly s.me t.me false 4

/-- A SPEC step that succeeds: xd takes the result, and the block at `a` becomes the one whose bits `f` gives. -/
structure SpecDone (s t : State) (a : Word) (d : Nat) (x : Word) (f : Nat → Bool) : Prop where
  x : XWrite s.me t.me d x false
  me : XOnly s.me t.me false 4
  others : SameOthers s t
  fe : t.fe = s.fe
  block : ∀ i, i < 512 → (blockAt t a).testBit i = f i
  frame : ∀ k, k < ownKey s (a.toNat % 2 ^ 21) ∨ ownKey s (a.toNat % 2 ^ 21) + 64 ≤ k → memGet t.mem k = memGet s.mem k

/-- Bits of OPEN, VER, DCOUNT, VACC and VCORR. -/
def ssbWindow (i : Nat) : Bool :=
  (decide (32 ≤ i) && decide (i < 36)) || i == 38 || i == 39 || (decide (192 ≤ i) && decide (i < 228))

/-- Bits of a block with the field of `w` bits from `lo` replaced by `n`. -/
def ssbPut (f : Nat → Bool) (lo w n : Nat) (i : Nat) : Bool := if lo ≤ i ∧ i < lo + w then n.testBit (i - lo) else f i

/-! Halo and RSTORE's far ends (20; 13 R288). -/

/-- Tag `n` is the lowest Halo tag of the die that is not RUNNING, and no thread waits for one (20 R402). -/
structure FreeHaloTag (s : State) (n : Nat) : Prop where
  small : n < 16
  free : ((s.die s.cur.die).htag n).st ≠ .running
  low : ∀ m, m < n → ((s.die s.cur.die).htag m).st = .running
  alone : (s.die s.cur.die).haloWait = []

/-- The schedule that a die's tag runs. -/
def schedAt (s : State) (d n : Nat) : Option Sched := ((s.die d).htag n).sched

/-- The executing schedule is `c`, neither stopped nor held by FREEZE. -/
structure ChunkOn (s : State) (c : Sched) : Prop where
  at_ : schedAt s s.curHalo.1 s.curHalo.2 = some c
  on : c.stopped = false ∧ c.frozen = false

/-- The executing schedule has become `c`; no context and no byte of memory has changed. -/
structure ChunkGoes (s t : State) (c : Sched) : Prop where
  at_ : schedAt t s.curHalo.1 s.curHalo.2 = some c
  mem : SameMem s t
  ctxs : ∀ u, t.ctx u = s.ctx u

/-- An error has stopped the executing schedule `c` (20 R420): the first is kept in the tag, and the tag is COMPLETE once no operation is in
flight. -/
structure ChunkStops (s t : State) (c : Sched) (cls det : Nat) : Prop where
  first : ((s.die s.curHalo.1).htag s.curHalo.2).cls = 0 →
    ((t.die s.curHalo.1).htag s.curHalo.2).cls = BitVec.ofNat 4 cls ∧ ((t.die s.curHalo.1).htag s.curHalo.2).detail = BitVec.ofNat 8 det
  over_ : c.ops = [] → c.cancel = false → s.heldFor c.serial = false → schedAt t s.curHalo.1 s.curHalo.2 = none ∧
    ((t.die s.curHalo.1).htag s.curHalo.2).st = .complete
  on : c.ops ≠ [] → ∃ e, schedAt t s.curHalo.1 s.curHalo.2 = some e ∧ e.stopped = true ∧ e.ops = c.ops
  mem : SameMem s t

/-- A data chunk instruction taken apart (20 R408). -/
structure ChunkForm where
  kind : Nat
  base : Nat
  sbase : Nat
  even : Bool
  ev : Nat
  peer : Nat
  ch : Nat
  opr : Nat
  len : Nat
  off : Nat

/-- H.SEND, H.RECV, H.REDUCE and H.COPY. -/
def chunkForm (i : Instr) : Option ChunkForm :=
  match i with
  | .hSend base e v p c l o => some ⟨0, base.toNat, 0, e, v.toNat, p.toNat, c.toNat, 0, l.toNat, o.toNat⟩
  | .hRecv base e v p c l o => some ⟨1, base.toNat, 0, e, v.toNat, p.toNat, c.toNat, 0, l.toNat, o.toNat⟩
  | .hReduce base e v p c r l o => some ⟨2, base.toNat, 0, e, v.toNat, p.toNat, c.toNat, r.toNat, l.toNat, o.toNat⟩
  | .hCopy base e v q l o => some ⟨3, base.toNat, q.toNat, e, v.toNat, 0, 0, 0, l.toNat, o.toNat⟩
  | _ => none

/-- A word that an engine may write, with no thread waiting there; the write makes it FULL. -/
def takesWord (s : State) (w : Nat) : Prop :=
  calmWord s w ∧ isBanked w = true ∧ isWindowWord w = false ∧ (s.feAt w).parked = [] ∧ (s.feAt w).readers = []

/-- Word `w` of memory has taken the value and mark of word `v`, is FULL, and no other byte has changed. -/
def CopiedWord (s t : State) (v w : Nat) : Prop :=
  memWord t w = memWord s v ∧ t.pz w = s.pz v ∧ (t.feAt w).full = true ∧ ∀ k, k < 8 * w ∨ 8 * w + 8 ≤ k → memGet t.mem k = memGet s.mem k

/-- A schedule runs, and its launch is not saved. -/
def schedRuns (s : State) (c : Sched) : Prop := c.stopped = false ∧ c.endedAs = none ∧ (s.launch c.serial).st ≠ .saved ∧ (s.launch c.serial).st ≠ .restoring

/-! The Condenser, child launches, task records and suspension points (16; 04 R86). -/

/-- A record at `a` that a COND or SUSP form reaches at physical key `k`, with no page in migration and nothing in the cluster's cache. -/
structure AtRecord (s : State) (a : Word) (k : Nat) (acc : Acc1) : Prop where
  quiet : Quiet s
  align : a.toNat % 64 = 0 ∧ a.toNat / 2 ^ 56 = 0
  loc : s.checkAcc s.cur a 64 64 acc = .hbm k ∨ s.checkAcc s.cur a 64 64 acc = .hostMem k
  plain : s.migs = [] ∧ (s.cluster (clusterOf s.cur.core)).lines = []
  known : s.known s.me.serial = true

/-- The record at a key. -/
def recAt (s : State) (k : Nat) : List Byte := s.rd k 64

/-- No word of the `n` bytes at a key is poisoned. -/
def noPoison (s : State) (k n : Nat) : Prop := ∀ w ∈ wordsOf k n, s.pz w = false

/-- No byte outside the `n` bytes from `k` has changed. -/
def OnlyAt (s t : State) (k n : Nat) : Prop := ∀ j, j < k ∨ k + n ≤ j → memGet t.mem j = memGet s.mem j

/-- The instruction has completed and moved the pc on by 4 bytes. -/
def Completes (s t : State) : Prop := t.me.pc = s.me.pc + w64 (s.me.pfx + 4) ∧ t.me.pfx = 0 ∧ t.me.held = none

/-- x register `d` has taken a value, and no other x register has changed. -/
def TakesX (s t : State) (d : Nat) (v : Word) : Prop := ∀ r, r < 32 → t.me.x r = if r = 0 then 0 else if r = d then v else s.me.x r

/-- Predicate `p` has taken a value, and no other predicate has changed. -/
def TakesP (s t : State) (p : Nat) (v : Bool) : Prop := ∀ r, r < 8 → t.me.p r = if r = 0 then true else if r = p then v else s.me.p r

/-- A record that POST refuses (16 R361). -/
def postBad (s : State) (b : List Byte) : Prop :=
  let l := s.launchOf s.cur
  14 ≤ recOp b ∨ recSpill b = true ∨ recWait b = true ∨ recDone b = true ∨ l.hasSection (recTier b) = false ∨
    (recAffk b ≠ 0 ∧ l.on ⟨s.cur.die, recTier b, recAffc b⟩ = false)

/-- Does a held entry match a record that the executing thread posts (16 R351)? -/
def postMatches (s : State) (b : List Byte) (e : CEntry) : Prop :=
  e.serial = (s.launchOf s.cur).serial ∧ recKey e.bytes = recKey b ∧ recAlone e.bytes = false ∧ recAlone b = false

/-- The entry that a posted record becomes (16 R348, R361). -/
structure PostedEntry (s : State) (a : Word) (b : List Byte) (e : CEntry) : Prop where
  who : e.addr = a ∧ e.serial = (s.launchOf s.cur).serial
  die : recDie e.bytes = s.cur.die % 8 ∧ recLpix e.bytes = (s.launchOf s.cur).lpixOn s.cur.die % 2 ^ 11
  prio : recPrio e.bytes = min (recPrio b) (s.launchOf s.cur).prio
  same : recKey e.bytes = recKey b ∧ recOp e.bytes = recOp b ∧ recPc e.bytes = recPc b ∧ ∀ n, n < 4 → recPayload e.bytes n = recPayload b n

/-- The record at key `k` of a retiring thread has one successor, the record `y` at key `j`, which the list's one entry, at key `m`, names. -/
structure OneSucc (s : State) (k j m : Nat) (y : Word) : Prop where
  one : recScount (recAt s k) = 1
  entry : s.checkAcc s.cur (recSlist (recAt s k)) 8 8 .load = .hbm m ∧ leNat (s.rd m 8) = y.toNat
  succ : y.toNat % 64 = 0 ∧ y.toNat / 2 ^ 56 = 0 ∧ s.checkAcc s.cur y 64 64 .amo = .hbm j
  apart : k + 64 ≤ j ∨ j + 64 ≤ k

/-! The matrix unit's commands (12). -/

/-- The command at the head of the executing core's queue is `q`, with `rest` behind it, and every write of the commands before it is
performed. -/
structure MxHead (s : State) (q : MxCmd) (rest : List MxCmd) : Prop where
  queue : (s.core s.cur.core).mxu.queue = q :: rest
  early : (s.core s.cur.core).mxu.late = false
  writes : (s.core s.cur.core).mxu.writes = []
  whole : s.hole = none

/-- The head command has completed: the queue holds the rest, and the errors and the configuration are as before. -/
structure MxDone (s t : State) (rest : List MxCmd) : Prop where
  queue : (t.core s.cur.core).mxu.queue = rest
  errs : (t.core s.cur.core).mxu.errs = (s.core s.cur.core).mxu.errs
  cfg : (t.core s.cur.core).mxu.cfg = (s.core s.cur.core).mxu.cfg

/-- Every accumulator but those of a list, and the buffers and the latch, are as before. -/
def MxKeeps (s t : State) (but : List Nat) : Prop :=
  (∀ n, n ∉ but → (t.core s.cur.core).mxu.acc n = (s.core s.cur.core).mxu.acc n) ∧
  (t.core s.cur.core).mxu.abuf = (s.core s.cur.core).mxu.abuf ∧ (t.core s.cur.core).mxu.scale = (s.core s.cur.core).mxu.scale ∧
  (t.core s.cur.core).mxu.latch = (s.core s.cur.core).mxu.latch

/-- A command's operand: aligned, inside the footprint of the launch that pushed it, and in banks that hold no error. -/
structure MxRange (s : State) (q : MxCmd) (a : Word) (n al : Nat) : Prop where
  align : a.toNat % al = 0
  region : a.toNat / 2 ^ 21 = 0x7F * 2 ^ 35
  low : 0x800 ≤ a.toNat % 2 ^ 21
  on : (s.launch q.serial).on s.cur.core = true
  from_ : (s.launch q.serial).base s.cur.core ≤ a.toNat % 2 ^ 21
  upto : a.toNat % 2 ^ 21 + n ≤ (s.launch q.serial).base s.cur.core + (s.launch q.serial).lssize
  sound : soundLoc s (.bank (ownKey s (a.toNat % 2 ^ 21))) n

/-- Bytes of an operand. -/
def mxBytes (s : State) (a : Word) (n : Nat) : List Byte := s.rd (ownKey s (a.toNat % 2 ^ 21)) n

/-- Every word of a destination takes a write, with no thread waiting there. -/
def mxTakes (s : State) (a : Word) (n : Nat) : Prop := ∀ w ∈ wordsOf (ownKey s (a.toNat % 2 ^ 21)) n, takesWord s w

/-- The `n` bytes at `a` have become `d`, and no other byte of memory has changed. -/
def MxStores (s t : State) (a : Word) (d : List Byte) : Prop :=
  mxBytes t a d.length = d ∧ OnlyAt s t (ownKey s (a.toNat % 2 ^ 21)) d.length

/-- Element `(r, k)` of a pre-shuffled INT8 operand of reduction length `n` (03 R42; 12 R260). -/
def int8Elem (d : List Byte) (n r k : Nat) : Int :=
  let e := r * n + k
  signedField 8 (d.getD (e / 256 * 256 + 4 * (e % 64) + e % 256 / 64) 0).toNat

/-- The operands of a multiplication (12 R260, R262, R271): formats of the containers' limits, both integer or both not, a latch of the same K and
FB, and no checksum. -/
structure MmaReady (s : State) (q : MxCmd) (k : Nat) (fa fb : Fmt) : Prop where
  fa_ : (s.core s.cur.core).fmtOf (bits q.snap 3 0) = some fa
  fb_ : (s.core s.cur.core).fmtOf (bits q.snap 7 4) = some fb
  plain : bit q.snap 12 = false
  fits : operandFmt fa = true ∧ operandFmt fb = true ∧ fa.isInt = fb.isInt ∧ kFits fa k = true ∧ kFits fb k = true
  latch : (s.core s.cur.core).mxu.latch.valid = true ∧ (s.core s.cur.core).mxu.latch.fb = bits q.snap 7 4 ∧
    (s.core s.cur.core).mxu.latch.k = k

/-! The Condenser's events (16 R351 to R355; 04 R65, R66, R68). -/

/-- A context filled at dispatch (04 R68): x4 to x7 are the payload, the pc and CIR come from the record, every other x register and predicate and
every handle reads 0, no register is marked, and the context is READY. -/
structure Filled (c : Ctx) (e : CEntry) : Prop where
  ready : c.st = .ready ∧ c.tmode = false
  who : c.recaddr = e.addr ∧ c.serial = e.serial
  pc : c.pc = recPc e.bytes ∧ c.cir = BitVec.ofNat 8 (recCir e.bytes)
  xs : ∀ r, r < 32 → c.x r = if 4 ≤ r ∧ r < 8 then recPayload e.bytes (r - 4) else 0
  ps : ∀ r, 0 < r → c.p r = false
  hs : ∀ r, c.h r = 0
  marks : ∀ r, c.xp r = false ∧ c.pp r = false

/-! Queues, fences, launches and pre-emption (16 R341 to R347, R357, R358; 10 R209, R216, R226; 22 R444). -/

/-- A queue from which the next packet can be parsed (16 R346; 22 R444). -/
structure QueueReady (s : State) (q : Nat) : Prop where
  enabled : (s.sq q).en = true ∧ (s.sq q).halt = false ∧ s.dev.sstate = 1
  free : (s.sq q).compat = true → (s.sq q).waits = none ∧ (s.sq q).fence = none

/-- The packet header says fence (16 R347). -/
def isFence (b : List Byte) : Prop := fld (leAt b 0 8) 10 2 = 1

/-- A queue has halted on a fence, and a completion entry of no launch, with a class, detail and address, waits. -/
def FenceFails (s t : State) (q cq cls det : Nat) (a : Word) : Prop :=
  (t.sq q).halt = true ∧ (t.sq q).fence = none ∧ t.launches = s.launches ∧ SameMem s t ∧
    ∃ e, (t.cq cq).waiting = (s.cq cq).waiting ++ [e] ∧ e.rep.cls = cls ∧ e.rep.detail = det ∧ e.rep.addr = a ∧ e.serial = 0

/-- A launch that waits for admission can be taken up now (16 R343; 22 R427, R442). -/
structure Admissible (s : State) (l : Launch) : Prop where
  st : l.st = .waiting ∧ l.waitReplay = false ∧ l.hold = none ∧ l.launcher = none
  only : s.launches = [l] ∧ s.hole = none
  dev : s.admits = true

/-! Gang stop, save, restore, and the partition commands (10 R208, R210 to R215; 08 R175; 22 R446). -/

/-- The save area of a launch is mapped, from its start, to consecutive bytes of HBM from `base`, a whole number of words, whatever its own bytes hold; no page is in migration. -/
structure AreaReady (s : State) (l : Launch) (base len : Nat) : Prop where
  low : l.savearea.toNat + len ≤ 2 ^ 52
  whole : base % 8 = 0
  maps : ∀ m, (∀ k, k < base ∨ base + len ≤ k → memGet m k = memGet s.mem k) → ∀ j, j < len →
    ({ s with mem := m }).walk l.lowDie l.ptroot (l.savearea.toNat + j) .engWrite = .hbm (base + j)
  plain : s.migs = [] ∧ s.hole = none

/-- Record `i` of the thread records of a block without windows and matrix unit (10 R211, R213). -/
def blockRecord (b : List Byte) (i : Nat) : List Byte := (b.drop (1792 + 512 * i)).take 512

/-- A serial names a launch that waits, runs, is stopped or is saved. -/
def Live (s : State) (r : Word) : Prop :=
  s.known r = true ∧ (s.launch r).st ≠ .rejected ∧ (s.launch r).st ≠ .ending ∧ (s.launch r).st ≠ .done

/-- A partition command that the part takes: command, reserved bits, launch and debug level are right (22 R446). -/
structure PartFit (s : State) (v : Word) (cmd level : Nat) : Prop where
  free : s.dev.sstate = 1 ∧ s.host.partbusy = none ∧ s.hole = none
  word : bits v 3 0 = cmd ∧ bits v 63 39 = 0 ∧ bits v 7 4 = 0
  launch : Live s s.host.partser
  debug : level ≤ s.dev.dbg

/-- The same machine with a result of the last partition command. -/
def answered (s : State) (n : Nat) : State := { s with host := { s.host with partres := n } }

/-! The channels' and the barriers' events (07 R154, R156 to R159, R161, R164). -/

/-- The one message in the network is `m`, for a ring of a core whose launch is not saved. -/
structure OneMsg (s : State) (c : CoreId) (m : Msg) : Prop where
  only : s.net = [m]
  dst : m.dst = c
  live : s.frozenMsg m = false

/-! Events of the device, and what the host does through its registers (08 R175 to R187; 10 R228; 20 R401, R421; 22 R427 to R446). -/

/-- Average and peak cap of a power state (22 R427). -/
def capsAt (ps : Nat) : Nat × Nat := if ps = 0 then (2600, 3400) else if ps = 1 then (2000, 2600) else if ps = 2 then (1400, 1800) else (350, 400)

/-- The request that is granted next (22 R431): of those that wait in the cluster of the oldest, the oldest of the highest PRIO. -/
def NextGrant (s : State) (y : CoreId × Nat × Word) : Prop :=
  ∃ x before after, s.dev.deferred.head? = some x ∧ s.dev.deferred = before ++ y :: after ∧ clusterOf y.1 = clusterOf x.1 ∧
    ∀ z ∈ s.dev.deferred, clusterOf z.1 = clusterOf x.1 →
      (s.launch z.2.2).prio ≤ (s.launch y.2.2).prio ∧ (z ∈ before → (s.launch z.2.2).prio < (s.launch y.2.2).prio)

/-! Decoding, the step, reset, and memory. -/

/-- Words of the encoding tables, worked out by hand from 05 R89 to R103, 07, 12, 14, 18 and 20, and the instructions that they stand for. -/
def sampleWords : List (Nat × Nat × Instr) :=
  [(32, 0x80312800, .add 3 2 10), (32, 0xA0324B02, .ld 3 4 2 1 3 2), (32, 0xA67A4000, .stf 7 20 0 0 0), (32, 0xFA000240, .trap 0x12),
   (32, 0xDC252D80, .restrictWsum 1 10 11 12), (32, 0xF0052C00, .rngkey 10 11), (32, 0xF23A5C00, .specOpen 3 20 23),
   (32, 0xDE602960, .haloRun 3 10 11), (32, 0x00000073, .ecall)]

/-- The state in which context `k` of core `c` issues in cycle `n` of its tier's clock, and `t` is the thread whose instruction it is. -/
def issuing (s : State) (c : CoreId) (k n : Nat) (t : ThreadId) : State :=
  let s := s.updCore c fun x => { x with lastCtx := k, issuedIn := some n }
  let s := { s with clocks := mset s.clocks c.tier n, cur := t }
  s.updCtx (c.thread k) fun x => { x with lastIssue := some n }

/-- The thread that issues has its prefixes read, and what its instruction reads of a control register in this cycle (06 R130). -/
def prefixed (s : State) (pfx : Nat) (rlx : Bool) (got : Option Word) : State := s.updMe fun x => { x with pfx := pfx, rlx := rlx, got := got }

/-- What an instruction of `len` bytes does after a PRED prefix, or without one (05 R25, R99): where the predicate, inverted by the prefix's N,
is false, the thread only goes on to the next instruction; a marked predicate sets CIR bit 0. -/
def predicated (s : State) (i : Instr) (pred : Option (Bool × BitVec 3)) (len : Nat) : Res :=
  match pred with
  | none => exec i s
  | some (inv, p) =>
      let marked := s.me.pp p.toNat
      let t := if marked = true then s.updMe fun x => { x with cir := x.cir ||| 1 } else s
      if s.me.p p.toNat = inv then
        .next (s.updMe fun x => { x with
          cir := if marked = true then x.cir ||| 1 else x.cir, pc := x.pc + w64 (x.pfx + len), pfx := 0, rlx := false, held := none })
      else exec i t

/-- What an issue adds to the meaning's outcome: ISSUED counts, and a single step ends. -/
def afterIssue (t : ThreadId) (r : Res) : Res := match r with | .next s => .next (s.issued t) | r => r

/-- The registers of a leader and of its trailer are the same. -/
def SamePair (c d : Ctx) : Prop := d.xs = c.xs ∧ d.xm = c.xm ∧ d.ps = c.ps ∧ d.pm = c.pm ∧ d.hs = c.hs ∧ d.es = c.es ∧ d.em = c.em

/-- It is the turn of a core, whose context `k` issues next, in cycle `n`: no issue of its tier comes in an earlier cycle, and the clock runs. -/
structure Issues (s : State) (c : CoreId) (k n : Nat) (rest : List Turn) : Prop where
  whole : s.hole = none ∧ s.resume = []
  turn : (s.sched = [] ∧ s.cur.core = c ∧ rest = []) ∨ s.sched = .core c :: rest
  on : s.dev.powered = true ∧ s.clocked = true
  first : s.firstDue c = c
  next : s.nextIssue c = some (k, n)

/-! Forms that complete, on conditions of the state and the operands alone (07 R150; 11 R231, R235, R236; 13 R293, R294; 20 R408). -/

/-- The executing thread has a vector window with no register bound to a stream, and the VU holds no command, waits for no grant, and has no
thread waiting. -/
structure VuIdle (s : State) : Prop where
  win : s.vwin s.cur ≠ 15
  held : (s.core s.cur.core).vq = [] ∧ (s.core s.cur.core).vuResw = false ∧ (s.core s.cur.core).vuWait = []
  quiet : Quiet s

/-- Every element address is a multiple of `al` and has `n` bytes in banked memory that the launch may use (`wr`: write). -/
def elemsLie (s : State) (n al : Nat) (wr : Bool) (as : List Word) : Prop :=
  ∀ a ∈ as, a.toNat % al = 0 ∧ ∃ k, regionLoc (s.launchOf s.cur) s.cur.core a n wr = some (.bank k)

/-- Key of a byte of the executing core's own store, at offset `o` of it. -/
def storeKey (s : State) (o : Nat) : Nat := 2 ^ 60 + coreKey s.cur.core * 2 ^ 21 + o

end Sys2Proof.Machine
end

