-- ==== Sys2Proof/Certificates/Slice0/Obligations.lean ====
section
/-! DEFINITION. The statements for the provers: what the numbered rules of the spec say the instructions and the machine do. -/

open Sys2Proof Sys2Proof.Machine

/-- ADD, SUB, AND, OR, XOR, SLL, SRL, SRA, MIN, MAX, MINU, MAXU, MUL, MULH, MULHU, DIV, DIVU, REM and REMU (06 R114, R115), and the immediate forms
ADDI, ANDI, ORI, XORI, SLLI, SRLI, SRAI and C.ADDI (R117, R118, R133), complete in every state, with the result in xd, the zero divisor and the
signed overflow included and the immediate sign-extended; a marked source marks xd and sets CIR bit 0, and nothing else changes but the pc.
CLZ, CTZ and POPC complete in every state with the counts of R116: CLZ and CTZ name the highest and the lowest 1 bit, 64 for 0, and POPC
counts the 1 bits. BEXT gives the field, zero- or sign-extended; BINS gives xa's low bits inside the field of xd and xd's own bits outside it;
ADDA adds xb shifted left by 0 to 7 (06 R119, R120).
MOVE, `MOVE xd, ea`, LDE, SEL, C.ADD, C.MOVE and LDK complete with the values of R121 to R124 and R133, and change nothing else but the
pc and CIR bit 0. LDK reads the launch's copy beside the pipeline, and no mark; where the copy fails its parity it takes the word of the
store, whose bank is sound, with its mark, once its reply is there.
Where the spec leaves a point open, the statement takes the model's choice: log 32 (DESIGN CHOICE), log 33 (DEDUCED). -/
def Obligations.ArithmeticResults : Prop :=
  ((∀ (i : Instr) (d a b : Nat) (f : Word → Word → Word) (s : State), aluForm i = some (d, a, b, f) →
    ∃ t, exec i s = .next t ∧ WritesX s t d (f (s.me.x a) (s.me.x b)) (s.me.xp a || s.me.xp b) 4) ∧
  ∀ (i : Instr) (d a : Nat) (f : Word → Word) (n : Nat) (s : State), immForm i = some (d, a, f, n) →
    ∃ t, exec i s = .next t ∧ WritesX s t d (f (s.me.x a)) (s.me.xp a) n) ∧
  (∀ (d a b : BitVec 5) (x : BitVec 1) (l w : BitVec 6) (k : BitVec 3) (s : State),
    (∃ t n, exec (.clz d a) s = .next t ∧ WritesX s t d.toNat (w64 n) (s.me.xp a.toNat) 4 ∧
      n ≤ 64 ∧ (s.me.x a.toNat).toNat < 2 ^ (64 - n) ∧ (n < 64 → 2 ^ (63 - n) ≤ (s.me.x a.toNat).toNat)) ∧
    (∃ t n, exec (.ctz d a) s = .next t ∧ WritesX s t d.toNat (w64 n) (s.me.xp a.toNat) 4 ∧
      n ≤ 64 ∧ (s.me.x a.toNat).toNat % 2 ^ n = 0 ∧ (n < 64 → (s.me.x a.toNat).toNat / 2 ^ n % 2 = 1)) ∧
    (∃ t n, exec (.popc d a) s = .next t ∧ WritesX s t d.toNat (w64 n) (s.me.xp a.toNat) 4 ∧
      n = ((List.range 64).map fun i => (s.me.x a.toNat).toNat / 2 ^ i % 2).sum) ∧
    (l.toNat + w.toNat + 1 ≤ 64 →
      (∃ t v, exec (.bext d a x l w) s = .next t ∧ WritesX s t d.toNat v (s.me.xp a.toNat) 4 ∧
        ∀ i, i < 64 → bit v i = (if i ≤ w.toNat then bit (s.me.x a.toNat) (l.toNat + i)
          else x == 1 && bit (s.me.x a.toNat) (l.toNat + w.toNat))) ∧
      (∃ t v, exec (.bins d a l w) s = .next t ∧ WritesX s t d.toNat v (s.me.xp d.toNat || s.me.xp a.toNat) 4 ∧
        ∀ i, i < 64 → bit v i = (if l.toNat ≤ i ∧ i ≤ l.toNat + w.toNat then bit (s.me.x a.toNat) (i - l.toNat)
          else bit (s.me.x d.toNat) i)) ∧
      (∃ t, exec (.adda d a b k) s = .next t ∧
        WritesX s t d.toNat (w64 ((s.me.x a.toNat).toNat + (s.me.x b.toNat).toNat * 2 ^ k.toNat)) (s.me.xp a.toNat || s.me.xp b.toNat) 4))) ∧
  (∀ (d a b : BitVec 5) (e p : BitVec 3) (n : BitVec 1) (k : BitVec 8) (s : State),
    (∃ t, exec (.move d a) s = .next t ∧ WritesX s t d.toNat (s.me.x a.toNat) (s.me.xp a.toNat) 4) ∧
    (∃ t, exec (.moveXE d e) s = .next t ∧ WritesX s t d.toNat (s.me.e e.toNat) (s.me.ep e.toNat) 4) ∧
    (∃ t, exec (.sel d a b n p) s = .next t ∧
      WritesX s t d.toNat (if (s.me.p p.toNat ^^ (n == 1)) = true then s.me.x a.toNat else s.me.x b.toNat)
        (s.me.pp p.toNat || s.me.xp a.toNat || s.me.xp b.toNat) 4) ∧
    (∃ t, exec (.cAdd d a) s = .next t ∧
      WritesX s t d.toNat (s.me.x d.toNat + s.me.x a.toNat) (s.me.xp d.toNat || s.me.xp a.toNat) 2) ∧
    (∃ t, exec (.cMove d a) s = .next t ∧ WritesX s t d.toNat (s.me.x a.toNat) (s.me.xp a.toNat) 2) ∧
    ((s.core s.cur.core).cwBad.contains k.toNat = false →
      ∃ t, exec (.ldk d k) s = .next t ∧ WritesX s t d.toNat ((s.core s.cur.core).window s.me.serial k.toNat) false 4) ∧
    (let w := 2 ^ 57 + coreKey s.cur.core * 2 ^ 18 + k.toNat
     (s.core s.cur.core).cwBad.contains k.toNat = true → mget 0 s.badWords w = 0 → bankKey w ∉ s.dev.retired → s.me.slow = false →
      ∃ t, exec (.ldk d k) s = .next t ∧ SameMem s t ∧ XWrite s.me t.me d.toNat (w64 (leNat (s.rd (8 * w) 8))) (s.pz w) ∧
        t.me.pc = s.me.pc + w64 (s.me.pfx + 4)) ∧
    (∃ t, exec (.lde e a) s = .next t ∧ OnlyMe s t ∧ SameMem s t ∧
      (∀ r, r < 8 → t.me.e r = (if r = e.toNat then s.me.x a.toNat else s.me.e r) ∧
        t.me.ep r = (if r = e.toNat then s.me.xp a.toNat else s.me.ep r)) ∧
      t.me = { s.me with es := t.me.es, em := t.me.em, cir := if s.me.xp a.toNat then s.me.cir ||| 1 else s.me.cir
                         pc := s.me.pc + w64 (s.me.pfx + 4), pfx := 0, rlx := false, held := none }))

/-- PAND, POR, PNOT, PMOV, CMP and CMPI complete in every state with the predicate of R125 and R126; a write to p0 is discarded, and
nothing else changes but the pc.
BR, BRP, JAL, JR, C.BR and C.BRP (06 R127, R133): where the pc goes, counted from the branch's own first halfword, and the link;
nothing else changes. JR is stated for an even target. NOP, HINT and C.HINT only advance the pc, by 4, 4 and 2 bytes (05 R100, 06
R132).
Where the spec leaves a point open, the statement takes the model's choice: log 33 (DEDUCED). -/
def Obligations.PredicatesAndBranches : Prop :=
  (∀ (i : Instr) (d : Nat) (v m : Bool) (s : State), predForm i s.me = some (d, v, m) →
    ∃ t, exec i s = .next t ∧ WritesP s t d v m 4) ∧
  (∀ (o25 : BitVec 25) (o21 : BitVec 21) (o20 : BitVec 20) (o11 : BitVec 11) (o7 : BitVec 7) (n : BitVec 1) (p : BitVec 3) (d a : BitVec 5)
    (h : BitVec 25) (k : BitVec 11) (s : State),
    let A := s.me.pc + w64 s.me.pfx
    let at_ (w v : Nat) : Word := A + BitVec.ofInt 64 (2 * signedField w v)
    let taken : Bool := s.me.p p.toNat ^^ (n == 1)
    (∃ t, exec (.nop h) s = .next t ∧ GoesTo s t (A + 4) false) ∧
    (∃ t, exec (.hint h) s = .next t ∧ GoesTo s t (A + 4) false) ∧
    (∃ t, exec (.cHint k) s = .next t ∧ GoesTo s t (A + 2) false) ∧
    (∃ t, exec (.br o25) s = .next t ∧ GoesTo s t (at_ 25 o25.toNat) false) ∧
    (∃ t, exec (.cBr o11) s = .next t ∧ GoesTo s t (at_ 11 o11.toNat) false) ∧
    (∃ t, exec (.brp n p o21) s = .next t ∧ GoesTo s t (if taken then at_ 21 o21.toNat else A + 4) (s.me.pp p.toNat)) ∧
    (∃ t, exec (.cBrp n p o7) s = .next t ∧ GoesTo s t (if taken then at_ 7 o7.toNat else A + 2) (s.me.pp p.toNat)) ∧
    (∃ t, exec (.jal d o20) s = .next t ∧ OnlyMe s t ∧ SameMem s t ∧ XWrite s.me t.me d.toNat (A + 4) false ∧
      t.me = { s.me with xs := t.me.xs, xm := t.me.xm, pc := at_ 20 o20.toNat, pfx := 0, rlx := false, held := none }) ∧
    ((s.me.x a.toNat).toNat % 2 = 0 →
      ∃ t, exec (.jr d a) s = .next t ∧ OnlyMe s t ∧ SameMem s t ∧ XWrite s.me t.me d.toNat (A + 4) (s.me.xp a.toNat) ∧
        t.me = { s.me with xs := t.me.xs, xm := t.me.xm, cir := if s.me.xp a.toNat then s.me.cir ||| 1 else s.me.cir
                           pc := s.me.x a.toNat, pfx := 0, rlx := false, held := none }))

/-- A hardware trap of any class and detail (10 R204, R203, R209): with a handler and TMODE 0, TPC is the pc, TCAUSE holds the class and
the detail with CODE and SRC 0, and no x register changes; otherwise the launch ends with the trap's class, detail and address. The forms whose effect
is a trap (05 R98, 06 R127, 10 R207): a pattern that is no instruction raises ILLEGAL with its detail; JR to an odd target raises ALIGN 0x02
with the target as address and writes no link; TRAP completes and enters the handler with SRC 0b01 and its code, or ends the launch with
ILLEGAL 0x20 and the code as address.
Where the spec leaves a point open, the statement takes the model's choice: log 49 (DEDUCED), log 80 (DEDUCED). -/
def Obligations.TrapEntry : Prop :=
  (∀ (s : State) (d : BitVec 8) (wide : Bool) (w : BitVec 32), exec (.reservedOpcode d wide w) s = .next (s.trap 9 d.toNat 0)) ∧
  (∀ (s : State) (d a : BitVec 5), (s.me.x a.toNat).toNat % 2 = 1 → exec (.jr d a) s = .next (s.trap 8 2 (s.me.x a.toNat))) ∧
  (∀ (s : State) (c : BitVec 10), ∃ t, exec (.trap c) s = .next t ∧
    (CanTrap s → TakesTrap s t (w64 (c.toNat * 2 ^ 22 + 2 ^ 20)) 0 (s.me.pc + w64 s.me.pfx + 4) ∧ SameX s t) ∧
    (CannotTrap s → EndsLaunch s t s.me.serial (trapReport s 9 0x20 (w64 c.toNat)))) ∧
  ∀ (s : State) (cls det : Nat) (addr : Word), cls < 16 → det < 256 →
    (CanTrap s → TakesTrap s (s.trap cls det addr) (w64 (det * 2 ^ 8 + cls)) addr s.me.pc ∧ SameX s (s.trap cls det addr)) ∧
    (CannotTrap s → EndsLaunch s (s.trap cls det addr) s.me.serial (trapReport s cls det addr))

/-- CHKERR (10 R207) writes CIR into xd, unmarked, and leaves CIR; with CIR not 0 and a handler that can take it, it then traps with
POISON 0x01, SRC 0b10, PADDR as address and the next instruction as trap pc; otherwise it only writes xd.
BRK (10 R207): with BRKEN 0, or at debug level Locked, it only advances the pc; with BRKEN 1 a READY thread becomes STOPPED at the next
instruction with the code in TCAUSE bits 31:22, and BRKGANG asks every core of its launch for a gang stop. -/
def Obligations.BreakAndErrors : Prop :=
  (∀ (s : State) (d : BitVec 5), s.trailer s.cur = none → ∃ t, exec (.chkerr d) s = .next t ∧
    (s.me.cir ≠ 0 → CanTrap s →
      TakesTrap s t (w64 (2 * 2 ^ 20 + 2 ^ 8 + 1)) s.me.paddr (s.me.pc + w64 s.me.pfx + 4) ∧
      XWrite s.me t.me d.toNat (w64 s.me.cir.toNat) false) ∧
    (s.me.cir = 0 ∨ s.me.tmode = true ∨ (s.launchOf s.cur).tvec s.cur.tier = 0 → WritesX s t d.toNat (w64 s.me.cir.toNat) false 4)) ∧
  (∀ (s : State) (c : BitVec 10), s.trailer s.cur = none →
    let d := (s.core s.cur.core).dbgctl
    let A := s.me.pc + w64 s.me.pfx
    (s.dev.dbg = 0 ∨ d.toNat % 2 = 0 → ∃ t, exec (.brk c) s = .next t ∧ GoesTo s t (A + 4) false) ∧
    (s.dev.dbg ≠ 0 → d.toNat % 2 = 1 → s.me.st = .ready →
      ∃ t, exec (.brk c) s = .next t ∧
        OnlyMe (if 8 ≤ d.toNat then s.askStop s.me.serial (s.launchOf s.cur).cores else s) t ∧ SameMem s t ∧
        t.me = { s.me with
          st := .stopped, prev := .ready, stepping := false, stopAt := s.cycleOf s.cur
          tcause := w64 (s.me.tcause.toNat / 2 ^ 32 * 2 ^ 32 + c.toNat * 2 ^ 22 + s.me.tcause.toNat % 2 ^ 22)
          pc := A + 4, pfx := 0, rlx := false, held := none }))

/-- TRET returns from a handler (10 R205): PERM 0x04 without privilege, ILLEGAL 0x07 outside a handler, ALIGN 0x02 with TPC as address where TPC is odd, in that
order; the last, with TMODE still 1, is a fatal partition error of the launch with that class, detail and address. Otherwise TMODE becomes 0 and the pc TPC, and
nothing else of the thread changes, nor, of a thread that is no half of a pair, anything else of the machine. -/
def Obligations.TretResult : Prop :=
  ∀ s : State,
    (s.privileged s.cur = false → exec .tret s = .next (s.trap 6 4 0)) ∧
    (s.privileged s.cur = true → s.me.tmode = false → exec .tret s = .next (s.trap 9 7 0)) ∧
    (s.me.tmode = true → s.me.tpc.toNat % 2 = 1 → exec .tret s = .next (s.trap 8 2 s.me.tpc) ∧
      (CannotTrap s → EndsLaunch s (s.trap 8 2 s.me.tpc) s.me.serial (trapReport s 8 2 s.me.tpc))) ∧
    (s.me.tmode = true → s.me.tpc.toNat % 2 = 0 →
      ∃ t, exec .tret s = .next t ∧ SameMem s t ∧ t.me = { s.me with tmode := false, pc := s.me.tpc, pfx := 0, rlx := false, held := none } ∧
        (s.trailer s.cur = none → OnlyMe s t))

/-- GETC (06 R129, 04 R73): an unassigned index raises ILLEGAL 0x06, then a privileged one without privilege PERM 0x04; otherwise it
completes: xd takes the register's value in that cycle, unmarked, and nothing else changes but the pc. MSGRDY reads bit k for the contexts with a
message ready, and FMT0 to FMT15 their 32-bit images. SETC (06 R129, 04 R73): an unassigned or read-only index raises ILLEGAL 0x06, then a privileged one without privilege PERM 0x04;
otherwise it completes: the register takes xa, CIR bits written as 1 are cleared (bit 0 with PADDR), DBGCTL is written unless the debug
level is Locked (HOLD 0 lets go the launches held for the core), and nothing else changes but the pc and, for a marked xa, CIR bit 0 before the
write, an order that is the model's choice (log 33, DEDUCED). That TCAUSE drops the bits its
layout holds at zero is the model's choice too (log 48, DEDUCED).
Where the spec leaves a point open, the statement takes the model's choice: log 33 (DEDUCED), log 48 (DEDUCED). -/
def Obligations.ControlRegisters : Prop :=
  (∀ (s : State) (d : BitVec 5) (c : BitVec 10),
    (ctrlAssigned c.toNat = false → exec (.getc d c) s = .next (s.trap 9 6 0)) ∧
    (ctrlAssigned c.toNat = true → 0x100 ≤ c.toNat → s.privileged s.cur = false → exec (.getc d c) s = .next (s.trap 6 4 0)) ∧
    (ctrlAssigned c.toNat = true → (0x100 ≤ c.toNat → s.privileged s.cur = true) → s.trailer s.cur = none →
      (∀ w, s.me.got = some w → w = s.ctrl s.cur c.toNat) →
      ∃ t v, exec (.getc d c) s = .next t ∧ WritesX s t d.toNat v false 4 ∧
        (∀ w, (c.toNat, w) ∈ ctrlWords s → v = w) ∧
        (c.toNat = 0x00C → ∀ k, k < 64 → bit v k = (decide (k < 16) && ((s.core s.cur.core).msgrdy k (s.cycleOf s.cur) != 0))) ∧
        (0x10 ≤ c.toNat → c.toNat ≤ 0x1F → v = w64 (mget 0 (s.core s.cur.core).fmt (c.toNat - 0x10)).toNat))) ∧
  ∀ (s : State) (a : BitVec 5) (c : BitVec 10),
    (ctrlWritable c.toNat = false → exec (.setc a c) s = .next (s.trap 9 6 0)) ∧
    (ctrlWritable c.toNat = true → 0x100 ≤ c.toNat → s.privileged s.cur = false → exec (.setc a c) s = .next (s.trap 6 4 0)) ∧
    (ctrlWritable c.toNat = true → (0x100 ≤ c.toNat → s.privileged s.cur = true) → s.trailer s.cur = none →
      ∃ t, exec (.setc a c) s = .next t ∧ SameMem s t ∧ SameOthers s t ∧
        t.launches = (if c.toNat = 0x118 ∧ s.dev.dbg ≠ 0 ∧ bit (s.me.x a.toNat) 2 = false then heldFree s s.cur.core else s.launches) ∧
        t.me = setcCtx c.toNat (s.me.x a.toNat) { s.me with
          cir := if s.me.xp a.toNat then s.me.cir ||| 1 else s.me.cir
          pc := s.me.pc + w64 (s.me.pfx + 4), pfx := 0, rlx := false, held := none } ∧
        (t.core s.cur.core).dbgctl = (if c.toNat = 0x118 ∧ s.dev.dbg ≠ 0 then BitVec.ofNat 4 (s.me.x a.toNat).toNat
          else (s.core s.cur.core).dbgctl))

/-- GSTOP (10 R206, R208): PERM 0x04 without privilege, ILLEGAL 0x07 for an operand above 4; otherwise it completes. Every READY or PARKED
context of the launch on the issuing core is STOPPED at once, the issuing one at the next instruction; GSCYCLE takes the core's count; the
launch asks the other cores of the extent for the stop; and an interim completion entry of class NONE and detail 0x40 waits. Stated where
no context has an access in flight.
STEPCTL (10 R206, R220): PERM 0x04 without privilege, ILLEGAL 0x07 for a reserved bit, STEP with RESUME, or the issuing context;
otherwise it completes: FREEZE and HOLD are written to DBGCTL unless the debug level is Locked (HOLD 0 lets go the launches held for the core), a STOPPED target resumes or, where it was
READY, steps, and a target in another state is left as it is, one stopped while parked too (the model's choice: log 34, DEDUCED). Stated for a target that is no half of a pair.
Where the spec leaves a point open, the statement takes the model's choice: log 34 (DEDUCED), log 50 (DEDUCED). -/
def Obligations.StopAndStep : Prop :=
  (∀ (s : State) (a : BitVec 5),
    let v := (s.me.x a.toNat).toNat
    let l := s.launchOf s.cur
    (s.privileged s.cur = false → exec (.gstop a) s = .next (s.trap 6 4 0)) ∧
    (s.privileged s.cur = true → 4 < v → exec (.gstop a) s = .next (s.trap 9 7 0)) ∧
    (s.privileged s.cur = true → v ≤ 4 → s.trailer s.cur = none → s.known s.me.serial = true → s.me.st = .ready → s.cur.ctx < 16 →
      (∀ u : ThreadId, (s.ctx u).pend = []) →
      ∃ t, exec (.gstop a) s = .next t ∧
        (t.me.st = .stopped ∧ t.me.prev = .ready ∧ t.me.pc = s.me.pc + w64 (s.me.pfx + 4)) ∧
        (∀ u ∈ s.ctxsOf s.cur.core s.me.serial, (s.ctx u).st = .ready ∨ (s.ctx u).st = .parked →
          (t.ctx u).st = .stopped ∧ (t.ctx u).prev = (s.ctx u).st) ∧
        (t.core s.cur.core).gscycle = w64 (s.cycleOf s.cur) ∧
        (∀ c ∈ gstopCores s.cur.core v l, c ≠ s.cur.core → l.on c = true → coreKey c ∈ (t.launch s.me.serial).stopReq) ∧
        (∃ e, (t.cq l.cqn).waiting = (s.cq l.cqn).waiting ++ [e] ∧ e.interim = true ∧ e.rep.cls = 0 ∧ e.rep.detail = 0x40))) ∧
  (∀ (s : State) (a : BitVec 5),
    let v := s.me.x a.toNat
    let k := v.toNat % 16
    let u : ThreadId := ⟨s.cur.die, s.cur.tier, s.cur.idx, k⟩
    (s.privileged s.cur = false → exec (.stepctl a) s = .next (s.trap 6 4 0)) ∧
    (s.privileged s.cur = true → 256 ≤ v.toNat ∨ (bit v 4 = true ∧ bit v 7 = true) ∨ k = s.cur.ctx →
      exec (.stepctl a) s = .next (s.trap 9 7 0)) ∧
    (s.privileged s.cur = true → v.toNat < 256 → ¬(bit v 4 = true ∧ bit v 7 = true) → k ≠ s.cur.ctx → s.trailer s.cur = none →
      (s.launchOf u).isPair = false →
      ∃ t, exec (.stepctl a) s = .next t ∧ SameMem s t ∧
        t.launches = (if s.dev.dbg ≠ 0 ∧ bit v 6 = false then heldFree s s.cur.core else s.launches) ∧
        t.me = { s.me with cir := if s.me.xp a.toNat then s.me.cir ||| 1 else s.me.cir
                           pc := s.me.pc + w64 (s.me.pfx + 4), pfx := 0, rlx := false, held := none } ∧
        (t.core s.cur.core).dbgctl = (if s.dev.dbg = 0 then (s.core s.cur.core).dbgctl
          else setBit (setBit (s.core s.cur.core).dbgctl 1 (bit v 5)) 2 (bit v 6)) ∧
        t.ctx u = (if (s.ctx u).st ≠ .stopped then s.ctx u
          else if bit v 7 then (s.ctx u).resumeAt (s.cycleOf u)
          else if bit v 4 ∧ (s.ctx u).prev = .ready then { s.ctx u with st := .ready, stepping := true }
          else s.ctx u)))

/-- The checks of an address outside region 0x00, in their order: ALIGN 0x01 first, then region, must-be-zero bits, the constant window's
write protection, the core index, footprint or Nimbus range; the keys of local stores and Nimbus are the model's own numbering.
The page of region 0x00 (08 R172 to R174; 01 R7, R9; 20 R422): what a leaf entry answers an access, in the order of the rules: malformed
entries raise XLATE, missing permissions PERM 0x06, an atomic outside HBM too; HBM without a route raises PEER 0x02.
The four-level walk (08 R172), where every entry met is valid: the entry at each level, by the bits of the address it is indexed with,
down to a leaf of 1 GiB, 2 MiB or 64 KiB. A walk whose first table lies on a stack that the die does not reach is lost, as a page there is
(the model's choice: log 82, DESIGN CHOICE).
Where the spec leaves a point open, the statement takes the model's choice: log 9 (DEDUCED), log 20 (PRESUMED), log 82 (DESIGN CHOICE), log 91 (DESIGN CHOICE). -/
def Obligations.Translation : Prop :=
  (∀ (s : State) (t : ThreadId) (a : Word) (n al : Nat) (k : Acc1),
    (a.toNat % al ≠ 0 → s.checkAcc t a n al k = .trap 8 1) ∧
    (a.toNat % al = 0 → ∀ loc, regionLoc (s.launchOf t) t.core a n (k == .store || k == .amo || k == .engWrite) = some loc →
      s.checkAcc t a n al k = loc)) ∧
  (∀ (s : State) (die e va : Nat) (k : Acc1),
    let kind := e / 2 ^ 8 % 4
    let r := e / 4 % 2 = 1
    let w := e / 8 % 2 = 1
    let pa := e / 2 ^ 16 % 2 ^ 36 * 2 ^ 16 + va % 2 ^ 16
    let may : Prop := leafMay e k
    (e / 2 ^ 52 ≠ 0 ∨ e / 2 ^ 10 % 64 ≠ 0 ∨ e / 64 % 4 ≠ 0 ∨ kind = 3 ∨ (w ∧ ¬r) → e < 2 ^ 64 → leafLoc s die e va 16 k = .trap 5 0) ∧
    (e < 2 ^ 52 → e / 2 ^ 10 % 64 = 0 → e / 64 % 4 = 0 → kind ≤ 1 → (w → r) →
      (¬may → leafLoc s die e va 16 k = .trap 6 6) ∧
      (may → kind = 1 → leafLoc s die e va 16 k = .hostMem (2 ^ 62 + pa)) ∧
      (may → kind = 0 → pa / 2 ^ 36 < 8 → pa % 2 ^ 36 < stackBytes →
        leafLoc s die e va 16 k = (if s.routed die (pa / 2 ^ 36) then .hbm pa else .trap 12 2)))) ∧
  (∀ (s : State) (ok : Nat → Bool) (root va e3 e2 e1 e0 : Nat), root % 65536 = 0 → root < 2 ^ 52 →
    let at_ (base idx : Nat) : Nat := leNat (s.rd (base + 8 * idx) 8)
    let next (e : Nat) : Nat := e / 2 ^ 8 % 2 ^ 44 * 256
    let low (e : Nat) : Prop := e < 2 ^ 52 ∧ e % 256 = 1
    let node (e : Nat) : Prop := low e ∧ next e % 4096 = 0
    e3 = at_ root (va / 2 ^ 39 % 2 ^ 13) → e2 = at_ (next e3) (va / 2 ^ 30 % 512) → e1 = at_ (next e2) (va / 2 ^ 21 % 512) →
    e0 = at_ (next e1) (va / 2 ^ 16 % 32) →
    (ok root = false → s.leafOf ok root va = .lost) ∧
    ((∀ b, ok b = true) →
      (e3 % 2 = 0 → s.leafOf ok root va = .fault) ∧
      (node e3 → e2 % 2 = 0 → s.leafOf ok root va = .fault) ∧
      (node e3 → e2 % 4 = 3 → s.leafOf ok root va = .leaf e2 30) ∧
      (node e3 → node e2 → e1 % 2 = 0 → s.leafOf ok root va = .fault) ∧
      (node e3 → node e2 → e1 % 4 = 3 → s.leafOf ok root va = .leaf e1 21) ∧
      (node e3 → node e2 → low e1 → e0 % 2 = 0 → s.leafOf ok root va = .fault) ∧
      (node e3 → node e2 → low e1 → e0 % 4 = 3 → s.leafOf ok root va = .leaf e0 16)))

/-- Loads, not relaxed, of readable memory complete (07 R135 to R137, R140; 08 R184, R191): each destination register holds its bytes,
zero-extended, low byte first, and the mark of its word or of the base; x0 stays 0; every other register keeps its value; CIR bit 0 is set
where a mark was read and PADDR then names an address of the access, unless it held one; memory is as before, but for the write-back of the line
that a full set of the cache gives up (09 R197; none where the set has room); an acquire at tier or wider then drops the cluster's clean data.
Where the spec leaves a point open, the statement takes the model's choice: log 4 (DESIGN CHOICE), log 21 (DEDUCED), log 24 (DEDUCED), log 25 (DEDUCED). -/
def Obligations.LoadResults : Prop :=
  ∀ (i : Instr) (f : LoadForm) (s : State) (loc : Loc), loadForm i s.me = some f → Quiet s →
    s.checkAcc s.cur f.addr f.n f.n .load = loc → soundLoc s loc f.n →
    let u := withRoom s loc (wide (f.acq.getD 0))
    (∀ pa, loc = .hbm pa → s.roomy (clusterOf s.cur.core) (pa / 64) = true → u = s) ∧
    ∃ t, exec i s = .next t ∧ SameMem u t ∧ SameOthers s t ∧ t.launches = u.launches ∧ t.fe = s.fe ∧
      (∀ r, r < 32 → t.me.x r =
        if r = 0 ∨ r < f.rt ∨ (f.rt + (f.n + 7) / 8 ≤ r) then s.me.x r
        else w64 (leNat ((List.range (min f.n 8)).map fun j => loadByte u loc (wide (f.acq.getD 0)) (8 * (r - f.rt) + j)))) ∧
      (∀ r, r < 32 → t.me.xp r =
        if r = 0 ∨ r < f.rt ∨ (f.rt + (f.n + 7) / 8 ≤ r) then s.me.xp r
        else (s.loadLoc s.cur loc f.addr f.n f.acq).2.2.getD (r - f.rt) false || s.me.xp f.rb) ∧
      t.me = { s.me with xs := t.me.xs, xm := t.me.xm, paddr := t.me.paddr
                         cir := if s.me.xp f.rb || (s.loadLoc s.cur loc f.addr f.n f.acq).2.2.any id then s.me.cir ||| 1 else s.me.cir
                         pc := s.me.pc + w64 (s.me.pfx + f.len), pfx := 0, rlx := false, held := none } ∧
      ((s.loadLoc s.cur loc f.addr f.n f.acq).2.2.any id = false ∨ s.me.paddr ≠ 0 → t.me.paddr = s.me.paddr) ∧
      ((s.loadLoc s.cur loc f.addr f.n f.acq).2.2.any id = true → s.me.paddr = 0 → ∃ j, j < 8 ∧ t.me.paddr = f.addr + w64 (8 * j)) ∧
      (wide (f.acq.getD 0) = true → ∀ p ∈ (t.cluster (clusterOf s.cur.core)).lines, p.2.valid = p.2.dirty)

/-- Stores to banked and host memory, not relaxed, complete (07 R135 to R137, R140, R144): exactly the bytes at the store's address change
in memory as a release, if any, has left it; every full/empty state is as before; a marked source sets CIR bits 0 and 2; no register but
the pc and CIR changes. Stores to HBM with no release at tier or wider complete in the cluster's cache (08 R184): the line holds the stored
bytes, valid and dirty, and its other bytes as before; every other line, and all of memory, is as making room for the line has left it (09
R197): where its set has room and no prefetch has asked for it, as before. A release store to HBM at tier or wider first writes the cluster's dirty
lines back and is then performed at the controller (08 R191): memory holds its bytes, the cluster's cache no longer holds the line, and nothing
else changes but by the write-backs; stated with no page in migration.
Where the spec leaves a point open, the statement takes the model's choice: log 4 (DESIGN CHOICE), log 24 (DEDUCED), log 25 (DEDUCED). -/
def Obligations.StoreResults : Prop :=
  (∀ (i : Instr) (f : StoreForm) (s : State) (pa : Nat), storeForm i s.me = some f → Quiet s → s.migs = [] →
      s.checkAcc s.cur f.addr f.data.length f.data.length .store = .hbm pa → wide (f.rel.getD 0) = true → pa % f.data.length = 0 →
      let cl := clusterOf s.cur.core
      let r := afterRelease s f.rel
      ∃ t, exec i s = .next t ∧ SameOthers s t ∧ t.fe = s.fe ∧
        (∀ j, j < f.data.length → memGet t.mem (pa + j) = f.data.getD j 0) ∧
        (∀ x, x < pa ∨ pa + f.data.length ≤ x → memGet t.mem x = memGet (r.flushLine cl (pa / 64)).mem x) ∧
        (∀ n, mget CLine.empty (t.cluster cl).lines n = if n = pa / 64 then CLine.empty else mget CLine.empty (r.cluster cl).lines n) ∧
        t.me = { s.me with cir := if f.marks.any id then s.me.cir ||| 5 else s.me.cir
                           pc := s.me.pc + w64 (s.me.pfx + f.len), pfx := 0, rlx := false, held := none }) ∧
  (∀ (i : Instr) (f : StoreForm) (s : State) (pa : Nat), storeForm i s.me = some f → Quiet s →
      s.checkAcc s.cur f.addr f.data.length f.data.length .store = .hbm pa → wide (f.rel.getD 0) = false → pa % f.data.length = 0 →
      let cl := clusterOf s.cur.core
      let line (v : State) (n : Nat) : CLine := mget CLine.empty (v.cluster cl).lines n
      let u := (s.demandMeet cl (pa / 64)).room cl (pa / 64)
      (s.roomy cl (pa / 64) = true → (s.cluster cl).fetching.contains (pa / 64) = false → SameMem s u ∧
        ∀ n, (line u n).data = (line s n).data ∧ (line u n).valid = (line s n).valid ∧ (line u n).dirty = (line s n).dirty) ∧
      ∃ t, exec i s = .next t ∧ SameMem u t ∧ SameOthers s t ∧ t.fe = s.fe ∧
        (∀ n, n ≠ pa / 64 → line t n = line u n) ∧
        (let l := line u (pa / 64)
         let m := line t (pa / 64)
         l.data.length = 64 → ∀ j, j < 64 →
          (if pa % 64 ≤ j ∧ j < pa % 64 + f.data.length then
            m.data.getD j 0 = f.data.getD (j - pa % 64) 0 ∧ bit m.valid j = true ∧ bit m.dirty j = true
           else m.data.getD j 0 = l.data.getD j 0 ∧ bit m.valid j = bit l.valid j ∧ bit m.dirty j = bit l.dirty j)) ∧
        t.me = { s.me with cir := if f.marks.any id then s.me.cir ||| 5 else s.me.cir
                           pc := s.me.pc + w64 (s.me.pfx + f.len), pfx := 0, rlx := false, held := none }) ∧
  ∀ (i : Instr) (f : StoreForm) (s : State) (k : Nat), storeForm i s.me = some f → Quiet s →
    (s.checkAcc s.cur f.addr f.data.length f.data.length .store = .bank k ∧ (∀ w ∈ wordsOf k f.data.length, calmWord s w)) ∨
      s.checkAcc s.cur f.addr f.data.length f.data.length .store = .hostMem k →
    ∃ t, exec i s = .next t ∧ SameOthers s t ∧ t.fe = s.fe ∧
      (∀ j, j < f.data.length → memGet t.mem (k + j) = f.data.getD j 0) ∧
      (∀ x, x < k ∨ k + f.data.length ≤ x → memGet t.mem x = memGet (afterRelease s f.rel).mem x) ∧
      t.me = { s.me with cir := if f.marks.any id then s.me.cir ||| 5 else s.me.cir
                         pc := s.me.pc + w64 (s.me.pfx + f.len), pfx := 0, rlx := false, held := none }

/-- Where a load or store stops (07 R134, R139): a failed check traps precisely with its class, detail and address, with none of the
access's effect, and a translation fault parks the thread of a load or a store with the instruction held. Stated for accesses with no RLX
prefix.
A relaxed access (07 R138, R139), with fewer than eight in flight and where the schedule lets it stay so, goes in flight and the thread
goes on: no register but the pc (and CIR for a marked base) and no byte of memory changes yet; a relaxed store holds the bytes its source
had at issue. A load that is not relaxed, whose reply the schedule lets come later, parks for it (R137; 04 R62): at a blocking point where it
reads region 0x7C or another die's stack (the model's choice of which wait it is: log 23, DEDUCED). A plain store to a bank or to host memory parks for
its reply too, and never at a blocking point; one to HBM is posted: it goes in flight, and the thread goes on.
Where the spec leaves a point open, the statement takes the model's choice: log 23 (DEDUCED), log 24 (DEDUCED), log 30 (DEDUCED). -/
def Obligations.StopsAndRelaxed : Prop :=
  (∀ (i : Instr) (s : State) (c d : Nat), Quiet s →
    (∀ f, loadForm i s.me = some f → s.checkAcc s.cur f.addr f.n f.n .load = .trap c d →
      exec i s = .next (s.trap c d f.addr)) ∧
    (∀ f, storeForm i s.me = some f → s.checkAcc s.cur f.addr f.data.length f.data.length .store = .trap c d →
      exec i s = .next (s.trap c d f.addr)) ∧
    (∀ f, loadForm i s.me = some f → s.checkAcc s.cur f.addr f.n f.n .load = .xfault →
      ∃ t, exec i s = .next t ∧ SameX s t ∧ t.me.pc = s.me.pc ∧
        (t.me.held.map fun h => (h.instr, h.cause)) = some (i, .xlate f.addr)) ∧
    (∀ f, storeForm i s.me = some f → s.checkAcc s.cur f.addr f.data.length f.data.length .store = .xfault →
      ∃ t, exec i s = .next t ∧ SameX s t ∧ t.me.pc = s.me.pc ∧
        (t.me.held.map fun h => (h.instr, h.cause)) = some (i, .xlate f.addr))) ∧
  ((∀ (i : Instr) (s : State) (f : LoadForm) (loc : Loc), s.me.rlx = false → s.me.slow = true → s.me.held = none → s.trailer s.cur = none →
    loadForm i s.me = some f → s.checkAcc s.cur f.addr f.n f.n .load = loc → loc.key.isSome = true →
    let far : Prop := match loc with
      | .bank _ => f.addr.toNat / 2 ^ 56 = 0x7C
      | .hbm pa => pa / 2 ^ 36 ≠ s.cur.die
      | _ => False
    ∃ t b, exec i s = .next t ∧ Parks s t i (.reply b) ∧ (b = true ↔ far)) ∧
  (∀ (i : Instr) (s : State) (f : StoreForm) (loc : Loc), s.me.rlx = false → s.me.held = none → s.trailer s.cur = none → s.hole = none →
    storeForm i s.me = some f → s.checkAcc s.cur f.addr f.data.length f.data.length .store = loc →
    (s.me.slow = true → (∃ k, loc = .bank k ∨ loc = .hostMem k) → ∃ t, exec i s = .next t ∧ Parks s t i (.reply false)) ∧
    (s.me.weak = true → ∀ pa, loc = .hbm pa →
      ∃ t p, exec i s = .next t ∧ OnlyMe { s with nextOrder := s.nextOrder + 1 } t ∧ SameMem s t ∧ p.load = false ∧ p.relaxed = false ∧
        p.va = f.addr ∧ p.key = some pa ∧ p.data = f.data ∧ p.marks = f.marks ∧
        t.me = { s.me with pend := s.me.pend ++ [p], cir := if f.marks.any id then s.me.cir ||| 5 else s.me.cir
                           pc := s.me.pc + w64 (s.me.pfx + f.len), pfx := 0, rlx := false, held := none })) ∧
  ∀ (i : Instr) (s : State) (loc : Loc), s.me.rlx = true → s.me.weak = true → s.me.relaxed < 8 → s.trailer s.cur = none →
    loc.key.isSome = true →
    (∀ f, loadForm i s.me = some f → f.acq = none → s.checkAcc s.cur f.addr f.n f.n .load = loc →
      ∃ t p, exec i s = .next t ∧ OnlyMe { s with nextOrder := s.nextOrder + 1 } t ∧ SameMem s t ∧ p.load = true ∧ p.relaxed = true ∧ p.va = f.addr ∧ p.len = f.n ∧
        p.dest = f.rt ∧
        t.me = { s.me with pend := s.me.pend ++ [p], cir := if s.me.xp f.rb then s.me.cir ||| 1 else s.me.cir
                           pc := s.me.pc + w64 (s.me.pfx + f.len), pfx := 0, rlx := false, held := none }) ∧
    (∀ f, storeForm i s.me = some f → f.rel = none → s.checkAcc s.cur f.addr f.data.length f.data.length .store = loc →
      ∃ t p, exec i s = .next t ∧ OnlyMe { s with nextOrder := s.nextOrder + 1 } t ∧ SameMem s t ∧ p.load = false ∧ p.relaxed = true ∧ p.va = f.addr ∧ p.data = f.data ∧
        p.marks = f.marks ∧
        t.me = { s.me with pend := s.me.pend ++ [p], cir := if f.marks.any id then s.me.cir ||| 5 else s.me.cir
                           pc := s.me.pc + w64 (s.me.pfx + f.len), pfx := 0, rlx := false, held := none }))

/-- The full/empty reads by the state of their word (07 R142, R144, R147): LDF.keep completes on a FULL or POISONED word and in the constant
window, and leaves the state; LDF.take completes on a FULL word, which becomes EMPTY, and on a POISONED one, which stays so; on an EMPTY word
both park at the bank; FEQ reads the state, true in the constant window and, with CIR bit 0 set, on a POISONED word. Where LDF.take empties
the word, stated with no request parked and no writer recorded there.
The full/empty writes (07 R144, R147): STF writes an EMPTY or POISONED word and makes it FULL, and parks on a FULL one; FEW makes the
word EMPTY and leaves its data. Where a change would serve or post waiters, stated with none there.
Where the spec leaves a point open, the statement takes the model's choice: log 25 (DEDUCED). -/
def Obligations.FullEmptyForms : Prop :=
  (∀ (s : State) (t b : BitVec 5) (p : BitVec 3) (o : BitVec 2) (sc : BitVec 3) (f : BitVec 8) (w : Nat),
    let a := offAddr s.me b f
    let base := s.me.xp b.toNat
    let x := s.feAt w
    (AtWord s a .load w → (isWindowWord w || x.full || x.lost) = true →
      ∃ u, exec (.ldfKeep t b o sc f) s = .next u ∧ LdfTakes s u t.toNat w a base ∧ SameMem s u ∧ SameOthers s u ∧ u.fe = s.fe) ∧
    (AtWord s a .load w → (isWindowWord w || x.full || x.lost) = false →
      ∃ u, exec (.ldfKeep t b o sc f) s = .next u ∧ Parks s u (.ldfKeep t b o sc f) (.fe w false false) ∧ s.cur ∈ (u.feAt w).parked) ∧
    (AtWord s a .store w → x.full = true → x.lost = false → x.parked = [] → x.writers = [] →
      ∃ u, exec (.ldfTake t b o sc f) s = .next u ∧ LdfTakes s u t.toNat w a base ∧ SameMem s u ∧ SameOthers s u ∧
        u.feAt w = { x with full := false } ∧ ∀ v, v ≠ w → u.feAt v = s.feAt v) ∧
    (AtWord s a .store w → x.lost = true →
      ∃ u, exec (.ldfTake t b o sc f) s = .next u ∧ LdfTakes s u t.toNat w a base ∧ SameMem s u ∧ SameOthers s u ∧ u.fe = s.fe) ∧
    (AtWord s a .store w → x.full = false → x.lost = false →
      ∃ u, exec (.ldfTake t b o sc f) s = .next u ∧ Parks s u (.ldfTake t b o sc f) (.fe w false true) ∧ s.cur ∈ (u.feAt w).parked) ∧
    (AtWord s a .load w →
      ∃ u, exec (.feq p b f) s = .next u ∧ SameMem s u ∧ SameOthers s u ∧ u.fe = s.fe ∧
        (∀ r, r < 8 → u.me.p r = (if r = 0 then true else if r = p.toNat then isWindowWord w || x.full || x.lost else s.me.p r)) ∧
        (∀ r, u.me.x r = s.me.x r ∧ u.me.xp r = s.me.xp r) ∧
        u.me.cir = (if base || x.lost then s.me.cir ||| 1 else s.me.cir) ∧ u.me.pc = s.me.pc + w64 (s.me.pfx + 4))) ∧
  (∀ (s : State) (t b : BitVec 5) (o : BitVec 2) (sc : BitVec 3) (f : BitVec 8) (w : Nat),
    let a := offAddr s.me b f
    let base := s.me.xp b.toNat
    let x := s.feAt w
    AtWord s a .store w → isBanked w = true → isWindowWord w = false → s.bankTakes w = true →
    (x.full = false ∨ x.lost = true → x.parked = [] → x.readers = [] →
      ∃ u, exec (.stf t b o sc f) s = .next u ∧ memWord u w = s.me.x t.toNat ∧ u.pz w = (s.me.xp t.toNat || base) ∧ SameOthers s u ∧
        (∀ k, k < 8 * w ∨ 8 * w + 8 ≤ k →
          memGet u.mem k = memGet (afterRelease s (if o = 0 then none else some sc.toNat)).mem k) ∧
        u.feAt w = { x with full := true, lost := false } ∧ (∀ v, v ≠ w → u.feAt v = s.feAt v) ∧
        u.me = { s.me with cir := if s.me.xp t.toNat || base then s.me.cir ||| 5 else s.me.cir
                           pc := s.me.pc + w64 (s.me.pfx + 4), pfx := 0, rlx := false, held := none }) ∧
    (x.full = true → x.lost = false →
      ∃ u, exec (.stf t b o sc f) s = .next u ∧ Parks s u (.stf t b o sc f) (.fe w true false) ∧ s.cur ∈ (u.feAt w).parked) ∧
    (x.parked = [] → x.writers = [] →
      ∃ u, exec (.few b f) s = .next u ∧ SameMem s u ∧ SameOthers s u ∧
        u.feAt w = { x with full := false, lost := false } ∧ (∀ v, v ≠ w → u.feAt v = s.feAt v) ∧
        u.me = { s.me with cir := if base then s.me.cir ||| 1 else s.me.cir
                           pc := s.me.pc + w64 (s.me.pfx + 4), pfx := 0, rlx := false, held := none }))

/-- Atomics at banked memory complete (07 R148, R149): xd takes the old word, zero-extended; memory takes the new one, and an AMOCAS whose
comparison fails writes nothing; no other byte changes but by the release that comes first; the full/empty state is kept. On a poisoned
word nothing is written and xd is marked.
Atomics at HBM are performed at the memory side, after the cluster's line has been written back and dropped (07 R149, 08 R194): the old
word is memory's, and memory takes the new one. Stated for a word that is not poisoned, with no page in migration. -/
def Obligations.Atomics : Prop :=
  (∀ (i : Instr) (f : AmoForm) (s : State) (k : Nat), amoForm i = some f → Quiet s → f.ord ≤ 2 →
    s.checkAcc s.cur (s.me.x f.ra) f.n f.n .amo = .bank k → soundLoc s (.bank k) f.n → calmWord s (k / 8) →
    let r := afterRelease s (if f.ord = 2 then some f.sc else none)
    let old := leNat (r.rd k f.n)
    let new := f.new old ((s.me.x f.rb).toNat % 2 ^ (8 * f.n)) ((s.me.e 0).toNat % 2 ^ (8 * f.n))
    let cas : Prop := isCas i = true
    let src : Prop := s.me.xp f.ra = true ∨ s.me.xp f.rb = true ∨ (cas ∧ s.me.ep 0 = true)
    ∃ t, exec i s = .next t ∧ SameOthers s t ∧ t.fe = s.fe ∧
      (∀ q, q < 32 → t.me.x q = (if q = 0 then 0 else if q = f.rd then w64 old else s.me.x q)) ∧
      (∀ q, q < 32 → t.me.xp q = true ↔ (q ≠ 0 ∧ if q = f.rd then r.pz (k / 8) = true ∨ src else s.me.xp q = true)) ∧
      (∀ x, x < k ∨ k + f.n ≤ x → memGet t.mem x = memGet r.mem x) ∧
      leNat (t.rd k f.n) = (if r.pz (k / 8) then old else new.getD old) ∧
      t.me.pc = s.me.pc + w64 (s.me.pfx + 4) ∧ t.me.hs = s.me.hs ∧ t.me.ps = s.me.ps ∧ t.me.es = s.me.es) ∧
  (∀ (i : Instr) (f : AmoForm) (s : State) (pa : Nat), amoForm i = some f → Quiet s → f.ord ≤ 2 → s.migs = [] →
    s.checkAcc s.cur (s.me.x f.ra) f.n f.n .amo = .hbm pa → pa % f.n = 0 →
    let r := (afterRelease s (if f.ord = 2 then some f.sc else none)).flushLine (clusterOf s.cur.core) (pa / 64)
    let old := leNat (r.rd pa f.n)
    r.pz (pa / 8) = false →
    ∃ t, exec i s = .next t ∧ SameOthers s t ∧ t.fe = s.fe ∧
      (∀ q, q < 32 → t.me.x q = (if q = 0 then 0 else if q = f.rd then w64 old else s.me.x q)) ∧
      (∀ x, x < pa ∨ pa + f.n ≤ x → memGet t.mem x = memGet r.mem x) ∧
      leNat (t.rd pa f.n) = (f.new old ((s.me.x f.rb).toNat % 2 ^ (8 * f.n)) ((s.me.e 0).toNat % 2 ^ (8 * f.n))).getD old ∧
      t.me.pc = s.me.pc + w64 (s.me.pfx + 4))

/-- BANKOP (07 R150): ALIGN 0x01, then PERM 0x01 outside region 0x7E; otherwise it completes, each word of the block taking its elements'
results from the octet's words (`bankWord`, the element operation of the class), a poisoned word staying as it is, and no other byte of
memory changing. For the 32-bit integer classes the element results are written out: sums wrap, comparisons are signed or unsigned by the
class, and axpy keeps the low 32 bits.
Where the spec leaves a point open, the statement takes the model's choice: log 25 (DEDUCED). -/
def Obligations.BankopResults : Prop :=
  (∀ (e y s : Nat), e < 2 ^ 32 → y < 2 ^ 32 → s < 2 ^ 32 →
    (bankElem (.int true 32) 0 e y s = (y + s) % 2 ^ 32 ∧ bankElem (.int false 32) 0 e y s = (y + s) % 2 ^ 32) ∧
    (bankElem (.int false 32) 1 e y s = max y s ∧ bankElem (.int false 32) 2 e y s = min y s) ∧
    (signedField 32 (bankElem (.int true 32) 1 e y s) = max (signedField 32 y) (signedField 32 s)) ∧
    (signedField 32 (bankElem (.int true 32) 2 e y s) = min (signedField 32 y) (signedField 32 s)) ∧
    (bankElem (.int true 32) 3 e y s = (e * s + y) % 2 ^ 32 ∧ bankElem (.int false 32) 3 e y s = (e * s + y) % 2 ^ 32)) ∧
  ∀ (i : Instr) (op o ra cls n : Nat) (fm : Fmt) (s : State) (k : Nat), bankForm i = some (op, o, ra, cls, n) →
    Fmt.ofClass cls = some fm →
    let a := s.me.x ra
    (a.toNat % 8 ≠ 0 ∨ 64 < a.toNat % 64 + 8 * n → exec i s = .next (s.trap 8 1 a)) ∧
    (a.toNat % 8 = 0 → a.toNat % 64 + 8 * n ≤ 64 → a.toNat / 2 ^ 56 ≠ 0x7E → exec i s = .next (s.trap 6 1 a)) ∧
    (a.toNat % 8 = 0 → a.toNat % 64 + 8 * n ≤ 64 → a.toNat / 2 ^ 56 = 0x7E → Quiet s →
      s.checkAcc s.cur a (8 * n) 8 .store = .bank k → k % 8 = 0 → soundLoc s (.bank k) (8 * n) →
      (∀ w ∈ wordsOf k (8 * n), calmWord s w) →
      ∃ t, exec i s = .next t ∧ SameOthers s t ∧ t.fe = s.fe ∧ SameX s t ∧ t.me.pc = s.me.pc + w64 (s.me.pfx + 4) ∧
        (∀ x, x < k ∨ k + 8 * n ≤ x → memGet t.mem x = memGet s.mem x) ∧
        ∀ j, j < n → memWord t (k / 8 + j) = (if s.pz (k / 8 + j) then memWord s (k / 8 + j)
          else bankWord fm op (s.me.e 0).toNat (memWord s (k / 8 + j)) (s.me.x (o + j))))

/-- FENCE with nothing in flight completes (07 R151, 08 R191). At core or cluster scope only the pc changes. At tier or wider the cluster's
cache then holds nothing, and every byte that was dirty in it, on a stack that has a route, stands in memory. Stated with no page in
migration.
Region 0x7D (07 R141; 08 R183, R186): an LD.d at an assigned word completes with the word's value (PFCTL, PFLINES, PFUSED, PFEARLY and VUSTAT are
named); an ST.d at PFCTL writes EN and DIST and, with CLR, clears the cluster's three counters; an assigned word in another form, and an
offset that no unit assigns, raise PERM 0x07.
Where the spec leaves a point open, the statement takes the model's choice: log 23 (DEDUCED). -/
def Obligations.FenceAndMmio : Prop :=
  (∀ (s : State) (sc : BitVec 3), Quiet s →
    let cl := clusterOf s.cur.core
    (wide sc.toNat = false → ∃ t, exec (.fence sc) s = .next t ∧ OnlyMe s t ∧ SameMem s t ∧
      t.me = { s.me with pc := s.me.pc + w64 (s.me.pfx + 4), pfx := 0, rlx := false, held := none }) ∧
    (wide sc.toNat = true → sortedLines s cl → s.migs = [] →
      ∃ t, exec (.fence sc) s = .next t ∧ SameOthers s t ∧ t.fe = s.fe ∧
        t.me = { s.me with pc := s.me.pc + w64 (s.me.pfx + 4), pfx := 0, rlx := false, held := none } ∧
        (t.cluster cl).lines = [] ∧
        ∀ p ∈ (s.cluster cl).lines, s.routed (cl / 64) (p.1 * 64 / 2 ^ 36) = true → ∀ j, j < 64 → bit p.2.dirty j = true →
          memGet t.mem (p.1 * 64 + j) = p.2.data.getD j 0)) ∧
  (∀ (s : State) (t b : BitVec 5) (w o : BitVec 2) (sc : BitVec 3) (f : BitVec 8), Quiet s →
    let a := s.me.x b.toNat + BitVec.ofInt 64 (signedField 8 f.toNat * 2 ^ w.toNat)
    let k := s.core s.cur.core
    let c := s.cluster (clusterOf s.cur.core)
    let off := a.toNat % 2 ^ 56
    a.toNat / 2 ^ 56 = 0x7D → a.toNat % 2 ^ w.toNat = 0 →
    (w = 3 → o = 0 → ∀ v, (off, v) ∈ [(0xF010, w64 c.pfctl.toNat), (0xF018, w64 c.pflines.toNat), (0xF020, w64 c.pfused.toNat),
        (0xF028, w64 c.pfearly.toNat), (0xF030, k.vuStat)] →
      ∃ u, exec (.ld t b w o sc f) s = .next u ∧ WritesX s u t.toNat v (s.me.xp b.toNat) 4) ∧
    (w = 3 → o = 0 → off = 0xF010 →
      ∃ u, exec (.st t b w o sc f) s = .next u ∧ SameMem s u ∧ SameX s u ∧ u.me.pc = s.me.pc + w64 (s.me.pfx + 4) ∧
        let d := u.cluster (clusterOf s.cur.core)
        let v := s.me.x t.toNat
        d.pfctl = BitVec.ofNat 8 (v.toNat / 16 % 16 * 16 + v.toNat % 2) ∧
        (d.pflines, d.pfused, d.pfearly) = (if 2 ^ 63 ≤ v.toNat then (0, 0, 0) else (c.pflines, c.pfused, c.pfearly)) ∧ d.lines = c.lines) ∧
    (w ≠ 3 ∨ o ≠ 0 → exec (.ld t b w o sc f) s = .next (s.trap 6 7 a) ∧ exec (.st t b w o sc f) s = .next (s.trap 6 7 a)) ∧
    (w = 3 → o = 0 → 0xF040 ≤ off → exec (.ld t b w o sc f) s = .next (s.trap 6 7 a) ∧ exec (.st t b w o sc f) s = .next (s.trap 6 7 a)))

/-- Barriers at a word with no waiter (07 R162 to R165): BARINIT sets COUNT from xb, ARR 0 and the next GEN, and an operand outside 1 to 65,535
raises ILLEGAL; BAR.ARRIVE records the address and GEN and counts, the last arrival starting the next generation, and a malformed word raises
BARTIME 0x04; BAR.WAIT traps BARTIME 0x03 with no arrival or another address, completes once GEN differs from the record's, and parks
until then.
The timeout of a barrier's waiter (07 R164). A thread parked in BAR.WAIT longer than its BARTMO traps BARTIME 0x01 with its barrier's address; a recorded waiter whose time
is over leaves its word's list and is posted, with that trap as its outcome. Before that time, or of a thread that waits for nothing, nothing happens.
Where the spec leaves a point open, the statement takes the model's choice: log 75 (DEDUCED), log 76 (DEDUCED). -/
def Obligations.Barriers : Prop :=
  (∀ (s : State) (a b : BitVec 5) (w top gen arr count : Nat),
    let x := s.me.x a.toNat
    let v := (s.me.x b.toNat).toNat
    let r := afterRelease s (some 2)
    barrierIs (memWord s w) top gen arr count →
    (AtWord s x .store w → v % 2 ^ 16 = 0 ∨ 2 ^ 16 ≤ v →
      ∃ u, exec (.barinit a b) s = .next (u.trap 9 7 0) ∧ OnlyMe s u ∧ u.me = s.me) ∧
    (AtWord s x .store w → 0 < v → v < 2 ^ 16 → calmWord s w →
      ∃ t, exec (.barinit a b) s = .next t ∧ barrierIs (memWord t w) top ((gen + 1) % 2 ^ 16) 0 v ∧ SameOthers s t ∧
        (∀ k, k < 8 * w ∨ 8 * w + 8 ≤ k → memGet t.mem k = memGet s.mem k) ∧
        BarDone s t (s.pz w || s.me.xp a.toNat || s.me.xp b.toNat) s.me.arrival) ∧
    (AtWord s x .store w → count = 0 ∨ count ≤ arr ∨ top ≠ 0 → s.pz w = false →
      ∃ u, exec (.barArrive a) s = .next (u.trap 11 4 x) ∧ OnlyMe s u ∧ u.me = s.me) ∧
    (AtWord s x .store w → 0 < count → arr < count → top = 0 → calmWord s w → memWord r w = memWord s w → r.pz w = s.pz w →
      ∃ t, exec (.barArrive a) s = .next t ∧ SameOthers s t ∧
        (if arr + 1 = count then barrierIs (memWord t w) 0 ((gen + 1) % 2 ^ 16) 0 count
         else barrierIs (memWord t w) 0 gen (arr + 1) count) ∧
        (∀ k, k < 8 * w ∨ 8 * w + 8 ≤ k → memGet t.mem k = memGet r.mem k) ∧
        BarDone s t (s.pz w || s.me.xp a.toNat) (some { addr := x, gen := BitVec.ofNat 16 gen })) ∧
    (AtWord s x .load w → s.me.arrival.map (·.addr) ≠ some x →
      ∃ u, exec (.barWait a) s = .next (u.trap 11 3 x) ∧ OnlyMe s u ∧ u.me = s.me) ∧
    (∀ g, AtWord s x .load w → s.me.arrival = some { addr := x, gen := g } → g.toNat ≠ gen →
      ∃ t, exec (.barWait a) s = .next t ∧ SameMem s t ∧ SameOthers s t ∧ BarDone s t (s.pz w || s.me.xp a.toNat) s.me.arrival) ∧
    (∀ g, AtWord s x .load w → s.me.arrival = some { addr := x, gen := g } → g.toNat = gen → s.pz w = false →
      ∃ t, exec (.barWait a) s = .next t ∧ Parks s t (.barWait a) (.bar w) ∧ s.cur ∈ (t.feAt w).barPark)) ∧
  ((∀ (s : State) (t : ThreadId) (h : Held) (w : Nat),
    let c := s.ctx t
    let limit := h.left.getD c.bartmo.toNat
    (c.held = none → exec (.barrierTimeout t none) s = .next s) ∧
    (c.held = some h → h.cause = .bar w → (c.st ≠ .parked ∧ c.st ≠ .evicting) ∨ s.cycleOf t - h.since ≤ limit → exec (.barrierTimeout t none) s = .next s) ∧
    (∀ r, c.held = some h → h.cause = .bar w → c.st = .parked → limit < s.cycleOf t - h.since → c.arrival = some r →
      exec (.barrierTimeout t none) s = .next (s.trapAt t 11 1 r.addr))) ∧
  ∀ (s : State) (t : ThreadId) (x : Spill) (k : Cont) (w : Nat),
    ((∀ y ∈ s.spills, y.addr = x.addr → y.thread.core ≠ t.core) → exec (.barrierTimeout t (some x.addr)) s = .next s) ∧
    (s.spills = [x] → x.thread.core = t.core → x.ctx.held.map (fun y : Held => y.cause) = some (.bar w) → (s.feAt w).bars = [k] → k.addr = x.addr →
      k.serial = x.serial →
      (s.cyc t.core ≤ k.left → exec (.barrierTimeout t (some x.addr)) s = .next s) ∧
      (k.left < s.cyc t.core → x.written = true → s.migs = [] → (∀ c, (s.cluster c).hot = false) →
        ∃ (u : State) (y : Spill) (z : Transit), exec (.barrierTimeout t (some x.addr)) s = .next u ∧ (u.feAt w).bars = [] ∧ u.spills = [y] ∧
          y.addr = x.addr ∧ y.out = .trap 11 1 ∧ y.woken = true ∧ (u.part k.die k.tier).transit = (s.part k.die k.tier).transit ++ [z] ∧
          z.addr = x.addr ∧ z.serial = x.serial ∧ recWait z.bytes = false)))

/-- The HND group (07 R166): HTEST writes whether the handle's operation is done; the MOVH forms move a handle and refuse a value that
names no tag with ILLEGAL 0x07; HCANCEL leaves a done operation as it is and flags a copy that runs; FFDONE parks while RSTOREs await
acknowledgement, traps PEER with the detail of a refusal, and completes otherwise.
WAITALL and WAITANY (07 R167) complete at once, changing only the pc, when their condition holds, and park otherwise. WAITALL: every named
handle is done. WAITANY: one is, a message waits for the context, or the mask is 0 and no class is bound to it. -/
def Obligations.HandlesAndWaits : Prop :=
  (∀ (s : State) (p : BitVec 3) (h d : BitVec 4) (x a : BitVec 5), s.trailer s.cur = none →
    let v := (s.me.x a.toNat).toNat
    let bad := 2 ^ 32 ≤ v ∨ v / 2 ^ 10 % 64 ≠ 0 ∨ v / 64 % 4 ≠ 0 ∨ (v / 256 % 4 = 2 ∧ 8 ≤ v % 64) ∨ (v / 256 % 4 = 3 ∧ 16 ≤ v % 64)
    let hv := s.me.h h.toNat
    (∃ t, exec (.htest p h) s = .next t ∧ WritesP s t p.toNat (handleOver s hv) false 4) ∧
    (∃ t, exec (.movhXH x h) s = .next t ∧ WritesX s t x.toNat (w64 hv.toNat) false 4) ∧
    (∃ t, exec (.movhHH d h) s = .next t ∧ OnlyMe s t ∧ SameMem s t ∧
      t.me = { s.me with hs := mset s.me.hs d.toNat hv, pc := s.me.pc + w64 (s.me.pfx + 4), pfx := 0, rlx := false, held := none }) ∧
    (bad → exec (.movhHX d a) s = .next (s.trap 9 7 0)) ∧
    (¬bad → ∃ t, exec (.movhHX d a) s = .next t ∧ OnlyMe s t ∧ SameMem s t ∧
      t.me = { s.me with hs := mset s.me.hs d.toNat (BitVec.ofNat 32 v), cir := if s.me.xp a.toNat then s.me.cir ||| 1 else s.me.cir
                         pc := s.me.pc + w64 (s.me.pfx + 4), pfx := 0, rlx := false, held := none }) ∧
    (handleOver s hv = true → ∃ t, exec (.hcancel h) s = .next t ∧ GoesTo s t (s.me.pc + w64 (s.me.pfx + 4)) false) ∧
    (handleOver s hv = false → hv.toNat / 256 % 4 = 1 → ∃ t, exec (.hcancel h) s = .next t ∧ SameMem s t ∧ SameX s t ∧
      t.me.pc = s.me.pc + w64 (s.me.pfx + 4) ∧
      (t.core s.cur.core).copies = (s.core s.cur.core).copies.map fun o =>
        if o.tag = hv.toNat % 64 ∨ (s.cur.core, hv.toNat % 64) ∈ o.redirect then { o with cancel := true } else o) ∧
    (s.me.rstores ≠ 0 → ∃ t, exec .ffdone s = .next t ∧ Parks s t .ffdone .ffdone) ∧
    (s.me.rstores = 0 → s.me.refused ≠ 0 → exec .ffdone s = .next (s.trap 12 s.me.refused 0)) ∧
    (s.me.rstores = 0 → s.me.refused = 0 → ∃ t, exec .ffdone s = .next t ∧ GoesTo s t (s.me.pc + w64 (s.me.pfx + 4)) false)) ∧
  (∀ (s : State) (m : BitVec 16), s.trailer s.cur = none →
    let k := s.core s.cur.core
    let all : Prop := ∀ n, n < 16 → bit m n = true → handleOver s (s.me.h n) = true
    let any : Prop := ∃ n, n < 16 ∧ bit m n = true ∧ handleOver s (s.me.h n) = true
    let mine (c : ClassB) : Prop := c.bound = true ∧ c.binding.toNat / 16 % 16 = s.cur.ctx
    let msg : Prop := ∃ n, n < 16 ∧ mine (k.cls n) ∧ 0 < (k.cls n).msgs
    let idle : Prop := m = 0 ∧ ∀ n, n < 16 → ¬mine (k.cls n)
    (all → ∃ t, exec (.waitall m) s = .next t ∧ GoesTo s t (s.me.pc + w64 (s.me.pfx + 4)) false) ∧
    (¬all → ∃ t, exec (.waitall m) s = .next t ∧ Parks s t (.waitall m) (.handles m false)) ∧
    (any ∨ msg ∨ idle → ∃ t, exec (.waitany m) s = .next t ∧ GoesTo s t (s.me.pc + w64 (s.me.pfx + 4)) false) ∧
    (¬(any ∨ msg ∨ idle) → ∃ t, exec (.waitany m) s = .next t ∧ Parks s t (.waitany m) (.handles m true)))

/-- SEND and RECV on a core-local channel (07 R155): SEND places its word behind the others while fewer than four are in flight and parks
otherwise; RECV takes the oldest word, with its mark, and parks on none; an unbound endpoint, or one of the other mode or direction, raises
CHANNEL 0x01.
SEND and RECV on a remote channel (07 R156): SEND takes two free slots and puts a message of one word in the network, and parks below two;
RECV takes the oldest payload out of its ring and returns the message's two words to the sender's counter. -/
def Obligations.Channels : Prop :=
  (∀ (s : State) (r : BitVec 5) (c : BitVec 4) (n d m : Nat),
    let e := (s.core s.cur.core).ep n
    let f := (s.core (coreOf d)).ep m
    let w := (s.me.x r.toNat, s.me.xp r.toNat)
    (mfind s.me.cs c.toNat = none → exec (.send r c) s = .next (s.trap 10 1 0) ∧ exec (.recv r c) s = .next (s.trap 10 1 0)) ∧
    (mfind s.me.cs c.toNat = some n → e.isCls = true ∨ e.rx = true → exec (.send r c) s = .next (s.trap 10 1 0)) ∧
    (mfind s.me.cs c.toNat = some n → e.isCls = true ∨ e.rx = false → exec (.recv r c) s = .next (s.trap 10 1 0)) ∧
    (HasEnd s c n false false → e.rem = false → e.met = true → e.peer = some (d, m) → f.words.length < 4 →
      ∃ t, exec (.send r c) s = .next t ∧ SameMem s t ∧ SameX s t ∧ t.me.pc = s.me.pc + w64 (s.me.pfx + 4) ∧ t.net = s.net ∧
        ((t.core (coreOf d)).ep m).words = f.words ++ [w] ∧ t.me.cir = (if w.2 then s.me.cir ||| 1 else s.me.cir)) ∧
    (HasEnd s c n false false → e.rem = false → e.met = false ∨ (e.peer = some (d, m) ∧ 4 ≤ f.words.length) →
      ∃ t, exec (.send r c) s = .next t ∧ Parks s t (.send r c) (.send n)) ∧
    (∀ v p l, HasEnd s c n false true → e.rem = false → e.met = true → e.words = (v, p) :: l → (e.peer = none → l ≠ []) →
      ∃ t, exec (.recv r c) s = .next t ∧ SameMem s t ∧ XWrite s.me t.me r.toNat v p ∧ t.me.pc = s.me.pc + w64 (s.me.pfx + 4) ∧
        ((t.core s.cur.core).ep n).words = l ∧ t.me.cir = (if p then s.me.cir ||| 0x11 else s.me.cir)) ∧
    (HasEnd s c n false true → e.rem = false → e.words = [] →
      ∃ t, exec (.recv r c) s = .next t ∧ Parks s t (.recv r c) (.recv n))) ∧
  (∀ (s : State) (r : BitVec 5) (c : BitVec 4) (n d m : Nat),
    let e := (s.core s.cur.core).ep n
    let w := (s.me.x r.toNat, s.me.xp r.toNat)
    let key := 2 ^ 60 + coreKey s.cur.core * 2 ^ 21 + (e.rbase + 8 * ((e.rpos + 1) % e.rwords))
    (HasEnd s c n false false → e.rem = true → e.met = true → e.peer = some (d, m) → 2 ≤ e.free →
      ∃ t g, exec (.send r c) s = .next t ∧ SameMem s t ∧ SameX s t ∧ t.me.pc = s.me.pc + w64 (s.me.pfx + 4) ∧ t.net = s.net ++ [g] ∧
        (g.words = [w] ∧ g.dst = coreOf d ∧ g.cls = false ∧ g.target = m ∧ g.tmo = s.me.chtmo.toNat) ∧
        (t.core s.cur.core).ep n = { e with free := e.free - 2, sent := e.sent + 2, seq := e.seq + 1 }) ∧
    (HasEnd s c n false false → e.rem = true → e.free < 2 →
      ∃ t, exec (.send r c) s = .next t ∧ Parks s t (.send r c) (.send n)) ∧
    (HasEnd s c n false true → e.rem = true → e.met = true → e.received ≠ e.consumed → e.peer = some (d, m) →
      d ≠ coreKey s.cur.core ∨ m ≠ n → key % 8 = 0 → mget 0 s.badWords (key / 8) = 0 → bankKey (key / 8) ∉ s.dev.retired →
      ∃ t, exec (.recv r c) s = .next t ∧ SameMem s t ∧ t.me.pc = s.me.pc + w64 (s.me.pfx + 4) ∧
        XWrite s.me t.me r.toNat (memWord s (key / 8)) (s.pz (key / 8)) ∧
        (t.core s.cur.core).ep n = { e with rpos := (e.rpos + 2) % e.rwords, consumed := e.consumed + 2 } ∧
        ((t.core (coreOf d)).ep m).free = ((s.core (coreOf d)).ep m).free + 2) ∧
    (HasEnd s c n false true → e.rem = true → e.received = e.consumed →
      ∃ t, exec (.recv r c) s = .next t ∧ Parks s t (.recv r c) (.recv n)))

/-- SENDT and RECVT (07 R158): SENDT never parks and puts one message of eight words in the network for the class and core of its endpoint;
RECVT takes the oldest message of its class, bound to the context, into its octet, parks on none, and raises CHANNEL on a class that is
not bound to the context.
Binding (07 R154, R158, R160). CHSET of a bound endpoint raises CHANNEL 0x01, and of an invalid descriptor PERM 0x08; otherwise it takes the
lowest free entry of the table for the descriptor. CHRESET of an unbound endpoint only advances the pc; of a bound one it frees the entry,
and the peer end enters RESYNC. MSGBIND with UNB unbinds the class; a new binding with a valid ring starts an empty ring.
Where the spec leaves a point open, the statement takes the model's choice: log 77 (DEDUCED). -/
def Obligations.ClassesAndBinding : Prop :=
  (∀ (s : State) (o : BitVec 2) (c : BitVec 4) (n : Nat),
    let e := (s.core s.cur.core).ep n
    let b := (s.core s.cur.core).cls e.peerNum
    let mine : Prop := b.bound = true ∧ b.binding.toNat / 16 % 16 = s.cur.ctx
    let key (j : Nat) := 2 ^ 60 + coreKey s.cur.core * 2 ^ 21 + (b.rbase + 8 * ((b.rpos + 1 + j) % b.rwords))
    (HasEnd s c n true false →
      ∃ t g, exec (.sendt o c) s = .next t ∧ SameMem s t ∧ SameX s t ∧ t.me.pc = s.me.pc + w64 (s.me.pfx + 4) ∧ t.net = s.net ++ [g] ∧
        g.dst = e.peerCore s.cur.core ∧ g.cls = true ∧ g.target = e.peerNum ∧
        g.words = (List.range 8).map fun j => (s.me.x (8 * o.toNat + j), s.me.xp (8 * o.toNat + j))) ∧
    (HasEnd s c n true true → ¬mine → exec (.recvt o c) s = .next (s.trap 10 1 0)) ∧
    (HasEnd s c n true true → mine → b.msgs = 0 → ∃ t, exec (.recvt o c) s = .next t ∧ Parks s t (.recvt o c) (.recvt e.peerNum)) ∧
    (HasEnd s c n true true → mine → 0 < b.msgs →
      (∀ j, j < 8 → key j % 8 = 0 ∧ mget 0 s.badWords (key j / 8) = 0 ∧ bankKey (key j / 8) ∉ s.dev.retired) →
      ∃ t, exec (.recvt o c) s = .next t ∧ SameMem s t ∧ t.me.pc = s.me.pc + w64 (s.me.pfx + 4) ∧
        (∀ j, j < 8 → 8 * o.toNat + j ≠ 0 → t.me.x (8 * o.toNat + j) = memWord s (key j / 8) ∧
          t.me.xp (8 * o.toNat + j) = s.pz (key j / 8)) ∧
        (∀ r, r < 32 → r < 8 * o.toNat ∨ 8 * o.toNat + 8 ≤ r → t.me.x r = s.me.x r ∧ t.me.xp r = s.me.xp r) ∧
        ((t.core s.cur.core).cls e.peerNum).msgs = b.msgs - 1 ∧ ((t.core s.cur.core).cls e.peerNum).rpos = (b.rpos + 9) % b.rwords)) ∧
  (∀ (s : State) (a : BitVec 5) (c : BitVec 4) (n : Nat), s.trailer s.cur = none →
    let v := s.me.x a.toNat
    let k := s.core s.cur.core
    let b := k.cls (v.toNat % 16)
    ((mfind s.me.cs c.toNat).isSome = true → exec (.chset a c) s = .next (s.trap 10 1 0)) ∧
    (mfind s.me.cs c.toNat = none → s.descOk s.cur v = false → exec (.chset a c) s = .next (s.trap 6 8 0)) ∧
    (mfind s.me.cs c.toNat = none → s.descOk s.cur v = true → n < 32 → (k.ep n).bound = false → (∀ m, m < n → (k.ep m).bound = true) →
      ∃ t, exec (.chset a c) s = .next t ∧ SameMem s t ∧ SameX s t ∧ t.me.pc = s.me.pc + w64 (s.me.pfx + 4) ∧
        mfind t.me.cs c.toNat = some n ∧ ((t.core s.cur.core).ep n).desc = v ∧ ((t.core s.cur.core).ep n).bound = true ∧
        ((t.core s.cur.core).ep n).ctx = s.cur.ctx ∧ (bit v 5 = true ∨ bit v 6 = true → ((t.core s.cur.core).ep n).met = false)) ∧
    (mfind s.me.cs c.toNat = none → ∃ t, exec (.chreset c) s = .next t ∧ GoesTo s t (s.me.pc + w64 (s.me.pfx + 4)) false) ∧
    (∀ d m, mfind s.me.cs c.toNat = some n → (k.ep n).peer = some (d, m) → d ≠ coreKey s.cur.core ∨ m ≠ n →
      ∃ t, exec (.chreset c) s = .next t ∧ SameMem s t ∧ SameX s t ∧ t.me.pc = s.me.pc + w64 (s.me.pfx + 4) ∧
        ((t.core s.cur.core).ep n).bound = false ∧ ((t.core (coreOf d)).ep m).resync = true ∧ ((t.core (coreOf d)).ep m).met = false) ∧
    (bit v 8 = true → ∃ t, exec (.msgbind a) s = .next t ∧ SameMem s t ∧ SameX s t ∧ t.me.pc = s.me.pc + w64 (s.me.pfx + 4) ∧
      ((t.core s.cur.core).cls (v.toNat % 16)).bound = false) ∧
    (v.toNat / 2 ^ 47 % 2 = 0 → v.toNat / 2 ^ 9 % 2 ^ 23 = 0 → bit v 8 = false → b.bound = false →
      b.binding.toNat / 2 ^ 32 ≠ v.toNat / 2 ^ 32 →
      s.ringOk s.me.serial s.cur.core (v.toNat / 2 ^ 48) (v.toNat / 2 ^ 32 % 2 ^ 15 * 64) = true →
      ∃ t, exec (.msgbind a) s = .next t ∧ SameMem s t ∧ SameX s t ∧ t.me.pc = s.me.pc + w64 (s.me.pfx + 4) ∧
        ((t.core s.cur.core).cls (v.toNat % 16)).bound = true ∧ ((t.core s.cur.core).cls (v.toNat % 16)).binding = v ∧
        ((t.core s.cur.core).cls (v.toNat % 16)).msgs = 0))

/-- CPY, CPY.t8, CPY.t16, CPYS and CPYG (13 R280 to R283) whose values, alignments and ranges pass the checks issue a copy under the lowest
free tag; one that moves nothing writes the handle of no engine; a length CPY does not take raises ILLEGAL 0x07 and a misaligned
destination ALIGN 0x01.
Where the spec leaves a point open, the statement takes the model's choice: log 30 (DEDUCED), log 55 (DEDUCED). -/
def Obligations.CopyIssues : Prop :=
  ∀ (s : State) (h : BitVec 4) (d a l : BitVec 5) (w : BitVec 2) (n : Nat), Quiet s →
    let dst := s.me.x d.toNat
    let src := s.me.x a.toNat
    let len := s.me.x l.toNat
    let rows := len.toNat / 2 ^ 16 % 2 ^ 16
    let cols := len.toNat % 2 ^ 16
    let apart (x : Word) (p : Nat) (y : Word) (q : Nat) : Prop := y.toNat + q ≤ x.toNat ∨ x.toNat + p ≤ y.toNat
    let shape (unit : Nat) : Prop :=
      len.toNat < 2 ^ 32 ∧ 0 < rows ∧ rows ≤ 4096 ∧ rows % unit = 0 ∧ 0 < cols ∧ cols ≤ 4096 ∧ cols % unit = 0
    let pair (p q : Nat) : Prop := copyFree s dst p .store ∧ copyFree s src q .load ∧ apart dst p src q
    (len.toNat % 8 ≠ 0 ∨ 0xFFFFFFF8 < len.toNat → exec (.cpy h d a l) s = .next (s.trap 9 7 0)) ∧
    (len = 0 → ∃ t, exec (.cpy h d a l) s = .next t ∧ OnlyMe s t ∧ SameMem s t ∧ SameX s t ∧ t.me.h h.toNat = 0 ∧
      t.me.pc = s.me.pc + w64 (s.me.pfx + 4)) ∧
    (len.toNat % 8 = 0 → 0 < len.toNat → len.toNat ≤ 0xFFFFFFF8 → dst.toNat % 8 ≠ 0 → exec (.cpy h d a l) s = .next (s.trap 8 1 dst)) ∧
    (FreeCopyTag s n → dst.toNat % 8 = 0 → src.toNat % 8 = 0 →
      (len.toNat % 8 = 0 → 0 < len.toNat → len.toNat ≤ 0xFFFFFFF8 → pair len.toNat len.toNat →
        ∃ t, exec (.cpy h d a l) s = .next t ∧ CopyIssued s t h.toNat n 0 dst src len) ∧
      (shape 8 → pair (rows * cols) (rows * cols) →
        ∃ t, exec (.cpyT8 h d a l) s = .next t ∧ CopyIssued s t h.toNat n 1 dst src len) ∧
      (shape 4 → pair (2 * rows * cols) (2 * rows * cols) →
        ∃ t, exec (.cpyT16 h d a l) s = .next t ∧ CopyIssued s t h.toNat n 2 dst src len) ∧
      (len.toNat % 8 = 0 → 8 ≤ len.toNat → len.toNat ≤ 65536 → 0 < (s.me.e 0).toNat → (s.me.e 0).toNat * len.toNat ≤ 0xFFFFFFF8 →
        (s.me.e 0).toNat < 2 ^ 32 → (s.me.e 1).toNat % 8 = 0 → (s.me.e 2).toNat % 8 = 0 → s.me.e 2 ≠ 0 ∨ s.me.e 0 = 1 →
        (let rd := rowsRange dst (s.me.e 2) (s.me.e 0).toNat len.toNat
         let rs := rowsRange src (s.me.e 1) (s.me.e 0).toNat len.toNat
         copyFree s rd.1 rd.2 .store ∧ copyFree s rs.1 rs.2 .load ∧ apart rd.1 rd.2 rs.1 rs.2) →
        ∃ t, exec (.cpys h d a l) s = .next t ∧ CopyIssued s t h.toNat n 3 dst src len)) ∧
    (FreeCopyTag s n → dst.toNat % 8 = 0 → src.toNat % 2 ^ w.toNat = 0 → (s.me.e 0).toNat % 4 = 0 → 0 < len.toNat →
      len.toNat ≤ 16777216 → len.toNat * 2 ^ w.toNat % 8 = 0 → src.toNat / 2 ^ 56 ∈ [0x00, 0x7C, 0x7E, 0x7F] →
      copyFree s dst (len.toNat * 2 ^ w.toNat) .store → s.copyRange (s.me.e 0) (4 * len.toNat) .load [0x00, 0x7E, 0x7F] = none →
      ∃ t, exec (.cpyg h d a l w) s = .next t ∧ CopyIssued s t h.toNat n 4 dst src len)

/-- The engine's side of a copy (13 R278, R279, R284, R285; 07 R144): with one destination word left of a CPY between banked words that hold
no error and have no waiter, COPY_COMPLETE copies the word with its mark, makes it FULL, changes no other byte, and the tag is COMPLETE with
its count of 256-byte units; a cancelled copy ends CANCELLED and writes nothing; with no copy under the tag nothing changes.
PFETCH (13 R287) completes in every state, faults on nothing, and changes no register but the pc and CIR and no byte of memory. RSTORE
(13 R288; 20 R421, R422): ILLEGAL 0x07 for a length it does not take; otherwise, to a peer window, it reads its banked source, leaves as one store
of those bytes, and the thread counts one more to be acknowledged; where the port is lost nothing leaves, and FFDONE will report 0x02.
Where the spec leaves a point open, the statement takes the model's choice: log 18 (DESIGN CHOICE), log 55 (DEDUCED), log 61 (DEDUCED). -/
def Obligations.CopyEventsAndRstore : Prop :=
  (∀ (s : State) (c : CoreId) (tag : BitVec 6) (o : CopyOp) (n v w : Nat), s.hole = none →
    ((s.core c).copy tag.toNat = none → exec (.copyComplete c tag) s = .next s ∧ exec (.copyCancelled c tag) s = .next s) ∧
    ((s.core c).copy tag.toNat = some o → o.cancel = true →
      ∃ t, exec (.copyCancelled c tag) s = .next t ∧ SameMem s t ∧ ((t.core c).tag tag.toNat).st = .cancelled ∧
        (t.core c).copy tag.toNat = none) ∧
    ((s.core c).copy tag.toNat = some o → o.kind = 0 → CopyGoes s c o → o.redirect = [] →
      (List.range (o.len.toNat / 8)).filter (fun m => !o.written.contains m) = [n] →
      s.locate (s.launch o.serial) c (o.src + w64 (8 * n)) 8 .engRead = .bank (8 * v) →
      s.locate (s.launch o.serial) c (o.dst + w64 (8 * n)) 8 .engWrite = .bank (8 * w) →
      soundLoc s (.bank (8 * v)) 8 → calmWord s w → isBanked w = true → isWindowWord w = false →
      (s.feAt w).parked = [] → (s.feAt w).readers = [] →
      ∃ t, exec (.copyComplete c tag) s = .next t ∧ memWord t w = memWord s v ∧ t.pz w = s.pz v ∧
        (∀ k, k < 8 * w ∨ 8 * w + 8 ≤ k → memGet t.mem k = memGet s.mem k) ∧ (t.feAt w).full = true ∧
        ((t.core c).tag tag.toNat).st = .complete ∧ ((t.core c).tag tag.toNat).done = o.len.toNat / 256 ∧
        (t.core c).copy tag.toNat = none)) ∧
  (∀ (s : State) (d a l : BitVec 5) (port page off k : Nat),
    let dst := s.me.x d.toNat
    let src := s.me.x a.toNat
    let n := (s.me.x l.toNat).toNat
    (∃ t, exec (.pfetch a l) s = .next t ∧ SameMem s t ∧ SameX s t ∧ SameOthers s t ∧ t.me.pc = s.me.pc + w64 (s.me.pfx + 4)) ∧
    (n % 8 ≠ 0 ∨ n < 8 ∨ 4096 < n → exec (.rstore d a l) s = .next (s.trap 9 7 0)) ∧
    (n % 8 = 0 → 8 ≤ n → n ≤ 4096 → dst.toNat % 8 = 0 → src.toNat % 8 = 0 → Quiet s → s.copyRange dst n .store [0x00] = none →
      s.locate (s.launchOf s.cur) s.cur.core dst n .engWrite = .peer port page off → off + n ≤ 65536 → copyFree s src n .load →
      s.me.rstores < 15 → k % 8 = 0 → soundLoc s (.bank k) n →
      (∀ j, j < n / 8 → s.locate (s.launchOf s.cur) s.cur.core (src + w64 (8 * j)) 8 .load = .bank (k + 8 * j)) →
      ∃ t, exec (.rstore d a l) s = .next t ∧ SameMem s t ∧ SameX s t ∧ t.me.pc = s.me.pc + w64 (s.me.pfx + 4) ∧
        (s.portLost s.cur.die (16 + port) = false → t.me.rstores = s.me.rstores + 1 ∧ t.me.refused = s.me.refused ∧
          ∃ r, t.rst = s.rst ++ [r] ∧ r.port = port ∧ r.page = page ∧ r.off = off ∧ r.data = s.rd k n ∧ r.thread = s.cur) ∧
        (s.portLost s.cur.die (16 + port) = true → t.rst = s.rst ∧ t.me.rstores = s.me.rstores ∧
          t.me.refused = if s.me.refused = 0 then 2 else s.me.refused)))

/-- STRM.BIND and STRM.END (13 R293 to R295). A valid control block in readable banked memory binds its port to the register and starts the
hart at ENTRY with the port in x10 and the block's address in x11. The failures, in their order: a block over the limits raises ILLEGAL 0x07, an
input port's format register that names none FORMAT 0x02, and PERM 0x05 is raised by a thread with no window or above T1, or for a register, port or
hart in use. STRM.END without a window raises PERM 0x05; of a bound register it unbinds it and its port, and the end stands last in the
VU's queue. While an end of the port has not taken effect, a STRM.BIND that nothing else fails waits (the model's choice: log 88, DEDUCED).
Where the spec leaves a point open, the statement takes the model's choice: log 30 (DEDUCED), log 53 (DEDUCED), log 88 (DEDUCED). -/
def Obligations.StreamBinding : Prop :=
  ∀ (s : State) (v : BitVec 2) (a : BitVec 5) (k : Nat), Quiet s →
    let c := s.core s.cur.core
    let w := s.vwin s.cur
    let at_ := s.me.x a.toNat
    let b := s.rd k 64
    let p := leAt b 0 8 % 4
    let out : Bool := leAt b 0 8 / 4 % 2 == 1
    (w = 15 → exec (.strmEnd v) s = .next (s.trap 6 5 0)) ∧
    (w ≠ 15 → s.cur.tier < 2 → c.vuTakes s.cur.ctx false = true → at_.toNat / 2 ^ 56 = 0x7F → s.checkAcc s.cur at_ 64 64 .load = .bank k →
      soundLoc s (.bank k) 64 → scbOk b = true → (out = true ∨ (c.fmtOf (leAt b 0 8 / 2 ^ 8 % 16)).isSome = true) →
      mfind (c.win w).binds (12 + v.toNat) = none → (c.port p).bound = false → (c.hart p).ended = true → (c.hart (4 + p)).ended = true →
      (c.ending p = true → ∃ t, exec (.strmBind v a) s = .next t ∧ Parks s t (.strmBind v a) .vu) ∧
      (c.ending p = false → ∃ t, exec (.strmBind v a) s = .next t ∧ SameMem s t ∧ SameX s t ∧ t.me.pc = s.me.pc + w64 (s.me.pfx + 4) ∧
        (let q := (t.core s.cur.core).port p
         q.bound = true ∧ q.out = out ∧ q.queue = [] ∧ q.claim = 0 ∧ q.gend = false) ∧
        mfind ((t.core s.cur.core).win w).binds (12 + v.toNat) = some p ∧
        (let x := (t.core s.cur.core).hart (if out then 4 + p else p)
         x.ended = false ∧ x.pc = leAt b 0 8 / 2 ^ 16 % 2 ^ 14 ∧ x.x 10 = w64 p ∧ x.x 11 = at_))) ∧
    (c.vuTakes s.cur.ctx false = true → at_.toNat / 2 ^ 56 = 0x7F → s.checkAcc s.cur at_ 64 64 .load = .bank k → soundLoc s (.bank k) 64 →
      (scbOk b = false → ∃ u, exec (.strmBind v a) s = .next (u.trap 9 7 at_) ∧ SameMem s u ∧ SameX s u) ∧
      (scbOk b = true → out = false → c.fmtOf (leAt b 0 8 / 2 ^ 8 % 16) = none →
        ∃ u, exec (.strmBind v a) s = .next (u.trap 7 2 at_) ∧ SameMem s u ∧ SameX s u) ∧
      (scbOk b = true → (out = true ∨ (c.fmtOf (leAt b 0 8 / 2 ^ 8 % 16)).isSome = true) →
        (w = 15 ∨ 2 ≤ s.cur.tier ∨ (mfind (c.win w).binds (12 + v.toNat)).isSome = true ∨ (c.port p).bound = true ∨
          (c.hart p).ended = false ∨ (c.hart (4 + p)).ended = false) →
        ∃ u, exec (.strmBind v a) s = .next (u.trap 6 5 at_) ∧ SameMem s u ∧ SameX s u)) ∧
    (∀ q, w ≠ 15 → c.vuTakes s.cur.ctx false = true → mfind (c.win w).binds (12 + v.toNat) = some q →
      ∃ t, exec (.strmEnd v) s = .next t ∧ SameMem s t ∧ SameX s t ∧ t.me.pc = s.me.pc + w64 (s.me.pfx + 4) ∧
        ((t.core s.cur.core).port q).bound = false ∧ mfind ((t.core s.cur.core).win w).binds (12 + v.toNat) = none ∧
        (∃ m, (t.core s.cur.core).vq = c.vq ++ [m] ∧ m.instr = .strmEnd v))

/-- The stream instructions of a loader or storer hart (13 R290 to R297, R299). SB.NEXT answers all ones once the generator has ended, and
otherwise the block's address, base plus the coordinates times their strides, and the coordinates move on; SQ.PUSH with no block held does
nothing, waits while eight blocks are queued, and otherwise queues the 256 bytes read; SQ.POP waits on an empty port, answers 1 once it has
ended, and otherwise writes the 256 bytes of the oldest block, here to banked words that hold no error and have no waiter; BQ.WAIT takes the oldest DATA word; ECALL ends the hart and its
port. A port that is not of the hart's side, in any of the four, is a trap: the launch is told ILLEGAL 0x01 of the loader or storer with the hart's
pc, the hart and its port end, and so does the generator.
Where the spec leaves a point open, the statement takes the model's choice: log 52 (DESIGN CHOICE), log 53 (DEDUCED), log 88 (DEDUCED). -/
def Obligations.HartStreams : Prop :=
  ∀ (s : State) (a d : BitVec 5) (p : Nat),
    let h := s.curHart
    let q := (s.core h.core).port p
    let x := s.hartOf h
    let own := (s.core h.core).port h.n
    let traps (i : Instr) : Prop := ∃ t, exec i s = .next t ∧ SameMem s t ∧ (t.hartOf h).ended = true ∧
      (own.out = h.storer → ((t.core h.core).port h.n).ended = true ∧ ((t.core h.core).port h.n).gend = true) ∧
      t.launches = (s.report own.serial { cls := 9, detail := 1, engine := if h.storer then 5 else 4, ctx := 0x1F
                                          unit := place h.core, addr := w64 x.pc }).launches
    (HartOn s p → (x.x a.toNat).toNat % 4 = p → q.gend = true →
      ∃ t, exec (.sbNext a d) s = .next t ∧ HartDone s t d.toNat (BitVec.allOnes 64) 4) ∧
    (HartOn s p → (x.x a.toNat).toNat % 4 = p → q.gend = false → (q.ended = false ∨ q.queue ≠ []) → q.ind = false →
      ∃ t, exec (.sbNext a d) s = .next t ∧
        HartDone s t d.toNat ((List.range 4).foldl (fun v n => v + w64 (q.ls.getD n 0) * q.stride n) q.base) 4 ∧
        (q.late = [] → ((t.core h.core).port p).held = some q.seq ∧ ((t.core h.core).port p).seq = q.seq + 1)) ∧
    (HartOn s p → (x.x d.toNat).toNat % 4 = p → q.out = false → (x.x a.toNat).toNat % (s.core h.core).portAlign p = 0 → q.held = none →
      ∃ t, exec (.sqPush d a) s = .next t ∧ HartDone s t 0 0 4) ∧
    (HartOn s p → (x.x d.toNat).toNat % 4 = p → q.out = false → (x.x a.toNat).toNat % (s.core h.core).portAlign p = 0 →
      q.held.isSome = true → 8 ≤ q.queue.length → exec (.sqPush d a) s = .next s) ∧
    (∀ n k, HartOn s p → (x.x d.toNat).toNat % 4 = p → q.out = false → (x.x a.toNat).toNat % (s.core h.core).portAlign p = 0 →
      q.held = some n → q.queue.length < 8 → s.performed q.after = true → n ∉ q.badIdx → k % 8 = 0 → soundLoc s (.bank k) 256 →
      (∀ j, j < 32 → s.locate (s.launch ((s.core h.core).port h.n).serial) h.core (x.x a.toNat + w64 (8 * j)) 8 .engRead = .bank (k + 8 * j)) →
      ∃ t b, exec (.sqPush d a) s = .next t ∧ HartDone s t 0 0 4 ∧ ((t.core h.core).port p).queue = q.queue ++ [b] ∧ b.seq = n ∧
        (∀ j, j < 64 → b.lanes[j]? = some (BitVec.ofNat 32 (leNat (s.rd (k + 4 * j) 4)))) ∧
        ((t.core h.core).port p).held = none) ∧
    (∀ r, HartOn s p → (x.x r).toNat % 4 = p → r < 32 → q.out = true → (x.x a.toNat).toNat % (s.core h.core).portAlign p = 0 →
      q.queue = [] →
      (q.ended = false → exec (.sqPop (BitVec.ofNat 5 r) a d) s = .next s) ∧
      (q.ended = true → ∃ t, exec (.sqPop (BitVec.ofNat 5 r) a d) s = .next t ∧ HartDone s t d.toNat 1 4)) ∧
    (∀ r k b l, HartOn s p → r < 32 → (x.x r).toNat % 4 = p → q.out = true → (x.x a.toNat).toNat % (s.core h.core).portAlign p = 0 →
      q.queue = b :: l → k % 8 = 0 →
      (∀ j, j < 32 → s.locate (s.launch ((s.core h.core).port h.n).serial) h.core (x.x a.toNat + w64 (8 * j)) 8 .engWrite =
        .bank (k + 8 * j)) →
      (∀ j, j < 32 → calmWord s (k / 8 + j) ∧ isBanked (k / 8 + j) = true ∧ isWindowWord (k / 8 + j) = false ∧
        (s.feAt (k / 8 + j)).parked = [] ∧ (s.feAt (k / 8 + j)).readers = []) →
      ∃ t, exec (.sqPop (BitVec.ofNat 5 r) a d) s = .next t ∧ (t.hartOf h).x d.toNat = 0 ∧ (t.hartOf h).pc = x.pc + 4 ∧
        ((t.core h.core).port p).queue = l ∧ (∀ j, j < 64 → t.rd (k + 4 * j) 4 = leBytes 4 (b.lanes.getD j 0).toNat) ∧
        (∀ y, y < k ∨ k + 256 ≤ y → memGet t.mem y = memGet s.mem y)) ∧
    (∀ v l, HartOn s p → (x.x a.toNat).toNat % 4 = p → q.back = v :: l →
      ∃ t, exec (.bqWait a d) s = .next t ∧ HartDone s t d.toNat v 4 ∧ ((t.core h.core).port p).back = l) ∧
    (HartOn s p → (x.x a.toNat).toNat % 4 = p → q.back = [] → q.ended = false → exec (.bqWait a d) s = .next s) ∧
    (x.ended = false → x.stalled = false → s.hole = none → ∃ t, exec .ecall s = .next t ∧ SameMem s t ∧ (t.hartOf h).ended = true ∧
      (own.out = h.storer → ((t.core h.core).port h.n).ended = true)) ∧
    (x.ended = false → x.stalled = false → s.hole = none →
      (q.out ≠ h.storer → (x.x a.toNat).toNat % 4 = p → traps (.sbNext a d) ∧ traps (.bqWait a d)) ∧
      (q.out ≠ h.storer ∨ q.out = true → (x.x d.toNat).toNat % 4 = p → traps (.sqPush d a)) ∧
      (q.out ≠ h.storer ∨ q.out = false → ∀ r : BitVec 5, (x.x r.toNat).toNat % 4 = p → traps (.sqPop r a d)))

/-- RV64IMC on a hart (13 R295; the meanings are the RISC-V standard's, log 15, PRESUMED): the register results (ADD, SUB, SLL, SLT, SLTU, XOR, SRL,
SRA, OR, AND, MUL, ADDI, ANDI, ORI and XORI written out from their words), the jumps and branches, loads of banked memory with their extension, and two
traps that end the hart: a store or atomic, which the harts do not have, reports PERM 0x01 at its address (the detail and the address are the
model's choice: log 53, DEDUCED), and an undefined word ILLEGAL 0x01 at the pc (R301).
What the host or a thread sends back to an input port (13 R298, R299): DATA joins the back queue while it holds fewer than eight words,
SKIP and STOP count a decision, and STOP with every block so far claimed ends the generator; on a port that takes none of them nothing
changes.
Where the spec leaves a point open, the statement takes the model's choice: log 15 (PRESUMED), log 53 (DEDUCED). -/
def Obligations.HartCode : Prop :=
  (∀ (s : State) (w : BitVec 32),
    let h := s.curHart
    let x := s.hartOf h
    let n := if w.toNat % 4 = 3 then 4 else 2
    let trap (cls : Nat) (at_ : Word) (t : State) : Prop := SameMem s t ∧ (t.hartOf h).ended = true ∧ (t.hartOf h).pc = x.pc ∧
      t.launches = (s.report ((s.core h.core).port h.n).serial { cls := cls, detail := 1, engine := if h.storer then 5 else 4, ctx := 0x1F
                                                                 unit := place h.core, addr := at_ }).launches
    (∀ p q : Word, (rvTaken 0 p q = true ↔ p = q) ∧ (rvTaken 1 p q = true ↔ p ≠ q) ∧ (rvTaken 4 p q = true ↔ p.toInt < q.toInt) ∧
      (rvTaken 5 p q = true ↔ q.toInt ≤ p.toInt) ∧ (rvTaken 6 p q = true ↔ p.toNat < q.toNat) ∧ (rvTaken 7 p q = true ↔ q.toNat ≤ p.toNat)) ∧
    (∀ v : Nat, (rvExtend 0 v).toInt = signedField 8 v ∧ (rvExtend 1 v).toInt = signedField 16 v ∧ (rvExtend 2 v).toInt = signedField 32 v ∧
      (∀ f, 3 ≤ f → (rvExtend f v).toNat = v % 2 ^ 64)) ∧
    (x.ended = false → x.stalled = false → s.hole = none →
    (∀ d a b : BitVec 5,
      let p := x.x a.toNat
      let q := x.x b.toNat
      ∀ r ∈ [(0, 0, p + q), (32, 0, p - q), (0, 1, p <<< (q.toNat % 64)), (0, 2, if p.toInt < q.toInt then 1 else 0), (0, 3, if p.toNat < q.toNat then 1 else 0),
          (0, 4, p ^^^ q), (0, 5, p >>> (q.toNat % 64)), (32, 5, p.sshiftRight (q.toNat % 64)), (0, 6, p ||| q), (0, 7, p &&& q), (1, 0, p * q)],
        ∃ t, exec (.rv64imc (rvWordR r.1 b.toNat a.toNat r.2.1 d.toNat)) s = .next t ∧ HartDone s t d.toNat r.2.2 4) ∧
    (∀ (d a : BitVec 5) (m : BitVec 12),
      let p := x.x a.toNat
      let q := m.signExtend 64
      ∀ r ∈ [(0, p + q), (4, p ^^^ q), (6, p ||| q), (7, p &&& q)],
        ∃ t, exec (.rv64imc (rvWordI m.toNat a.toNat r.1 d.toNat)) s = .next t ∧ HartDone s t d.toNat r.2 4) ∧
    (∀ d i, rvDecode w = .lui d i → ∃ t, exec (.rv64imc w) s = .next t ∧ HartDone s t d i n) ∧
    (∀ d i, rvDecode w = .auipc d i → ∃ t, exec (.rv64imc w) s = .next t ∧ HartDone s t d (w64 x.pc + i) n) ∧
    (∀ f wd d a i, rvDecode w = .alui f wd d a i → ∃ t, exec (.rv64imc w) s = .next t ∧ HartDone s t d (rvAlu f wd (x.x a) i) n) ∧
    (∀ f wd d a b, rvDecode w = .alu f wd d a b → ∃ t, exec (.rv64imc w) s = .next t ∧ HartDone s t d (rvAlu f wd (x.x a) (x.x b)) n) ∧
    (rvDecode w = .fence → ∃ t, exec (.rv64imc w) s = .next t ∧ HartDone s t 0 0 n) ∧
    (∀ d i, rvDecode w = .jal d i → ∃ t, exec (.rv64imc w) s = .next t ∧ SameMem s t ∧ (t.hartOf h).pc = (w64 x.pc + i).toNat ∧
      (d ≠ 0 → (t.hartOf h).x d = w64 (x.pc + n))) ∧
    (∀ d a i, rvDecode w = .jalr d a i → ∃ t, exec (.rv64imc w) s = .next t ∧ SameMem s t ∧
      (t.hartOf h).pc = (x.x a + i).toNat / 2 * 2 ∧ (d ≠ 0 → (t.hartOf h).x d = w64 (x.pc + n))) ∧
    (∀ f a b i, rvDecode w = .branch f a b i → ∃ t, exec (.rv64imc w) s = .next t ∧ SameMem s t ∧ (∀ r, (t.hartOf h).x r = x.x r) ∧
      (t.hartOf h).pc = if rvTaken f (x.x a) (x.x b) then (w64 x.pc + i).toNat else x.pc + n) ∧
    (∀ f d a i k, rvDecode w = .load f d a i → (x.x a + i).toNat % 2 ^ (f % 4) = 0 →
      (x.x a + i).toNat / 2 ^ 56 = 0x7F ∨ (x.x a + i).toNat / 2 ^ 56 = 0x7E →
      s.locate (s.launch ((s.core h.core).port h.n).serial) h.core (x.x a + i) (2 ^ (f % 4)) .engRead = .bank k →
      soundLoc s (.bank k) (2 ^ (f % 4)) →
      ∃ t, exec (.rv64imc w) s = .next t ∧ HartDone s t d (rvExtend f (leNat (s.rd k (2 ^ (f % 4))))) n) ∧
    (∀ a i, rvDecode w = .store a i → ∃ t, exec (.rv64imc w) s = .next t ∧ trap 6 (x.x a + i) t) ∧
    (rvDecode w = .illegal → ∃ t, exec (.rv64imc w) s = .next t ∧ trap 9 (w64 x.pc) t))) ∧
  (∀ (s : State) (p l : BitVec 2) (v : BitVec 60),
    let q := (s.core s.cur.core).port p.toNat
    let r (t : State) := (t.core s.cur.core).port p.toNat
    (q.bound = true → q.out = false →
      (q.back.length < 8 → ∃ t, exec (.sbqData p v) s = .next t ∧ SameMem s t ∧ (r t).back = q.back ++ [w64 v.toNat] ∧ (r t).dec = q.dec) ∧
      (8 ≤ q.back.length → exec (.sbqData p v) s = .next s) ∧
      (∃ t, exec (.sbqSkip p l) s = .next t ∧ SameMem s t ∧ (r t).dec = q.dec + 1 ∧ (r t).back = q.back) ∧
      (∃ t, exec (.sbqStop p) s = .next t ∧ SameMem s t ∧ (r t).dec = q.dec + 1 ∧
        (q.late = [] → q.claim ≤ q.seq → (r t).gend = true))) ∧
    (q.bound = false ∨ q.out = true →
      exec (.sbqData p v) s = .next s ∧ exec (.sbqSkip p l) s = .next s ∧ exec (.sbqStop p) s = .next s))

/-- Acceptance of the register forms (11 R230, R231, R241 to R251; 03 R44, R45). A thread with no window raises PERM 0x05. Where the VU can take
a command and the sources' tags name one format of the instruction's group, the command is queued; a source of tag NONE raises FORMAT 0x02,
and formats that differ, or lie outside the group, FORMAT 0x01.
Acceptance of the forms with checks of their own (11 R234, R240, R246 to R250): VPERM and VSORT with `.z` or no mask, VCVT, VPACK, VUNPACK and
VMOVX are queued where their registers, formats and groups fit; an odd VSORT destination raises ILLEGAL 0x07; VFENCE completes with an
empty VU, writing no register, and parks otherwise; a VMOVX in flight waits for its value as a relaxed load does, and one that finds eight
relaxed accesses in flight is queued too and parks its thread for its own value (07 R138).
Where the spec leaves a point open, the statement takes the model's choice: log 31 (DEDUCED), log 96 (DEDUCED). -/
def Obligations.VectorAcceptance : Prop :=
  (∀ (i : Instr) (srcs : List Nat) (xa : Nat) (g : Option (Fmt → Bool)) (s : State), vecForm i = some (srcs, xa, g) →
    (s.vwin s.cur = 15 → exec i s = .next (s.trap 6 5 0)) ∧
    (VuReady s false →
      ((∀ p, g = some p → ∃ f, p f = true ∧ ∀ r ∈ srcs, viewFmt s r = some f) → ∃ t, exec i s = .next t ∧ Accepted s t i xa) ∧
      (g.isSome = true → (∃ r ∈ srcs, viewFmt s r = none) → exec i s = .next (s.trap 7 2 0)) ∧
      (∀ p, g = some p → (∀ r ∈ srcs, (viewFmt s r).isSome = true) →
        (∃ r ∈ srcs, (∀ f, viewFmt s r = some f → p f = false) ∨ ∃ q ∈ srcs, viewFmt s q ≠ viewFmt s r) →
        exec i s = .next (s.trap 7 1 0)))) ∧
  ((∀ (s : State) (a : BitVec 4) (x y : BitVec 5), s.vwin s.cur ≠ 15 → (∀ r, mfind ((s.core s.cur.core).win (s.vwin s.cur)).binds r = none) →
    (s.core s.cur.core).vuTakes s.cur.ctx false = true → s.trailer s.cur = none → s.me.held = none → 8 ≤ s.me.relaxed →
    ∃ t p q, exec (.vmovx a x y) s = .next t ∧ SameMem s t ∧ SameX s t ∧ t.me.pend = s.me.pend ++ [p] ∧ p.dest = x.toNat ∧ p.relaxed = false ∧
      (t.core s.cur.core).vq = (s.core s.cur.core).vq ++ [q] ∧ q.instr = .vmovx a x y ∧ t.me.pc = s.me.pc ∧ t.me.st = (s.me.setWait .parked).st) ∧
  ∀ (s : State) (d a b n : BitVec 4) (m : BitVec 3) (e z c : BitVec 1) (x y : BitVec 5) (fs fd : Fmt), VuReady s false →
    let img := (s.core s.cur.core).fmtOf n.toNat
    (e = 0 ∨ z = 1 →
      ((viewFmt s b.toNat).map inI32 = some true →
        ∃ t, exec (.vperm d a b m e z) s = .next t ∧ Accepted s t (.vperm d a b m e z) 0) ∧
      (d.toNat % 2 = 0 → (viewFmt s a.toNat).map inW32 = some true →
        ∃ t, exec (.vsort d a b c m e z) s = .next t ∧ Accepted s t (.vsort d a b c m e z) 0) ∧
      (d.toNat % 2 = 1 → exec (.vsort d a b c m e z) s = .next (s.trap 9 7 0))) ∧
    (viewFmt s a.toNat = some fs → img = some fd → fs.cont = fd.cont →
      ∃ t, exec (.vcvt d a n m e) s = .next t ∧ Accepted s t (.vcvt d a n m e) 0) ∧
    (img = some fd → inNar fd = true → a.toNat % (32 / fd.cont) = 0 → inW32 fs = true →
      (∀ j, j < 32 / fd.cont → viewFmt s (a.toNat + j) = some fs) →
      ∃ t, exec (.vpack d a n m e) s = .next t ∧ Accepted s t (.vpack d a n m e) 0) ∧
    (viewFmt s a.toNat = some fs → inNar fs = true → img = some fd → inW32 fd = true → d.toNat % (32 / fs.cont) = 0 →
      ∃ t, exec (.vunpack d a n m e) s = .next t ∧ Accepted s t (.vunpack d a n m e) 0) ∧
    ((∀ h, s.me.held = some h → h.cause ≠ .reply false) → s.me.relaxed < 8 → ∃ t p, exec (.vmovx a x y) s = .next t ∧ Accepted s t (.vmovx a x y) 0 ∧ t.me.pend = s.me.pend ++ [p] ∧
      p.load = true ∧ p.dest = x.toNat ∧ p.len = 0) ∧
    ((s.core s.cur.core).vq = [] → ∃ t, exec .vfence s = .next t ∧ SameMem s t ∧ SameX s t ∧ (t.core s.cur.core).vq = [] ∧
      t.me.pc = s.me.pc + w64 (s.me.pfx + 4)) ∧
    ((s.core s.cur.core).vq ≠ [] → ∃ t, exec .vfence s = .next t ∧ Parks s t .vfence .vu))

/-- Acceptance of the memory forms (11 R235, R236; 07 R134): VLD, VST, VLDS, VLDX and VSTX whose format is known and whose active elements pass
their address checks are queued; an FMT register with no format, or a stored register of tag NONE, raises FORMAT 0x02; in each form an element that fails raises the failure
precisely. The element addresses are the base plus lane times size, plus lane times stride, or plus four times the lane's index.
Where the spec leaves a point open, the statement takes the model's choice: log 30 (DEDUCED), log 31 (DEDUCED). -/
def Obligations.VectorMemory : Prop :=
  ∀ (s : State) (v j f : BitVec 4) (a b : BitVec 5) (m : BitVec 3) (e : BitVec 1) (locs : List (Nat × Loc × Word)), VuReady s true →
    let img := (s.core s.cur.core).fmtOf f.toNat
    let n := blockSize img
    let base := s.me.x a.toNat
    let act (l : Nat) : Bool := s.vActive m e (if n = 2 then l / 2 else l)
    let lanes := ((List.range (256 / n)).filter act)
    let strided : VMem := { store := false, size := n, align := n, step := 0, detail := 1,
                            elems := lanes.map fun l => (l, base + w64 l * s.me.x b.toNat) }
    let fails (i : Instr) (c d : Nat) (x : Word) : Prop := ∃ u, exec i s = .next (u.trap c d x) ∧ OnlyMe s u ∧ u.me = s.me
    (img = none → fails (.vld v a f m e) 7 2 0 ∧ fails (.vlds v a b f m e) 7 2 0 ∧ fails (.vldx v a j f m e) 7 2 0) ∧
    (viewFmt s v.toNat = none → fails (.vst v a m e) 7 2 0 ∧ fails (.vstx v a j m e) 7 2 0) ∧
    (img.isSome = true → vuReach s (s.vBlock false img base m e) locs →
      (s.vBlock false img base m e).elems = lanes.map (fun l => (l, base + w64 (n * l))) ∧
      ∃ t, exec (.vld v a f m e) s = .next t ∧ Accepted s t (.vld v a f m e) a.toNat) ∧
    (∀ c d x, img.isSome = true → s.vuKeys (s.vBlock false img base m e) = .error (c, d, x) → fails (.vld v a f m e) c d x) ∧
    (∀ c d x, (img.map fun x => decide (16 ≤ x.cont)) = some true → s.vuKeys strided = .error (c, d, x) → fails (.vlds v a b f m e) c d x) ∧
    (∀ c d x, (viewFmt s v.toNat).isSome = true → s.vuKeys (s.vBlock true (viewFmt s v.toNat) base m e) = .error (c, d, x) →
      fails (.vst v a m e) c d x) ∧
    (∀ c d x, (viewFmt s j.toNat).map inI32 = some true →
      (img.map inW32 = some true → s.vuKeys (s.vIndexed false base j.toNat m e) = .error (c, d, x) → fails (.vldx v a j f m e) c d x) ∧
      ((viewFmt s v.toNat).map inW32 = some true → s.vuKeys (s.vIndexed true base j.toNat m e) = .error (c, d, x) →
        fails (.vstx v a j m e) c d x)) ∧
    ((img.map fun x => decide (16 ≤ x.cont)) = some true → vuReach s strided locs →
      ∃ t, exec (.vlds v a b f m e) s = .next t ∧ Accepted s t (.vlds v a b f m e) a.toNat) ∧
    ((viewFmt s v.toNat).isSome = true → vuReach s (s.vBlock true (viewFmt s v.toNat) base m e) locs →
      ∃ t, exec (.vst v a m e) s = .next t ∧ Accepted s t (.vst v a m e) a.toNat) ∧
    (img.map inW32 = some true → (viewFmt s j.toNat).map inI32 = some true → vuReach s (s.vIndexed false base j.toNat m e) locs →
      ∃ t, exec (.vldx v a j f m e) s = .next t ∧ Accepted s t (.vldx v a j f m e) a.toNat) ∧
    ((viewFmt s v.toNat).map inW32 = some true → (viewFmt s j.toNat).map inI32 = some true →
      vuReach s (s.vIndexed true base j.toNat m e) locs →
      ∃ t, exec (.vstx v a j m e) s = .next t ∧ Accepted s t (.vstx v a j m e) a.toNat)

/-- VU_COMMAND_EXECUTE (11 R231, R233; 22 R431): with the VU waiting on a stream, or holding nothing, nothing changes; a command with no grant waits
for one, and RESW says so; otherwise the oldest command leaves the queue and takes effect. Stated in full, with no stream bound, for the lane-wise
forms: each active lane takes its result and its sources' marks, inactive lanes keep their value, the destination takes the first source's tag, and no
other register, no mask and no byte of memory changes; for comparisons of 32-bit integers and the mask forms: each active bit takes its result and
nothing else changes; for VSETF, which changes the tag alone; and for VRED and VSCAN that add 32-bit integers with every lane active.
Where the spec leaves a point open, the statement takes the model's choice: log 18 (DESIGN CHOICE), log 51 (DEDUCED). -/
def Obligations.VectorExecution : Prop :=
  ∀ (s : State) (c : CoreId) (cmd : VuCmd) (rest : List VuCmd),
    let k := s.core c
    let w := k.win cmd.win
    let active (m : BitVec 3) (e : BitVec 1) (l : Nat) : Prop := e = 0 ∨ bit (w.m m.toNat) l = true
    (k.vq = [] ∨ k.strw ≠ [] → exec (.vuCommandExecute c) s = .next s) ∧
    (k.vq = cmd :: rest → k.strw = [] → ¬Granted s c 0 cmd.serial →
      ∃ t, exec (.vuCommandExecute c) s = .next t ∧ t.mem = s.mem ∧ (t.core c).vq = k.vq ∧ (t.core c).wins = k.wins ∧
        (t.core c).vuResw = true) ∧
    (k.vq = cmd :: rest → Granted s c 0 cmd.serial → cmd.ins = [] → cmd.outs = [] → s.hole = none →
      (∀ sg f, laneForm cmd.instr w cmd.xa cmd.xam sg = some f → (∀ fm, f.fmt = some fm → k.tagFmt (w.v f.a).tag = some fm) →
        ∃ t, exec (.vuCommandExecute c) s = .next t ∧ SameMem s t ∧ (t.core c).vq = rest ∧
          (let z := (t.core c).win cmd.win
           (∀ l, l < 64 → (active f.m f.e l → laneOf z f.d l = f.f l ∧ bit (z.v f.d).marks l = f.mark l) ∧
             (¬active f.m f.e l → laneOf z f.d l = laneOf w f.d l ∧ bit (z.v f.d).marks l = bit (w.v f.d).marks l)) ∧
           (z.v f.d).tag = (w.v f.a).tag ∧ (∀ r, r ≠ f.d → z.v r = w.v r) ∧ z.ms = w.ms)) ∧
      (∀ sg d m e g fa, maskForm cmd.instr w sg = some (d, m, e, g, fa) → (∀ r, fa = some r → k.tagFmt (w.v r).tag = some (.int sg 32)) →
        ∃ t, exec (.vuCommandExecute c) s = .next t ∧ SameMem s t ∧ (t.core c).vq = rest ∧
          (let z := (t.core c).win cmd.win
           (∀ l, l < 64 → (active m e l → (bit (z.m d) l = true ↔ g l)) ∧ (¬active m e l → bit (z.m d) l = bit (w.m d) l)) ∧
           (∀ r, r ≠ d → z.m r = w.m r) ∧ z.vs = w.vs)) ∧
      (∀ (d n : BitVec 4), cmd.instr = .vsetf d n →
        ∃ t, exec (.vuCommandExecute c) s = .next t ∧ SameMem s t ∧ (t.core c).vq = rest ∧
          (let z := (t.core c).win cmd.win
           z.v d.toNat = { w.v d.toNat with tag := 0x80 ||| n.zeroExtend 8 } ∧ (∀ r, r ≠ d.toNat → z.v r = w.v r) ∧ z.ms = w.ms)) ∧
      (∀ (d a : BitVec 4) (m : BitVec 3) (q : BitVec 1) (sg : Bool), k.tagFmt (w.v a.toNat).tag = some (.int sg 32) →
        let sum (n : Nat) : BitVec 32 := (List.range n).foldl (fun v l => v + laneOf w a.toNat l) 0
        (cmd.instr = .vred d a 3 m 0 q → ∃ t, exec (.vuCommandExecute c) s = .next t ∧ SameMem s t ∧ (t.core c).vq = rest ∧
          laneOf ((t.core c).win cmd.win) d.toNat 0 = sum 64 ∧ ∀ l, 0 < l → laneOf ((t.core c).win cmd.win) d.toNat l = 0) ∧
        (cmd.instr = .vscan d a 3 m 0 q → ∃ t, exec (.vuCommandExecute c) s = .next t ∧ SameMem s t ∧ (t.core c).vq = rest ∧
          ∀ l, l < 64 → laneOf ((t.core c).win cmd.win) d.toNat l = sum (l + 1))))

/-- A memory form that the VU executes (11 R235, R238), for elements of 32 bits that its acceptance located in banked words with no error and no waiter.
A load's lanes take the words' bytes, marked by the word's poison or by the scalar or index they came from, other lanes stay, the tag names the
load's FMT register, and memory is as before. A store writes each element's bytes from its lane, poisons the word of a marked lane, and changes no
other byte.
Where the spec leaves a point open, the statement takes the model's choice: log 4 (DESIGN CHOICE), log 51 (DEDUCED). -/
def Obligations.VectorTransfers : Prop :=
  ∀ (s : State) (c : CoreId) (cmd : VuCmd) (rest : List VuCmd) (v : Nat) (fm : Option (BitVec 4)) (ix : Option Nat),
    let k := s.core c
    let w := k.win cmd.win
    let idx (l : Nat) : Bool := cmd.xam || (match ix with | some i => bit (w.v i).marks l | none => false)
    k.vq = cmd :: rest → Granted s c 0 cmd.serial → cmd.ins = [] → cmd.outs = [] → s.hole = none →
    (∀ x ∈ cmd.keys, x.1 < 64 ∧ x.2.1 % 4 = 0 ∧ 2 ^ 60 ≤ x.2.1 ∧ x.2.1 < 2 ^ 62 ∧ soundLoc s (.bank x.2.1) 4) →
    (∀ n, memForm cmd.instr k w = some (false, v, fm, ix, true) → fm = some n → (cmd.keys.map (·.1)).Nodup →
      ∃ t, exec (.vuCommandExecute c) s = .next t ∧ SameMem s t ∧ (t.core c).vq = rest ∧
        (let z := (t.core c).win cmd.win
         (∀ x ∈ cmd.keys, laneOf z v x.1 = BitVec.ofNat 32 (leNat (s.rd x.2.1 4)) ∧ bit (z.v v).marks x.1 = (idx x.1 || s.pz (x.2.1 / 8))) ∧
         (∀ l, l < 64 → l ∉ cmd.keys.map (·.1) → laneOf z v l = laneOf w v l ∧ bit (z.v v).marks l = bit (w.v v).marks l) ∧
         (z.v v).tag = 0x80 ||| n.zeroExtend 8 ∧ (∀ r, r ≠ v → z.v r = w.v r) ∧ z.ms = w.ms)) ∧
    (memForm cmd.instr k w = some (true, v, fm, ix, true) → (cmd.keys.map (·.2.1)).Nodup → (∀ x ∈ cmd.keys, calmWord s (x.2.1 / 8)) →
      ∃ t, exec (.vuCommandExecute c) s = .next t ∧ (t.core c).vq = rest ∧ (t.core c).wins = k.wins ∧
        (∀ x ∈ cmd.keys, t.rd x.2.1 4 = leBytes 4 (laneOf w v x.1).toNat) ∧
        (∀ y, (∀ x ∈ cmd.keys, y < x.2.1 ∨ x.2.1 + 4 ≤ y) → memGet t.mem y = memGet s.mem y) ∧
        ∀ u, t.pz u = (s.pz u || cmd.keys.any fun x => x.2.1 / 8 == u && bit (w.v v).marks x.1))

/-- LCFG, LSTAT and LWAIT (14 R308, R321, R323). LCFG of a launch marked preemptible-anywhere raises PERM 0x00, a register number above 2 or a
bit that the register holds at zero ILLEGAL 0x07; otherwise the one register takes the value. LSTAT writes the summary of the port: errors and
their first class, the tags whose operation waits, and the states of the tags. LWAIT completes once no operation that the thread issued runs, and
parks until then. -/
def Obligations.LensRegisters : Prop :=
  ∀ (s : State) (i v d : BitVec 5), s.trailer s.cur = none →
    let l := (s.core s.cur.core).lens
    let n := (s.me.x i.toNat).toNat
    let x := s.me.x v.toNat
    let bad : Prop := 2 < n ∨ (n = 0 ∧ (2 ^ 30 ≤ x.toNat ∨ x.toNat / 2 ^ 7 % 2 ^ 7 ≠ 0)) ∨ (0 < n ∧ 2 ^ 48 ≤ x.toNat)
    let mine (o : LensOp) : Prop := o.run = s.me.run ∧ bit s.me.lensTags o.tag = true ∧ (l.tag o.tag).st = .running
    ((s.launchOf s.cur).pclass = 2 → exec (.lcfg i v) s = .next (s.trap 6 0 0)) ∧
    ((s.launchOf s.cur).pclass ≠ 2 → bad → exec (.lcfg i v) s = .next (s.trap 9 7 0)) ∧
    ((s.launchOf s.cur).pclass ≠ 2 → ¬bad → ∃ t, exec (.lcfg i v) s = .next t ∧ SameMem s t ∧ SameX s t ∧ SameOthers s t ∧
      t.me.pc = s.me.pc + w64 (s.me.pfx + 4) ∧
      (t.core s.cur.core).lens = { l with lmode := if n = 0 then x else l.lmode, lfine := if n = 1 then x else l.lfine
                                          lcoarse := if n = 2 then x else l.lcoarse }) ∧
    (∃ t w, exec (.lstat d) s = .next t ∧ WritesX s t d.toNat w false 4 ∧
      ((l.ops.map (·.tag)).Nodup → (∀ o ∈ l.ops, o.tag < 8) →
        w.toNat / 2 ^ 32 = l.errs.toNat ∧ w.toNat / 2 ^ 28 % 2 ^ 4 = l.errcls.toNat ∧ w.toNat / 2 ^ 24 % 2 ^ 4 = 0 ∧
        ∀ k, k < 8 → bit w (16 + k) = (l.ops.any fun o => o.tag == k && o.waiting) ∧
          w.toNat / 4 ^ k % 4 = (l.tag k).st.code)) ∧
    ((∀ o ∈ l.ops, ¬mine o) → ∃ t, exec .lwait s = .next t ∧ GoesTo s t (s.me.pc + w64 (s.me.pfx + 4)) false) ∧
    ((∃ o ∈ l.ops, mine o ∧ o.tag < 8) → ∃ t, exec .lwait s = .next t ∧ Parks s t .lwait .lens)

/-- Issue of the RESTRICT and PROLONG forms (14 R312, R313), in the order of the steps: a launch marked preemptible-anywhere, an illegal
combination, no rows or elements (hd takes 0 and no tag is taken), the alignment of the coarse side and then of the fine one, and, where both
sides' extents lie in their stores and a folded operation's sides do not meet, the issue under the lowest free tag. LWLOAD (14 R311): its operands outside their limits raise ILLEGAL 0x07, a misaligned source ALIGN 0x01; a source in the launch's footprint is
queued under the lowest free tag. -/
def Obligations.LensIssue : Prop :=
  (∀ (s : State) (q n : Nat) (i : Instr) (h : BitVec 4) (d a z : BitVec 5), lensForm q h d a z = some i → s.trailer s.cur = none →
    let L := s.launchOf s.cur
    let m := (lensGeometry s 0).toNat
    let size := (s.me.x z.toNat).toNat
    let rows := size / 2 ^ 32 % 2 ^ 16
    let ec := size / 2 ^ 16 % 2 ^ 16
    let ef := size % 2 ^ 16
    let e := if m % 4 = 3 then 8 else 4
    let up := q < 4
    let coarse := if up then (s.me.x d.toNat).toNat else (s.me.x a.toNat).toNat
    let fine := if up then (s.me.x a.toNat).toNat else (s.me.x d.toNat).toNat
    let cx := lensExtent e rows (ec - 1) (lensGeometry s 2).toNat
    let fx := lensExtent e rows (ef - 1) (lensGeometry s 1).toNat
    let own (v x : Nat) : Prop :=
      v / 2 ^ 21 = 0x7F * 2 ^ 35 ∧ 0x800 ≤ v % 2 ^ 21 ∧ L.on s.cur.core = true ∧ L.base s.cur.core ≤ v % 2 ^ 21 ∧
        v % 2 ^ 21 + x ≤ L.base s.cur.core + L.lssize
    let fold := m / 8 % 2 = 1
    (L.pclass = 2 → exec i s = .next (s.trap 6 0 0)) ∧
    (L.pclass ≠ 2 → lensIllegal s q m size → exec i s = .next (s.trap 9 7 0)) ∧
    (L.pclass ≠ 2 → ¬lensIllegal s q m size →
      (rows = 0 ∨ ec = 0 ∨ ef = 0 → ∃ t, exec i s = .next t ∧ OnlyMe s t ∧ SameMem s t ∧ SameX s t ∧ t.me.h h.toNat = 0 ∧
        t.me.pc = s.me.pc + w64 (s.me.pfx + 4)) ∧
      (0 < rows → 0 < ec → 0 < ef →
        (coarse % e ≠ 0 → exec i s = .next (s.trap 8 1 (w64 coarse))) ∧
        (coarse % e = 0 → fine % e ≠ 0 → exec i s = .next (s.trap 8 1 (w64 fine))) ∧
        (coarse % e = 0 → fine % e = 0 → own coarse cx →
          (if fold then own fine fx ∧ (fine + fx ≤ coarse ∨ coarse + cx ≤ fine)
            else fine + fx ≤ L.lssize ∧ ∀ k, k < 4 → L.on ⟨s.cur.die, s.cur.tier - 1, 4 * s.cur.idx + k⟩ = true) →
          Quiet s → FreeLensTag s n →
          ∃ t, exec i s = .next t ∧ LensIssued s t h.toNat n q (s.me.x d.toNat) (s.me.x a.toNat) (s.me.x z.toNat))))) ∧
  ∀ (s : State) (h : BitVec 4) (i a z : BitVec 5) (n : Nat), (s.launchOf s.cur).pclass ≠ 2 →
    let L := s.launchOf s.cur
    let ix := (s.me.x i.toNat).toNat
    let len := (s.me.x z.toNat).toNat
    let v := (s.me.x a.toNat).toNat
    let good := ix ≤ 63 ∧ len % 4 = 0 ∧ 4 ≤ len ∧ 4 * ix + len ≤ 256
    (¬good → exec (.lwload h i a z) s = .next (s.trap 9 7 0)) ∧
    (good → v % 4 ≠ 0 → exec (.lwload h i a z) s = .next (s.trap 8 1 (s.me.x a.toNat))) ∧
    (good → v % 4 = 0 → v / 2 ^ 21 = 0x7F * 2 ^ 35 → L.on s.cur.core = true → L.base s.cur.core ≤ v % 2 ^ 21 →
      v % 2 ^ 21 + len ≤ L.base s.cur.core + L.lssize → Quiet s → FreeLensTag s n →
      ∃ t, exec (.lwload h i a z) s = .next t ∧ LensIssued s t h.toNat n 16 (s.me.x i.toNat) (s.me.x a.toNat) (s.me.x z.toNat))

/-- The lens engine (14 R315 to R318, R324, R328). Both events complete in every state. An engine none of whose ports holds an operation does
nothing. Where the operation at the head of one port of the engine can go on, and of no other, LENS_OPERATION_COMPLETE of a LWLOAD of one weight whose word
holds no error writes the weight with the word's mark and completes the tag; of a folded RESTRICT.gather of one element with ratio 1 and no
SYNC it copies the element, makes its word FULL, changes no other byte and completes the tag; of one with SYNC whose source word is EMPTY it
writes nothing, leaves the tag running and takes its place at the bank; a cancelled operation ends CANCELLED and writes nothing.
Where the spec leaves a point open, the statement takes the model's choice: log 54 (DEDUCED). -/
def Obligations.LensEvents : Prop :=
  ∀ (s : State) (c : CoreId) (tag : BitVec 3) (o : LensOp) (rest : List LensOp) (f g : Nat), s.hole = none →
    let l := (s.core c).lens
    let ls (x : Nat) : Nat := 2 ^ 60 + coreKey c * 2 ^ 21 + x % 2 ^ 21
    let sound (w : Nat) : Prop := mget 0 s.badWords w = 0 ∧ bankKey w ∉ s.dev.retired
    let ends (t : State) (st : TagState) : Prop := ((t.core c).lens.tag o.tag).st = st ∧ o.tag ∉ (t.core c).lens.ops.map (·.tag)
    let port (p : CoreId) : Prop := p.idx < 256 ∧ p.die = c.die ∧ p.tier - 1 = c.tier - 1
    (∃ t, exec (.lensOperationComplete c) s = .next t) ∧ (∃ t, exec (.lensCancelled c tag) s = .next t) ∧
    ((∀ p, port p → (s.core p).lens.ops = []) → exec (.lensOperationComplete c) s = .next s) ∧
    ((∀ p ∈ l.ops, p.tag ≠ tag.toNat ∨ p.cancel = false) → exec (.lensCancelled c tag) s = .next s) ∧
    (l.ops.find? (fun p => p.tag == tag.toNat && p.cancel) = some o →
      ∃ t, exec (.lensCancelled c tag) s = .next t ∧ SameMem s t ∧ ends t .cancelled) ∧
    (l.ops = o :: rest → (∀ p, port p → p ≠ c → s.lensReady p = false) → o.cancel = false → o.frozen = false → s.performed o.after = true →
      o.waiting = false → o.arrived = none → o.at_ = 0 → o.got = [] → c.tier < 4 → c.die < 8 → c.idx < 256 →
      (o.kind = 16 → o.size = 4 → o.src.toNat % 4 = 0 → o.dst.toNat < 64 → sound (ls o.src.toNat / 8) →
        ∃ t, exec (.lensOperationComplete c) s = .next t ∧ SameMem s t ∧ ends t .complete ∧
          mget 0 (t.core c).lens.ws o.dst.toNat = BitVec.ofNat 32 (leNat (s.rd (ls o.src.toNat) 4)) ∧
          bit (t.core c).lens.wm o.dst.toNat = s.pz (ls o.src.toNat / 8)) ∧
      (o.kind = 3 → o.size.toNat = 2 ^ 32 + 2 ^ 16 + 1 → f = ls o.src.toNat → g = ls o.dst.toNat → f % 8 = 0 → g % 8 = 0 →
        (o.lmode.toNat = 11 → sound (f / 8) → calmWord s (g / 8) → isWindowWord (g / 8) = false →
          (s.feAt (g / 8)).parked = [] → (s.feAt (g / 8)).readers = [] →
          ∃ t, exec (.lensOperationComplete c) s = .next t ∧ ends t .complete ∧ memWord t (g / 8) = memWord s (f / 8) ∧
            t.pz (g / 8) = s.pz (f / 8) ∧ (t.feAt (g / 8)).full = true ∧
            ∀ k, k < g ∨ g + 8 ≤ k → memGet t.mem k = memGet s.mem k) ∧
        (o.lmode.toNat = 27 → sound (f / 8) → (s.feAt (f / 8)).full = false → (s.feAt (f / 8)).lost = false → isWindowWord (f / 8) = false →
          (s.launch o.serial).st ≠ .ending →
          ∃ t, exec (.lensOperationComplete c) s = .next t ∧ SameMem s t ∧ (t.core c).lens.tags = l.tags ∧
            (∃ p, (t.core c).lens.ops = p :: rest ∧ p.waiting = true ∧ p.tag = o.tag) ∧ lensSeat c ∈ (t.feAt (f / 8)).parked)))

/-- The sampler (18 R372 to R384). Below T3 every SAMP and SPEC instruction raises ILLEGAL 0x05. RNGKEY writes RKEY; RNGGEN writes the generator's
two words into x[rd] and x[rd + 1]. On good lists: STEMP multiplies every key by the scale, rounded once, and changes no
other byte; STOPP, SDRAW and SMERGE answer an empty list as R383, R384 and R380 say, and one of a single entry whose key is a number by keeping,
drawing or copying that entry. A descriptor or scalar outside its limits raises ILLEGAL 0x07.
STOPK (18 R382) writes its list's descriptor with N cut to k; a k outside 1 to 4,096, or a malformed descriptor (R377), raises ILLEGAL 0x07. It
completes once the SAMP unit serves no other thread (R394; how the line of threads stands is the model's choice: log 39, DEDUCED), and changes nothing else but
the pc and, for a marked operand, the mark of its result and CIR bit 0 (R385).
Where the spec leaves a point open, the statement takes the model's choice: log 39 (DEDUCED). -/
def Obligations.SamplerResults : Prop :=
  (∀ (s : State) (d a b : BitVec 5) (e : BitVec 4),
    let v := s.me.x a.toNat
    let w := s.me.x b.toNat
    let n := (listOf v).2.1
    let number (k : BitVec 32) : Prop := k.toNat % 2 ^ 31 ≤ 0x7F800000
    let badList (v : Word) : Prop := 2 ^ 48 ≤ v.toNat ∨ v.toNat / 2 ^ 21 % 2 ^ 11 ≠ 0 ∨ 4096 < v.toNat / 2 ^ 32 % 2 ^ 16
    (s.cur.tier ≠ 3 → ∀ i ∈ zenithForm d a b e, exec i s = .next (s.trap 9 5 0)) ∧
    (s.cur.tier = 3 → s.trailer s.cur = none → SampFree s →
      ((∀ h, s.me.held = some h → h.cause ≠ .own) → ∃ t, exec (.rngkey a b) s = .next t ∧ SameMem s t ∧ SameX s t ∧ SameOthers s t ∧ t.me.pc = s.me.pc + w64 (s.me.pfx + 4) ∧
        (t.core s.cur.core).rkey.toNat = w.toNat * 2 ^ 64 + v.toNat) ∧
      (∃ t, exec (.rnggen e a b) s = .next t ∧ SampOnly s t ∧ SameMem s t ∧ t.me.pc = s.me.pc + w64 (s.me.pfx + 4) ∧
        (let g := rngWords (issueKey s) v.toNat w.toNat
         ∀ r, r < 32 → t.me.x r = (if r = 0 then 0 else if r = 2 * e.toNat then g.1 else if r = 2 * e.toNat + 1 then g.2 else s.me.x r) ∧
           (r = 2 * e.toNat + 1 → t.me.xp r = (s.me.xp a.toNat || s.me.xp b.toNat)))) ∧
      (badList v ∨ w.toNat < 0x00800000 ∨ 0x7F7FFFFF < w.toNat → exec (.stemp a b) s = .next (s.trap 9 7 0)) ∧
      (badList v ∨ w = 0 ∨ 0x3F800000 < w.toNat → exec (.stopp d a b) s = .next (s.trap 9 7 0)) ∧
      (badList v ∨ badList w ∨ 1024 < w.toNat / 2 ^ 32 % 2 ^ 16 → exec (.smerge d a b) s = .next (s.trap 9 7 0)) ∧
      (badList v → exec (.sdraw d a b) s = .next (s.trap 9 7 0))) ∧
    (s.cur.tier = 3 → Quiet s → SampFree s → GoodList s v →
      (0x00800000 ≤ w.toNat → w.toNat ≤ 0x7F7FFFFF →
        ∃ t, exec (.stemp a b) s = .next t ∧ SampDone s t 0 0 ∧
          (∀ m, m < n → listKey t v m = fmul32 (listKey s v m) (BitVec.ofNat 32 w.toNat)) ∧
          (∀ k, (∀ m, m < n → k < ownKey s ((listOf v).1 + 512 * (m / 64) + 4 * (m % 64)) ∨
            ownKey s ((listOf v).1 + 512 * (m / 64) + 4 * (m % 64)) + 4 ≤ k) → memGet t.mem k = memGet s.mem k)) ∧
      (0 < w.toNat → w.toNat ≤ 0x3F800000 →
        (n = 0 → ∃ t, exec (.stopp d a b) s = .next t ∧ SampDone s t d.toNat (listWith v 0) ∧ SameMem s t) ∧
        (n = 1 → number (listKey s v 0) → ∃ t, exec (.stopp d a b) s = .next t ∧ SampDone s t d.toNat v ∧ SameMem s t)) ∧
      (n = 0 → ∃ t, exec (.sdraw d a b) s = .next t ∧ SampDone s t d.toNat (BitVec.allOnes 64) ∧ SameMem s t) ∧
      (n = 1 → number (listKey s v 0) →
        ∃ t, exec (.sdraw d a b) s = .next t ∧ SampDone s t d.toNat (w64 (listIndex s v 0).toNat) ∧ SameMem s t) ∧
      (GoodList s w → (listOf w).2.1 ≤ 1024 → (n = 0 ∨ (listOf w).2.1 = 0) →
        ∃ t, exec (.smerge d a b) s = .next t ∧ SampDone s t d.toNat (listWith w 0) ∧ SameMem s t) ∧
      (GoodList s w → 0 < (listOf w).2.1 → (listOf w).2.1 ≤ 1024 → n = 1 → number (listKey s v 0) →
        ((listOf v).1 + 512 ≤ (listOf w).1 ∨ (listOf w).1 + (listOf w).2.2 ≤ (listOf v).1) →
        ∃ t, exec (.smerge d a b) s = .next t ∧ SampDone s t d.toNat (listWith w 1) ∧
          listKey t w 0 = listKey s v 0 ∧ listIndex t w 0 = listIndex s v 0 ∧
          (∀ m, 0 < m → m < 64 → listKey t w m = 0xFF800000 ∧ listIndex t w m = 0xFFFFFFFF) ∧
          (∀ k, k < ownKey s (listOf w).1 ∨ ownKey s (listOf w).1 + 512 ≤ k → memGet t.mem k = memGet s.mem k)))) ∧
  (∀ (s : State) (d a b : BitVec 5), s.cur.tier = 3 →
    let v := s.me.x a.toNat
    let k := (s.me.x b.toNat).toNat
    let n := v.toNat / 2 ^ 32 % 2 ^ 16
    let bad : Prop := 2 ^ 48 ≤ v.toNat ∨ v.toNat / 2 ^ 21 % 2 ^ 11 ≠ 0 ∨ 4096 < n
    (bad ∨ k = 0 ∨ 4096 < k → exec (.stopk d a b) s = .next (s.trap 9 7 0)) ∧
    (¬bad → 1 ≤ k → k ≤ 4096 → s.trailer s.cur = none → SampFree s →
      ∃ t u, exec (.stopk d a b) s = .next t ∧ SampOnly s t ∧ SameMem s t ∧
        XWrite s.me t.me d.toNat u (s.me.xp a.toNat || s.me.xp b.toNat) ∧ XOnly s.me t.me (s.me.xp a.toNat || s.me.xp b.toNat) 4 ∧
        u.toNat = v.toNat % 2 ^ 32 + min n k * 2 ^ 32))

/-- The speculation unit at T3 (18 R387 to R392), with unmarked operands. An operand with bits 63:32 set raises ILLEGAL 0x07 and a misaligned
block ALIGN 0x01. On a good block each step completes: a malformed block or a state, sequence or capacity condition answers its code and
writes nothing; otherwise OPEN clears the window and opens it, APPEND adds a draft, VERIFY counts the leading drafts that equal their targets
and keeps the correction, COMMIT moves KVLEN and LAST and closes the window, and ABORT closes it.
Where the spec leaves a point open, the statement takes the model's choice: log 39 (DEDUCED). -/
def Obligations.SpeculationResults : Prop :=
  ∀ (s : State) (d a b : BitVec 5), s.cur.tier = 3 → Quiet s → SampFree s → s.me.xp a.toNat = false → s.me.xp b.toNat = false →
    let ad := s.me.x a.toNat
    let q := (s.me.x b.toNat).toNat
    let v := blockAt s ad
    let open_ := ssbF v 38 1 = 1
    let ver := ssbF v 39 1 = 1
    let n := ssbF v 32 4
    let kv := ssbF v 64 32
    let max_ := ssbF v 96 32
    let acc := ssbF v 224 4
    let old (i : Nat) : Bool := v.testBit i
    let cleared (i : Nat) : Bool := if ssbWindow i then false else v.testBit i
    (2 ^ 32 ≤ q → exec (.specOpen d a b) s = .next (s.trap 9 7 0) ∧ exec (.specAppend d a b) s = .next (s.trap 9 7 0)) ∧
    (q < 2 ^ 32 → ad.toNat % 64 ≠ 0 → ∀ i ∈ [Instr.specOpen d a b, .specAppend d a b, .specVerify d a b, .specCommit d a, .specAbort d a],
      exec i s = .next (s.trap 8 1 ad)) ∧
    (GoodBlock s ad →
      (ssbMalformed v → q < 2 ^ 32 → ∀ i ∈ [Instr.specOpen d a b, .specAppend d a b, .specCommit d a, .specAbort d a],
        ∃ t, exec i s = .next t ∧ SpecFails s t d.toNat 1) ∧
      (¬ssbMalformed v →
        (q < 2 ^ 32 →
          (open_ → ∃ t, exec (.specOpen d a b) s = .next t ∧ SpecFails s t d.toNat 1) ∧
          (¬open_ → ssbF v 0 32 ≠ q → ∃ t, exec (.specOpen d a b) s = .next t ∧ SpecFails s t d.toNat 3) ∧
          (¬open_ → ssbF v 0 32 = q → max_ ≤ kv → ∃ t, exec (.specOpen d a b) s = .next t ∧ SpecFails s t d.toNat 2) ∧
          (¬open_ → ssbF v 0 32 = q → kv < max_ →
            ∃ t, exec (.specOpen d a b) s = .next t ∧ SpecDone s t ad d.toNat (w64 kv) (ssbPut cleared 38 1 1)) ∧
          (¬open_ ∨ ver → ∃ t, exec (.specAppend d a b) s = .next t ∧ SpecFails s t d.toNat 1) ∧
          (open_ → ¬ver → n = 8 ∨ max_ ≤ kv + n + 1 → ∃ t, exec (.specAppend d a b) s = .next t ∧ SpecFails s t d.toNat 2) ∧
          (open_ → ¬ver → n < 8 → kv + n + 1 < max_ →
            ∃ t, exec (.specAppend d a b) s = .next t ∧
              SpecDone s t ad d.toNat (w64 (kv + n)) (ssbPut (ssbPut old (256 + 32 * n) 32 q) 32 4 (n + 1)))) ∧
        (GoodBlock s (s.me.x b.toNat) →
          (¬open_ ∨ ver → ∃ t, exec (.specVerify d a b) s = .next t ∧ SpecFails s t d.toNat 1) ∧
          (∀ k, open_ → ¬ver → k ≤ n →
            (let target (i : Nat) : Nat := ssbF (blockAt s (s.me.x b.toNat)) (32 * i) 32
             (∀ i, i < k → ssbF v (256 + 32 * i) 32 = target i) → (k < n → ssbF v (256 + 32 * k) 32 ≠ target k) →
             ∃ t, exec (.specVerify d a b) s = .next t ∧
               SpecDone s t ad d.toNat (w64 (n * 2 ^ 40 + k * 2 ^ 32 + target k))
                 (ssbPut (ssbPut (ssbPut old 224 4 k) 192 32 (target k)) 39 1 1)))) ∧
        (¬open_ ∨ ¬ver → ∃ t, exec (.specCommit d a) s = .next t ∧ SpecFails s t d.toNat 1) ∧
        (open_ → ver →
          ∃ t, exec (.specCommit d a) s = .next t ∧
            SpecDone s t ad d.toNat (w64 ((if acc < n then n - acc - 1 else 0) * 2 ^ 32 + (kv + acc + 1) % 2 ^ 32))
              (ssbPut (ssbPut (ssbPut cleared 64 32 ((kv + acc + 1) % 2 ^ 32)) 128 32 (ssbF v 192 32))
                160 32 ((ssbF v 160 32 + 1) % 2 ^ 32))) ∧
        (open_ → ∃ t, exec (.specAbort d a) s = .next t ∧ SpecDone s t ad d.toNat (w64 n) cleared) ∧
        (¬open_ → ∃ t, exec (.specAbort d a) s = .next t ∧ SpecDone s t ad d.toNat 0 old)))

/-- HALO.RUN and HALO.STAT (20 R402 to R404, R407, R412). HALO.RUN checks ALIGN of both operands, then their regions; a malformed block, or a
running schedule of the same COMM, raises ILLEGAL 0x07; otherwise the lowest free tag runs, the handle names it with ENG 0b11, and the schedule
begins at PCIX 0 with the block's COMM and bases and the signals held for its COMM, here with the block in the core's store. HALO.STAT of a
handle of another engine raises ILLEGAL 0x07; otherwise xd takes the tag's generation, first error, state, PCIX, operations in flight, LINKW and
EVW.
Where the spec leaves a point open, the statement takes the model's choice: log 59 (DEDUCED). -/
def Obligations.HaloThreads : Prop :=
  ∀ (s : State) (h : BitVec 4) (a b d : BitVec 5) (n k : Nat) (loc : Loc),
    let xa := s.me.x a.toNat
    let xb := s.me.x b.toNat
    let run : Instr := .haloRun h a b
    let r := afterRelease s (some 4)
    let v (o m : Nat) : Nat := leNat (s.rd (k + o) m)
    let on (m : Nat) (c : Sched) : Prop := m < 16 ∧ schedAt s s.cur.die m = some c ∧ c.endedAs = none
    let D := s.cur.die
    (xa.toNat % 8 ≠ 0 → exec run s = .next (s.trap 8 1 xa)) ∧
    (xa.toNat % 8 = 0 → xb.toNat % 128 ≠ 0 → exec run s = .next (s.trap 8 1 xb)) ∧
    (xa.toNat % 8 = 0 → xb.toNat % 128 = 0 → xa.toNat / 2 ^ 56 ≠ 0 → exec run s = .next (s.trap 6 1 xa)) ∧
    (xa.toNat % 8 = 0 → xb.toNat % 128 = 0 → xa.toNat / 2 ^ 56 = 0 → xb.toNat / 2 ^ 56 ≠ 0 → xb.toNat / 2 ^ 56 ≠ 0x7F →
      exec run s = .next (s.trap 6 1 xb)) ∧
    (Quiet s → xa.toNat / 2 ^ 56 = 0 → s.checkAcc s.cur xa 8 8 .load = loc → soundLoc s loc 8 → xb.toNat / 2 ^ 56 = 0x7F →
      s.checkAcc s.cur xb 128 128 .load = .bank k → soundLoc s (.bank k) 128 →
      (2 ^ 16 ≤ v 0 8 ∨ v 0x48 56 ≠ 0 ∨ (∃ m c, on m c ∧ c.comm = v 0 2) →
        ∃ u : State, exec run s = .next (u.trap 9 7 0) ∧ u.me = s.me ∧ u.mem = s.mem) ∧
      (v 0 8 < 2 ^ 16 → v 0x48 56 = 0 → (∀ m c, on m c → c.comm ≠ v 0 2) → FreeHaloTag s n →
        ∃ t c, exec run s = .next t ∧ t.mem = r.mem ∧ SameX s t ∧ t.me.pc = s.me.pc + w64 (s.me.pfx + 4) ∧
          ((t.die D).htag n).st = .running ∧ ((t.die D).htag n).gen = ((s.die D).htag n).gen + 1 ∧
          t.me.h h.toNat = BitVec.ofNat 32 ((((s.die D).htag n).gen + 1).toNat * 2 ^ 16 + 3 * 2 ^ 8 + n) ∧
          schedAt t D n = some c ∧ c.code = xa ∧ c.comm = v 0 2 ∧ c.pcix = 0 ∧ c.ops = [] ∧ c.thread = s.cur ∧ c.stopped = false ∧
          (∀ i, i < 8 → mget 0 c.bases i = w64 (v (8 + 8 * i) 8) ∧ mget 0 c.evs i = mget 0 (s.die D).sigs (8 * v 0 2 + i) ∧
            mget 0 c.lcs i = 0))) ∧
    ((s.me.h h.toNat).toNat / 2 ^ 8 % 4 ≠ 3 → exec (.haloStat h d) s = .next (s.trap 9 7 0)) ∧
    ((s.me.h h.toNat).toNat / 2 ^ 8 % 4 = 3 → s.trailer s.cur = none →
      ∃ t w, exec (.haloStat h d) s = .next t ∧ WritesX s t d.toNat w false 4 ∧
        (let x := (s.die D).htag ((s.me.h h.toNat).toNat % 64)
         (∀ c, x.sched = some c → c.ops.length ≤ 64) →
         w.toNat / 2 ^ 48 = x.gen.toNat ∧ w.toNat / 2 ^ 40 % 2 ^ 8 = x.detail.toNat ∧ w.toNat / 2 ^ 36 % 2 ^ 4 = x.cls.toNat ∧
         w.toNat / 2 ^ 34 % 4 = x.st.code ∧
         (∀ c, x.sched = some c → c.pcix < 65536 →
           w.toNat / 2 ^ 16 % 2 ^ 16 = c.pcix ∧ w.toNat / 2 ^ 8 % 2 ^ 8 = c.ops.length ∧ bit w 0 = c.evw ∧
             bit w 2 = c.ops.any fun o => o.rerouting)))

/-- The chunk instructions of the executing schedule (20 R408, R410, R412, R414, R415, R421). A data operation starts with its buffer at base plus
8 times OFF and goes on; a 65th on the die waits; one to a port that is lost or to which no route leads stops the schedule with PEER 0x02; a base in a
region that Halo does not take, or from which the buffer leaves its region, stops it with PERM. H.SIGNAL sends its value to the peer, on a die or
beyond a port, and waits for it to be applied or held. H.LOOP moves the bases and goes
back while its count lasts, and then moves them home and goes on; a BACK beyond PCIX stops the schedule with ILLEGAL 0x03. H.END ends the tag once
no operation is in flight, or has its end held while the launch is saved (10 R210). A die with no such schedule does nothing.
Where the spec leaves a point open, the statement takes the model's choice: log 59 (DEDUCED). -/
def Obligations.HaloChunks : Prop :=
  ∀ (s : State) (i : Instr) (c : Sched),
    let d := s.curHalo.1
    let n := s.curHalo.2
    (schedAt s d n = none → (∃ f, chunkForm i = some f) ∨ (∃ e v, i = .hWait e v) ∨ (∃ e p v, i = .hSignal e p v) ∨
      (∃ l m b k t, i = .hLoop l m b k t) ∨ i = .hEnd → exec i s = .next s) ∧
    (∀ f, ChunkOn s c → chunkForm i = some f →
      let va := mget 0 c.bases f.base + w64 (8 * f.off)
      let src := mget 0 c.bases f.sbase + w64 (8 * f.off)
      let lost : Bool := decide (16 ≤ f.peer) && (bit s.dev.xlost (f.peer - 16) || !s.routed d ((f.peer - 16) / 2))
      (64 ≤ s.haloOps d → exec i s = .next s) ∧
      (s.haloOps d < 64 → f.kind ≠ 3 → lost = true → ∃ t, exec i s = .next t ∧ ChunkStops s t c 12 2) ∧
      (s.haloOps d < 64 → f.kind ≠ 3 → lost = false → va.toNat % 8 = 0 →
        let region := (mget 0 c.bases f.base).toNat / 2 ^ 56
        (region = 0x7D → ∃ t, exec i s = .next t ∧ ChunkStops s t c 6 7) ∧
        (region ≠ 0x7D → region ∉ [0, 0x7E, 0x7F] ∨ va.toNat / 2 ^ 56 ≠ region → ∃ t, exec i s = .next t ∧ ChunkStops s t c 6 1)) ∧
      (s.haloOps d < 64 → f.kind = 3 ∨ lost = false →
        s.haloChecks c f.kind (mget 0 c.bases f.base, va) (mget 0 c.bases f.sbase, src) (8 * f.len) = none →
        ∃ t e o, exec i s = .next t ∧ ChunkGoes s t e ∧ e.ops = c.ops ++ [o] ∧ e.pcix = c.pcix + 1 ∧ e.bases = c.bases ∧ e.evs = c.evs ∧
          e.lcs = c.lcs ∧ o.kind = f.kind ∧ o.va = va ∧ (f.kind = 3 → o.src = src) ∧ o.len = 8 * f.len ∧ o.peer = f.peer ∧ o.ch = f.ch ∧
          o.opr = f.opr ∧ o.even = f.even ∧ o.ev = f.ev)) ∧
    (∀ (e : BitVec 3) (p : BitVec 5) (v : BitVec 32), ChunkOn s c → i = .hSignal e p v →
      let away : Bool := if p.toNat < 8 then !s.routed d p.toNat else
        decide (16 ≤ p.toNat) && (bit s.dev.xlost (p.toNat - 16) || !s.routed d ((p.toNat - 16) / 2))
      (c.sig = true → exec i s = .next s) ∧
      (c.sig = false → away = true → ∃ t, exec i s = .next t ∧ ChunkStops s t c 12 2) ∧
      (c.sig = false → 16 ≤ p.toNat → away = false →
        ∃ t, exec i s = .next t ∧ ChunkGoes s t { c with sig := true, sigTo := p.toNat }) ∧
      (c.sig = false → p.toNat < 8 → away = false →
        ∃ t g, exec i s = .next t ∧ ChunkGoes s t { c with sig := true, sigTo := p.toNat } ∧
          (t.die p.toNat).sigIn = (s.die p.toNat).sigIn ++ [g] ∧ g.comm = c.comm ∧ g.ev = e.toNat ∧ g.value = v)) ∧
    (∀ (l : BitVec 2) (m : BitVec 8) (b : BitVec 12) (k : BitVec 14) (st : BitVec 24), ChunkOn s c → i = .hLoop l m b k st →
      let z := mget 0 c.lcs l.toNat
      let step := BitVec.ofInt 64 (8 * signedField 24 st.toNat)
      (c.pcix < b.toNat → ∃ t, exec i s = .next t ∧ ChunkStops s t c 9 3) ∧
      (b.toNat ≤ c.pcix → ∃ t e, exec i s = .next t ∧ ChunkGoes s t e ∧ e.ops = c.ops ∧ e.evs = c.evs ∧
        (if z + 1 < k.toNat then e.pcix = c.pcix - b.toNat ∧ mget 0 e.lcs l.toNat = z + 1 else e.pcix = c.pcix + 1 ∧ mget 0 e.lcs l.toNat = 0) ∧
        (∀ j, j < 8 → mget 0 e.bases j = if bit m j = true then
            (if z + 1 < k.toNat then mget 0 c.bases j + step else mget 0 c.bases j - step * w64 z) else mget 0 c.bases j) ∧
        (∀ j, j ≠ l.toNat → mget 0 e.lcs j = mget 0 c.lcs j))) ∧
    (ChunkOn s c → i = .hEnd →
      (c.ops ≠ [] → exec i s = .next s) ∧
      (c.ops = [] → s.heldFor c.serial = false →
        ∃ t, exec i s = .next t ∧ SameMem s t ∧ schedAt t d n = none ∧ ((t.die d).htag n).st = .complete) ∧
      (c.ops = [] → s.heldFor c.serial = true →
        ∃ t e, exec i s = .next t ∧ SameMem s t ∧ schedAt t d n = some e ∧ e.endedAs = some .complete ∧ ((t.die d).htag n).st = ((s.die d).htag n).st))

/-- The Halo engine's and the ports' events (20 R410, R412, R416, R419, R422; 13 R288). A matched H.SEND and H.RECV of one word between two dies
copy it, and both operations complete, with their counters; a completed H.COPY copies its word; a die with no such schedule or operation, and one whose HBM is in self-refresh (01 R7), does
nothing. The one signal that has arrived adds to its counter, or is held in the die's table. A cancelled schedule with nothing in flight
ends CANCELLED. An RSTORE that arrives at an open window writes its bytes and marks there. An acknowledgement is for the oldest RSTORE of its port (20 R423; which
port's, where there are several, is open: log 60, DESIGN CHOICE), and counts one fewer to come; a refusal's detail is 0x01, and what comes for a saved launch is held
(10 R210).
Where the spec leaves a point open, the statement takes the model's choice: log 59 (DEDUCED), log 60 (DESIGN CHOICE), log 61 (DEDUCED), log 84 (DEDUCED), log 90 (DEDUCED). -/
def Obligations.HaloEvents : Prop :=
  (∀ (s : State) (d : BitVec 3) (p : BitVec 5) (comm : BitVec 16) (ch : BitVec 6) (c : Sched), s.hole = none →
    let only (x n : Nat) : Prop := ∀ j e, j < 16 → schedAt s x j = some e → e.comm = comm.toNat → e.endedAs = none → j = n
    ((∀ m e, m < 16 → schedAt s d.toNat m = some e → e.endedAs = none → e.comm ≠ comm.toNat) →
      ∀ x, exec (.haloTransfer d p comm ch x) s = .next s) ∧
    (s.dev.pscur = 3 → ∀ x, exec (.haloTransfer d p comm ch x) s = .next s) ∧
    (∀ n m r o q v w, n < 16 → m < 16 → p.toNat < 8 → d.toNat ≠ p.toNat → schedAt s d.toNat n = some c → schedAt s p.toNat m = some r →
      only d.toNat n → c.comm = comm.toNat → only p.toNat m → r.comm = comm.toNat →
      schedRuns s c → schedRuns s r → c.ops = [o] → r.ops = [q] → o.kind = 0 → q.kind = 1 → o.peer = p.toNat → q.peer = d.toNat →
      o.ch = ch.toNat → q.ch = ch.toNat → o.num = q.num → o.stalled = false → q.stalled = false → o.rerouting = false → q.rerouting = false → o.len = 8 → q.len = 8 →
      s.routed d.toNat p.toNat = true → s.dev.pscur ≠ 3 →
      s.locate (s.launch c.serial) c.thread.core o.va 8 .engRead = .bank (8 * v) → soundLoc s (.bank (8 * v)) 8 →
      s.locate (s.launch r.serial) r.thread.core q.va 8 .engWrite = .bank (8 * w) → takesWord s w →
      ∃ t e f, exec (.haloTransfer d p comm ch (.inl none)) s = .next t ∧ CopiedWord s t v w ∧ schedAt t d.toNat n = some e ∧ e.ops = [] ∧
        schedAt t p.toNat m = some f ∧ f.ops = [] ∧
        (o.even = true → mget 0 e.evs o.ev = mget 0 c.evs o.ev + 1) ∧ (q.even = true → mget 0 f.evs q.ev = mget 0 r.evs q.ev + 1))) ∧
  (∀ (s : State) (d : BitVec 3) (tag : BitVec 4) (j : Nat) (c : Sched), s.hole = none →
    let now := schedAt s d.toNat tag.toNat
    (now = none → exec (.hCopyCompletion d tag j) s = .next s ∧ exec (.haloCancelled d tag) s = .next s) ∧
    (now = some c → c.ops[j]? = none → exec (.hCopyCompletion d tag j) s = .next s) ∧
    (s.dev.pscur = 3 → exec (.hCopyCompletion d tag j) s = .next s) ∧
    (∀ o v w, now = some c → s.dev.pscur ≠ 3 → schedRuns s c → c.ops = [o] → j = 0 → o.kind = 3 → o.stalled = false → o.len = 8 →
      s.locate (s.launch c.serial) c.thread.core o.src 8 .engRead = .bank (8 * v) → soundLoc s (.bank (8 * v)) 8 →
      s.locate (s.launch c.serial) c.thread.core o.va 8 .engWrite = .bank (8 * w) → takesWord s w →
      ∃ t e, exec (.hCopyCompletion d tag j) s = .next t ∧ CopiedWord s t v w ∧ schedAt t d.toNat tag.toNat = some e ∧ e.ops = [] ∧
        (o.even = true → mget 0 e.evs o.ev = mget 0 c.evs o.ev + 1)) ∧
    (now = some c → c.cancel = false → exec (.haloCancelled d tag) s = .next s) ∧
    (now = some c → c.cancel = true → c.ops = [] → c.endedAs = none → s.heldFor c.serial = false →
      ∃ t, exec (.haloCancelled d tag) s = .next t ∧ SameMem s t ∧ schedAt t d.toNat tag.toNat = none ∧
        ((t.die d.toNat).htag tag.toNat).st = .cancelled)) ∧
  (∀ (s : State) (d : BitVec 3) (g : HSig),
    let key := 8 * g.comm + g.ev
    ((s.die d.toNat).sigIn = [] ∨ s.dev.pscur = 3 → exec (.haloSignalArrival d) s = .next s) ∧
    (∀ n c, s.dev.pscur ≠ 3 → (s.die d.toNat).sigIn = [g] → n < 16 → schedAt s d.toNat n = some c → c.comm = g.comm → c.endedAs = none →
      (∀ j e, j < 16 → schedAt s d.toNat j = some e → e.comm = g.comm → e.endedAs = none → j = n) →
      ∃ t e, exec (.haloSignalArrival d) s = .next t ∧ SameMem s t ∧ (t.die d.toNat).sigIn = [] ∧ schedAt t d.toNat n = some e ∧
        mget 0 e.evs g.ev = mget 0 c.evs g.ev + g.value) ∧
    (s.dev.pscur ≠ 3 → (s.die d.toNat).sigIn = [g] → (∀ j e, j < 16 → schedAt s d.toNat j = some e → e.endedAs = none → e.comm ≠ g.comm) → (s.die d.toNat).sigs.length < 16 →
      ∃ t, exec (.haloSignalArrival d) s = .next t ∧ SameMem s t ∧ (t.die d.toNat).sigIn = [] ∧
        mget 0 (t.die d.toNat).sigs key = mget 0 (s.die d.toNat).sigs key + g.value)) ∧
  (∀ (s : State) (port : BitVec 4) (page : BitVec 12) (off : BitVec 16) (data : List Byte) (marks : List Bool),
    let e := (mget 0 s.host.wins (port.toNat * 4096 + page.toNat)).toNat
    let pa := e / 2 ^ 16 % 2 ^ 36 * 2 ^ 16 + off.toNat
    (e % 4 ≠ 3 ∨ bit s.dev.xlost port.toNat = true → exec (.rstoreArrival port page off data marks) s = .next s) ∧
    (e % 4 = 3 → bit s.dev.xlost port.toNat = false → s.dev.pscur ≠ 3 → s.routed (port.toNat / 2) (pa / 2 ^ 36) = true →
      off.toNat + data.length ≤ 65536 → pa / 2 ^ 36 < 8 → pa % 2 ^ 36 < stackBytes → s.migs = [] →
      ∃ t, exec (.rstoreArrival port page off data marks) s = .next t ∧ (∀ j, j < data.length → memGet t.mem (pa + j) = data.getD j 0) ∧
        (∀ k, k < pa ∨ pa + data.length ≤ k → memGet t.mem k = memGet s.mem k) ∧ (∀ u, t.ctx u = s.ctx u) ∧
        (off.toNat % 8 = 0 → data.length % 8 = 0 → ∀ j, 8 * j < data.length → t.pz (pa / 8 + j) = marks.getD j false))) ∧
  ∀ (s : State) (u : ThreadId) (refusal : Option (BitVec 8)) (r : RSt),
    let det := if refusal.isSome then 1 else 0
    let flying (x : RSt) : Bool := x.thread == u && x.answer.isNone
    let acks (r : RSt) (t : State) : Prop := SameMem s t ∧ t.rst = s.rst.filter (fun x => x.ord != r.ord) ∧
      (t.ctx u).rstores = (s.ctx u).rstores - 1 ∧ (t.ctx u).refused = if (s.ctx u).refused = 0 then det else (s.ctx u).refused
    (s.rst.filter flying = [] → exec (.rstoreAcknowledgement u refusal) s = .next s) ∧
    ((∀ x ∈ s.rst, flying x = true → x.frozen = false ∧ s.heldFor x.serial = false ∧ (s.ctx u).run = x.run) → (s.ctx u).live = true →
      (s.ctx u).st ≠ .evicting → s.trailer u = none → s.rst.filter flying ≠ [] →
      ∃ t x q, exec (.rstoreAcknowledgement u refusal) s = .next t ∧ acks x t ∧
        (s.rst.filter fun y => flying y && y.port == x.port).head? = some q ∧ q.ord = x.ord) ∧
    (s.rst.filter flying = [r] → r.frozen = false →
      (s.heldFor r.serial = false → (s.ctx u).live = true → (s.ctx u).st ≠ .evicting → (s.ctx u).run = r.run → s.trailer u = none →
        ∃ t, exec (.rstoreAcknowledgement u refusal) s = .next t ∧ acks r t) ∧
      (s.heldFor r.serial = true → ∃ t, exec (.rstoreAcknowledgement u refusal) s = .next t ∧ SameMem s t ∧ (∀ x, t.ctx x = s.ctx x) ∧
        ∃ x ∈ t.rst, x.ord = r.ord ∧ x.answer = some det))

/-- POST and POST.TRY (16 R348 to R353, R361). A record that may not be posted raises ILLEGAL 0x07. One that matches no held entry joins its
partition behind the others, with DIE and LPIX of the poster and PRIO clamped, and the launch's live count rises by 1; a full partition
parks POST, and POST.TRY writes 0. One that matches the only held entry folds into it, here for ADD64, REPLACE and KEEP; one of another OP is
turned away, with the held record as it was.
Where the spec leaves a point open, the statement takes the model's choice: log 41 (DEDUCED), log 42 (DEDUCED), log 43 (DEDUCED). -/
def Obligations.Posts : Prop :=
  ∀ (s : State) (p : BitVec 3) (a : BitVec 5) (k : Nat) (e : CEntry), AtRecord s (s.me.x a.toNat) k .load → s.me.xp a.toNat = false →
    noPoison s k 64 →
    let b := recAt s k
    let L := s.launchOf s.cur
    let P := s.part s.cur.die (recTier b)
    let now (t : State) : Part := t.part s.cur.die (recTier b)
    let both (f : State → Bool → Prop) : Prop :=
      (∃ t, exec (.post a) s = .next t ∧ SameMem s t ∧ SameX s t ∧ Completes s t ∧ f t true) ∧
      ∃ t v, exec (.postTry p a) s = .next t ∧ SameMem s t ∧ SameX s t ∧ Completes s t ∧ TakesP s t p.toNat v ∧ f t v
    (postBad s b → (∃ u, exec (.post a) s = .next (u.trap 9 7 0) ∧ OnlyMe s u ∧ u.me = s.me) ∧
      ∃ u, exec (.postTry p a) s = .next (u.trap 9 7 0) ∧ OnlyMe s u ∧ u.me = s.me) ∧
    (¬postBad s b →
      ((∀ x ∈ P.entries, ¬postMatches s b x) →
        (P.entries.length < partSize (recTier b) →
          both fun t ok => ok = true ∧ (∃ x, (now t).entries = P.entries ++ [x] ∧ PostedEntry s (s.me.x a.toNat) b x) ∧
            (t.launch s.me.serial).live = L.live + 1) ∧
        (partSize (recTier b) ≤ P.entries.length →
          (∃ t, exec (.post a) s = .next t ∧ Parks s t (.post a) (.postFull s.cur.die (recTier b)) ∧ (now t).entries = P.entries) ∧
          ∃ t, exec (.postTry p a) s = .next t ∧ SameMem s t ∧ SameX s t ∧ Completes s t ∧ TakesP s t p.toNat false ∧
            (now t).entries = P.entries)) ∧
      (P.entries = [e] → postMatches s b e → recOp e.bytes = recOp b →
        both fun t ok => ok = true ∧ t.launches = s.launches ∧ ∃ x, (now t).entries = [x] ∧ x.addr = e.addr ∧ x.order = e.order ∧ x.folded = true ∧
          recPrio x.bytes = max (recPrio e.bytes) (min (recPrio b) L.prio) ∧
          (∀ n, n < 4 → (recOp b = 1 → recPayload x.bytes n = recPayload e.bytes n + recPayload b n) ∧
            (recOp b = 0xB → recPayload x.bytes n = recPayload b n) ∧ (recOp b = 0xC → recPayload x.bytes n = recPayload e.bytes n))) ∧
      (P.entries = [e] → postMatches s b e → recOp e.bytes ≠ recOp b →
        (∃ t, exec (.post a) s = .next t ∧ SameMem s t ∧ SameX s t ∧ Completes s t ∧ (now t).entries = [e] ∧
          (t.launch s.me.serial).errcnt = L.errcnt + 1) ∧
        ∃ t, exec (.postTry p a) s = .next t ∧ SameMem s t ∧ SameX s t ∧ Completes s t ∧ TakesP s t p.toNat false ∧ (now t).entries = [e] ∧
          (t.launch s.me.serial).errcnt = L.errcnt + 1))

/-- LAUNCH and LAUNCH.TRY (16 R363), with the launch record in the core's store: PRIV without privilege raises PERM 0x04; with no room LAUNCH writes
all ones and LAUNCH.TRY 0; otherwise a child waits for admission under the next serial number, with the launching die, the parent's PTROOT and
its PRIO at most the parent's. TAKE (R362): bits 63:48 raise ILLEGAL 0x07; it writes 0 where nothing matches; else the held record goes to its
address, which xd takes, and the live count falls by 1. EVICT (R367): it writes 0 for a context that is not parked, and 1 where a parked
RECV is evicted.
Where the spec leaves a point open, the statement takes the model's choice: log 40 (DESIGN CHOICE), log 85 (DEDUCED). -/
def Obligations.LaunchesAndTakes : Prop :=
  (∀ (s : State) (d a : BitVec 5) (p : BitVec 3) (k : Nat), Quiet s → s.known s.me.serial = true →
    (s.cluster (clusterOf s.cur.core)).lines = [] → (s.me.x a.toNat).toNat % 128 = 0 → (s.me.x a.toNat).toNat / 2 ^ 56 = 0x7F →
    s.checkAcc s.cur (s.me.x a.toNat) 128 128 .load = .bank k → soundLoc s (.bank k) 128 → noPoison s k 128 →
    let l : Launch := { Launch.empty with record := s.rd k 128 }
    let P := s.launchOf s.cur
    let D := s.cur.die
    let need := 1 + l.budgetN
    let have_ := mget 0 P.budget D
    let child (t : State) (own : Bool) : Prop :=
      t.nextSerial = s.nextSerial + 1 ∧ ∃ c ∈ t.launches, c.serial = s.nextSerial ∧ c.parent = some P.serial ∧ c.st = .waiting ∧ c.die = D ∧
        c.fromBudget = own ∧ c.prio = min l.prio P.prio ∧ c.firstDie = D % 8 ∧ c.ptroot = P.ptroot
    (l.priv = true → s.privileged s.cur = false →
      (∃ u, exec (.launch d a) s = .next (u.trap 6 4 0) ∧ OnlyMe s u ∧ u.me = s.me) ∧
      ∃ u, exec (.launchTry p a) s = .next (u.trap 6 4 0) ∧ OnlyMe s u ∧ u.me = s.me) ∧
    ((l.priv = true → s.privileged s.cur = true) →
      (s.remainder D < need → (have_ < need →
          ∃ t, exec (.launch d a) s = .next t ∧ WritesX s t d.toNat (BitVec.allOnes 64) (s.me.xp a.toNat) 4) ∧
        ∃ t, exec (.launchTry p a) s = .next t ∧ WritesP s t p.toNat false (s.me.xp a.toNat) 4) ∧
      (need ≤ have_ → ∃ t, exec (.launch d a) s = .next t ∧ SameMem s t ∧ Completes s t ∧ TakesX s t d.toNat s.nextSerial ∧ child t true) ∧
      (have_ < need → need ≤ s.remainder D →
        ∃ t, exec (.launch d a) s = .next t ∧ SameMem s t ∧ Completes s t ∧ TakesX s t d.toNat s.nextSerial ∧ child t false ∧
          (t.die D).used = (s.die D).used + need) ∧
      (need ≤ s.remainder D →
        ∃ t, exec (.launchTry p a) s = .next t ∧ SameMem s t ∧ Completes s t ∧ TakesP s t p.toNat true ∧ child t false ∧
          (t.die D).used = (s.die D).used + need))) ∧
  (∀ (s : State) (d a : BitVec 5) (k : Nat) (e : CEntry),
    let v := (s.me.x a.toNat).toNat
    let P := s.part s.cur.die s.cur.tier
    (2 ^ 48 ≤ v → exec (.take d a) s = .next (s.trap 9 7 0)) ∧
    (v < 2 ^ 48 → s.trailer s.cur = none → (∀ x ∈ P.entries, x.serial = s.me.serial → recKey x.bytes ≠ v) →
      ∃ t, exec (.take d a) s = .next t ∧ WritesX s t d.toNat 0 (s.me.xp a.toNat) 4) ∧
    (v < 2 ^ 48 → P.entries = [e] → P.posts = [] → e.serial = s.me.serial → recKey e.bytes = v → e.bytes.length = 64 → AtRecord s e.addr k .store →
      ∃ t, exec (.take d a) s = .next t ∧ Completes s t ∧ TakesX s t d.toNat e.addr ∧ (t.part s.cur.die s.cur.tier).entries = [] ∧
        (t.launch s.me.serial).live = (s.launchOf s.cur).live - 1 ∧ OnlyAt s t k 64 ∧
        recAt t k = e.bytes)) ∧
  ∀ (s : State) (d a : BitVec 5),
    let v := (s.me.x a.toNat).toNat
    let u : ThreadId := ⟨s.cur.die, s.cur.tier, s.cur.idx, v⟩
    let l := s.launchOf s.cur
    (16 ≤ v ∨ v = s.cur.ctx → exec (.evict d a) s = .next (s.trap 9 7 0)) ∧
    (v < 16 → v ≠ s.cur.ctx → l.isPair = false → (s.ctx u).st ≠ .parked → (s.ctx u).pend = [] → s.trailer s.cur = none → s.hole = none →
      ∃ t, exec (.evict d a) s = .next t ∧ WritesX s t d.toNat 0 (s.me.xp a.toNat) 4) ∧
    (∀ h n, v < 16 → v ≠ s.cur.ctx → l.isPair = false → (s.ctx u).st = .parked → (s.ctx u).pend = [] → s.hole = none →
      (s.ctx u).serial = s.me.serial → (s.ctx u).held = some h → h.cause = .recv n → u ∉ s.resume →
      s.wakeMet u (.recv n) = false → l.frames = [] → 0 < l.spilln →
      (s.devLoc l s.cur.die l.spillbase 512 .engWrite).key.isSome = true →
      (s.devLoc l s.cur.die (s.ctx u).recaddr 64 .engWrite).key.isSome = true →
      ∃ t x, exec (.evict d a) s = .next t ∧ SameMem s t ∧ TakesX s t d.toNat 1 ∧ (t.ctx u).st = .evicting ∧ t.spills = s.spills ++ [x] ∧
        x.thread = u ∧ x.addr = (s.ctx u).recaddr ∧ x.serial = s.me.serial ∧ x.frame = 0 ∧ x.written = false)

/-- SETPRED and ADDSUCC (16 R364), and SUSPEND, YIELD and RETIRE with their write-back (R365, R366; 04 R86). SETPRED sets PCOUNT, clears SCOUNT and
DONE and names the own die and launch. ADDSUCC writes 2 where the records differ in DIE or LPIX, 0 for a predecessor that is DONE, and
otherwise records the edge in the list, counts it at both records and writes 1. A suspension form inside a handler raises ILLEGAL 0x07, and
otherwise leaves its thread to the write-back, which puts pc, payload and CIR into the record (RETIRE: DONE), and frees the context; SUSPEND and RETIRE
take 1 from the live count, and YIELD posts the record. RETIRE with a successor, stated for one (R366): the successor's PCOUNT falls by 1, a PCOUNT of
1 has its record posted to its own partition with OP KEEP and the KEY of its address, and a PCOUNT of 0 is counted as an error of its owner.
Where the spec leaves a point open, the statement takes the model's choice: log 27 (DEDUCED), log 28 (DEDUCED), log 46 (DEDUCED), log 93 (DESIGN CHOICE). -/
def Obligations.TasksAndSuspension : Prop :=
  (∀ (s : State) (d a b : BitVec 5) (k j m : Nat),
    let x := s.me.x a.toNat
    let y := s.me.x b.toNat
    let L := s.launchOf s.cur
    let p := recAt s k
    let q := recAt s j
    let la := recSlist p + w64 (8 * recScount p)
    let apart (k n j l : Nat) : Prop := k + n ≤ j ∨ j + l ≤ k
    (2 ^ 16 ≤ y.toNat → exec (.setpred a b) s = .next (s.trap 9 7 0)) ∧
    (AtRecord s x k .amo →
      (y.toNat < 2 ^ 16 → ∃ t, exec (.setpred a b) s = .next t ∧ Completes s t ∧ SameX s t ∧ OnlyAt s t k 64 ∧
        recPcount (recAt t k) = y.toNat ∧ recScount (recAt t k) = 0 ∧ recDone (recAt t k) = false ∧
        recDie (recAt t k) = s.cur.die % 8 ∧ recLpix (recAt t k) = L.lpixOn s.cur.die % 2 ^ 11 ∧
        ∀ n, n < 4 → recPayload (recAt t k) n = recPayload p n) ∧
      (AtRecord s y j .amo →
        (recDie p ≠ recDie q ∨ recLpix p ≠ recLpix q ∨ recPcount q = 0xFFFF →
          ∃ t, exec (.addsucc d a b) s = .next t ∧ Completes s t ∧ TakesX s t d.toNat 2 ∧ SameMem s t) ∧
        (recDie p = recDie q → recLpix p = recLpix q → recPcount q ≠ 0xFFFF → recDone p = true → recPcount q ≠ 0 →
          ∃ t, exec (.addsucc d a b) s = .next t ∧ Completes s t ∧ TakesX s t d.toNat 0 ∧ SameMem s t) ∧
        (recDie p = recDie q → recLpix p = recLpix q → recPcount q ≠ 0xFFFF → recDone p = false → recScount p < 255 → recSlist p ≠ 0 →
          s.checkAcc s.cur la 8 8 .store = .hbm m → apart k 64 j 64 → apart m 8 k 64 → apart m 8 j 64 →
          ∃ t, exec (.addsucc d a b) s = .next t ∧ Completes s t ∧ TakesX s t d.toNat 1 ∧ leNat (t.rd m 8) = y.toNat ∧
            recScount (recAt t k) = recScount p + 1 ∧ recPcount (recAt t j) = recPcount q + 1 ∧
            ∀ n, (n < m ∨ m + 8 ≤ n) → (n < k ∨ k + 64 ≤ n) → (n < j ∨ j + 64 ≤ n) → memGet t.mem n = memGet s.mem n)))) ∧
  (∀ s : State, s.me.tmode = true →
    exec .suspend s = .next (s.trap 9 7 0) ∧ exec .yield s = .next (s.trap 9 7 0) ∧ exec .retire s = .next (s.trap 9 7 0)) ∧
  (∀ (s : State) (k : Nat), AtRecord s s.me.recaddr k .store → s.me.tmode = false →
    (∃ t, exec .suspend s = .next t ∧ OnlyMe s t ∧ t.me = { s.me with susp := some 0 }) ∧
    (∃ t, exec .yield s = .next t ∧ OnlyMe s t ∧ t.me = { s.me with susp := some 1 }) ∧
    (recScount (recAt s k) = 0 ∨ (∃ j m y, OneSucc s k j m y) →
      ∃ t, exec .retire s = .next t ∧ OnlyMe s t ∧ t.me = { s.me with susp := some 2 })) ∧
  ∀ (s : State) (k kind : Nat), AtRecord s s.me.recaddr k .store →
    let L := s.launchOf s.cur
    let P (t : State) : Part := t.part s.cur.die s.cur.tier
    (s.me.susp = none ∨ s.me.st ≠ .ready → exec (.suspensionWriteback s.cur) s = .next s) ∧
    (s.me.susp = some kind → kind < 3 → s.me.st = .ready → s.me.cs = [] → s.me.refused = 0 → (∀ n, n < 16 → s.me.h n = 0) →
      (∀ c, (s.cluster c).hot = false) →
      (kind < 2 → ∃ t, exec (.suspensionWriteback s.cur) s = .next t ∧ (t.ctx s.cur).st = .free ∧ OnlyAt s t k 64 ∧
        (recPc (recAt t k)).toNat = (s.me.pc + w64 (s.me.pfx + 4)).toNat % 2 ^ 52 ∧ recCir (recAt t k) = s.me.cir.toNat ∧
        (∀ n, n < 4 → recPayload (recAt t k) n = s.me.x (4 + n)) ∧ recPrio (recAt t k) = recPrio (recAt s k) ∧
        (kind = 0 → (t.launch s.me.serial).live = L.live - 1 ∧ (P t).transit = (P s).transit) ∧
        (kind = 1 → (t.launch s.me.serial).live = L.live ∧ ∃ x, (P t).transit = (P s).transit ++ [x] ∧ x.addr = s.me.recaddr ∧
          x.serial = s.me.serial ∧ recOp x.bytes = 0)) ∧
      (kind = 2 → recScount (recAt s k) = 0 → s.me.cir = 0 →
        ∃ t, exec (.suspensionWriteback s.cur) s = .next t ∧ (t.ctx s.cur).st = .free ∧ OnlyAt s t k 64 ∧ recDone (recAt t k) = true ∧
          (t.launch s.me.serial).live = L.live - 1) ∧
      (∀ j m y, kind = 2 → s.me.cir = 0 → OneSucc s k j m y →
        let q := recAt s j
        let owner := s.recOwner q s.me.serial
        let line (u : State) : List Transit := (u.part (recDie q) (recTier q)).transit
        ∃ t, exec (.suspensionWriteback s.cur) s = .next t ∧ (t.ctx s.cur).st = .free ∧ recDone (recAt t k) = true ∧
          (∀ n, (n < k ∨ k + 64 ≤ n) → (n < j ∨ j + 64 ≤ n) → memGet t.mem n = memGet s.mem n) ∧
          (t.launch s.me.serial).live = L.live - 1 ∧
          (recPcount q = 0 → recAt t j = q ∧ line t = line s ∧
            (s.known owner = true → (t.launch owner).errcnt = (s.launch owner).errcnt + 1)) ∧
          (1 < recPcount q → recPcount (recAt t j) = recPcount q - 1 ∧ line t = line s) ∧
          (recPcount q = 1 → recPcount (recAt t j) = 0 ∧ ∃ x, line t = line s ++ [x] ∧ x.addr = y ∧ x.serial = owner ∧ recOp x.bytes = 0xC ∧
            recKey x.bytes = y.toNat / 64 % 2 ^ 48 ∧ x.newLive = true)))

/-- The commands of the matrix unit, each at the head of its core's queue (12 R262 to R268, R271). With nothing queued nothing happens, and a command
that needs a grant waits for it, with RESW set. MNOP, MCFG and MFENCE leave the queue. MZERO zeroes accumulators; MLOADA and MROT.LD load the A buffer, the
scale memory and the latch; MACC.LD and MACC.ST move an accumulator; MTAG writes its value and LASTTAG; MCHK, here on integers, stores the masks of
the differing columns and rows; MMA adds the products, in full for INT8, and tags its accumulator, as MMA.S does on floating point; MROT takes the
predecessor's tile, and waits for it where it has not arrived. A command of an accumulator with no tag completes with FORMAT 0x02.
Where the spec leaves a point open, the statement takes the model's choice: log 18 (DESIGN CHOICE), log 35 (DESIGN CHOICE), log 36 (DEDUCED). -/
def Obligations.MatrixCommands : Prop :=
  ∀ (s : State) (q : MxCmd) (rest : List MxCmd) (a x : Word) (n m : BitVec 2) (mask f : BitVec 4) (int : Bool) (k : BitVec 12) (sa sb : BitVec 14),
    let M := (s.core s.cur.core).mxu
    let now (t : State) : Mxu := (t.core s.cur.core).mxu
    let waits : List Instr := [.mma n int false k a, .mmaS n int false k a x sa sb, .mloada int a x, .mrotLd k a, .maccLd n int a]
    let more : List Instr := [.maccSt n int false f a, .mchk n m a, .mzero mask int, .mrot a]
    let others : List Instr := [.mnop, .mcfg x, .mfence, .mtag a x]
    let tag : BitVec 8 := if int then 0xC3 else 0xC0
    (M.queue = [] → ∀ i ∈ waits ++ more ++ others, exec i s = .next s) ∧
    (M.queue = q :: rest → ¬ Granted s s.cur.core 1 q.serial → ∀ i ∈ waits ++ more,
      ∃ t, exec i s = .next t ∧ SameMem s t ∧ (now t).queue = M.queue ∧ (now t).resw = true) ∧
    (MxHead s q rest →
      (∀ i ∈ [Instr.mnop, .mcfg x, .mfence], ∃ t, exec i s = .next t ∧ MxDone s t rest ∧ MxKeeps s t [] ∧ SameMem s t) ∧
      (MxRange s q a 8 8 → mxTakes s a 8 → ∃ t, exec (.mtag a x) s = .next t ∧ MxDone s t rest ∧ MxKeeps s t [] ∧
        MxStores s t a (leBytes 8 x.toNat) ∧ (now t).lasttag.toNat = x.toNat % 2 ^ 32)) ∧
    (MxHead s q rest → Granted s s.cur.core 1 q.serial →
      (∃ t, exec (.mzero mask int) s = .next t ∧ MxDone s t rest ∧ SameMem s t ∧
        ∀ j, j < 4 → (now t).acc j = if bit mask j = true then { bits := List.replicate 256 0, tag := tag, poison := false } else M.acc j) ∧
      (MxRange s q a x.toNat 64 → ∃ t, exec (.mloada int a x) s = .next t ∧ MxDone s t rest ∧ SameMem s t ∧
        (let b := if int then (now t).scale else (now t).abuf
         b.valid = true ∧ b.data = mxBytes s a x.toNat ∧ b.len = x.toNat ∧ b.src = a.toNat % 2 ^ 21)) ∧
      (∀ fb, (s.core s.cur.core).fmtOf (bits q.snap 7 4) = some fb → operandFmt fb = true → kFits fb k.toNat = true →
        MxRange s q a (operandBytes fb k.toNat) (operandAlign fb).1 →
        ∃ t, exec (.mrotLd k a) s = .next t ∧ MxDone s t rest ∧ SameMem s t ∧ (now t).latch.valid = true ∧ (now t).latch.k = k.toNat ∧
          (now t).latch.fb = bits q.snap 7 4 ∧ (now t).latch.data = mxBytes s a (operandBytes fb k.toNat)) ∧
      (MxRange s q a 1024 64 → ∃ t, exec (.maccLd n int a) s = .next t ∧ MxDone s t rest ∧ MxKeeps s t [n.toNat] ∧ SameMem s t ∧
        ((now t).acc n.toNat).tag = tag ∧
        ∀ i j, i < 16 → j < 16 → ((now t).acc n.toNat).at_ i j = BitVec.ofNat 32 (leNat (s.rd (ownKey s (a.toNat % 2 ^ 21 + 64 * i + 4 * j)) 4))) ∧
      ((s.core s.cur.core).tagSet (M.acc n.toNat).tag = false → ∃ t, exec (.maccSt n int false f a) s = .next t ∧ (now t).queue = rest ∧ SameMem s t ∧
        (now t).errs = satInc M.errs ∧ (M.errs = 0 → (now t).errcls = 7)) ∧
      ((s.core s.cur.core).tagSet (M.acc n.toNat).tag = true → (M.acc n.toNat).bits.length = 256 → MxRange s q a 1024 64 → mxTakes s a 1024 →
        ∃ t, exec (.maccSt n int false f a) s = .next t ∧ MxDone s t rest ∧
          MxStores s t a ((M.acc n.toNat).bits.flatMap fun v => leBytes 4 v.toNat) ∧
          ((now t).acc n.toNat).tag = (M.acc n.toNat).tag ∧
          ((now t).acc n.toNat).bits = if int then List.replicate 256 0 else (M.acc n.toNat).bits) ∧
      ((M.acc n.toNat).tag = 0xC3 → (M.acc m.toNat).tag = 0xC3 → (M.acc n.toNat).bits.length = 256 → (M.acc m.toNat).bits.length = 256 →
        n ≠ m → MxRange s q a 8 8 → mxTakes s a 8 →
        ∃ t w, exec (.mchk n m a) s = .next t ∧ MxDone s t rest ∧ MxKeeps s t [m.toNat] ∧ MxStores s t a (leBytes 8 w) ∧ w < 2 ^ 32 ∧
          ∀ j, j < 16 →
            (w.testBit j = ((M.acc m.toNat).at_ 0 j != (List.range 16).foldl (fun v i => v + (M.acc n.toNat).at_ i j) 0)) ∧
            (w.testBit (16 + j) = ((M.acc m.toNat).at_ 1 j != (List.range 16).foldl (fun v i => v + (M.acc n.toNat).at_ j i) 0))) ∧
      (∀ fa fb, MmaReady s q k.toNat fa fb → MxRange s q a (operandBytes fa k.toNat) (operandAlign fa).1 →
        int = true ∨ ((M.acc n.toNat).tag = (if fa.isInt then 0xC3 else 0xC0) ∧ (M.acc n.toNat).bits.length = 256) →
        (∃ t, exec (.mma n int false k a) s = .next t ∧ MxDone s t rest ∧ MxKeeps s t [n.toNat] ∧ SameMem s t ∧
          ((now t).acc n.toNat).tag = (if fa.isInt then 0xC3 else 0xC0) ∧
          (fa = Fmt.int true 8 → fb = Fmt.int true 8 → k.toNat % 4 = 0 → ∀ i j, i < 16 → j < 16 →
            ((now t).acc n.toNat).at_ i j = (if int then 0 else (M.acc n.toNat).at_ i j) +
              BitVec.ofInt 32 ((List.range k.toNat).foldl (fun v e =>
                v + int8Elem (mxBytes s a (operandBytes fa k.toNat)) k.toNat i e * int8Elem M.latch.data k.toNat j e) 0))) ∧
        (fa.isInt = false → sa.toNat + 16 * (k.toNat / 32) ≤ 16384 → sb.toNat + 16 * (k.toNat / 32) ≤ 16384 →
          ∃ t, exec (.mmaS n int false k a x sa sb) s = .next t ∧ MxDone s t rest ∧ MxKeeps s t [n.toNat] ∧ SameMem s t ∧
            ((now t).acc n.toNat).tag = 0xC0)) ∧
      (let ring := bits q.snap 15 14
       let at_ (d : Nat) : CoreId := ringCore s.cur.core (ringLen q.snap) d
       (∀ d, d < ringLen q.snap → q.serial ∈ (s.core (at_ d)).residents) → M.rot ∉ M.ringBad →
       (∀ d ∈ [1, ringLen q.snap - 1], (s.core (at_ d)).mxu.disagrees M.rot ring = false ∧ (s.core (at_ d)).mxu.rotKnown M.rot = true) →
       M.sent = true →
        (M.tile = none → ∃ t, exec (.mrot a) s = .next t ∧ SameMem s t ∧ (now t).queue = M.queue ∧ (now t).ringw = true) ∧
        (∀ tile, M.incoming = some (M.rot, tile) → tile.valid = false →
          ∃ t, exec (.mrot a) s = .next t ∧ MxDone s t rest ∧ SameMem s t ∧ (now t).latch = tile ∧ (now t).rot = M.rot + 1 ∧
            (now t).incoming = none) ∧
        (∀ tile fb, M.incoming = some (M.rot, tile) → tile.valid = true →
          (s.core s.cur.core).fmtOf tile.fb = some fb → MxRange s q a tile.data.length (operandAlign fb).1 → mxTakes s a tile.data.length →
          ∃ t, exec (.mrot a) s = .next t ∧ MxDone s t rest ∧ MxStores s t a tile.data ∧ (now t).rot = M.rot + 1 ∧
            (now t).latch = { tile with src := a.toNat % 2 ^ 21 })))

/-- Dispatch, arrival, ageing and the affinity hint (16 R348, R351, R353 to R355; 04 R68). A partition gives its entry of highest priority, of those the oldest, to
a FREE context that it is eligible for, and the context is filled from it, to issue from the following cycle (04 R85); with none eligible nothing happens. The one post under way to an empty
partition becomes its entry, and a new record counts in the launch's live count. Ageing raises the n-th entry's priority by 1, at most to 7 and at most three times;
a hint's expiry marks its entry; neither changes another entry, nor one that has not waited its further 2^20, or its 1,024, cycles of the tier's
clock.
Where the spec leaves a point open, the statement takes the model's choice: log 42 (DEDUCED), log 43 (DEDUCED), log 44 (DEDUCED), log 45 (DEDUCED), log 60 (DESIGN CHOICE). -/
def Obligations.DispatchAndAgeing : Prop :=
  (∀ l e, bestEntry l = some e → e ∈ l ∧ ∀ f ∈ l, f.prio < e.prio ∨ (f.prio = e.prio ∧ e.order ≤ f.order)) ∧
  (∀ (s : State) (t : ThreadId) (e : CEntry),
    let P := s.part t.die t.tier
    ((∀ x ∈ P.entries, s.eligibleEntry t x = false) → exec (.dispatch t) s = .next s) ∧
    (P.entries = [e] → P.posts = [] → s.eligibleEntry t e = true → recSpill e.bytes = false → e.folded = false → s.hole = none →
      ∃ u : State, exec (.dispatch t) s = .next u ∧ SameMem s u ∧ Filled (u.ctx t) e ∧ (u.ctx t).readyAt = s.cycleOf t + 1 ∧
        (u.part t.die t.tier).entries = [] ∧ u.launches = s.launches)) ∧
  ∀ (s : State) (d : BitVec 3) (p : BitVec 2) (n : Nat) (x : Transit),
    let P := s.part d.toNat p.toNat
    let now (u : State) : List CEntry := (u.part d.toNat p.toNat).entries
    let keeps (u : State) : Prop := (now u).length = P.entries.length ∧ (∀ m, m ≠ n → (now u)[m]? = P.entries[m]?) ∧ SameMem s u
    (P.transit = [] → exec (.condenserArrival d p) s = .next s) ∧
    (P.transit = [x] → P.entries = [] → s.ended x.serial = false →
      ∃ (u : State) (e : CEntry), exec (.condenserArrival d p) s = .next u ∧ SameMem s u ∧ now u = [e] ∧ (u.part d.toNat p.toNat).transit = [] ∧
        e.addr = x.addr ∧ e.serial = x.serial ∧ e.bytes = x.bytes ∧ e.prio = recPrio x.bytes ∧
        (u.launch x.serial).live = (s.launch x.serial).live + if x.newLive = true then 1 else 0) ∧
    (∃ u : State, exec (.priorityAgeing d p n) s = .next u ∧ keeps u ∧
      ∀ e, P.entries[n]? = some e →
        (now u)[n]? = some (if e.aged < 3 ∧ (e.aged + 1) * 2 ^ 20 ≤ s.waited p.toNat e then { e with prio := min 7 (e.prio + 1), aged := e.aged + 1 } else e)) ∧
    ∃ u : State, exec (.affinityHintExpiry d p n) s = .next u ∧ keeps u ∧
      ∀ e, P.entries[n]? = some e → (now u)[n]? = some { e with hintOver := e.hintOver || decide (1024 ≤ s.waited p.toNat e) }

/-- Eviction, its write-back and waking (04 R63 to R66; 10 R213; 16 R334). A context parked in RECV past its retry limit (0 never; 1 to 63 act as 64)
enters EVICTING and gives its record a frame; the write-back stores its state in the frame and SPILL and the frame's address in the record,
and frees the context; when the wake event of a parked thread comes its held instruction is presented again, and of an evicted one its record is
posted with WAIT clear.
Where the spec leaves a point open, the statement takes the model's choice: log 17 (DESIGN CHOICE), log 29 (DEDUCED), log 45 (DEDUCED), log 76 (DEDUCED). -/
def Obligations.EvictionAndWaking : Prop :=
  (∀ (s : State) (t : ThreadId) (h : Held) (ep : Nat), s.hole = none → s.pressed (s.launchOf t) = false →
    let c := s.ctx t
    let due : Prop := c.retry ≠ 0 ∧ max 64 c.retry.toNat < s.cycleOf t - h.retryAt
    (c.held = none → exec (.eviction t) s = .next s) ∧
    (c.held = some h → ¬due → exec (.eviction t) s = .next s) ∧
    (c.held = some h → due → c.st = .parked → h.cause = .recv ep → c.pend = [] → t ∉ s.resume → s.wakeMet t (.recv ep) = false →
      (s.launchOf t).isPair = false → (s.launchOf t).frames = [] → 0 < (s.launchOf t).spilln →
      (s.devLoc (s.launchOf t) t.die (s.launchOf t).spillbase 512 .engWrite).key.isSome = true →
      (s.devLoc (s.launchOf t) t.die c.recaddr 64 .engWrite).key.isSome = true →
      ∃ (u : State) (x : Spill), exec (.eviction t) s = .next u ∧ SameMem s u ∧ (u.ctx t).st = .evicting ∧ u.spills = s.spills ++ [x] ∧
        x.thread = t ∧ x.addr = c.recaddr ∧ x.serial = c.serial ∧ x.frame = 0 ∧ x.written = false)) ∧
  (∀ (s : State) (t : ThreadId) (x : Spill) (fk rk : Nat),
    let l := s.launch x.serial
    let fa := l.spillbase + w64 (512 * x.frame)
    ((∀ y ∈ s.spills, y.thread = t → y.written = true) → exec (.evictionWriteback t) s = .next s) ∧
    (s.spills = [x] → x.thread = t → x.written = false → x.woken = false → x.recorded = true → s.migs = [] → s.trailer t = none →
      (s.devLoc l t.die fa 512 .engWrite).key = some fk → (s.devLoc l t.die x.addr 64 .engWrite).key = some rk →
      (fk + 512 ≤ rk ∨ rk + 64 ≤ fk) →
      ∃ (u : State) (w : Word), exec (.evictionWriteback t) s = .next u ∧ (u.ctx t).st = .free ∧ 
        u.rd fk 512 = ({ x.ctx with cir := x.ctx.cir ||| x.cir }).toBytes 3 (s.cycleOf t) w ∧
        recSpill (recAt u rk) = true ∧ recPayload (recAt u rk) 0 = fa ∧ recKey (recAt u rk) = recKey (recAt s rk) ∧
        recPrio (recAt u rk) = recPrio (recAt s rk) ∧ (u.part t.die t.tier).transit = (s.part t.die t.tier).transit ∧
        ∀ j, (j < fk ∨ fk + 512 ≤ j) → (j < rk ∨ rk + 64 ≤ j) → memGet u.mem j = memGet s.mem j)) ∧
  ∀ (s : State) (t : ThreadId) (h : Held) (x : Spill) (ep k : Nat),
    ((s.ctx t).held = some h → (s.ctx t).parked = true → s.wakeMet t h.cause = true → t ∉ s.resume →
      exec (.wake t) s = .next { s with resume := s.resume ++ [t] }) ∧
    ((s.ctx t).held = none → s.spills = [] → exec (.wake t) s = .next s) ∧
    ((s.ctx t).held = none → s.spills = [x] → x.thread = t → x.written = true → x.woken = false →
      x.ctx.held.map (fun y : Held => y.cause) = some (.recv ep) → s.wakeMet t (.recv ep) = true → s.dev.pscur ≠ 3 → s.migs = [] →
      (∀ c, (s.cluster c).hot = false) → (s.devLoc (s.launch x.serial) t.die x.addr 64 .engWrite).key = some k →
      ∃ (u : State) (y : Transit), exec (.wake t) s = .next u ∧ OnlyAt s u k 64 ∧
        (u.part t.die t.tier).transit = (s.part t.die t.tier).transit ++ [y] ∧ y.addr = x.addr ∧ y.serial = x.serial ∧ y.newLive = false ∧
        recWait y.bytes = false ∧ recSpill y.bytes = recSpill (recAt s k) ∧ recPayload y.bytes 0 = recPayload (recAt s k) 0)

/-- The queues of the host (16 R346, R347; 10 R216; 22 R444). A packet is parsed from an enabled queue only, with the device SECURE: a launch record makes a launch that waits,
under the next serial number; a well-formed fence holds the queue, and an ill-formed one halts it with ILLEGAL 0x21 at the offending offset. A fence passes once its counter
has reached its value, and halts the queue at an unusable counter, and with WATCHDOG 0x01 when its time limit passes; in PS3, where HBM is off (01 R7), it waits. A completion entry is written at the producer index,
with an interrupt, once its queue is enabled and not full; the final entry of a launch that was never admitted ends it.
Where the spec leaves a point open, the statement takes the model's choice: log 78 (DEDUCED), log 94 (DESIGN CHOICE). -/
def Obligations.QueueEvents : Prop :=
  (∀ (s : State) (q : BitVec 6),
    let x := s.sq q.toNat
    let b := s.slot x 0
    let b2 := b ++ s.slot x 1
    let h := leAt b2 0 8
    (¬QueueReady s q.toNat ∨ x.filled = 0 ∨ (isFence b ∧ x.filled < 2) → exec (.packetParse q) s = .next s) ∧
    (QueueReady s q.toNat → x.filled ≠ 0 → ¬isFence b →
      ∃ t, exec (.packetParse q) s = .next t ∧ SameMem s t ∧ t.nextSerial = s.nextSerial + 1 ∧
        (t.sq q.toNat).cons = (x.cons + 1) % 2 ^ x.log2n ∧ (x.compat = true → (t.sq q.toNat).waits = some s.nextSerial) ∧
        ∃ l, t.launches = s.launches ++ [l] ∧ l.serial = s.nextSerial ∧ l.st = .waiting ∧ l.record = b ∧ l.queue = some q.toNat ∧ l.parent = none) ∧
    (QueueReady s q.toNat → 2 ≤ x.filled → isFence b →
      (∀ o, fenceBad (!x.compat) b2 = some o →
        ∃ t, exec (.packetParse q) s = .next t ∧ FenceFails s t q.toNat (fld h 16 16) 9 0x21 (w64 o)) ∧
      (fenceBad (!x.compat) b2 = none →
        ∃ t f, exec (.packetParse q) s = .next t ∧ SameMem s t ∧ t.launches = s.launches ∧ (t.sq q.toNat).fence = some f ∧
          (t.sq q.toNat).cons = (x.cons + 2) % 2 ^ x.log2n ∧ f.cq = fld h 16 16 ∧ f.tmo = fld h 32 16 ∧ f.since = s.dev.time ∧
          f.counters.length = fld h 12 4))) ∧
  (∀ (s : State) (q : BitVec 6) (f : Fence) (a v : Word) (k : Nat),
    let x := s.sq q.toNat
    let at_ : Loc := (s.walk 0 f.ptroot.toNat a.toNat .engRead).noPeer
    (x.fence = none → exec (.fencePoll q) s = .next s ∧ exec (.fenceTimeout q) s = .next s) ∧
    (s.dev.pscur = 3 → exec (.fencePoll q) s = .next s ∧ exec (.fenceTimeout q) s = .next s) ∧
    (x.fence = some f → f.tmo = 0 ∨ s.dev.time - f.since < f.tmo → exec (.fenceTimeout q) s = .next s) ∧
    (x.fence = some f → f.counters = [(a, v)] → fld a.toNat 52 4 = 0 → at_ = .hbm k ∨ at_ = .hostMem k →
      (leNat (s.rd k 8) < v.toNat → (s.dev.pscur ≠ 3 → exec (.fencePoll q) s = .next s) ∧
        (s.dev.pscur ≠ 3 → f.tmo ≠ 0 → f.tmo ≤ s.dev.time - f.since →
          ∃ t, exec (.fenceTimeout q) s = .next t ∧ FenceFails s t q.toNat f.cq 15 1 a)) ∧
      (v.toNat ≤ leNat (s.rd k 8) →
        exec (.fenceTimeout q) s = .next s ∧
        (s.dev.pscur ≠ 3 → ∃ t, exec (.fencePoll q) s = .next t ∧ SameMem s t ∧ t.launches = s.launches ∧ t.sq q.toNat = { x with fence := none }))) ∧
    (∀ c d, x.fence = some f → f.counters = [(a, v)] → fld a.toNat 52 4 = 0 → at_ = .trap c d → s.dev.pscur ≠ 3 →
      ∃ t, exec (.fencePoll q) s = .next t ∧ FenceFails s t q.toNat f.cq c d a)) ∧
  ∀ (s : State) (n : BitVec 6) (e : CqEntry) (rest : List CqEntry),
    let q := s.cq n.toNat
    let prod := (q.prod + 1) % 2 ^ q.log2n
    let k := keyHost (q.base.toNat + 32 * q.prod)
    (q.waiting = [] ∨ q.en = false ∨ prod = q.cons → exec (.completionEntryWrite n) s = .next s) ∧
    (q.waiting = e :: rest → q.en = true → prod ≠ q.cons →
      (e.interim = true ∨ e.serial = 0 →
        ∃ t, exec (.completionEntryWrite n) s = .next t ∧ t.rd k 32 = e.toBytes q.seq q.phase ∧ OnlyAt s t k 32 ∧ t.launches = s.launches ∧
          t.host.msix = s.host.msix ++ [n.toNat] ∧
          t.cq n.toNat = { q with waiting := rest, prod := prod, seq := q.seq + 1, phase := if prod = 0 then !q.phase else q.phase }) ∧
      (e.interim = false → e.serial ≠ 0 → (s.launch e.serial).st = .rejected →
        ∃ t, exec (.completionEntryWrite n) s = .next t ∧ t.rd k 32 = e.toBytes q.seq q.phase ∧ OnlyAt s t k 32 ∧ t.known e.serial = false ∧
          t.host.msix = s.host.msix ++ [n.toNat]))

/-- Admission, expansion and completion of a launch (16 R341, R343 to R345; 10 R209, R226). A launch that does not wait, or a device that admits none, leaves all
as it was; a launch record that shows a violation by itself is rejected with the class, detail and offset of its first; a launch alone, without violations, on empty cores large enough,
is admitted to all of its cores, and the records of its expansion count as live. A record of the expansion is written at its place and posted. With nothing live and no
engine at work, the final entry is made; a launch that ends first gets what the dies hold for it. Past its time limit a launch ends with WATCHDOG. A killed
pair's contexts become FREE, each once no store that the comparator has passed waits in it (the model's choice: log 26, DEDUCED).
Pre-emption (16 R357, R358). A launch of PCLASS 0b10 for which a waiting launch may pre-empt it is asked to stop on all of its cores, to be saved; one of
PCLASS 0b01 is pre-empted cheaply and stays admitted; without such a launch, or of another class, nothing happens.
Where the spec leaves a point open, the statement takes the model's choice: log 26 (DEDUCED), log 47 (DEDUCED), log 56 (DEDUCED), log 57 (DEDUCED). -/
def Obligations.LaunchEvents : Prop :=
  ((∀ (s : State) (l : Launch) (serial : Word),
    ((s.launch serial).st ≠ .waiting ∨ s.known serial = false ∨ (s.launch serial).waitReplay = true ∨ s.admits = false →
      exec (.launchAdmission serial) s = .next s) ∧
    (∀ c, Admissible s l → l.extUsable = false → l.firstBad false = some c →
      ∃ t e, exec (.launchAdmission l.serial) s = .next t ∧ SameMem s t ∧ (t.launch l.serial).st = .rejected ∧
        (t.cq l.cqn).waiting = (s.cq l.cqn).waiting ++ [e] ∧ e.serial = l.serial ∧ e.interim = false ∧ e.rep.cls = c.cls ∧ e.rep.detail = c.det ∧
        e.rep.addr = w64 c.off) ∧
    (∀ b marks img li si, Admissible s l → l.extUsable = true → s.devBytes l l.checkDie l.extaddr 640 = .ok b marks →
      let x : Launch := { l with ext := b }
      x.firstBad true = none → x.donerec = 0 → x.parent = none → s.images x = .ok img li si →
      (∀ d ∈ x.dies, 1 + x.budgetN ≤ s.remainder d) → (∀ c ∈ x.layout, (s.core c).residents = [] ∧ 65536 + x.lssize ≤ storeSize c.tier) →
      ∃ t, exec (.launchAdmission l.serial) s = .next t ∧ (t.launch l.serial).st = .admitted ∧
        (t.launch l.serial).live = l.live + x.records ∧ ∀ c ∈ x.layout, l.serial ∈ (t.core c).residents)) ∧
  (∀ (s : State) (serial : Word) (i k : Nat) (f : LeafRec),
    let l := s.launch serial
    let P := s.part f.die f.tier
    (l.st ≠ .admitted ∨ s.nextRecord l = none → exec (.recordExpansion serial) s = .next s) ∧
    (l.st = .admitted → s.nextRecord l = some i → l.leaves[i / l.soft]? = some f →
      (partSize f.tier ≤ P.entries.length + P.transit.length → exec (.recordExpansion serial) s = .next s) ∧
      (P.entries.length + P.transit.length < partSize f.tier → s.migs = [] → s.devLoc l f.die (l.recAddr i) 64 .engWrite = .hbm k →
        ∃ t y, exec (.recordExpansion serial) s = .next t ∧ recAt t k = l.recBytes i f ∧ OnlyAt s t k 64 ∧
          (t.part f.die f.tier).transit = P.transit ++ [y] ∧ y.addr = l.recAddr i ∧ y.serial = serial ∧ y.bytes = l.recBytes i f))) ∧
  (∀ (s : State) (serial : Word),
    let l := s.launch serial
    let over_ : Prop := (l.st = .admitted ∧ l.live = 0) ∨ l.st = .ending
    (¬over_ ∨ (l.st = .admitted ∧ (l.waitReplay = true ∨ s.working serial = true)) → exec (.launchCompletion serial) s = .next s) ∧
    (l.st = .ending → l.waitReplay = true ∨ (s.deliver serial).working serial = true → (s.deliver serial).launch serial = l →
      exec (.launchCompletion serial) s = .next (s.deliver serial)) ∧
    (over_ → l.waitReplay = false → s.working serial = false → l.donectr = 0 → l.parent = none → (∀ c, (s.cluster c).lines = []) →
      ∃ t e, exec (.launchCompletion serial) s = .next t ∧ SameMem s t ∧ (t.launch serial).st = .done ∧
        (t.cq l.cqn).waiting = (s.cq l.cqn).waiting ++ [e] ∧ e.serial = serial ∧ e.interim = false ∧ e.errcnt = l.errcnt ∧
        e.rep = l.finalReport none) ∧
    (l.st ≠ .admitted ∨ l.tlimit = 0 ∨ l.used ≤ l.tlimit → exec (.watchdogExpiry serial) s = .next s) ∧
    (l.st = .admitted → l.tlimit ≠ 0 → l.tlimit < l.used → (∀ u : ThreadId, (s.ctx u).pend = []) →
      ∃ t, exec (.watchdogExpiry serial) s = .next t ∧
        EndsLaunch s t serial { cls := 15, detail := 0, engine := 12, ctx := 31, unit := l.lowDie * 2 ^ 24, addr := 0 })) ∧
  ∀ (s : State) (t : ThreadId),
    let u : ThreadId := ⟨t.die, t.tier, t.idx, if t.ctx < 8 then t.ctx + 8 else t.ctx - 8⟩
    ((∀ v, v = t ∨ v = u → (s.ctx v).st ≠ .killed ∨ (s.ctx v).pend ≠ []) → exec (.pairScrubComplete t) s = .next s) ∧
    ((s.ctx t).st = .killed → (s.ctx t).pend = [] → ∃ r, exec (.pairScrubComplete t) s = .next r ∧ SameMem s r ∧ (r.ctx t).st = .free ∧
      ((s.ctx u).pend = [] → (r.ctx u).st ≠ .killed))) ∧
  (∀ (s : State) (serial : Word) (w : Launch),
    let v := s.launch serial
    (v.st ≠ .admitted ∨ s.preemptorOf v = none → exec (.forcedPreemption serial) s = .next s ∧ exec (.cheapPreemption serial) s = .next s) ∧
    (v.pclass ≠ 2 → exec (.forcedPreemption serial) s = .next s) ∧ (v.pclass ≠ 1 → exec (.cheapPreemption serial) s = .next s) ∧
    (v.st = .admitted → s.preemptorOf v = some w →
      (v.pclass = 2 → ∃ t, exec (.forcedPreemption serial) s = .next t ∧ SameMem s t ∧ (t.launch serial).st = .saving ∧
        (t.launch serial).preemptor = some w.serial ∧ ∀ c ∈ v.cores, coreKey c ∈ (t.launch serial).stopReq) ∧
      (v.pclass = 1 → ∃ t, exec (.cheapPreemption serial) s = .next t ∧ SameMem s t ∧ (t.launch serial).st = .admitted ∧
        (t.launch serial).preemptor = some w.serial ∧ (t.launch serial).cheap = true ∧ (t.launch serial).stopReq = v.stopReq)))

/-- Gang stop, the save of a core, and a restore (10 R208, R210 to R215; 16 R358). A core that was not asked to stop is left as it is; one that was stops every READY or PARKED context of the
launch, which remembers its state, and writes the cycle and the message counts. A stopped core whose engines have drained writes its block into the
launch's area; with the last core the launch is SAVED, an interim entry with detail 0x41 waits, and no launch holds the core. A saved launch that may not yet come back
waits; as the last block of a restore is read, each context has the registers and the state of its record, the launch runs again, and an entry with detail 0x42 waits.
Where the spec leaves a point open, the statement takes the model's choice: log 17 (DESIGN CHOICE), log 22 (DEDUCED), log 58 (DEDUCED), log 89 (DEDUCED). -/
def Obligations.SaveAndRestore : Prop :=
  (∀ (s : State) (c : CoreId) (serial : Word),
    let l := s.launch serial
    let ctx (u : State) (i : Nat) : Ctx := u.ctx (c.thread i)
    (coreKey c ∉ l.stopReq → exec (.gangStop c serial) s = .next s) ∧
    (coreKey c ∈ l.stopReq → (∀ i, i < 16 → (ctx s i).serial = serial → (ctx s i).pend = []) →
      ∃ t, exec (.gangStop c serial) s = .next t ∧ SameMem s t ∧ (t.launch serial).stopReq = l.stopReq.erase (coreKey c) ∧
        serial ∈ (t.core c).stopped ∧ (t.core c).gscycle = w64 (s.cyc c) ∧
        (t.core c).gssent = w64 (mget 0 (s.core c).msgSent serial.toNat) ∧ (t.core c).gsrecv = w64 (mget 0 (s.core c).msgRecv serial.toNat) ∧
        ∀ i, i < 16 → (ctx t i).xs = (ctx s i).xs ∧ (ctx t i).pc = (ctx s i).pc ∧
          if (ctx s i).serial = serial ∧ ((ctx s i).st = .ready ∨ (ctx s i).st = .parked) then
            (ctx t i).st = .stopped ∧ (ctx t i).prev = (ctx s i).st
          else (ctx t i).st = (ctx s i).st)) ∧
  (∀ (s : State) (c : CoreId) (r : Word) (base len : Nat),
    let l := s.launch r
    let at_ := base + l.blockOff c
    ((∀ x ∈ (s.core c).residents, (s.launch x).st ≠ .saving) → exec (.saveBlock c) s = .next s) ∧
    ((s.core c).residents = [r] → l.st = .saving → l.stopReq ≠ [] ∨ coreKey c ∈ l.saveDone → exec (.saveBlock c) s = .next s) ∧
    ((s.core c).residents = [r] → l.st = .saving → l.stopReq = [] → l.saveDone = [] → l.saveFault = [] → l.saveAt = [] → l.saveState = 1 →
      l.cores = [c] → c.die = l.lowDie → s.streamStop c r = none → s.drained c = true → s.sideStores l c = [] → AreaReady s l base len → l.blockOff c + l.blockSize c ≤ len →
      ∃ t e, exec (.saveBlock c) s = .next t ∧ (t.launch r).st = .saved ∧ (t.launch r).saveState = 2 ∧ (t.core c).residents = [] ∧
        t.rd at_ (l.blockSize c) = (s.block l c).take (l.blockSize c) ∧ OnlyAt s t base len ∧
        (t.cq l.cqn).waiting = (s.cq l.cqn).waiting ++ [e] ∧ e.serial = r ∧ e.interim = true ∧ e.rep.cls = 0 ∧ e.rep.detail = 0x41)) ∧
  ∀ (s : State) (c : CoreId) (r : Word) (b : List Byte) (base len : Nat),
    let l := s.launch r
    let old := mget Core.reset s.savedCores (savedKey r c)
    (l.st ≠ .saved ∧ l.st ≠ .restoring ∨ l.st = .saved ∧ s.mayRestore l = false → exec (.restore r) s = .next s) ∧
    (l.st = .restoring → l.cores = [c] → l.restored = [] → l.lssize = 0 → l.windows = [] → 2 ≤ c.tier → s.readBlock l c = .ok b →
      AreaReady s l base len → 8 ≤ len → s.rst = [] → (∀ d, s.scheds d = []) →
      ∃ t e, exec (.restore r) s = .next t ∧ (t.launch r).st = .admitted ∧ (t.launch r).saveState = 5 ∧
        (t.cq l.cqn).waiting = (s.cq l.cqn).waiting ++ [e] ∧ e.serial = r ∧ e.interim = true ∧ e.rep.cls = 0 ∧ e.rep.detail = 0x42 ∧
        ∀ i, i < 16 → (old.ctx i).serial = r →
          let x := blockRecord b i
          let code := fld (leAt x 0x188 1) 0 3
          let y := t.ctx (c.thread i)
          code ≠ 0 → y.pc = w64 (leAt x 0x180 8) ∧ (∀ n, 0 < n → n < 32 → y.x n = w64 (leAt x (8 * n) 8)) ∧
            y.st = if code = 2 then .parked else .ready)

/-- What the host commands of a launch (08 R175; 10 R208, R214, R220; 22 R446). A command while one is in progress, or of another number, is ignored; one with a reserved bit set is
answered 4, of a launch that is unknown or over 1, at too low a debug level 2, in a wrong state 3, and otherwise 0. HALT asks every core of the launch that runs to stop, and is busy until then; RESUME
gives every STOPPED context its state back; STEP lets one issue an instruction, and CTXRES resumes one; RESAVE starts the save's
header again, without the faults. REPLAY presents every held instruction that waits for a page again, and clears the launch's granules; an access in flight that faults again posts its record again.
Where the spec leaves a point open, the statement takes the model's choice: log 34 (DEDUCED), log 66 (DEDUCED). -/
def Obligations.HostCommands : Prop :=
  (∀ (s : State) (v : Word) (i : Instr) (cmd level : Nat), (i, cmd, level) ∈ [(Instr.halt v, 1, 1), (.resume v, 2, 0), (.step v, 3, 1), (.ctxres v, 4, 1),
      (.resave v, 5, 0)] →
    let taken : Prop := s.dev.sstate = 1 ∧ s.host.partbusy = none ∧ bits v 3 0 = cmd
    let known : Prop := Live s s.host.partser
    (¬taken → exec i s = .next s) ∧
    (taken → bits v 63 39 ≠ 0 ∨ bits v 7 4 ≠ 0 → exec i s = .next (answered s 4)) ∧
    (taken → bits v 63 39 = 0 → bits v 7 4 = 0 → ¬known → exec i s = .next (answered s 1)) ∧
    (taken → bits v 63 39 = 0 → bits v 7 4 = 0 → known → s.dev.dbg < level → exec i s = .next (answered s 2))) ∧
  (∀ (s : State) (v : Word),
    let r := s.host.partser
    let l := s.launch r
    PartFit s v 1 1 →
      (l.st = .admitted → (∀ c ∈ l.cores, r ∈ (s.core c).stopped) → exec (.halt v) s = .next (answered s 0)) ∧
      (l.st = .admitted → (∃ c ∈ l.cores, r ∉ (s.core c).stopped) → ∃ t, exec (.halt v) s = .next t ∧ SameMem s t ∧ t.host.partbusy = some r ∧
        t.host.partres = 0 ∧ ∀ c ∈ l.cores, r ∉ (s.core c).stopped → coreKey c ∈ (t.launch r).stopReq) ∧
      (l.st = .saved ∨ (l.st = .saving ∧ l.stopReq = []) → exec (.halt v) s = .next (answered s 0)) ∧
      (l.st = .saving → l.stopReq ≠ [] → ∃ t, exec (.halt v) s = .next t ∧ SameMem s t ∧ t.host.partbusy = some r ∧ t.host.partres = 0 ∧
        t.launches = s.launches) ∧
      (l.st = .waiting ∨ l.st = .restoring → exec (.halt v) s = .next (answered s 3))) ∧
  (∀ (s : State) (v : Word) (c : CoreId),
    let r := s.host.partser
    let l := s.launch r
    PartFit s v 2 0 →
      (l.st ≠ .admitted → exec (.resume v) s = .next (answered s 3)) ∧
      (l.st = .admitted → l.cores = [c] → r ∈ (s.core c).stopped → ∃ t, exec (.resume v) s = .next t ∧ SameMem s t ∧ t.host.partres = 0 ∧
        (t.core c).stopped = (s.core c).stopped.erase r ∧
        ∀ i, i < 16 → (s.ctx (c.thread i)).serial = r → (s.ctx (c.thread i)).st = .stopped →
          (t.ctx (c.thread i)).st = (s.ctx (c.thread i)).prev ∧ (t.ctx (c.thread i)).pc = (s.ctx (c.thread i)).pc)) ∧
  (∀ (s : State) (v : Word) (u : ThreadId),
    let l := s.launch s.host.partser
    (PartFit s v 3 1 →
      (s.cmdCtx l v = none → exec (.step v) s = .next (answered s 3)) ∧
      (s.cmdCtx l v = some u → (s.ctx u).prev ≠ .ready → exec (.step v) s = .next (answered s 0)) ∧
      (s.cmdCtx l v = some u → (s.ctx u).prev = .ready → s.trailer u = none →
        ∃ t, exec (.step v) s = .next t ∧ SameMem s t ∧ t.host.partres = 0 ∧ t.ctx u = { s.ctx u with st := .ready, stepping := true })) ∧
    (PartFit s v 4 1 →
      (s.cmdCtx l v = none → exec (.ctxres v) s = .next (answered s 3)) ∧
      (s.cmdCtx l v = some u → s.trailer u = none →
        ∃ t, exec (.ctxres v) s = .next t ∧ SameMem s t ∧ t.host.partres = 0 ∧ (t.ctx u).st = (s.ctx u).prev ∧ (t.ctx u).pc = (s.ctx u).pc))) ∧
  (∀ (s : State) (v : Word) (c : CoreId) (base len : Nat),
    let r := s.host.partser
    let l := s.launch r
    PartFit s v 5 0 →
      (l.st ≠ .saving ∨ l.saveState ≠ 3 → exec (.resave v) s = .next (answered s 3)) ∧
      (l.st = .saving → l.saveState = 3 → l.cores = [c] → l.saveDone = [] → AreaReady s l base len → 0x50 ≤ len →
        ∃ t, exec (.resave v) s = .next t ∧ OnlyAt s t base 0x50 ∧ t.host.partbusy = some r ∧ t.host.partres = 0 ∧ (t.launch r).saveFault = [] ∧
          (t.launch r).saveState = 1 ∧ (t.launch r).st = .saving)) ∧
  ∀ (s : State) (r : Word),
    let l := s.launch r
    (s.dev.sstate ≠ 1 → exec (.replay r) s = .next s) ∧
    (∀ k t c p, s.dev.sstate = 1 → s.spills = [] → s.cores = [(coreKey t.core, k)] → coreOf (coreKey t.core) = t.core → k.ctxs = [(t.ctx, c)] →
      c.serial = r → c.pend = [p] → p.len ≠ 0 → s.pendLoc t p = .xfault →
      ∃ u, exec (.replay r) s = .next u ∧ (r, fld p.va.toNat 16 36) ∈ u.host.granules) ∧
    (s.dev.sstate = 1 → s.spills = [] → l.isPair = false → (∀ k ∈ s.cores, ∀ x ∈ k.2.ctxs, x.2.pend = []) →
      ∃ t, exec (.replay r) s = .next t ∧ SameMem s t ∧ (t.launch r).waitReplay = false ∧ (∀ g ∈ t.host.granules, g ∈ s.host.granules ∧ g.1 ≠ r) ∧
        (∀ u ∈ s.resume, u ∈ t.resume) ∧ (∀ u, t.ctx u = s.ctx u) ∧
        ∀ c i h a, c ∈ l.cores → i < 16 → (s.ctx (c.thread i)).serial = r → (s.ctx (c.thread i)).parked = true →
          (s.ctx (c.thread i)).held = some h → h.cause = .xlate a → c.thread i ∈ t.resume)

/-- Handshakes, messages, and what goes wrong with them (07 R154, R156 to R159, R161). Two remote ends that name each other meet, with the ring's size as free slots; with no end unpaired nothing
happens. The message under way is written into its ring, its header first, where there is room, and counted; where there is none it is held. One held longer than its sender's CHTMO, with still no room, goes
back: its launch is told and the sending end answers with the error. A SEND parked longer than CHTMO traps CHANNEL 0x02. An audit of counters that do not agree breaks both ends.
Where the spec leaves a point open, the statement takes the model's choice: log 37 (DESIGN CHOICE). -/
def Obligations.ChannelEvents : Prop :=
  (∀ (s : State) (c : CoreId) (n m : Nat) (e f : Ep),
    let d := e.peerCore c
    ((∀ x ∈ (s.core c).eps, x.2.bound = false ∨ x.2.rem = false ∨ x.2.isCls = true ∨ x.2.peer.isSome = true) → exec (.channelHandshake c) s = .next s) ∧
    ((s.core c).eps = [(n, e)] → coreKey d ≠ coreKey c → (s.core d).eps = [(m, f)] → e.rem = true → e.matches_ c f d = true → e.ring = 0 → f.ring = 0 →
      ∃ t, exec (.channelHandshake c) s = .next t ∧ SameMem s t ∧
        (let a := (t.core c).ep n
         let b := (t.core d).ep m
         let free := if e.rx = true then e.rwords else f.rwords
         a.met = true ∧ b.met = true ∧ a.peer = some (coreKey d, m) ∧ b.peer = some (coreKey c, n) ∧ a.free = free ∧ b.free = free ∧
           a.sent = 0 ∧ b.received = 0 ∧ a.desc = e.desc ∧ b.desc = f.desc))) ∧
  (∀ (s : State) (c : CoreId) (m : Msg) (w : Word × Bool) (n : Nat),
    let k := s.core c
    let e := k.ep m.target
    let b := k.cls m.target
    let x := (s.core m.src).ep m.srcEp
    let word (j : Nat) : Nat := keyLs c (e.rbase + 8 * ((e.wpos + j) % e.rwords)) / 8
    ((∀ y ∈ s.net, y.dst ≠ c) → exec (.ringMessageArrival c) s = .next s ∧ exec (.messageReturn c n) s = .next s) ∧
    (OneMsg s c m → m.cls = false → m.words = [w] → e.met = true → e.peer = some (coreKey m.src, m.srcEp) →
      (e.received - e.consumed).toNat + 2 ≤ e.rwords → takesWord s (word 0) → takesWord s (word 1) →
      ∃ t, exec (.ringMessageArrival c) s = .next t ∧ t.net = [] ∧ memWord t (word 0) = ringHeader m.seq false m.srcCtx 0 1 ∧
        memWord t (word 1) = w.1 ∧ t.pz (word 1) = w.2 ∧ ((t.core c).ep m.target).received = e.received + 2 ∧
        ((t.core c).ep m.target).wpos = (e.wpos + 2) % e.rwords ∧
        mget 0 (t.core c).msgRecv m.serial.toNat = mget 0 k.msgRecv m.serial.toNat + 1 ∧
        ∀ j, (j < 8 * word 0 ∨ 8 * word 0 + 8 ≤ j) → (j < 8 * word 1 ∨ 8 * word 1 + 8 ≤ j) → memGet t.mem j = memGet s.mem j) ∧
    (OneMsg s c m → m.cls = true → b.bound = true → 9 * b.msgs + 9 ≤ b.rwords →
      ∃ t, exec (.ringMessageArrival c) s = .next t ∧ t.net = [] ∧ ((t.core c).cls m.target).msgs = b.msgs + 1 ∧
        ((t.core c).cls m.target).wpos = (b.wpos + 9) % b.rwords ∧ ((t.core c).cls m.target).seq = b.seq + 1) ∧
    (OneMsg s c m → s.ringRoom m = false → m.since = none → ∃ t, exec (.ringMessageArrival c) s = .next t ∧ SameMem s t ∧
      t.net = [{ m with since := some (s.cyc c) }]) ∧
    (∀ a, OneMsg s c m → m.since = some a →
      (s.cyc c - a ≤ m.tmo ∨ s.ringRoom m = true → exec (.messageReturn c n) s = .next s) ∧
      (m.tmo < s.cyc c - a → s.ringRoom m = false → s.ringOwner m ∉ k.stopped → x.bound = true → x.order = m.srcOrder → s.known m.serial = true →
        ∃ t, exec (.messageReturn c 0) s = .next t ∧ SameMem s t ∧ t.net = [] ∧ ((t.core m.src).ep m.srcEp).returned = true ∧
          ((t.core m.src).ep m.srcEp).broken = x.broken ∧
          ((t.core m.src).ep m.srcEp).free = (if m.cls = true then x.free else x.free + 2) ∧
          (t.launch m.serial).errcnt = (s.launch m.serial).errcnt + 1))) ∧
  (∀ (s : State) (t : ThreadId) (h : Held) (ep : Nat),
    let c := s.ctx t
    let limit := h.left.getD c.chtmo.toNat
    (c.held = none → exec (.channelTimeout t) s = .next s) ∧
    (c.held = some h → h.cause = .send ep → c.st ≠ .parked ∨ s.cycleOf t - h.since ≤ limit → exec (.channelTimeout t) s = .next s) ∧
    (c.held = some h → h.cause = .send ep → c.st = .parked → limit < s.cycleOf t - h.since →
      exec (.channelTimeout t) s = .next (s.trapAt t 10 2 0))) ∧
  ∀ (s : State) (c d : CoreId) (n : BitVec 5) (m : Nat),
    let e := (s.core c).ep n.toNat
    let f := (s.core d).ep m
    let agrees : Prop := e.sent = f.received ∧ e.free + (e.sent - f.consumed).toNat = f.rwords
    (e.peer = none → exec (.channelAudit c n) s = .next s) ∧
    (e.peer = some (coreKey d, m) → e.rem = false ∨ e.rx = true ∨ e.met = false ∨ agrees → coreOf (coreKey d) = d →
      exec (.channelAudit c n) s = .next s) ∧
    (e.peer = some (coreKey d, m) → coreOf (coreKey d) = d → e.rem = true → e.rx = false → e.met = true → s.net = [] → ¬agrees →
      ∃ t, exec (.channelAudit c n) s = .next t ∧ SameMem s t ∧ ((t.core c).ep n.toNat).broken = 3 ∧ ((t.core d).ep m).broken = 3)

/-- The device's repair and fault events (08 R175 to R182, R187; 10 R228; 20 R401, R421). A row of a parity group is clean; a bank with four errors retires, running launches carry DEGR and the host
is told; the scrub corrects a live bank's word with a correctable error, rewrites one in error from the others of its row in a whole group, and poisons it where another of them is in error or the group has lost a bank; the oldest held fault record is written once there is room; a retried flit changes
nothing; a lost link is marked. An invalidation's acknowledgement waits for the accepted vector commands that its translations have served, drops those and empties the instruction
caches; a migration's copy is complete, where a route leads to the new frame. Where there is nothing to do
nothing happens.
Where the spec leaves a point open, the statement takes the model's choice: log 67 (DEDUCED), log 68 (DEDUCED), log 69 (DEDUCED), log 79 (DEDUCED), log 86 (DEDUCED). -/
def Obligations.DeviceEvents : Prop :=
  (∀ (s : State) (bank row word : Nat),
    let again : Bool := s.dev.scrubbed.any fun x => x.2 == 2 && bankKey x.1 == bank && isBanked x.1
    let errs := mget 0 s.dev.bankErrs
    exec (.rowClean bank row) s = .next { s with stale := s.stale.erase (groupRow bank row) } ∧
    (isBank bank = false ∨ bank ∈ s.dev.retired ∨ (errs bank < 4 ∧ again = false) → exec (.bankRetirement bank) s = .next s) ∧
    (isBank bank = true → bank ∉ s.dev.retired → 4 ≤ errs bank → ∃ t, exec (.bankRetirement bank) s = .next t ∧ SameMem s t ∧
      t.dev.retired = s.dev.retired ++ [bank] ∧ t.host.msix = s.host.msix ++ [64] ∧ (∀ r ∈ t.stale, r / 2 ^ 20 ≠ groupRow bank 0 / 2 ^ 20) ∧
      ∀ l ∈ t.launches, l.st = .admitted → l.degr = true) ∧
    (isBanked word = false ∨ rowKey word ∈ s.stale ∨ s.condition word = 0 ∨ 4 ≤ s.condition word ∨ bankKey word ∈ s.dev.retired →
      exec (.patrolScrub word) s = .next s) ∧
    (isBanked word = true → rowKey word ∉ s.stale → s.condition word ≠ 0 → s.condition word < 4 → bankKey word ∉ s.dev.retired →
      (s.inError word = false → ∃ t, exec (.patrolScrub word) s = .next t ∧ SameMem s t ∧ t.badWords = merase s.badWords word ∧
        t.dev.bankErrs = s.dev.bankErrs ∧ mget 0 t.dev.scrubbed word = (if mget 0 s.dev.scrubbed word = 0 then 1 else 2) ∧ t.poison = s.poison) ∧
      (s.inError word = true → s.groupRetired (bankKey word) = 0 → s.rowBad word = false → ∃ t, exec (.patrolScrub word) s = .next t ∧ SameMem s t ∧ t.badWords = merase s.badWords word ∧
        mget 0 t.dev.bankErrs (bankKey word) = errs (bankKey word) + 1 ∧
        mget 0 t.dev.scrubbed word = (if mget 0 s.dev.scrubbed word = 0 then 1 else 2) ∧ t.poison = s.poison) ∧
      (s.inError word = true → s.groupRetired (bankKey word) ≠ 0 ∨ s.rowBad word = true → ∃ t, exec (.patrolScrub word) s = .next t ∧ OnlyAt s t (8 * word) 8 ∧ t.pz word = true ∧
        (t.feAt word).lost = true))) ∧
  (∀ (s : State) (b : List Byte) (rest : List (List Byte)),
    let h := s.host
    let k := keyHost (h.fqbase.toNat + 32 * h.fqtail)
    let full : Prop := (h.fqtail + 1) % 2 ^ h.fqlog = h.fqhead
    (h.fqheld = [] ∨ full → exec .faultRecordRetry s = .next s) ∧
    (h.fqheld = b :: rest → ¬full → ∃ t, exec .faultRecordRetry s = .next t ∧ t.rd k b.length = b ∧ OnlyAt s t k b.length ∧ t.host.fqheld = rest ∧
      t.host.fqtail = (h.fqtail + 1) % 2 ^ h.fqlog ∧ t.host.msix = h.msix ++ [64])) ∧
  (∀ (s : State) (link : LinkId),
    exec (.flitRetransmit link) s = .next s ∧
    (link.external = true → 16 ≤ link.n ∨ bit s.dev.xlost link.n = true → exec (.linkLost link) s = .next s) ∧
    (link.external = false → 12 ≤ link.n ∨ bit s.dev.ilost link.n = true → exec (.linkLost link) s = .next s) ∧
    (link.external = true → link.n < 16 → bit s.dev.xlost link.n = false → s.rst = [] → (∀ d n, schedAt s d n = none) →
      ∃ t, exec (.linkLost link) s = .next t ∧ SameMem s t ∧ t.host.msix = s.host.msix ++ [64] ∧ t.dev.ilost = s.dev.ilost ∧
        ∀ n, n < 16 → bit t.dev.xlost n = (decide (n = link.n) || bit s.dev.xlost n)) ∧
    (link.external = false → link.n < 12 → bit s.dev.ilost link.n = false →
      ∃ t, exec (.linkLost link) s = .next t ∧ SameMem s t ∧ t.host.msix = s.host.msix ++ [64] ∧ t.dev.xlost = s.dev.xlost ∧
        ∀ n, n < 12 → bit t.dev.ilost n = (decide (n = link.n) || bit s.dev.ilost n))) ∧
  ∀ (s : State) (v : Word) (rest : List Word) (stack slot : BitVec 3) (m : Mig),
    let k := stack.toNat * 8 + slot.toNat
    (s.host.tlbpend = [] → exec .tlbInvalidationAck s = .next s) ∧
    (s.host.tlbpend = v :: rest → s.vuServed v = true → exec .tlbInvalidationAck s = .next s) ∧
    (s.host.tlbpend = v :: rest → s.vuServed v = false → s.hole = none → (∀ c ∈ s.cores, ∀ x ∈ c.2.ctxs, x.2.pend = []) →
      ∃ t, exec .tlbInvalidationAck s = .next t ∧ t.host.tlbpend = rest ∧ t.host.tlbacks = s.host.tlbacks + 1 ∧
        t.tlb = s.tlb.filter (fun x => !invNames v (x.page % 2 ^ 36)) ∧ ∀ c, (t.core c).icache = []) ∧
    (mfind s.migs k = none → exec (.migrationCopyDone stack slot) s = .next s) ∧
    (mfind s.migs k = some m → m.done = true → exec (.migrationCopyDone stack slot) s = .next s) ∧
    (s.dev.pscur = 3 → exec (.migrationCopyDone stack slot) s = .next s) ∧
    (mfind s.migs k = some m → s.routed (m.src / 2 ^ 36) (m.dst / 2 ^ 36) = false → exec (.migrationCopyDone stack slot) s = .next s) ∧
    (mfind s.migs k = some m → m.done = false → s.dev.pscur ≠ 3 → s.routed (m.src / 2 ^ 36) (m.dst / 2 ^ 36) = true →
      ∃ t, exec (.migrationCopyDone stack slot) s = .next t ∧ (∀ j, j < 65536 → memGet t.mem (m.dst + j) = memGet s.mem (m.src + j)) ∧
        OnlyAt s t m.dst 65536 ∧ mfind t.migs k = some { m with done := true })

/-- Power and temperature (22 R427 to R429, R431, R433 to R435). A request of a power state with a reserved bit is ignored; the first that applies of STATE, BUSY and RESIDENT is its error; a request of the current state ends at once, and
any other starts a slew, with the lower caps at once. The end of the slew sets the state, its caps, and the tier clock in every core's window. A grant goes to one request, the oldest of the highest PRIO
in the cluster of the oldest, once neither estimate forbids it. A reading makes its cluster hot from 95 degrees and cool below 90; at 115 power goes. A moved record leaves the table of moves 5 ms after its move.
Where the spec leaves a point open, the statement takes the model's choice: log 18 (DESIGN CHOICE), log 46 (DEDUCED), log 74 (DEDUCED). -/
def Obligations.PowerEvents : Prop :=
  (∀ (s : State) (v : Word),
    let d := s.dev
    let r := bits v 1 0
    let err (n : Nat) : Res := .next { s with dev := { d with pserr := n } }
    let resident : Bool := s.cores.any fun k => !k.2.residents.isEmpty
    (bits v 15 2 ≠ 0 → exec (.psctlRequest v) s = .next s) ∧
    (bits v 15 2 = 0 → d.sstate ≠ 1 → exec (.psctlRequest v) s = err 3) ∧
    (bits v 15 2 = 0 → d.sstate = 1 → d.slew = true → exec (.psctlRequest v) s = err 1) ∧
    (bits v 15 2 = 0 → d.sstate = 1 → d.slew = false → r = 3 → resident = true → exec (.psctlRequest v) s = err 2) ∧
    (bits v 15 2 = 0 → d.sstate = 1 → d.slew = false → (r = 3 → resident = false) →
      (r = d.pscur → exec (.psctlRequest v) s = .next { s with dev := { d with pserr := 0, psreq := r } }) ∧
      (r ≠ d.pscur → exec (.psctlRequest v) s = .next { s with dev := { d with
        pserr := 0, psreq := r, pstarget := r, slew := true, capavg := min d.capavg (capsAt r).1, cappeak := min d.cappeak (capsAt r).2 } }))) ∧
  (∀ s : State,
    (s.dev.slew = false → exec .slewEnd s = .next s) ∧
    (s.dev.slew = true → ∃ t, exec .slewEnd s = .next t ∧ t.dev.slew = false ∧ t.dev.pscur = s.dev.pstarget ∧
      (t.dev.capavg, t.dev.cappeak) = capsAt s.dev.pstarget ∧
      ∀ c : CoreId, c.die < 8 → c.tier < 4 → c.idx < coresOf c.tier → mget 0 (t.core c).cw 0xF6 = w64 (tierKHz c.tier s.dev.pstarget))) ∧
  (∀ (s : State) (c : CoreId) (y : CoreId × Nat × Word),
    let forbids : Prop := 99 * s.dev.capavg < 100 * s.dev.p1 ∨ s.dev.cappeak < s.dev.p10 + s.dev.chargeOf y.2.1
    (s.dev.deferred = [] → exec (.currentGrant c) s = .next s) ∧
    (NextGrant s y → y.1 ≠ c ∨ forbids → exec (.currentGrant c) s = .next s) ∧
    (NextGrant s y → y.1 = c → ¬forbids → ∃ t, exec (.currentGrant c) s = .next t ∧ SameMem s t ∧ t.dev.deferred = s.dev.deferred.erase y ∧
      t.dev.grants = s.dev.grants ++ [y] ∧ (y.2.1 = 0 → (t.core c).vuResw = false) ∧ (y.2.1 = 1 → (t.core c).mxu.resw = false) ∧
      ∀ o ∈ (t.core c).copies, y.2.1 = o.tag + 2 → o.resw = false)) ∧
  ∀ (s : State) (die : BitVec 3) (tier : BitVec 2) (clus : BitVec 4) (celsius : BitVec 8) (a : Word),
    let n := (die.toNat * 4 + tier.toNat) * 16 + clus.toNat
    (coresOf tier.toNat ≤ 16 * clus.toNat → exec (.sensorReading die tier clus celsius) s = .next s) ∧
    (16 * clus.toNat < coresOf tier.toNat → ∃ t, exec (.sensorReading die tier clus celsius) s = .next t ∧ SameMem s t ∧
      (t.cluster n).celsius = celsius ∧ (t.cluster n).lines = (s.cluster n).lines ∧
      (95 ≤ celsius.toNat → (t.cluster n).hot = true) ∧ (celsius.toNat < 90 → (t.cluster n).hot = false) ∧
      (90 ≤ celsius.toNat → celsius.toNat < 95 → (t.cluster n).hot = (s.cluster n).hot)) ∧
    ((∀ c ∈ s.clusters, c.2.celsius.toNat < 115) → exec .thermalTrip s = .next s) ∧
    ((∃ c ∈ s.clusters, 115 ≤ c.2.celsius.toNat) → ∃ t, exec .thermalTrip s = .next t ∧ SameMem s t ∧ t.dev.powered = false) ∧
    ∃ t, exec (.movedRecordExpiry die a) s = .next t ∧ SameMem s t ∧
      ∀ x, x ∈ (t.die die.toNat).moved ↔ x ∈ (s.die die.toNat).moved ∧ (x.1 ≠ a ∨ s.dev.time < x.2 + 5000)

/-- Reset, quotes, tokens, recovery and the repair record (22 R436 to R442, R445; 10 R228). An image passes when it has the form, its signature
over its SHAKE256 digest verifies, and its version is at least the fused minimum. A reset empties the device and keeps host memory and the repair record; with both images good it is SECURE in PS0, else in
RECOVERY in PS3 with the reason; a pending token sets the debug level. A request for a quote is refused while one is pending; the quote holds the nonce, both images' digests, SECSTAT, PSCTL, the
service-request word and the alias key, whose signature covers it. A token takes effect at the next reset when it verifies for its level with the nonce issued. A recovery image of no or too great a length
is rejected, and otherwise verified, in its form, its signature and its version: a failure keeps RECOVERY. The repair record is cleared only at Vendor-authorised, in RECOVERY or in PS3.
Where the spec leaves a point open, the statement takes the model's choice: log 12 (DESIGN CHOICE), log 14 (DESIGN CHOICE), log 62 (DEDUCED), log 63 (DESIGN CHOICE). -/
def Obligations.SecurityEvents : Prop :=
  (∀ (stage : Nat) (image : List Byte),
    let formed : Prop := Config.imageFormed image = true
    let signed : Prop := Config.imageSigned image (Config.shake256 image) = true
    let recent : Prop := Config.fusedSvn ≤ Config.imageVersion image
    (formed → signed → recent → imageVerdict stage image = 0) ∧ (¬formed → imageVerdict stage image = 0x30 + stage) ∧
    (formed → ¬signed → imageVerdict stage image = 0x10 + stage) ∧ (formed → signed → ¬recent → imageVerdict stage image = 0x20 + stage)) ∧
  (∀ (s : State) (i : Instr) (f d : List Byte) (cause : Nat), (i, cause) ∈ [(Instr.powerOnReset (f, d), 0), (.hostReset (f, d), 1)] →
    let fail := if imageVerdict 0 f = 0 then imageVerdict 1 d else imageVerdict 0 f
    ∃ t, exec i s = .next t ∧ t.launches = [] ∧ t.cores = [] ∧ t.net = [] ∧ t.dev.sstate = (if fail = 0 then 1 else 2) ∧
      t.dev.pscur = (if fail = 0 then 0 else 3) ∧ t.dev.rfail = fail ∧ t.dev.dbg = s.dev.token.getD 0 ∧ t.dev.token = none ∧
      t.dev.fwDigest = Config.shake256 f ∧ t.dev.devDigest = Config.shake256 d ∧ t.dev.bcause = (if s.dev.powered = false then 2 else if s.dev.token.isSome = true then 3 else cause) ∧
      t.dev.retired = s.dev.retired ∧ t.dev.pages = s.dev.pages ∧ t.dev.xlost = s.dev.xlost ∧ t.dev.ilost = s.dev.ilost ∧
      ∀ k, memGet t.mem k = if 2 ^ 62 ≤ k then memGet s.mem k else 0) ∧
  (∀ (s : State) (nonce : BitVec 256) (buf : Word) (level : BitVec 2) (token : List Byte),
    let k := keyHost s.host.attbuf.toNat
    let key := Config.aliasKey s.dev.fwDigest s.dev.devDigest s.dev.dbg
    (s.dev.sstate ≠ 1 → exec (.quoteRequest nonce buf) s = .next s ∧ exec (.debugToken level token) s = .next s) ∧
    (s.host.attbusy = true → exec (.quoteRequest nonce buf) s = .next s) ∧
    (s.dev.sstate = 1 → s.host.attbusy = false → exec (.quoteRequest nonce buf) s =
      .next { s with host := { s.host with attnonce := nonce, attbuf := buf, attdone := false, attbusy := true } }) ∧
    (s.host.attbusy = false → exec .attestationQuote s = .next s) ∧
    (s.host.attbusy = true → ∃ t, exec .attestationQuote s = .next t ∧ t.host.attdone = true ∧ t.host.attbusy = false ∧ OnlyAt s t k 434 ∧
      leNat (t.rd k 8) = 1 ∧ leNat (t.rd (k + 8) 32) = s.host.attnonce.toNat ∧ leNat (t.rd (k + 40) 64) = s.dev.fwDigest.toNat ∧
      leNat (t.rd (k + 104) 64) = s.dev.devDigest.toNat ∧ leNat (t.rd (k + 168) 8) = s.secstat.toNat ∧ leNat (t.rd (k + 176) 8) = s.psctl.toNat ∧
      leNat (t.rd (k + 184) 8) = s.srqWord.toNat ∧ leNat (t.rd (k + 256) 57) = key.toNat ∧
      leNat (t.rd (k + 320) 114) = (Config.aliasSign key (t.rd k 320)).toNat) ∧
    (s.dev.sstate = 1 → ∃ t, exec (.debugToken level token) s = .next t ∧ SameMem s t ∧ t.dev.dbg = s.dev.dbg ∧
      t.dev.token = if (level = 1 ∨ level = 2) ∧ Config.tokenSigned level.toNat token s.host.dbgnonce = true then some level.toNat else s.dev.token)) ∧
  (∀ (s : State) (v : Word) (device : Bool),
    let n := bits v 23 0
    let image := s.recoveryImage
    let fail := imageVerdict (b2n device) image
    let taken : Prop := s.dev.sstate = 2 ∧ s.host.rstat ≠ 1 ∧ bit v 63 = true
    (¬taken → exec (.recoveryGo v) s = .next s) ∧
    (taken → n = 0 ∨ 0x800000 < n → ∃ t, exec (.recoveryGo v) s = .next t ∧ SameMem s t ∧ t.host.rstat = 2 ∧
      (t.dev.rfail = 0x30 ∨ t.dev.rfail = 0x31)) ∧
    (taken → 0 < n → n ≤ 0x800000 → exec (.recoveryGo v) s = .next { s with host := { s.host with reclen := n, rstat := 1 } }) ∧
    (s.dev.sstate ≠ 2 ∨ s.host.rstat ≠ 1 → exec (.recoveryVerify device) s = .next s) ∧
    (s.dev.sstate = 2 → s.host.rstat = 1 → fail ≠ 0 → exec (.recoveryVerify device) s =
      .next { s with host := { s.host with rstat := 2 }, dev := { s.dev with rfail := fail } }) ∧
    (s.dev.sstate = 2 → s.host.rstat = 1 → fail = 0 →
      ∃ t, exec (.recoveryVerify device) s = .next t ∧ t.dev.sstate = 1 ∧ t.dev.pscur = 0 ∧ t.launches = [] ∧
        t.dev.fwDigest = (if device = true then s.dev.fwDigest else Config.shake256 image) ∧
        t.dev.devDigest = if device = true then Config.shake256 image else s.dev.devDigest)) ∧
  ∀ s : State,
    let may : Prop := s.dev.dbg = 2 ∧ (s.dev.sstate = 2 ∨ (s.dev.sstate = 1 ∧ s.dev.pscur = 3))
    (¬may → exec .repairRecordReset s = .next s) ∧
    (may → exec .repairRecordReset s = .next { s with dev := { s.dev with
      retired := [], bankErrs := [], scrubbed := [], pages := [], xlost := 0, ilost := 0 } })

/-- The host's registers (08 R175, R176, R186, R187; 22 R443, R444). Up to sixteen invalidations wait, and one more is discarded and says so. A migration starts in a free slot, and its dual
writes end once no write addressed to the old frame is left. A queue's indices are taken within its size; EN from 0 to 1 restarts it, with a LOG2N of at least 4; EN from 1 to 0 drops its packets and withdraws its launches with ILLEGAL 0x22; EN written to a halted queue resumes it.
PFCTL takes EN and DIST, and CLR clears the counters. A register write acts as the event of its offset, and what is not listed is ignored, as at debug level Locked the debug window is (22 R441); IDENT and SECSTAT read in every security state, the status
words in SECURE, and SRQ in RECOVERY too.
Where the spec leaves a point open, the statement takes the model's choice: log 64 (DEDUCED), log 65 (DESIGN CHOICE), log 67 (DEDUCED). -/
def Obligations.HostRegisters : Prop :=
  (∀ (s : State) (v : Word) (m : Mig),
    let h := s.host
    let key := fld h.migsrc.toNat 36 3 * 8 + bits v 2 0
    let src := h.migsrc.toNat / 65536 * 65536
    let dst := h.migdst.toNat / 65536 * 65536
    let stack (a : Nat) : Prop := a < 8 * 2 ^ 36 ∧ a % 2 ^ 36 < stackBytes
    (s.dev.sstate ≠ 1 → exec (.tlbinv v) s = .next s ∧ exec (.migrationStart v) s = .next s ∧ exec (.migrationEnd v) s = .next s) ∧
    (s.dev.sstate = 1 → exec (.tlbinv v) s = .next { s with host :=
      if 16 ≤ h.tlbpend.length then { h with tlbovf := true } else { h with tlbpend := h.tlbpend ++ [v] } }) ∧
    (s.dev.sstate = 1 → bits v 9 8 = 1 → mfind s.migs key = none → stack src → stack dst →
      exec (.migrationStart v) s = .next { s with migs := mset s.migs key { src := src, dst := dst, done := false, ending := false } }) ∧
    (bits v 9 8 ≠ 1 ∨ (mfind s.migs key).isSome = true → exec (.migrationStart v) s = .next s) ∧
    (bits v 9 8 ≠ 2 ∨ mfind s.migs key = none → exec (.migrationEnd v) s = .next s) ∧
    (s.dev.sstate = 1 → bits v 9 8 = 2 → s.migs = [(key, m)] →
      exec (.migrationEnd v) s = .next { s with migs := if s.addressed (m.src / 65536) = true then [(key, { m with ending := true })] else [] })) ∧
  (∀ (s : State) (q : BitVec 6) (v : Word) (l : Launch),
    let n := q.toNat
    let x := s.sq n
    let y := s.cq n
    let lg := bits v 19 16
    (s.dev.sstate ≠ 1 ∨ 2 ^ x.log2n ≤ v.toNat → exec (.sqDoorbell q v) s = .next s) ∧
    (s.dev.sstate = 1 → v.toNat < 2 ^ x.log2n → ∃ t, exec (.sqDoorbell q v) s = .next t ∧ SameMem s t ∧ t.sq n = { x with prod := v.toNat }) ∧
    (s.dev.sstate ≠ 1 ∨ 2 ^ y.log2n ≤ v.toNat → exec (.cqConsumerIndex q v) s = .next s) ∧
    (s.dev.sstate = 1 → v.toNat < 2 ^ y.log2n → ∃ t, exec (.cqConsumerIndex q v) s = .next t ∧ SameMem s t ∧ t.cq n = { y with cons := v.toNat }) ∧
    (s.dev.sstate ≠ 1 ∨ bit v 31 = false → exec (.queueEnable true q v) s = .next s ∧ exec (.queueEnable false q v) s = .next s) ∧
    (s.dev.sstate = 1 → bit v 31 = true →
      (y.en = true → exec (.queueEnable true q v) s = .next s) ∧ (x.en = true → exec (.queueEnable false q v) s = .next s) ∧
      (y.en = false → ∃ t, exec (.queueEnable true q v) s = .next t ∧ SameMem s t ∧
        t.cq n = if 4 ≤ lg then { y with en := true, log2n := lg, prod := 0, cons := 0, seq := 0, phase := true } else { y with log2n := lg }) ∧
      (x.en = false → ∃ t, exec (.queueEnable false q v) s = .next t ∧ SameMem s t ∧ (t.sq n).en = decide (4 ≤ lg) ∧ (t.sq n).log2n = lg ∧
        (t.sq n).compat = bit v 27 ∧ (4 ≤ lg → (t.sq n).prod = 0 ∧ (t.sq n).cons = 0 ∧ (t.sq n).halt = false ∧ (t.sq n).fence = none))) ∧
    (s.dev.sstate ≠ 1 ∨ x.en = false ∨ bit v 31 = true → exec (.queueAbort q v) s = .next s) ∧
    (s.dev.sstate = 1 → x.en = true → bit v 31 = false → s.launches = [l] → l.queue = some n → l.st = .waiting →
      ∃ t e, exec (.queueAbort q v) s = .next t ∧ SameMem s t ∧ (t.sq n).en = false ∧ (t.sq n).fence = none ∧ (t.sq n).prod = 0 ∧
        (t.launch l.serial).st = .rejected ∧ (t.cq l.cqn).waiting = (s.cq l.cqn).waiting ++ [e] ∧ e.serial = l.serial ∧ e.rep.cls = 9 ∧
        e.rep.detail = 0x22) ∧
    (s.dev.sstate ≠ 1 ∨ x.en = false ∨ x.halt = false ∨ bit v 31 = false → exec (.queueResume q v) s = .next s) ∧
    (s.dev.sstate = 1 → x.en = true → x.halt = true → bit v 31 = true →
      ∃ t, exec (.queueResume q v) s = .next t ∧ SameMem s t ∧ t.sq n = { x with halt := false, compat := bit v 27, log2n := lg })) ∧
  ∀ (s : State) (v : Word) (off : BitVec 25) (q : BitVec 6),
    let n := clusterOf s.cur.core
    (∃ t, exec (.pfctlClr v) s = .next t ∧ SameMem s t ∧ (t.cluster n).pfctl = BitVec.ofNat 8 (bits v 7 4 * 16 + bits v 0 0) ∧
      (t.cluster n).lines = (s.cluster n).lines ∧
      (bit v 63 = true → (t.cluster n).pflines = 0 ∧ (t.cluster n).pfused = 0 ∧ (t.cluster n).pfearly = 0) ∧
      (bit v 63 = false → (t.cluster n).pflines = (s.cluster n).pflines)) ∧
    (exec (.registerWrite 0x10 v) s = exec (.psctlRequest v) s) ∧
    (s.dev.sstate = 1 →
      exec (.registerWrite 0x40 v) s = .next { s with host := { s.host with fqbase := v } } ∧
      exec (.registerWrite 0x48 v) s = .next { s with host := { s.host with fqlog := bits v 4 0, fqhead := bits v 39 16 } } ∧
      exec (.registerWrite 0x50 v) s = exec (.replay v) s ∧ exec (.registerWrite 0x58 v) s = exec (.tlbinv v) s ∧
      exec (.registerWrite 0x600 v) s = .next { s with host := { s.host with partser := v } } ∧
      (off.toNat = 0x1010 + 32 * q.toNat → exec (.registerWrite off v) s = exec (.sqDoorbell q v) s) ∧
      (off.toNat = 0x2018 + 32 * q.toNat → exec (.registerWrite off v) s = exec (.cqConsumerIndex q v) s) ∧
      (off.toNat % 8 ≠ 0 → exec (.registerWrite off v) s = .next s) ∧
      (s.dev.dbg = 0 → 0x1000000 ≤ off.toNat → exec (.registerWrite off v) s = .next s ∧ s.bar0Read off.toNat = 0)) ∧
    (s.dev.sstate ≠ 1 → s.dev.sstate ≠ 2 → off.toNat ≠ 0x10 → exec (.registerWrite off v) s = .next s) ∧
    s.bar0Read 0 = identWord ∧ s.bar0Read 8 = s.secstat ∧
    (s.dev.sstate = 1 → s.bar0Read 0x10 = s.psctl ∧ s.bar0Read 0x18 = s.srqWord ∧ s.bar0Read 0x20 = s.pwrStat ∧
      s.bar0Read 0x28 = s.thermStat) ∧
    (s.dev.sstate = 2 → s.bar0Read 0x18 = s.srqWord ∧ s.bar0Read 0x10 = 0)

/-- Words decode to the instructions that the encoding tables give them (05 R89 to R103; 13 R296). -/
def Obligations.DecodeWords : Prop := ∀ x ∈ sampleWords, decodeTableWord x.1 x.2.1 = some x.2.2

/-- Decoding an encoded well-formed instruction gives it back, with every operand, for every word and halfword of a core, every matrix command and every chunk
instruction; and a core's word that decodes is the encoding of what it decodes to, which is well formed, so that no two words stand for one instruction. -/
def Obligations.EncodeDecode : Prop :=
  (∀ (i : Instr) (p : Nat × Nat), i.wf = true → encode i = some p → decodeTableWord p.1 p.2 = some i) ∧
  (∀ (i : Instr) (v : Nat), encodeMxu i = some v → usedMxu i = true → decodeMxu v = .ok i) ∧
  (∀ (i : Instr) (v : Nat), encodeHalo i = some v → chunkOk i = true → decodeHalo v = .ok i) ∧
  (∀ (w : Nat) (i : Instr), 2 ^ 31 ≤ w → w < 2 ^ 32 → decodeWide w = .ok i → i.wf = true ∧ encode i = some (32, w)) ∧
  ∀ (w : Nat) (i : Instr), w < 2 ^ 15 → decodeHalf w = .ok (.instr i) → i.wf = true ∧ encode i = some (16, w)

/-- A step runs the decoded instruction (04 R59, R60; 05 R25, R88, R89, R99; 12 R256; 13 R295). Halfwords at the pc that decode give that instruction to the fetch; a
core whose turn it is moves to its next context's cycle and does what `exec` does of the instruction fetched, or passes it by where a PRED prefix names
a predicate that is false, and ISSUED counts. The leader of a pair has then only issued it; its trailer's issue runs it, once, where the two hold the
same registers (10 R222, R224). A hart, the matrix unit, a schedule and an event run their decoded instruction too.
Where the spec leaves a point open, the statement takes the model's choice: log 1 (DESIGN CHOICE), log 26 (DEDUCED), log 80 (DEDUCED), log 87 (DEDUCED), log 89 (DEDUCED). -/
def Obligations.StepRuns : Prop :=
  (∀ (s : State) (t : ThreadId) (h g : Nat) (i : Instr),
    let half (n : Nat) : CodeHalf := s.codeHalf (s.launchOf t) t.core ((s.ctx t).pc + w64 n)
    (half 0 = .ok h → h < 32768 → decodeHalf h = .ok (.instr i) → s.fetch t = .instr i 0 false none 2) ∧
    (half 0 = .ok h → half 2 = .ok g → 32768 ≤ h → decodeWide (h * 65536 + g) = .ok i → s.fetch t = .instr i 0 false none 4)) ∧
  (∀ (s : State) (c : CoreId) (k n pfx len : Nat) (rlx : Bool) (i : Instr) (pred : Option (Bool × BitVec 3)) (rest : List Turn), Issues s c k n rest →
    let t := c.thread k
    let u := (issuing { s with sched := rest } c k n t).updMe fun x => { x with pfx := 0, rlx := false }
    s.fetch t = .instr i pfx rlx pred len →
    ((s.launchOf t).isPair = false → (s.ctx t).pend = [] → illegalAt i = none →
      step s = afterIssue t (predicated (prefixed u pfx rlx (u.reads t i)) i pred len)) ∧
    ((s.launchOf t).isPair = true → k < 8 →
      step s = .next (u.updMe fun x =>
        { x with ahead := some { instr := i, pfx := pfx, rlx := rlx, pred := pred, len := len, got := u.reads t i } }))) ∧
  (∀ (s r : State) (c : CoreId) (k n : Nat) (a : Ahead) (rest : List Turn), Issues s c (k + 8) n rest → k < 8 →
    let t := c.thread k
    let v := prefixed ((issuing { s with sched := rest } c (k + 8) n t).updMe fun x => { x with ahead := none }) a.pfx a.rlx a.got
    (s.launchOf t).isPair = true → (s.launchOf (c.thread (k + 8))).isPair = true → (s.ctx t).ahead = some a → (s.ctx t).pend = [] →
    illegalAt a.instr = none → SamePair (s.ctx t) (s.ctx (c.thread (k + 8))) → predicated v a.instr a.pred a.len = .next r →
    ∃ w, step s = afterIssue t (.next w) ∧ (w = r ∨ ∃ x, w = r.setCtx (c.thread (k + 8)) x)) ∧
  (∀ (s : State) (h : HartId) (i : Instr) (rest : List Turn), s.hole = none → s.resume = [] → s.sched = .hart h :: rest → s.dev.powered = true →
    (s.hartOf h).ended = false → (s.hartOf h).stalled = false → s.streamStop h.core (s.hartBy h).serial = none → s.hartFetch h = some i →
    step s = exec i { s with sched := rest, curHart := h }) ∧
  (∀ (s : State) (c : CoreId) (q : MxCmd) (r : List MxCmd) (i : Instr) (rest : List Turn), s.hole = none → s.resume = [] → s.sched = .mxu c :: rest →
    s.dev.powered = true → (s.core c).mxu.queue = q :: r → s.savingOn c q.serial = false → decodeMxu (leNat q.bytes) = .ok i →
    step s = exec i { s with sched := rest, cur := q.thread }) ∧
  (∀ (s : State) (d n : Nat) (c : Sched) (w : Word) (i : Instr) (rest : List Turn), s.hole = none → s.resume = [] → s.sched = .halo d n :: rest →
    s.dev.powered = true → s.dev.pscur ≠ 3 → s.sched_ d n = some c → c.stopped = false → c.frozen = false → c.after = [] → c.word = some w → decodeHalo w.toNat = .ok i →
    step s = exec i { s with sched := rest, curHalo := (d, n) }) ∧
  ∀ (s : State) (i : Instr) (rest : List Turn), s.hole = none → s.resume = [] → s.sched = .event i :: rest → s.dev.powered = true →
    Instr.isEvent i = true → step s = exec i { s with sched := rest }

/-- What reset leaves (04 R57; 08 R186; 10 R202; 13 R276; 14 R305; 20 R402; 22 R427, R428, R439, R440, R444): every context FREE, every copy, lens and Halo tag IDLE with generation 0, the stream prefetcher on with a distance of 4, no
launch, every queue off, PS0 with its caps, BOOT and Locked; nothing is listed in memory, which has its canonical form (log 3, DESIGN CHOICE). -/
def Obligations.ResetValues : Prop :=
  (∀ t : ThreadId, (State.reset.ctx t).st = .free ∧ (State.reset.ctx t).cir = 0 ∧ (State.reset.ctx t).tmode = false) ∧
  (∀ (c : CoreId) (n : Nat), ((State.reset.core c).tag n).st = .idle ∧ ((State.reset.core c).tag n).gen = 0 ∧
    (mget Tag.reset (State.reset.core c).lens.tags n).st = .idle ∧ (mget Tag.reset (State.reset.core c).lens.tags n).gen = 0 ∧ (State.reset.core c).residents = [] ∧
    (State.reset.core c).dbgctl = 0 ∧ (State.reset.core c).mxu.errs = 0) ∧
  (∀ d n : Nat, ((State.reset.die d).htag n).st = .idle ∧ ((State.reset.die d).htag n).gen = 0 ∧ (State.reset.cluster d).pfctl = 0x41 ∧
    (State.reset.cluster d).pflines = 0 ∧ (State.reset.sq n).en = false ∧ (State.reset.cq n).en = false) ∧
  State.reset.launches = [] ∧ State.reset.dev.pscur = 0 ∧ State.reset.dev.sstate = 0 ∧ State.reset.dev.dbg = 0 ∧ State.reset.dev.thermmig = 0 ∧
  State.reset.dev.defer = 0 ∧ (State.reset.dev.capavg, State.reset.dev.cappeak) = (2600, 3400) ∧ Memory.wf State.reset.mem = true

/-- Memory is a function of its bytes: two memories in canonical form that read alike are equal data, and bytes written at consecutive keys are what those keys read
afterwards, while every other key reads as before.
Where the spec leaves a point open, the statement takes the model's choice: log 3 (DESIGN CHOICE). -/
def Obligations.MemoryReads : Prop :=
  (∀ m n : List Host.Cell, Memory.wf m = true → Memory.wf n = true → (∀ k, memGet m k = memGet n k) → m = n) ∧
  (∀ (m : List Host.Cell) (k j : Nat) (b : List Byte),
    memGet (memWrite m k b) j = if k ≤ j ∧ j < k + b.length then b.getD (j - k) 0 else memGet m j) ∧
  ∀ (m : List Host.Cell) (k : Nat) (b : List Byte), memRead (memWrite m k b) k b.length = b

/-- Every step of the machine, whatever moves, keeps memory in its canonical form: addresses strictly rising, and no byte listed that an unlisted address reads as.
Where the spec leaves a point open, the statement takes the model's choice: log 1 (DESIGN CHOICE), log 3 (DESIGN CHOICE). -/
def Obligations.StepKeepsMemory : Prop :=
  ∀ s t : State, Memory.wf s.mem = true → step s = .next t → Memory.wf t.mem = true

/-- H.WAIT (20 R413): once the counter, read as unsigned, is at least VALUE, VALUE is taken off and the schedule proceeds; until then, however long,
the schedule stays where it is and shows that it waits. A VALUE of 0 proceeds at once. -/
def Obligations.HaloWait : Prop :=
  ∀ (s : State) (c : Sched) (e : BitVec 3) (v : BitVec 32), ChunkOn s c →
    let x := mget 0 c.evs e.toNat
    (v.toNat ≤ x.toNat → ∃ t, exec (.hWait e v) s = .next t ∧
      ChunkGoes s t { c with pcix := c.pcix + 1, evw := false, word := none, evs := mset c.evs e.toNat (x - v) }) ∧
    (x.toNat < v.toNat → ∃ t, exec (.hWait e v) s = .next t ∧ ChunkGoes s t { c with evw := true }) ∧
    (v = 0 → ∃ t f, exec (.hWait e v) s = .next t ∧ ChunkGoes s t f ∧ f.pcix = c.pcix + 1)

/-- The issue rotation (04 R59, R60, R63; 01 R13; the clock of a tier: the model's choice: log 87, DEDUCED), for cores with no pair and no suspension in its write-back. At T0 context k issues only in cycles n with n mod 16 = k.
Elsewhere a context is eligible in cycle n if it is READY, from a cycle no later than n (a thread woken or filled in a cycle is READY from the next), and has not issued in the seven cycles before, and the cycle issues from the eligible
context whose number follows most closely after the last to issue, 15 after reset; a cycle with no eligible context is passed by, issuing nothing. The cycles of a
tier's clock, one for all of its cores, do not pass over the next issue of any of them, and none pass while the clocks are stopped in PS3 (01 R7).
Where the spec leaves a point open, the statement takes the model's choice: log 87 (DEDUCED). -/
def Obligations.IssueRotation : Prop :=
  (∀ c : CoreId, (State.reset.core c).lastCtx = 15) ∧
  (∀ (s : State) (c : CoreId), (s.core c).lastCtx < 16 →
    (∀ k, k < 16 → ((s.core c).ctx k).susp = none ∧ (s.launch ((s.core c).ctx k).serial).isPair = false) →
    let now := s.cyc c
    let open_ (n : Nat) : Prop := (s.core c).issuedIn ≠ some n
    (∀ k m, k < 16 → ((s.core c).ctx k).lastIssue = some m → m ≤ now) → (∀ m, (s.core c).issuedIn = some m → m ≤ now) →
    (∀ k, k < 16 → ((s.core c).ctx k).readyAt ≤ now + 1) →
    let ready (n k : Nat) : Prop := k < 16 ∧ ((s.core c).ctx k).st = .ready ∧ ((s.core c).ctx k).readyAt ≤ n
    let free (n k : Nat) : Prop := ready n k ∧ ∀ m, ((s.core c).ctx k).lastIssue = some m → m + 7 < n
    let after (k : Nat) : Nat := (k + 15 - (s.core c).lastCtx) % 16
    (s.nextIssue c = none ↔ ∀ k, ¬ready (now + 1) k) ∧
    ∀ k n, s.nextIssue c = some (k, n) → now ≤ n ∧ open_ n ∧
      (c.tier = 0 → ready n k ∧ n % 16 = k ∧ ∀ m, now ≤ m → m < n → open_ m → ¬ ready m (m % 16)) ∧
      (c.tier ≠ 0 → free n k ∧ (∀ j, free n j → after k ≤ after j) ∧ ∀ m j, now ≤ m → m < n → open_ m → ¬free m j)) ∧
  ∀ (s : State) (tier n : Nat) (rest : List Turn), s.hole = none → s.resume = [] → s.sched = .tick tier n :: rest → s.dev.powered = true →
    let now := mget 0 s.clocks tier
    ∃ t, step s = .next t ∧ t = { s with sched := rest, clocks := t.clocks } ∧
      (s.dev.pscur = 3 → s.dev.slew = false → t.clocks = s.clocks) ∧ now ≤ mget 0 t.clocks tier ∧ mget 0 t.clocks tier ≤ now + n ∧
      (∀ x ∈ s.cores, ∀ k m, (coreOf x.1).tier = tier → s.nextIssue (coreOf x.1) = some (k, m) → mget 0 t.clocks tier ≤ m)

/-- The four BANKOP forms on an aligned block of Nimbus inside the launch's range, in banks with no error where no thread waits, complete and
change no byte outside the block (07 R150). STRM.BIND of a valid block in the launch's part of the core's own store, at T0 or T1, with the
register, the port and its harts unused, completes and binds the port; STRM.END of a bound register completes and unbinds it (13 R293, R294). VLD,
VST, VLDS, VLDX and VSTX with formats they take complete where every active element is aligned and lies in banked memory that the launch may use: the
command stands last in the VU's queue and the pc has moved on (11 R231, R235, R236). H.SEND, H.RECV, H.REDUCE and H.COPY with fewer than 64 operations on the die, buffers
in region 0x00 and a way to the peer complete and start their operation (20 R408, R410).
Where the spec leaves a point open, the statement takes the model's choice: log 30 (DEDUCED), log 31 (DEDUCED), log 53 (DEDUCED), log 59 (DEDUCED). -/
def Obligations.FormsComplete : Prop :=
  (∀ (s : State) (q : BitVec 2) (a : BitVec 5) (c : BitVec 4) (n : BitVec 3), Quiet s →
    let v := (s.me.x a.toNat).toNat
    let p := v % 2 ^ 25
    let k := 2 ^ 61 + s.cur.die * 2 ^ 25 + p
    let z := 8 * (n.toNat + 1)
    let L := s.launchOf s.cur
    (Fmt.ofClass c.toNat).isSome = true → v % 8 = 0 → v % 64 + z ≤ 64 → v / 2 ^ 25 = 0x7E * 2 ^ 31 → L.nmbase ≤ p → p + z ≤ L.nmbase + L.nmsize →
    (∀ w ∈ wordsOf k z, mget 0 s.badWords w = 0 ∧ bankKey w ∉ s.dev.retired ∧ calmWord s w) →
    ∀ i ∈ [Instr.bankopAdd q a c n, .bankopMax q a c n, .bankopMin q a c n, .bankopAxpy q a c n],
      ∃ t, exec i s = .next t ∧ Completes s t ∧ SameX s t ∧ SameOthers s t ∧ OnlyAt s t k z) ∧
  (∀ (s : State) (v : BitVec 2) (a : BitVec 5), VuIdle s →
    let c := s.core s.cur.core
    let at_ := s.me.x a.toNat
    let o := at_.toNat % 2 ^ 21
    let b := s.rd (storeKey s o) 64
    let p := leAt b 0 8 % 4
    let L := s.launchOf s.cur
    let binds := (c.win (s.vwin s.cur)).binds
    (at_.toNat / 2 ^ 21 = 0x7F * 2 ^ 35 → at_.toNat % 64 = 0 → L.on s.cur.core = true → L.base s.cur.core ≤ o →
      o + 64 ≤ L.base s.cur.core + L.lssize → (∀ w ∈ wordsOf (storeKey s o) 64, mget 0 s.badWords w = 0 ∧ bankKey w ∉ s.dev.retired) →
      scbOk b = true → (leAt b 0 8 / 4 % 2 = 1 ∨ (c.fmtOf (leAt b 0 8 / 2 ^ 8 % 16)).isSome = true) → s.cur.tier < 2 →
      mfind binds (12 + v.toNat) = none → (c.port p).bound = false → (c.hart p).ended = true → (c.hart (4 + p)).ended = true →
      ∃ t, exec (.strmBind v a) s = .next t ∧ Completes s t ∧ SameX s t ∧ SameMem s t ∧ ((t.core s.cur.core).port p).bound = true ∧
        mfind ((t.core s.cur.core).win (s.vwin s.cur)).binds (12 + v.toNat) = some p) ∧
    (∀ j, mfind binds (12 + v.toNat) = some j →
      ∃ t, exec (.strmEnd v) s = .next t ∧ Completes s t ∧ SameX s t ∧ SameMem s t ∧ ((t.core s.cur.core).port j).bound = false ∧
        ∃ m, (t.core s.cur.core).vq = [m] ∧ m.instr = .strmEnd v)) ∧
  (∀ (s : State) (v j f : BitVec 4) (a b : BitVec 5) (m : BitVec 3) (e : BitVec 1) (fm : Fmt), VuIdle s →
    ((s.core s.cur.core).win (s.vwin s.cur)).binds = [] →
    let img := (s.core s.cur.core).fmtOf f.toNat
    let W := (s.core s.cur.core).win (s.vwin s.cur)
    let x := s.me.x a.toNat
    let y := s.me.x b.toNat
    let n := if fm.cont = 16 then 2 else 4
    let lanes := (List.range (256 / n)).filter fun l => e == 0 || bit (W.m m.toNat) (l * n / 4)
    let al := if fm.cont < 16 then 256 else n
    let lane (l : Nat) (g : Fmt) : Word := if g.signed then (laneOf W j.toNat l).signExtend 64 else (laneOf W j.toNat l).zeroExtend 64
    let done (i : Instr) : Prop := ∃ t, exec i s = .next t ∧ Accepted s t i a.toNat
    (img = some fm → x.toNat % al = 0 → elemsLie s n n false (lanes.map fun l => x + w64 (n * l)) → done (.vld v a f m e)) ∧
    (viewFmt s v.toNat = some fm → x.toNat % al = 0 → elemsLie s n n true (lanes.map fun l => x + w64 (n * l)) → done (.vst v a m e)) ∧
    (img = some fm → 16 ≤ fm.cont → elemsLie s n n false (lanes.map fun l => x + w64 l * y) → done (.vlds v a b f m e)) ∧
    (∀ g, img = some fm → inW32 fm = true → viewFmt s j.toNat = some g → inI32 g = true →
      elemsLie s 4 4 false (lanes.map fun l => x + 4 * lane l g) → done (.vldx v a j f m e)) ∧
    (∀ g, viewFmt s v.toNat = some fm → inW32 fm = true → viewFmt s j.toNat = some g → inI32 g = true →
      elemsLie s 4 4 true (lanes.map fun l => x + 4 * lane l g) → done (.vstx v a j m e))) ∧
  ∀ (s : State) (c : Sched) (u : BitVec 3) (even : Bool) (ev w : BitVec 3) (p : BitVec 5) (ch : BitVec 6) (r : BitVec 4) (len : BitVec 14)
    (off : BitVec 24), ChunkOn s c → s.haloOps s.curHalo.1 < 64 →
    (p.toNat < 16 ∨ (bit s.dev.xlost (p.toNat - 16) = false ∧ s.routed s.curHalo.1 ((p.toNat - 16) / 2) = true)) →
    let va := mget 0 c.bases u.toNat + w64 (8 * off.toNat)
    let src := mget 0 c.bases w.toNat + w64 (8 * off.toNat)
    (mget 0 c.bases u.toNat).toNat / 2 ^ 56 = 0 → (mget 0 c.bases w.toNat).toNat / 2 ^ 56 = 0 →
    va.toNat % 8 = 0 → va.toNat < 2 ^ 52 → src.toNat % 8 = 0 → src.toNat < 2 ^ 52 →
    ∀ i ∈ [Instr.hSend u even ev p ch len off, .hRecv u even ev p ch len off, .hReduce u even ev p ch r len off, .hCopy u even ev w len off],
      ∃ t d o, exec i s = .next t ∧ ChunkGoes s t d ∧ d.ops = c.ops ++ [o] ∧ d.pcix = c.pcix + 1 ∧ o.va = va ∧ o.len = 8 * len.toNat
end

