-- ==== Sys2Proof/Laws/State.lean ====
section
/-! SUPPORT. One lemma per field that an update leaves as it is, so that no proof unfolds a record update; and what the accessors of
a core, a context and its registers read after a write. -/

namespace Sys2Proof.Machine.Laws

/-! Fields of the state. -/

@[simp] theorem setCore_cur (s : State) (c : CoreId) (k : Core) : (s.setCore c k).cur = s.cur := rfl
@[simp] theorem setCore_curHart (s : State) (c : CoreId) (k : Core) : (s.setCore c k).curHart = s.curHart := rfl
@[simp] theorem setCore_curHalo (s : State) (c : CoreId) (k : Core) : (s.setCore c k).curHalo = s.curHalo := rfl
@[simp] theorem setCore_sched (s : State) (c : CoreId) (k : Core) : (s.setCore c k).sched = s.sched := rfl
@[simp] theorem setCore_resume (s : State) (c : CoreId) (k : Core) : (s.setCore c k).resume = s.resume := rfl
@[simp] theorem setCore_freeCnt (s : State) (c : CoreId) (k : Core) : (s.setCore c k).freeCnt = s.freeCnt := rfl
@[simp] theorem setCore_hole (s : State) (c : CoreId) (k : Core) : (s.setCore c k).hole = s.hole := rfl
@[simp] theorem setCore_mem (s : State) (c : CoreId) (k : Core) : (s.setCore c k).mem = s.mem := rfl
@[simp] theorem setCore_fe (s : State) (c : CoreId) (k : Core) : (s.setCore c k).fe = s.fe := rfl
@[simp] theorem setCore_poison (s : State) (c : CoreId) (k : Core) : (s.setCore c k).poison = s.poison := rfl
@[simp] theorem setCore_badWords (s : State) (c : CoreId) (k : Core) : (s.setCore c k).badWords = s.badWords := rfl
@[simp] theorem setCore_stale (s : State) (c : CoreId) (k : Core) : (s.setCore c k).stale = s.stale := rfl
@[simp] theorem setCore_clusters (s : State) (c : CoreId) (k : Core) : (s.setCore c k).clusters = s.clusters := rfl
@[simp] theorem setCore_tlb (s : State) (c : CoreId) (k : Core) : (s.setCore c k).tlb = s.tlb := rfl
@[simp] theorem setCore_dies (s : State) (c : CoreId) (k : Core) : (s.setCore c k).dies = s.dies := rfl
@[simp] theorem setCore_launches (s : State) (c : CoreId) (k : Core) : (s.setCore c k).launches = s.launches := rfl
@[simp] theorem setCore_nextSerial (s : State) (c : CoreId) (k : Core) : (s.setCore c k).nextSerial = s.nextSerial := rfl
@[simp] theorem setCore_clocks (s : State) (c : CoreId) (k : Core) : (s.setCore c k).clocks = s.clocks := rfl
@[simp] theorem setCore_pairMis (s : State) (c : CoreId) (k : Core) : (s.setCore c k).pairMis = s.pairMis := rfl
@[simp] theorem setCore_bound286 (s : State) (c : CoreId) (k : Core) : (s.setCore c k).bound286 = s.bound286 := rfl
@[simp] theorem setCore_nextOrder (s : State) (c : CoreId) (k : Core) : (s.setCore c k).nextOrder = s.nextOrder := rfl
@[simp] theorem setCore_spills (s : State) (c : CoreId) (k : Core) : (s.setCore c k).spills = s.spills := rfl
@[simp] theorem setCore_migs (s : State) (c : CoreId) (k : Core) : (s.setCore c k).migs = s.migs := rfl
@[simp] theorem setCore_net (s : State) (c : CoreId) (k : Core) : (s.setCore c k).net = s.net := rfl
@[simp] theorem setCore_rst (s : State) (c : CoreId) (k : Core) : (s.setCore c k).rst = s.rst := rfl
@[simp] theorem setCore_savedCores (s : State) (c : CoreId) (k : Core) : (s.setCore c k).savedCores = s.savedCores := rfl
@[simp] theorem setCore_host (s : State) (c : CoreId) (k : Core) : (s.setCore c k).host = s.host := rfl
@[simp] theorem setCore_dev (s : State) (c : CoreId) (k : Core) : (s.setCore c k).dev = s.dev := rfl

@[simp] theorem updCore_cur (s : State) (c : CoreId) (f : Core → Core) : (s.updCore c f).cur = s.cur := rfl
@[simp] theorem updCore_curHart (s : State) (c : CoreId) (f : Core → Core) : (s.updCore c f).curHart = s.curHart := rfl
@[simp] theorem updCore_curHalo (s : State) (c : CoreId) (f : Core → Core) : (s.updCore c f).curHalo = s.curHalo := rfl
@[simp] theorem updCore_sched (s : State) (c : CoreId) (f : Core → Core) : (s.updCore c f).sched = s.sched := rfl
@[simp] theorem updCore_resume (s : State) (c : CoreId) (f : Core → Core) : (s.updCore c f).resume = s.resume := rfl
@[simp] theorem updCore_freeCnt (s : State) (c : CoreId) (f : Core → Core) : (s.updCore c f).freeCnt = s.freeCnt := rfl
@[simp] theorem updCore_hole (s : State) (c : CoreId) (f : Core → Core) : (s.updCore c f).hole = s.hole := rfl
@[simp] theorem updCore_mem (s : State) (c : CoreId) (f : Core → Core) : (s.updCore c f).mem = s.mem := rfl
@[simp] theorem updCore_fe (s : State) (c : CoreId) (f : Core → Core) : (s.updCore c f).fe = s.fe := rfl
@[simp] theorem updCore_poison (s : State) (c : CoreId) (f : Core → Core) : (s.updCore c f).poison = s.poison := rfl
@[simp] theorem updCore_badWords (s : State) (c : CoreId) (f : Core → Core) : (s.updCore c f).badWords = s.badWords := rfl
@[simp] theorem updCore_stale (s : State) (c : CoreId) (f : Core → Core) : (s.updCore c f).stale = s.stale := rfl
@[simp] theorem updCore_clusters (s : State) (c : CoreId) (f : Core → Core) : (s.updCore c f).clusters = s.clusters := rfl
@[simp] theorem updCore_tlb (s : State) (c : CoreId) (f : Core → Core) : (s.updCore c f).tlb = s.tlb := rfl
@[simp] theorem updCore_dies (s : State) (c : CoreId) (f : Core → Core) : (s.updCore c f).dies = s.dies := rfl
@[simp] theorem updCore_launches (s : State) (c : CoreId) (f : Core → Core) : (s.updCore c f).launches = s.launches := rfl
@[simp] theorem updCore_nextSerial (s : State) (c : CoreId) (f : Core → Core) : (s.updCore c f).nextSerial = s.nextSerial := rfl
@[simp] theorem updCore_clocks (s : State) (c : CoreId) (f : Core → Core) : (s.updCore c f).clocks = s.clocks := rfl
@[simp] theorem updCore_pairMis (s : State) (c : CoreId) (f : Core → Core) : (s.updCore c f).pairMis = s.pairMis := rfl
@[simp] theorem updCore_bound286 (s : State) (c : CoreId) (f : Core → Core) : (s.updCore c f).bound286 = s.bound286 := rfl
@[simp] theorem updCore_nextOrder (s : State) (c : CoreId) (f : Core → Core) : (s.updCore c f).nextOrder = s.nextOrder := rfl
@[simp] theorem updCore_spills (s : State) (c : CoreId) (f : Core → Core) : (s.updCore c f).spills = s.spills := rfl
@[simp] theorem updCore_migs (s : State) (c : CoreId) (f : Core → Core) : (s.updCore c f).migs = s.migs := rfl
@[simp] theorem updCore_net (s : State) (c : CoreId) (f : Core → Core) : (s.updCore c f).net = s.net := rfl
@[simp] theorem updCore_rst (s : State) (c : CoreId) (f : Core → Core) : (s.updCore c f).rst = s.rst := rfl
@[simp] theorem updCore_savedCores (s : State) (c : CoreId) (f : Core → Core) : (s.updCore c f).savedCores = s.savedCores := rfl
@[simp] theorem updCore_host (s : State) (c : CoreId) (f : Core → Core) : (s.updCore c f).host = s.host := rfl
@[simp] theorem updCore_dev (s : State) (c : CoreId) (f : Core → Core) : (s.updCore c f).dev = s.dev := rfl

@[simp] theorem setCtx_cur (s : State) (t : ThreadId) (c : Ctx) : (s.setCtx t c).cur = s.cur := rfl
@[simp] theorem setCtx_curHart (s : State) (t : ThreadId) (c : Ctx) : (s.setCtx t c).curHart = s.curHart := rfl
@[simp] theorem setCtx_curHalo (s : State) (t : ThreadId) (c : Ctx) : (s.setCtx t c).curHalo = s.curHalo := rfl
@[simp] theorem setCtx_sched (s : State) (t : ThreadId) (c : Ctx) : (s.setCtx t c).sched = s.sched := rfl
@[simp] theorem setCtx_resume (s : State) (t : ThreadId) (c : Ctx) : (s.setCtx t c).resume = s.resume := rfl
@[simp] theorem setCtx_freeCnt (s : State) (t : ThreadId) (c : Ctx) : (s.setCtx t c).freeCnt = s.freeCnt := rfl
@[simp] theorem setCtx_hole (s : State) (t : ThreadId) (c : Ctx) : (s.setCtx t c).hole = s.hole := rfl
@[simp] theorem setCtx_mem (s : State) (t : ThreadId) (c : Ctx) : (s.setCtx t c).mem = s.mem := rfl
@[simp] theorem setCtx_fe (s : State) (t : ThreadId) (c : Ctx) : (s.setCtx t c).fe = s.fe := rfl
@[simp] theorem setCtx_poison (s : State) (t : ThreadId) (c : Ctx) : (s.setCtx t c).poison = s.poison := rfl
@[simp] theorem setCtx_badWords (s : State) (t : ThreadId) (c : Ctx) : (s.setCtx t c).badWords = s.badWords := rfl
@[simp] theorem setCtx_stale (s : State) (t : ThreadId) (c : Ctx) : (s.setCtx t c).stale = s.stale := rfl
@[simp] theorem setCtx_clusters (s : State) (t : ThreadId) (c : Ctx) : (s.setCtx t c).clusters = s.clusters := rfl
@[simp] theorem setCtx_tlb (s : State) (t : ThreadId) (c : Ctx) : (s.setCtx t c).tlb = s.tlb := rfl
@[simp] theorem setCtx_dies (s : State) (t : ThreadId) (c : Ctx) : (s.setCtx t c).dies = s.dies := rfl
@[simp] theorem setCtx_launches (s : State) (t : ThreadId) (c : Ctx) : (s.setCtx t c).launches = s.launches := rfl
@[simp] theorem setCtx_nextSerial (s : State) (t : ThreadId) (c : Ctx) : (s.setCtx t c).nextSerial = s.nextSerial := rfl
@[simp] theorem setCtx_clocks (s : State) (t : ThreadId) (c : Ctx) : (s.setCtx t c).clocks = s.clocks := rfl
@[simp] theorem setCtx_pairMis (s : State) (t : ThreadId) (c : Ctx) : (s.setCtx t c).pairMis = s.pairMis := rfl
@[simp] theorem setCtx_bound286 (s : State) (t : ThreadId) (c : Ctx) : (s.setCtx t c).bound286 = s.bound286 := rfl
@[simp] theorem setCtx_nextOrder (s : State) (t : ThreadId) (c : Ctx) : (s.setCtx t c).nextOrder = s.nextOrder := rfl
@[simp] theorem setCtx_spills (s : State) (t : ThreadId) (c : Ctx) : (s.setCtx t c).spills = s.spills := rfl
@[simp] theorem setCtx_migs (s : State) (t : ThreadId) (c : Ctx) : (s.setCtx t c).migs = s.migs := rfl
@[simp] theorem setCtx_net (s : State) (t : ThreadId) (c : Ctx) : (s.setCtx t c).net = s.net := rfl
@[simp] theorem setCtx_rst (s : State) (t : ThreadId) (c : Ctx) : (s.setCtx t c).rst = s.rst := rfl
@[simp] theorem setCtx_savedCores (s : State) (t : ThreadId) (c : Ctx) : (s.setCtx t c).savedCores = s.savedCores := rfl
@[simp] theorem setCtx_host (s : State) (t : ThreadId) (c : Ctx) : (s.setCtx t c).host = s.host := rfl
@[simp] theorem setCtx_dev (s : State) (t : ThreadId) (c : Ctx) : (s.setCtx t c).dev = s.dev := rfl

@[simp] theorem updCtx_cur (s : State) (t : ThreadId) (f : Ctx → Ctx) : (s.updCtx t f).cur = s.cur := rfl
@[simp] theorem updCtx_curHart (s : State) (t : ThreadId) (f : Ctx → Ctx) : (s.updCtx t f).curHart = s.curHart := rfl
@[simp] theorem updCtx_curHalo (s : State) (t : ThreadId) (f : Ctx → Ctx) : (s.updCtx t f).curHalo = s.curHalo := rfl
@[simp] theorem updCtx_sched (s : State) (t : ThreadId) (f : Ctx → Ctx) : (s.updCtx t f).sched = s.sched := rfl
@[simp] theorem updCtx_resume (s : State) (t : ThreadId) (f : Ctx → Ctx) : (s.updCtx t f).resume = s.resume := rfl
@[simp] theorem updCtx_freeCnt (s : State) (t : ThreadId) (f : Ctx → Ctx) : (s.updCtx t f).freeCnt = s.freeCnt := rfl
@[simp] theorem updCtx_hole (s : State) (t : ThreadId) (f : Ctx → Ctx) : (s.updCtx t f).hole = s.hole := rfl
@[simp] theorem updCtx_mem (s : State) (t : ThreadId) (f : Ctx → Ctx) : (s.updCtx t f).mem = s.mem := rfl
@[simp] theorem updCtx_fe (s : State) (t : ThreadId) (f : Ctx → Ctx) : (s.updCtx t f).fe = s.fe := rfl
@[simp] theorem updCtx_poison (s : State) (t : ThreadId) (f : Ctx → Ctx) : (s.updCtx t f).poison = s.poison := rfl
@[simp] theorem updCtx_badWords (s : State) (t : ThreadId) (f : Ctx → Ctx) : (s.updCtx t f).badWords = s.badWords := rfl
@[simp] theorem updCtx_stale (s : State) (t : ThreadId) (f : Ctx → Ctx) : (s.updCtx t f).stale = s.stale := rfl
@[simp] theorem updCtx_clusters (s : State) (t : ThreadId) (f : Ctx → Ctx) : (s.updCtx t f).clusters = s.clusters := rfl
@[simp] theorem updCtx_tlb (s : State) (t : ThreadId) (f : Ctx → Ctx) : (s.updCtx t f).tlb = s.tlb := rfl
@[simp] theorem updCtx_dies (s : State) (t : ThreadId) (f : Ctx → Ctx) : (s.updCtx t f).dies = s.dies := rfl
@[simp] theorem updCtx_launches (s : State) (t : ThreadId) (f : Ctx → Ctx) : (s.updCtx t f).launches = s.launches := rfl
@[simp] theorem updCtx_nextSerial (s : State) (t : ThreadId) (f : Ctx → Ctx) : (s.updCtx t f).nextSerial = s.nextSerial := rfl
@[simp] theorem updCtx_clocks (s : State) (t : ThreadId) (f : Ctx → Ctx) : (s.updCtx t f).clocks = s.clocks := rfl
@[simp] theorem updCtx_pairMis (s : State) (t : ThreadId) (f : Ctx → Ctx) : (s.updCtx t f).pairMis = s.pairMis := rfl
@[simp] theorem updCtx_bound286 (s : State) (t : ThreadId) (f : Ctx → Ctx) : (s.updCtx t f).bound286 = s.bound286 := rfl
@[simp] theorem updCtx_nextOrder (s : State) (t : ThreadId) (f : Ctx → Ctx) : (s.updCtx t f).nextOrder = s.nextOrder := rfl
@[simp] theorem updCtx_spills (s : State) (t : ThreadId) (f : Ctx → Ctx) : (s.updCtx t f).spills = s.spills := rfl
@[simp] theorem updCtx_migs (s : State) (t : ThreadId) (f : Ctx → Ctx) : (s.updCtx t f).migs = s.migs := rfl
@[simp] theorem updCtx_net (s : State) (t : ThreadId) (f : Ctx → Ctx) : (s.updCtx t f).net = s.net := rfl
@[simp] theorem updCtx_rst (s : State) (t : ThreadId) (f : Ctx → Ctx) : (s.updCtx t f).rst = s.rst := rfl
@[simp] theorem updCtx_savedCores (s : State) (t : ThreadId) (f : Ctx → Ctx) : (s.updCtx t f).savedCores = s.savedCores := rfl
@[simp] theorem updCtx_host (s : State) (t : ThreadId) (f : Ctx → Ctx) : (s.updCtx t f).host = s.host := rfl
@[simp] theorem updCtx_dev (s : State) (t : ThreadId) (f : Ctx → Ctx) : (s.updCtx t f).dev = s.dev := rfl

@[simp] theorem updMe_cur (s : State) (f : Ctx → Ctx) : (s.updMe f).cur = s.cur := rfl
@[simp] theorem updMe_curHart (s : State) (f : Ctx → Ctx) : (s.updMe f).curHart = s.curHart := rfl
@[simp] theorem updMe_curHalo (s : State) (f : Ctx → Ctx) : (s.updMe f).curHalo = s.curHalo := rfl
@[simp] theorem updMe_sched (s : State) (f : Ctx → Ctx) : (s.updMe f).sched = s.sched := rfl
@[simp] theorem updMe_resume (s : State) (f : Ctx → Ctx) : (s.updMe f).resume = s.resume := rfl
@[simp] theorem updMe_freeCnt (s : State) (f : Ctx → Ctx) : (s.updMe f).freeCnt = s.freeCnt := rfl
@[simp] theorem updMe_hole (s : State) (f : Ctx → Ctx) : (s.updMe f).hole = s.hole := rfl
@[simp] theorem updMe_mem (s : State) (f : Ctx → Ctx) : (s.updMe f).mem = s.mem := rfl
@[simp] theorem updMe_fe (s : State) (f : Ctx → Ctx) : (s.updMe f).fe = s.fe := rfl
@[simp] theorem updMe_poison (s : State) (f : Ctx → Ctx) : (s.updMe f).poison = s.poison := rfl
@[simp] theorem updMe_badWords (s : State) (f : Ctx → Ctx) : (s.updMe f).badWords = s.badWords := rfl
@[simp] theorem updMe_stale (s : State) (f : Ctx → Ctx) : (s.updMe f).stale = s.stale := rfl
@[simp] theorem updMe_clusters (s : State) (f : Ctx → Ctx) : (s.updMe f).clusters = s.clusters := rfl
@[simp] theorem updMe_tlb (s : State) (f : Ctx → Ctx) : (s.updMe f).tlb = s.tlb := rfl
@[simp] theorem updMe_dies (s : State) (f : Ctx → Ctx) : (s.updMe f).dies = s.dies := rfl
@[simp] theorem updMe_launches (s : State) (f : Ctx → Ctx) : (s.updMe f).launches = s.launches := rfl
@[simp] theorem updMe_nextSerial (s : State) (f : Ctx → Ctx) : (s.updMe f).nextSerial = s.nextSerial := rfl
@[simp] theorem updMe_clocks (s : State) (f : Ctx → Ctx) : (s.updMe f).clocks = s.clocks := rfl
@[simp] theorem updMe_pairMis (s : State) (f : Ctx → Ctx) : (s.updMe f).pairMis = s.pairMis := rfl
@[simp] theorem updMe_bound286 (s : State) (f : Ctx → Ctx) : (s.updMe f).bound286 = s.bound286 := rfl
@[simp] theorem updMe_nextOrder (s : State) (f : Ctx → Ctx) : (s.updMe f).nextOrder = s.nextOrder := rfl
@[simp] theorem updMe_spills (s : State) (f : Ctx → Ctx) : (s.updMe f).spills = s.spills := rfl
@[simp] theorem updMe_migs (s : State) (f : Ctx → Ctx) : (s.updMe f).migs = s.migs := rfl
@[simp] theorem updMe_net (s : State) (f : Ctx → Ctx) : (s.updMe f).net = s.net := rfl
@[simp] theorem updMe_rst (s : State) (f : Ctx → Ctx) : (s.updMe f).rst = s.rst := rfl
@[simp] theorem updMe_savedCores (s : State) (f : Ctx → Ctx) : (s.updMe f).savedCores = s.savedCores := rfl
@[simp] theorem updMe_host (s : State) (f : Ctx → Ctx) : (s.updMe f).host = s.host := rfl
@[simp] theorem updMe_dev (s : State) (f : Ctx → Ctx) : (s.updMe f).dev = s.dev := rfl

@[simp] theorem updDie_cur (s : State) (d : Nat) (f : Die → Die) : (s.updDie d f).cur = s.cur := rfl
@[simp] theorem updDie_curHart (s : State) (d : Nat) (f : Die → Die) : (s.updDie d f).curHart = s.curHart := rfl
@[simp] theorem updDie_curHalo (s : State) (d : Nat) (f : Die → Die) : (s.updDie d f).curHalo = s.curHalo := rfl
@[simp] theorem updDie_sched (s : State) (d : Nat) (f : Die → Die) : (s.updDie d f).sched = s.sched := rfl
@[simp] theorem updDie_resume (s : State) (d : Nat) (f : Die → Die) : (s.updDie d f).resume = s.resume := rfl
@[simp] theorem updDie_freeCnt (s : State) (d : Nat) (f : Die → Die) : (s.updDie d f).freeCnt = s.freeCnt := rfl
@[simp] theorem updDie_hole (s : State) (d : Nat) (f : Die → Die) : (s.updDie d f).hole = s.hole := rfl
@[simp] theorem updDie_mem (s : State) (d : Nat) (f : Die → Die) : (s.updDie d f).mem = s.mem := rfl
@[simp] theorem updDie_fe (s : State) (d : Nat) (f : Die → Die) : (s.updDie d f).fe = s.fe := rfl
@[simp] theorem updDie_poison (s : State) (d : Nat) (f : Die → Die) : (s.updDie d f).poison = s.poison := rfl
@[simp] theorem updDie_badWords (s : State) (d : Nat) (f : Die → Die) : (s.updDie d f).badWords = s.badWords := rfl
@[simp] theorem updDie_stale (s : State) (d : Nat) (f : Die → Die) : (s.updDie d f).stale = s.stale := rfl
@[simp] theorem updDie_clusters (s : State) (d : Nat) (f : Die → Die) : (s.updDie d f).clusters = s.clusters := rfl
@[simp] theorem updDie_tlb (s : State) (d : Nat) (f : Die → Die) : (s.updDie d f).tlb = s.tlb := rfl
@[simp] theorem updDie_cores (s : State) (d : Nat) (f : Die → Die) : (s.updDie d f).cores = s.cores := rfl
@[simp] theorem updDie_launches (s : State) (d : Nat) (f : Die → Die) : (s.updDie d f).launches = s.launches := rfl
@[simp] theorem updDie_nextSerial (s : State) (d : Nat) (f : Die → Die) : (s.updDie d f).nextSerial = s.nextSerial := rfl
@[simp] theorem updDie_clocks (s : State) (d : Nat) (f : Die → Die) : (s.updDie d f).clocks = s.clocks := rfl
@[simp] theorem updDie_pairMis (s : State) (d : Nat) (f : Die → Die) : (s.updDie d f).pairMis = s.pairMis := rfl
@[simp] theorem updDie_bound286 (s : State) (d : Nat) (f : Die → Die) : (s.updDie d f).bound286 = s.bound286 := rfl
@[simp] theorem updDie_nextOrder (s : State) (d : Nat) (f : Die → Die) : (s.updDie d f).nextOrder = s.nextOrder := rfl
@[simp] theorem updDie_spills (s : State) (d : Nat) (f : Die → Die) : (s.updDie d f).spills = s.spills := rfl
@[simp] theorem updDie_migs (s : State) (d : Nat) (f : Die → Die) : (s.updDie d f).migs = s.migs := rfl
@[simp] theorem updDie_net (s : State) (d : Nat) (f : Die → Die) : (s.updDie d f).net = s.net := rfl
@[simp] theorem updDie_rst (s : State) (d : Nat) (f : Die → Die) : (s.updDie d f).rst = s.rst := rfl
@[simp] theorem updDie_savedCores (s : State) (d : Nat) (f : Die → Die) : (s.updDie d f).savedCores = s.savedCores := rfl
@[simp] theorem updDie_host (s : State) (d : Nat) (f : Die → Die) : (s.updDie d f).host = s.host := rfl
@[simp] theorem updDie_dev (s : State) (d : Nat) (f : Die → Die) : (s.updDie d f).dev = s.dev := rfl

@[simp] theorem updPart_cur (s : State) (d t : Nat) (f : Part → Part) : (s.updPart d t f).cur = s.cur := rfl
@[simp] theorem updPart_curHart (s : State) (d t : Nat) (f : Part → Part) : (s.updPart d t f).curHart = s.curHart := rfl
@[simp] theorem updPart_curHalo (s : State) (d t : Nat) (f : Part → Part) : (s.updPart d t f).curHalo = s.curHalo := rfl
@[simp] theorem updPart_sched (s : State) (d t : Nat) (f : Part → Part) : (s.updPart d t f).sched = s.sched := rfl
@[simp] theorem updPart_resume (s : State) (d t : Nat) (f : Part → Part) : (s.updPart d t f).resume = s.resume := rfl
@[simp] theorem updPart_freeCnt (s : State) (d t : Nat) (f : Part → Part) : (s.updPart d t f).freeCnt = s.freeCnt := rfl
@[simp] theorem updPart_hole (s : State) (d t : Nat) (f : Part → Part) : (s.updPart d t f).hole = s.hole := rfl
@[simp] theorem updPart_mem (s : State) (d t : Nat) (f : Part → Part) : (s.updPart d t f).mem = s.mem := rfl
@[simp] theorem updPart_fe (s : State) (d t : Nat) (f : Part → Part) : (s.updPart d t f).fe = s.fe := rfl
@[simp] theorem updPart_poison (s : State) (d t : Nat) (f : Part → Part) : (s.updPart d t f).poison = s.poison := rfl
@[simp] theorem updPart_badWords (s : State) (d t : Nat) (f : Part → Part) : (s.updPart d t f).badWords = s.badWords := rfl
@[simp] theorem updPart_stale (s : State) (d t : Nat) (f : Part → Part) : (s.updPart d t f).stale = s.stale := rfl
@[simp] theorem updPart_clusters (s : State) (d t : Nat) (f : Part → Part) : (s.updPart d t f).clusters = s.clusters := rfl
@[simp] theorem updPart_tlb (s : State) (d t : Nat) (f : Part → Part) : (s.updPart d t f).tlb = s.tlb := rfl
@[simp] theorem updPart_cores (s : State) (d t : Nat) (f : Part → Part) : (s.updPart d t f).cores = s.cores := rfl
@[simp] theorem updPart_launches (s : State) (d t : Nat) (f : Part → Part) : (s.updPart d t f).launches = s.launches := rfl
@[simp] theorem updPart_nextSerial (s : State) (d t : Nat) (f : Part → Part) : (s.updPart d t f).nextSerial = s.nextSerial := rfl
@[simp] theorem updPart_clocks (s : State) (d t : Nat) (f : Part → Part) : (s.updPart d t f).clocks = s.clocks := rfl
@[simp] theorem updPart_pairMis (s : State) (d t : Nat) (f : Part → Part) : (s.updPart d t f).pairMis = s.pairMis := rfl
@[simp] theorem updPart_bound286 (s : State) (d t : Nat) (f : Part → Part) : (s.updPart d t f).bound286 = s.bound286 := rfl
@[simp] theorem updPart_nextOrder (s : State) (d t : Nat) (f : Part → Part) : (s.updPart d t f).nextOrder = s.nextOrder := rfl
@[simp] theorem updPart_spills (s : State) (d t : Nat) (f : Part → Part) : (s.updPart d t f).spills = s.spills := rfl
@[simp] theorem updPart_migs (s : State) (d t : Nat) (f : Part → Part) : (s.updPart d t f).migs = s.migs := rfl
@[simp] theorem updPart_net (s : State) (d t : Nat) (f : Part → Part) : (s.updPart d t f).net = s.net := rfl
@[simp] theorem updPart_rst (s : State) (d t : Nat) (f : Part → Part) : (s.updPart d t f).rst = s.rst := rfl
@[simp] theorem updPart_savedCores (s : State) (d t : Nat) (f : Part → Part) : (s.updPart d t f).savedCores = s.savedCores := rfl
@[simp] theorem updPart_host (s : State) (d t : Nat) (f : Part → Part) : (s.updPart d t f).host = s.host := rfl
@[simp] theorem updPart_dev (s : State) (d t : Nat) (f : Part → Part) : (s.updPart d t f).dev = s.dev := rfl

@[simp] theorem updCluster_cur (s : State) (n : Nat) (f : Cluster → Cluster) : (s.updCluster n f).cur = s.cur := rfl
@[simp] theorem updCluster_curHart (s : State) (n : Nat) (f : Cluster → Cluster) : (s.updCluster n f).curHart = s.curHart := rfl
@[simp] theorem updCluster_curHalo (s : State) (n : Nat) (f : Cluster → Cluster) : (s.updCluster n f).curHalo = s.curHalo := rfl
@[simp] theorem updCluster_sched (s : State) (n : Nat) (f : Cluster → Cluster) : (s.updCluster n f).sched = s.sched := rfl
@[simp] theorem updCluster_resume (s : State) (n : Nat) (f : Cluster → Cluster) : (s.updCluster n f).resume = s.resume := rfl
@[simp] theorem updCluster_freeCnt (s : State) (n : Nat) (f : Cluster → Cluster) : (s.updCluster n f).freeCnt = s.freeCnt := rfl
@[simp] theorem updCluster_hole (s : State) (n : Nat) (f : Cluster → Cluster) : (s.updCluster n f).hole = s.hole := rfl
@[simp] theorem updCluster_mem (s : State) (n : Nat) (f : Cluster → Cluster) : (s.updCluster n f).mem = s.mem := rfl
@[simp] theorem updCluster_fe (s : State) (n : Nat) (f : Cluster → Cluster) : (s.updCluster n f).fe = s.fe := rfl
@[simp] theorem updCluster_poison (s : State) (n : Nat) (f : Cluster → Cluster) : (s.updCluster n f).poison = s.poison := rfl
@[simp] theorem updCluster_badWords (s : State) (n : Nat) (f : Cluster → Cluster) : (s.updCluster n f).badWords = s.badWords := rfl
@[simp] theorem updCluster_stale (s : State) (n : Nat) (f : Cluster → Cluster) : (s.updCluster n f).stale = s.stale := rfl
@[simp] theorem updCluster_tlb (s : State) (n : Nat) (f : Cluster → Cluster) : (s.updCluster n f).tlb = s.tlb := rfl
@[simp] theorem updCluster_cores (s : State) (n : Nat) (f : Cluster → Cluster) : (s.updCluster n f).cores = s.cores := rfl
@[simp] theorem updCluster_dies (s : State) (n : Nat) (f : Cluster → Cluster) : (s.updCluster n f).dies = s.dies := rfl
@[simp] theorem updCluster_launches (s : State) (n : Nat) (f : Cluster → Cluster) : (s.updCluster n f).launches = s.launches := rfl
@[simp] theorem updCluster_nextSerial (s : State) (n : Nat) (f : Cluster → Cluster) : (s.updCluster n f).nextSerial = s.nextSerial := rfl
@[simp] theorem updCluster_clocks (s : State) (n : Nat) (f : Cluster → Cluster) : (s.updCluster n f).clocks = s.clocks := rfl
@[simp] theorem updCluster_pairMis (s : State) (n : Nat) (f : Cluster → Cluster) : (s.updCluster n f).pairMis = s.pairMis := rfl
@[simp] theorem updCluster_bound286 (s : State) (n : Nat) (f : Cluster → Cluster) : (s.updCluster n f).bound286 = s.bound286 := rfl
@[simp] theorem updCluster_nextOrder (s : State) (n : Nat) (f : Cluster → Cluster) : (s.updCluster n f).nextOrder = s.nextOrder := rfl
@[simp] theorem updCluster_spills (s : State) (n : Nat) (f : Cluster → Cluster) : (s.updCluster n f).spills = s.spills := rfl
@[simp] theorem updCluster_migs (s : State) (n : Nat) (f : Cluster → Cluster) : (s.updCluster n f).migs = s.migs := rfl
@[simp] theorem updCluster_net (s : State) (n : Nat) (f : Cluster → Cluster) : (s.updCluster n f).net = s.net := rfl
@[simp] theorem updCluster_rst (s : State) (n : Nat) (f : Cluster → Cluster) : (s.updCluster n f).rst = s.rst := rfl
@[simp] theorem updCluster_savedCores (s : State) (n : Nat) (f : Cluster → Cluster) : (s.updCluster n f).savedCores = s.savedCores := rfl
@[simp] theorem updCluster_host (s : State) (n : Nat) (f : Cluster → Cluster) : (s.updCluster n f).host = s.host := rfl
@[simp] theorem updCluster_dev (s : State) (n : Nat) (f : Cluster → Cluster) : (s.updCluster n f).dev = s.dev := rfl

@[simp] theorem updCq_cur (s : State) (n : Nat) (f : CplQ → CplQ) : (s.updCq n f).cur = s.cur := rfl
@[simp] theorem updCq_curHart (s : State) (n : Nat) (f : CplQ → CplQ) : (s.updCq n f).curHart = s.curHart := rfl
@[simp] theorem updCq_curHalo (s : State) (n : Nat) (f : CplQ → CplQ) : (s.updCq n f).curHalo = s.curHalo := rfl
@[simp] theorem updCq_sched (s : State) (n : Nat) (f : CplQ → CplQ) : (s.updCq n f).sched = s.sched := rfl
@[simp] theorem updCq_resume (s : State) (n : Nat) (f : CplQ → CplQ) : (s.updCq n f).resume = s.resume := rfl
@[simp] theorem updCq_freeCnt (s : State) (n : Nat) (f : CplQ → CplQ) : (s.updCq n f).freeCnt = s.freeCnt := rfl
@[simp] theorem updCq_hole (s : State) (n : Nat) (f : CplQ → CplQ) : (s.updCq n f).hole = s.hole := rfl
@[simp] theorem updCq_mem (s : State) (n : Nat) (f : CplQ → CplQ) : (s.updCq n f).mem = s.mem := rfl
@[simp] theorem updCq_fe (s : State) (n : Nat) (f : CplQ → CplQ) : (s.updCq n f).fe = s.fe := rfl
@[simp] theorem updCq_poison (s : State) (n : Nat) (f : CplQ → CplQ) : (s.updCq n f).poison = s.poison := rfl
@[simp] theorem updCq_badWords (s : State) (n : Nat) (f : CplQ → CplQ) : (s.updCq n f).badWords = s.badWords := rfl
@[simp] theorem updCq_stale (s : State) (n : Nat) (f : CplQ → CplQ) : (s.updCq n f).stale = s.stale := rfl
@[simp] theorem updCq_clusters (s : State) (n : Nat) (f : CplQ → CplQ) : (s.updCq n f).clusters = s.clusters := rfl
@[simp] theorem updCq_tlb (s : State) (n : Nat) (f : CplQ → CplQ) : (s.updCq n f).tlb = s.tlb := rfl
@[simp] theorem updCq_cores (s : State) (n : Nat) (f : CplQ → CplQ) : (s.updCq n f).cores = s.cores := rfl
@[simp] theorem updCq_dies (s : State) (n : Nat) (f : CplQ → CplQ) : (s.updCq n f).dies = s.dies := rfl
@[simp] theorem updCq_launches (s : State) (n : Nat) (f : CplQ → CplQ) : (s.updCq n f).launches = s.launches := rfl
@[simp] theorem updCq_nextSerial (s : State) (n : Nat) (f : CplQ → CplQ) : (s.updCq n f).nextSerial = s.nextSerial := rfl
@[simp] theorem updCq_clocks (s : State) (n : Nat) (f : CplQ → CplQ) : (s.updCq n f).clocks = s.clocks := rfl
@[simp] theorem updCq_pairMis (s : State) (n : Nat) (f : CplQ → CplQ) : (s.updCq n f).pairMis = s.pairMis := rfl
@[simp] theorem updCq_bound286 (s : State) (n : Nat) (f : CplQ → CplQ) : (s.updCq n f).bound286 = s.bound286 := rfl
@[simp] theorem updCq_nextOrder (s : State) (n : Nat) (f : CplQ → CplQ) : (s.updCq n f).nextOrder = s.nextOrder := rfl
@[simp] theorem updCq_spills (s : State) (n : Nat) (f : CplQ → CplQ) : (s.updCq n f).spills = s.spills := rfl
@[simp] theorem updCq_migs (s : State) (n : Nat) (f : CplQ → CplQ) : (s.updCq n f).migs = s.migs := rfl
@[simp] theorem updCq_net (s : State) (n : Nat) (f : CplQ → CplQ) : (s.updCq n f).net = s.net := rfl
@[simp] theorem updCq_rst (s : State) (n : Nat) (f : CplQ → CplQ) : (s.updCq n f).rst = s.rst := rfl
@[simp] theorem updCq_savedCores (s : State) (n : Nat) (f : CplQ → CplQ) : (s.updCq n f).savedCores = s.savedCores := rfl
@[simp] theorem updCq_dev (s : State) (n : Nat) (f : CplQ → CplQ) : (s.updCq n f).dev = s.dev := rfl

@[simp] theorem updSq_cur (s : State) (n : Nat) (f : SubQ → SubQ) : (s.updSq n f).cur = s.cur := rfl
@[simp] theorem updSq_curHart (s : State) (n : Nat) (f : SubQ → SubQ) : (s.updSq n f).curHart = s.curHart := rfl
@[simp] theorem updSq_curHalo (s : State) (n : Nat) (f : SubQ → SubQ) : (s.updSq n f).curHalo = s.curHalo := rfl
@[simp] theorem updSq_sched (s : State) (n : Nat) (f : SubQ → SubQ) : (s.updSq n f).sched = s.sched := rfl
@[simp] theorem updSq_resume (s : State) (n : Nat) (f : SubQ → SubQ) : (s.updSq n f).resume = s.resume := rfl
@[simp] theorem updSq_freeCnt (s : State) (n : Nat) (f : SubQ → SubQ) : (s.updSq n f).freeCnt = s.freeCnt := rfl
@[simp] theorem updSq_hole (s : State) (n : Nat) (f : SubQ → SubQ) : (s.updSq n f).hole = s.hole := rfl
@[simp] theorem updSq_mem (s : State) (n : Nat) (f : SubQ → SubQ) : (s.updSq n f).mem = s.mem := rfl
@[simp] theorem updSq_fe (s : State) (n : Nat) (f : SubQ → SubQ) : (s.updSq n f).fe = s.fe := rfl
@[simp] theorem updSq_poison (s : State) (n : Nat) (f : SubQ → SubQ) : (s.updSq n f).poison = s.poison := rfl
@[simp] theorem updSq_badWords (s : State) (n : Nat) (f : SubQ → SubQ) : (s.updSq n f).badWords = s.badWords := rfl
@[simp] theorem updSq_stale (s : State) (n : Nat) (f : SubQ → SubQ) : (s.updSq n f).stale = s.stale := rfl
@[simp] theorem updSq_clusters (s : State) (n : Nat) (f : SubQ → SubQ) : (s.updSq n f).clusters = s.clusters := rfl
@[simp] theorem updSq_tlb (s : State) (n : Nat) (f : SubQ → SubQ) : (s.updSq n f).tlb = s.tlb := rfl
@[simp] theorem updSq_cores (s : State) (n : Nat) (f : SubQ → SubQ) : (s.updSq n f).cores = s.cores := rfl
@[simp] theorem updSq_dies (s : State) (n : Nat) (f : SubQ → SubQ) : (s.updSq n f).dies = s.dies := rfl
@[simp] theorem updSq_launches (s : State) (n : Nat) (f : SubQ → SubQ) : (s.updSq n f).launches = s.launches := rfl
@[simp] theorem updSq_nextSerial (s : State) (n : Nat) (f : SubQ → SubQ) : (s.updSq n f).nextSerial = s.nextSerial := rfl
@[simp] theorem updSq_clocks (s : State) (n : Nat) (f : SubQ → SubQ) : (s.updSq n f).clocks = s.clocks := rfl
@[simp] theorem updSq_pairMis (s : State) (n : Nat) (f : SubQ → SubQ) : (s.updSq n f).pairMis = s.pairMis := rfl
@[simp] theorem updSq_bound286 (s : State) (n : Nat) (f : SubQ → SubQ) : (s.updSq n f).bound286 = s.bound286 := rfl
@[simp] theorem updSq_nextOrder (s : State) (n : Nat) (f : SubQ → SubQ) : (s.updSq n f).nextOrder = s.nextOrder := rfl
@[simp] theorem updSq_spills (s : State) (n : Nat) (f : SubQ → SubQ) : (s.updSq n f).spills = s.spills := rfl
@[simp] theorem updSq_migs (s : State) (n : Nat) (f : SubQ → SubQ) : (s.updSq n f).migs = s.migs := rfl
@[simp] theorem updSq_net (s : State) (n : Nat) (f : SubQ → SubQ) : (s.updSq n f).net = s.net := rfl
@[simp] theorem updSq_rst (s : State) (n : Nat) (f : SubQ → SubQ) : (s.updSq n f).rst = s.rst := rfl
@[simp] theorem updSq_savedCores (s : State) (n : Nat) (f : SubQ → SubQ) : (s.updSq n f).savedCores = s.savedCores := rfl
@[simp] theorem updSq_dev (s : State) (n : Nat) (f : SubQ → SubQ) : (s.updSq n f).dev = s.dev := rfl

@[simp] theorem updLaunch_cur (s : State) (r : Word) (f : Launch → Launch) : (s.updLaunch r f).cur = s.cur := rfl
@[simp] theorem updLaunch_curHart (s : State) (r : Word) (f : Launch → Launch) : (s.updLaunch r f).curHart = s.curHart := rfl
@[simp] theorem updLaunch_curHalo (s : State) (r : Word) (f : Launch → Launch) : (s.updLaunch r f).curHalo = s.curHalo := rfl
@[simp] theorem updLaunch_sched (s : State) (r : Word) (f : Launch → Launch) : (s.updLaunch r f).sched = s.sched := rfl
@[simp] theorem updLaunch_resume (s : State) (r : Word) (f : Launch → Launch) : (s.updLaunch r f).resume = s.resume := rfl
@[simp] theorem updLaunch_freeCnt (s : State) (r : Word) (f : Launch → Launch) : (s.updLaunch r f).freeCnt = s.freeCnt := rfl
@[simp] theorem updLaunch_hole (s : State) (r : Word) (f : Launch → Launch) : (s.updLaunch r f).hole = s.hole := rfl
@[simp] theorem updLaunch_mem (s : State) (r : Word) (f : Launch → Launch) : (s.updLaunch r f).mem = s.mem := rfl
@[simp] theorem updLaunch_fe (s : State) (r : Word) (f : Launch → Launch) : (s.updLaunch r f).fe = s.fe := rfl
@[simp] theorem updLaunch_poison (s : State) (r : Word) (f : Launch → Launch) : (s.updLaunch r f).poison = s.poison := rfl
@[simp] theorem updLaunch_badWords (s : State) (r : Word) (f : Launch → Launch) : (s.updLaunch r f).badWords = s.badWords := rfl
@[simp] theorem updLaunch_stale (s : State) (r : Word) (f : Launch → Launch) : (s.updLaunch r f).stale = s.stale := rfl
@[simp] theorem updLaunch_clusters (s : State) (r : Word) (f : Launch → Launch) : (s.updLaunch r f).clusters = s.clusters := rfl
@[simp] theorem updLaunch_tlb (s : State) (r : Word) (f : Launch → Launch) : (s.updLaunch r f).tlb = s.tlb := rfl
@[simp] theorem updLaunch_cores (s : State) (r : Word) (f : Launch → Launch) : (s.updLaunch r f).cores = s.cores := rfl
@[simp] theorem updLaunch_dies (s : State) (r : Word) (f : Launch → Launch) : (s.updLaunch r f).dies = s.dies := rfl
@[simp] theorem updLaunch_nextSerial (s : State) (r : Word) (f : Launch → Launch) : (s.updLaunch r f).nextSerial = s.nextSerial := rfl
@[simp] theorem updLaunch_clocks (s : State) (r : Word) (f : Launch → Launch) : (s.updLaunch r f).clocks = s.clocks := rfl
@[simp] theorem updLaunch_pairMis (s : State) (r : Word) (f : Launch → Launch) : (s.updLaunch r f).pairMis = s.pairMis := rfl
@[simp] theorem updLaunch_bound286 (s : State) (r : Word) (f : Launch → Launch) : (s.updLaunch r f).bound286 = s.bound286 := rfl
@[simp] theorem updLaunch_nextOrder (s : State) (r : Word) (f : Launch → Launch) : (s.updLaunch r f).nextOrder = s.nextOrder := rfl
@[simp] theorem updLaunch_spills (s : State) (r : Word) (f : Launch → Launch) : (s.updLaunch r f).spills = s.spills := rfl
@[simp] theorem updLaunch_migs (s : State) (r : Word) (f : Launch → Launch) : (s.updLaunch r f).migs = s.migs := rfl
@[simp] theorem updLaunch_net (s : State) (r : Word) (f : Launch → Launch) : (s.updLaunch r f).net = s.net := rfl
@[simp] theorem updLaunch_rst (s : State) (r : Word) (f : Launch → Launch) : (s.updLaunch r f).rst = s.rst := rfl
@[simp] theorem updLaunch_savedCores (s : State) (r : Word) (f : Launch → Launch) : (s.updLaunch r f).savedCores = s.savedCores := rfl
@[simp] theorem updLaunch_host (s : State) (r : Word) (f : Launch → Launch) : (s.updLaunch r f).host = s.host := rfl
@[simp] theorem updLaunch_dev (s : State) (r : Word) (f : Launch → Launch) : (s.updLaunch r f).dev = s.dev := rfl

@[simp] theorem report_cur (s : State) (r : Word) (x : Report) : (s.report r x).cur = s.cur := rfl
@[simp] theorem report_curHart (s : State) (r : Word) (x : Report) : (s.report r x).curHart = s.curHart := rfl
@[simp] theorem report_curHalo (s : State) (r : Word) (x : Report) : (s.report r x).curHalo = s.curHalo := rfl
@[simp] theorem report_sched (s : State) (r : Word) (x : Report) : (s.report r x).sched = s.sched := rfl
@[simp] theorem report_resume (s : State) (r : Word) (x : Report) : (s.report r x).resume = s.resume := rfl
@[simp] theorem report_freeCnt (s : State) (r : Word) (x : Report) : (s.report r x).freeCnt = s.freeCnt := rfl
@[simp] theorem report_hole (s : State) (r : Word) (x : Report) : (s.report r x).hole = s.hole := rfl
@[simp] theorem report_mem (s : State) (r : Word) (x : Report) : (s.report r x).mem = s.mem := rfl
@[simp] theorem report_fe (s : State) (r : Word) (x : Report) : (s.report r x).fe = s.fe := rfl
@[simp] theorem report_poison (s : State) (r : Word) (x : Report) : (s.report r x).poison = s.poison := rfl
@[simp] theorem report_badWords (s : State) (r : Word) (x : Report) : (s.report r x).badWords = s.badWords := rfl
@[simp] theorem report_stale (s : State) (r : Word) (x : Report) : (s.report r x).stale = s.stale := rfl
@[simp] theorem report_clusters (s : State) (r : Word) (x : Report) : (s.report r x).clusters = s.clusters := rfl
@[simp] theorem report_tlb (s : State) (r : Word) (x : Report) : (s.report r x).tlb = s.tlb := rfl
@[simp] theorem report_cores (s : State) (r : Word) (x : Report) : (s.report r x).cores = s.cores := rfl
@[simp] theorem report_dies (s : State) (r : Word) (x : Report) : (s.report r x).dies = s.dies := rfl
@[simp] theorem report_nextSerial (s : State) (r : Word) (x : Report) : (s.report r x).nextSerial = s.nextSerial := rfl
@[simp] theorem report_clocks (s : State) (r : Word) (x : Report) : (s.report r x).clocks = s.clocks := rfl
@[simp] theorem report_pairMis (s : State) (r : Word) (x : Report) : (s.report r x).pairMis = s.pairMis := rfl
@[simp] theorem report_bound286 (s : State) (r : Word) (x : Report) : (s.report r x).bound286 = s.bound286 := rfl
@[simp] theorem report_nextOrder (s : State) (r : Word) (x : Report) : (s.report r x).nextOrder = s.nextOrder := rfl
@[simp] theorem report_spills (s : State) (r : Word) (x : Report) : (s.report r x).spills = s.spills := rfl
@[simp] theorem report_migs (s : State) (r : Word) (x : Report) : (s.report r x).migs = s.migs := rfl
@[simp] theorem report_net (s : State) (r : Word) (x : Report) : (s.report r x).net = s.net := rfl
@[simp] theorem report_rst (s : State) (r : Word) (x : Report) : (s.report r x).rst = s.rst := rfl
@[simp] theorem report_savedCores (s : State) (r : Word) (x : Report) : (s.report r x).savedCores = s.savedCores := rfl
@[simp] theorem report_host (s : State) (r : Word) (x : Report) : (s.report r x).host = s.host := rfl
@[simp] theorem report_dev (s : State) (r : Word) (x : Report) : (s.report r x).dev = s.dev := rfl

@[simp] theorem pushCq_cur (s : State) (x : CqEntry) : (s.pushCq x).cur = s.cur := rfl
@[simp] theorem pushCq_curHart (s : State) (x : CqEntry) : (s.pushCq x).curHart = s.curHart := rfl
@[simp] theorem pushCq_curHalo (s : State) (x : CqEntry) : (s.pushCq x).curHalo = s.curHalo := rfl
@[simp] theorem pushCq_sched (s : State) (x : CqEntry) : (s.pushCq x).sched = s.sched := rfl
@[simp] theorem pushCq_resume (s : State) (x : CqEntry) : (s.pushCq x).resume = s.resume := rfl
@[simp] theorem pushCq_freeCnt (s : State) (x : CqEntry) : (s.pushCq x).freeCnt = s.freeCnt := rfl
@[simp] theorem pushCq_hole (s : State) (x : CqEntry) : (s.pushCq x).hole = s.hole := rfl
@[simp] theorem pushCq_mem (s : State) (x : CqEntry) : (s.pushCq x).mem = s.mem := rfl
@[simp] theorem pushCq_fe (s : State) (x : CqEntry) : (s.pushCq x).fe = s.fe := rfl
@[simp] theorem pushCq_poison (s : State) (x : CqEntry) : (s.pushCq x).poison = s.poison := rfl
@[simp] theorem pushCq_badWords (s : State) (x : CqEntry) : (s.pushCq x).badWords = s.badWords := rfl
@[simp] theorem pushCq_stale (s : State) (x : CqEntry) : (s.pushCq x).stale = s.stale := rfl
@[simp] theorem pushCq_clusters (s : State) (x : CqEntry) : (s.pushCq x).clusters = s.clusters := rfl
@[simp] theorem pushCq_tlb (s : State) (x : CqEntry) : (s.pushCq x).tlb = s.tlb := rfl
@[simp] theorem pushCq_cores (s : State) (x : CqEntry) : (s.pushCq x).cores = s.cores := rfl
@[simp] theorem pushCq_dies (s : State) (x : CqEntry) : (s.pushCq x).dies = s.dies := rfl
@[simp] theorem pushCq_launches (s : State) (x : CqEntry) : (s.pushCq x).launches = s.launches := rfl
@[simp] theorem pushCq_nextSerial (s : State) (x : CqEntry) : (s.pushCq x).nextSerial = s.nextSerial := rfl
@[simp] theorem pushCq_clocks (s : State) (x : CqEntry) : (s.pushCq x).clocks = s.clocks := rfl
@[simp] theorem pushCq_pairMis (s : State) (x : CqEntry) : (s.pushCq x).pairMis = s.pairMis := rfl
@[simp] theorem pushCq_bound286 (s : State) (x : CqEntry) : (s.pushCq x).bound286 = s.bound286 := rfl
@[simp] theorem pushCq_nextOrder (s : State) (x : CqEntry) : (s.pushCq x).nextOrder = s.nextOrder := rfl
@[simp] theorem pushCq_spills (s : State) (x : CqEntry) : (s.pushCq x).spills = s.spills := rfl
@[simp] theorem pushCq_migs (s : State) (x : CqEntry) : (s.pushCq x).migs = s.migs := rfl
@[simp] theorem pushCq_net (s : State) (x : CqEntry) : (s.pushCq x).net = s.net := rfl
@[simp] theorem pushCq_rst (s : State) (x : CqEntry) : (s.pushCq x).rst = s.rst := rfl
@[simp] theorem pushCq_savedCores (s : State) (x : CqEntry) : (s.pushCq x).savedCores = s.savedCores := rfl
@[simp] theorem pushCq_dev (s : State) (x : CqEntry) : (s.pushCq x).dev = s.dev := rfl

@[simp] theorem wr_cur (s : State) (k : Nat) (b : List Byte) : (s.wr k b).cur = s.cur := rfl
@[simp] theorem wr_curHart (s : State) (k : Nat) (b : List Byte) : (s.wr k b).curHart = s.curHart := rfl
@[simp] theorem wr_curHalo (s : State) (k : Nat) (b : List Byte) : (s.wr k b).curHalo = s.curHalo := rfl
@[simp] theorem wr_sched (s : State) (k : Nat) (b : List Byte) : (s.wr k b).sched = s.sched := rfl
@[simp] theorem wr_resume (s : State) (k : Nat) (b : List Byte) : (s.wr k b).resume = s.resume := rfl
@[simp] theorem wr_freeCnt (s : State) (k : Nat) (b : List Byte) : (s.wr k b).freeCnt = s.freeCnt := rfl
@[simp] theorem wr_hole (s : State) (k : Nat) (b : List Byte) : (s.wr k b).hole = s.hole := rfl
@[simp] theorem wr_fe (s : State) (k : Nat) (b : List Byte) : (s.wr k b).fe = s.fe := rfl
@[simp] theorem wr_poison (s : State) (k : Nat) (b : List Byte) : (s.wr k b).poison = s.poison := rfl
@[simp] theorem wr_badWords (s : State) (k : Nat) (b : List Byte) : (s.wr k b).badWords = s.badWords := rfl
@[simp] theorem wr_stale (s : State) (k : Nat) (b : List Byte) : (s.wr k b).stale = s.stale := rfl
@[simp] theorem wr_clusters (s : State) (k : Nat) (b : List Byte) : (s.wr k b).clusters = s.clusters := rfl
@[simp] theorem wr_tlb (s : State) (k : Nat) (b : List Byte) : (s.wr k b).tlb = s.tlb := rfl
@[simp] theorem wr_cores (s : State) (k : Nat) (b : List Byte) : (s.wr k b).cores = s.cores := rfl
@[simp] theorem wr_dies (s : State) (k : Nat) (b : List Byte) : (s.wr k b).dies = s.dies := rfl
@[simp] theorem wr_launches (s : State) (k : Nat) (b : List Byte) : (s.wr k b).launches = s.launches := rfl
@[simp] theorem wr_nextSerial (s : State) (k : Nat) (b : List Byte) : (s.wr k b).nextSerial = s.nextSerial := rfl
@[simp] theorem wr_clocks (s : State) (k : Nat) (b : List Byte) : (s.wr k b).clocks = s.clocks := rfl
@[simp] theorem wr_pairMis (s : State) (k : Nat) (b : List Byte) : (s.wr k b).pairMis = s.pairMis := rfl
@[simp] theorem wr_bound286 (s : State) (k : Nat) (b : List Byte) : (s.wr k b).bound286 = s.bound286 := rfl
@[simp] theorem wr_nextOrder (s : State) (k : Nat) (b : List Byte) : (s.wr k b).nextOrder = s.nextOrder := rfl
@[simp] theorem wr_spills (s : State) (k : Nat) (b : List Byte) : (s.wr k b).spills = s.spills := rfl
@[simp] theorem wr_migs (s : State) (k : Nat) (b : List Byte) : (s.wr k b).migs = s.migs := rfl
@[simp] theorem wr_net (s : State) (k : Nat) (b : List Byte) : (s.wr k b).net = s.net := rfl
@[simp] theorem wr_rst (s : State) (k : Nat) (b : List Byte) : (s.wr k b).rst = s.rst := rfl
@[simp] theorem wr_savedCores (s : State) (k : Nat) (b : List Byte) : (s.wr k b).savedCores = s.savedCores := rfl
@[simp] theorem wr_host (s : State) (k : Nat) (b : List Byte) : (s.wr k b).host = s.host := rfl
@[simp] theorem wr_dev (s : State) (k : Nat) (b : List Byte) : (s.wr k b).dev = s.dev := rfl

@[simp] theorem setPz_cur (s : State) (w : Nat) (b : Bool) : (s.setPz w b).cur = s.cur := by
  unfold State.setPz; split <;> rfl
@[simp] theorem setPz_curHart (s : State) (w : Nat) (b : Bool) : (s.setPz w b).curHart = s.curHart := by
  unfold State.setPz; split <;> rfl
@[simp] theorem setPz_curHalo (s : State) (w : Nat) (b : Bool) : (s.setPz w b).curHalo = s.curHalo := by
  unfold State.setPz; split <;> rfl
@[simp] theorem setPz_sched (s : State) (w : Nat) (b : Bool) : (s.setPz w b).sched = s.sched := by
  unfold State.setPz; split <;> rfl
@[simp] theorem setPz_resume (s : State) (w : Nat) (b : Bool) : (s.setPz w b).resume = s.resume := by
  unfold State.setPz; split <;> rfl
@[simp] theorem setPz_freeCnt (s : State) (w : Nat) (b : Bool) : (s.setPz w b).freeCnt = s.freeCnt := by
  unfold State.setPz; split <;> rfl
@[simp] theorem setPz_hole (s : State) (w : Nat) (b : Bool) : (s.setPz w b).hole = s.hole := by
  unfold State.setPz; split <;> rfl
@[simp] theorem setPz_mem (s : State) (w : Nat) (b : Bool) : (s.setPz w b).mem = s.mem := by
  unfold State.setPz; split <;> rfl
@[simp] theorem setPz_fe (s : State) (w : Nat) (b : Bool) : (s.setPz w b).fe = s.fe := by
  unfold State.setPz; split <;> rfl
@[simp] theorem setPz_badWords (s : State) (w : Nat) (b : Bool) : (s.setPz w b).badWords = s.badWords := by
  unfold State.setPz; split <;> rfl
@[simp] theorem setPz_stale (s : State) (w : Nat) (b : Bool) : (s.setPz w b).stale = s.stale := by
  unfold State.setPz; split <;> rfl
@[simp] theorem setPz_clusters (s : State) (w : Nat) (b : Bool) : (s.setPz w b).clusters = s.clusters := by
  unfold State.setPz; split <;> rfl
@[simp] theorem setPz_tlb (s : State) (w : Nat) (b : Bool) : (s.setPz w b).tlb = s.tlb := by
  unfold State.setPz; split <;> rfl
@[simp] theorem setPz_cores (s : State) (w : Nat) (b : Bool) : (s.setPz w b).cores = s.cores := by
  unfold State.setPz; split <;> rfl
@[simp] theorem setPz_dies (s : State) (w : Nat) (b : Bool) : (s.setPz w b).dies = s.dies := by
  unfold State.setPz; split <;> rfl
@[simp] theorem setPz_launches (s : State) (w : Nat) (b : Bool) : (s.setPz w b).launches = s.launches := by
  unfold State.setPz; split <;> rfl
@[simp] theorem setPz_nextSerial (s : State) (w : Nat) (b : Bool) : (s.setPz w b).nextSerial = s.nextSerial := by
  unfold State.setPz; split <;> rfl
@[simp] theorem setPz_clocks (s : State) (w : Nat) (b : Bool) : (s.setPz w b).clocks = s.clocks := by
  unfold State.setPz; split <;> rfl
@[simp] theorem setPz_pairMis (s : State) (w : Nat) (b : Bool) : (s.setPz w b).pairMis = s.pairMis := by
  unfold State.setPz; split <;> rfl
@[simp] theorem setPz_bound286 (s : State) (w : Nat) (b : Bool) : (s.setPz w b).bound286 = s.bound286 := by
  unfold State.setPz; split <;> rfl
@[simp] theorem setPz_nextOrder (s : State) (w : Nat) (b : Bool) : (s.setPz w b).nextOrder = s.nextOrder := by
  unfold State.setPz; split <;> rfl
@[simp] theorem setPz_spills (s : State) (w : Nat) (b : Bool) : (s.setPz w b).spills = s.spills := by
  unfold State.setPz; split <;> rfl
@[simp] theorem setPz_migs (s : State) (w : Nat) (b : Bool) : (s.setPz w b).migs = s.migs := by
  unfold State.setPz; split <;> rfl
@[simp] theorem setPz_net (s : State) (w : Nat) (b : Bool) : (s.setPz w b).net = s.net := by
  unfold State.setPz; split <;> rfl
@[simp] theorem setPz_rst (s : State) (w : Nat) (b : Bool) : (s.setPz w b).rst = s.rst := by
  unfold State.setPz; split <;> rfl
@[simp] theorem setPz_savedCores (s : State) (w : Nat) (b : Bool) : (s.setPz w b).savedCores = s.savedCores := by
  unfold State.setPz; split <;> rfl
@[simp] theorem setPz_host (s : State) (w : Nat) (b : Bool) : (s.setPz w b).host = s.host := by
  unfold State.setPz; split <;> rfl
@[simp] theorem setPz_dev (s : State) (w : Nat) (b : Bool) : (s.setPz w b).dev = s.dev := by
  unfold State.setPz; split <;> rfl

@[simp] theorem setFe_cur (s : State) (w : Nat) (x : FeWord) : (s.setFe w x).cur = s.cur := rfl
@[simp] theorem setFe_curHart (s : State) (w : Nat) (x : FeWord) : (s.setFe w x).curHart = s.curHart := rfl
@[simp] theorem setFe_curHalo (s : State) (w : Nat) (x : FeWord) : (s.setFe w x).curHalo = s.curHalo := rfl
@[simp] theorem setFe_sched (s : State) (w : Nat) (x : FeWord) : (s.setFe w x).sched = s.sched := rfl
@[simp] theorem setFe_resume (s : State) (w : Nat) (x : FeWord) : (s.setFe w x).resume = s.resume := rfl
@[simp] theorem setFe_freeCnt (s : State) (w : Nat) (x : FeWord) : (s.setFe w x).freeCnt = s.freeCnt := rfl
@[simp] theorem setFe_hole (s : State) (w : Nat) (x : FeWord) : (s.setFe w x).hole = s.hole := rfl
@[simp] theorem setFe_mem (s : State) (w : Nat) (x : FeWord) : (s.setFe w x).mem = s.mem := rfl
@[simp] theorem setFe_poison (s : State) (w : Nat) (x : FeWord) : (s.setFe w x).poison = s.poison := rfl
@[simp] theorem setFe_badWords (s : State) (w : Nat) (x : FeWord) : (s.setFe w x).badWords = s.badWords := rfl
@[simp] theorem setFe_stale (s : State) (w : Nat) (x : FeWord) : (s.setFe w x).stale = s.stale := rfl
@[simp] theorem setFe_clusters (s : State) (w : Nat) (x : FeWord) : (s.setFe w x).clusters = s.clusters := rfl
@[simp] theorem setFe_tlb (s : State) (w : Nat) (x : FeWord) : (s.setFe w x).tlb = s.tlb := rfl
@[simp] theorem setFe_cores (s : State) (w : Nat) (x : FeWord) : (s.setFe w x).cores = s.cores := rfl
@[simp] theorem setFe_dies (s : State) (w : Nat) (x : FeWord) : (s.setFe w x).dies = s.dies := rfl
@[simp] theorem setFe_launches (s : State) (w : Nat) (x : FeWord) : (s.setFe w x).launches = s.launches := rfl
@[simp] theorem setFe_nextSerial (s : State) (w : Nat) (x : FeWord) : (s.setFe w x).nextSerial = s.nextSerial := rfl
@[simp] theorem setFe_clocks (s : State) (w : Nat) (x : FeWord) : (s.setFe w x).clocks = s.clocks := rfl
@[simp] theorem setFe_pairMis (s : State) (w : Nat) (x : FeWord) : (s.setFe w x).pairMis = s.pairMis := rfl
@[simp] theorem setFe_bound286 (s : State) (w : Nat) (x : FeWord) : (s.setFe w x).bound286 = s.bound286 := rfl
@[simp] theorem setFe_nextOrder (s : State) (w : Nat) (x : FeWord) : (s.setFe w x).nextOrder = s.nextOrder := rfl
@[simp] theorem setFe_spills (s : State) (w : Nat) (x : FeWord) : (s.setFe w x).spills = s.spills := rfl
@[simp] theorem setFe_migs (s : State) (w : Nat) (x : FeWord) : (s.setFe w x).migs = s.migs := rfl
@[simp] theorem setFe_net (s : State) (w : Nat) (x : FeWord) : (s.setFe w x).net = s.net := rfl
@[simp] theorem setFe_rst (s : State) (w : Nat) (x : FeWord) : (s.setFe w x).rst = s.rst := rfl
@[simp] theorem setFe_savedCores (s : State) (w : Nat) (x : FeWord) : (s.setFe w x).savedCores = s.savedCores := rfl
@[simp] theorem setFe_host (s : State) (w : Nat) (x : FeWord) : (s.setFe w x).host = s.host := rfl
@[simp] theorem setFe_dev (s : State) (w : Nat) (x : FeWord) : (s.setFe w x).dev = s.dev := rfl

@[simp] theorem msi_cur (s : State) (v : Nat) : (s.msi v).cur = s.cur := rfl
@[simp] theorem msi_curHart (s : State) (v : Nat) : (s.msi v).curHart = s.curHart := rfl
@[simp] theorem msi_curHalo (s : State) (v : Nat) : (s.msi v).curHalo = s.curHalo := rfl
@[simp] theorem msi_sched (s : State) (v : Nat) : (s.msi v).sched = s.sched := rfl
@[simp] theorem msi_resume (s : State) (v : Nat) : (s.msi v).resume = s.resume := rfl
@[simp] theorem msi_freeCnt (s : State) (v : Nat) : (s.msi v).freeCnt = s.freeCnt := rfl
@[simp] theorem msi_hole (s : State) (v : Nat) : (s.msi v).hole = s.hole := rfl
@[simp] theorem msi_mem (s : State) (v : Nat) : (s.msi v).mem = s.mem := rfl
@[simp] theorem msi_fe (s : State) (v : Nat) : (s.msi v).fe = s.fe := rfl
@[simp] theorem msi_poison (s : State) (v : Nat) : (s.msi v).poison = s.poison := rfl
@[simp] theorem msi_badWords (s : State) (v : Nat) : (s.msi v).badWords = s.badWords := rfl
@[simp] theorem msi_stale (s : State) (v : Nat) : (s.msi v).stale = s.stale := rfl
@[simp] theorem msi_clusters (s : State) (v : Nat) : (s.msi v).clusters = s.clusters := rfl
@[simp] theorem msi_tlb (s : State) (v : Nat) : (s.msi v).tlb = s.tlb := rfl
@[simp] theorem msi_cores (s : State) (v : Nat) : (s.msi v).cores = s.cores := rfl
@[simp] theorem msi_dies (s : State) (v : Nat) : (s.msi v).dies = s.dies := rfl
@[simp] theorem msi_launches (s : State) (v : Nat) : (s.msi v).launches = s.launches := rfl
@[simp] theorem msi_nextSerial (s : State) (v : Nat) : (s.msi v).nextSerial = s.nextSerial := rfl
@[simp] theorem msi_clocks (s : State) (v : Nat) : (s.msi v).clocks = s.clocks := rfl
@[simp] theorem msi_pairMis (s : State) (v : Nat) : (s.msi v).pairMis = s.pairMis := rfl
@[simp] theorem msi_bound286 (s : State) (v : Nat) : (s.msi v).bound286 = s.bound286 := rfl
@[simp] theorem msi_nextOrder (s : State) (v : Nat) : (s.msi v).nextOrder = s.nextOrder := rfl
@[simp] theorem msi_spills (s : State) (v : Nat) : (s.msi v).spills = s.spills := rfl
@[simp] theorem msi_migs (s : State) (v : Nat) : (s.msi v).migs = s.migs := rfl
@[simp] theorem msi_net (s : State) (v : Nat) : (s.msi v).net = s.net := rfl
@[simp] theorem msi_rst (s : State) (v : Nat) : (s.msi v).rst = s.rst := rfl
@[simp] theorem msi_savedCores (s : State) (v : Nat) : (s.msi v).savedCores = s.savedCores := rfl
@[simp] theorem msi_dev (s : State) (v : Nat) : (s.msi v).dev = s.dev := rfl

@[simp] theorem setX_st (c : Ctx) (r : Nat) (v : Word) (m : Bool) : (c.setX r v m).st = c.st := by
  unfold Ctx.setX; split <;> rfl
@[simp] theorem setX_prev (c : Ctx) (r : Nat) (v : Word) (m : Bool) : (c.setX r v m).prev = c.prev := by
  unfold Ctx.setX; split <;> rfl
@[simp] theorem setX_ps (c : Ctx) (r : Nat) (v : Word) (m : Bool) : (c.setX r v m).ps = c.ps := by
  unfold Ctx.setX; split <;> rfl
@[simp] theorem setX_pm (c : Ctx) (r : Nat) (v : Word) (m : Bool) : (c.setX r v m).pm = c.pm := by
  unfold Ctx.setX; split <;> rfl
@[simp] theorem setX_hs (c : Ctx) (r : Nat) (v : Word) (m : Bool) : (c.setX r v m).hs = c.hs := by
  unfold Ctx.setX; split <;> rfl
@[simp] theorem setX_es (c : Ctx) (r : Nat) (v : Word) (m : Bool) : (c.setX r v m).es = c.es := by
  unfold Ctx.setX; split <;> rfl
@[simp] theorem setX_em (c : Ctx) (r : Nat) (v : Word) (m : Bool) : (c.setX r v m).em = c.em := by
  unfold Ctx.setX; split <;> rfl
@[simp] theorem setX_cs (c : Ctx) (r : Nat) (v : Word) (m : Bool) : (c.setX r v m).cs = c.cs := by
  unfold Ctx.setX; split <;> rfl
@[simp] theorem setX_pc (c : Ctx) (r : Nat) (v : Word) (m : Bool) : (c.setX r v m).pc = c.pc := by
  unfold Ctx.setX; split <;> rfl
@[simp] theorem setX_cir (c : Ctx) (r : Nat) (v : Word) (m : Bool) : (c.setX r v m).cir = c.cir := by
  unfold Ctx.setX; split <;> rfl
@[simp] theorem setX_paddr (c : Ctx) (r : Nat) (v : Word) (m : Bool) : (c.setX r v m).paddr = c.paddr := by
  unfold Ctx.setX; split <;> rfl
@[simp] theorem setX_retry (c : Ctx) (r : Nat) (v : Word) (m : Bool) : (c.setX r v m).retry = c.retry := by
  unfold Ctx.setX; split <;> rfl
@[simp] theorem setX_chtmo (c : Ctx) (r : Nat) (v : Word) (m : Bool) : (c.setX r v m).chtmo = c.chtmo := by
  unfold Ctx.setX; split <;> rfl
@[simp] theorem setX_bartmo (c : Ctx) (r : Nat) (v : Word) (m : Bool) : (c.setX r v m).bartmo = c.bartmo := by
  unfold Ctx.setX; split <;> rfl
@[simp] theorem setX_tpc (c : Ctx) (r : Nat) (v : Word) (m : Bool) : (c.setX r v m).tpc = c.tpc := by
  unfold Ctx.setX; split <;> rfl
@[simp] theorem setX_tcause (c : Ctx) (r : Nat) (v : Word) (m : Bool) : (c.setX r v m).tcause = c.tcause := by
  unfold Ctx.setX; split <;> rfl
@[simp] theorem setX_taddr (c : Ctx) (r : Nat) (v : Word) (m : Bool) : (c.setX r v m).taddr = c.taddr := by
  unfold Ctx.setX; split <;> rfl
@[simp] theorem setX_tscratch (c : Ctx) (r : Nat) (v : Word) (m : Bool) : (c.setX r v m).tscratch = c.tscratch := by
  unfold Ctx.setX; split <;> rfl
@[simp] theorem setX_tmode (c : Ctx) (r : Nat) (v : Word) (m : Bool) : (c.setX r v m).tmode = c.tmode := by
  unfold Ctx.setX; split <;> rfl
@[simp] theorem setX_issued (c : Ctx) (r : Nat) (v : Word) (m : Bool) : (c.setX r v m).issued = c.issued := by
  unfold Ctx.setX; split <;> rfl
@[simp] theorem setX_recaddr (c : Ctx) (r : Nat) (v : Word) (m : Bool) : (c.setX r v m).recaddr = c.recaddr := by
  unfold Ctx.setX; split <;> rfl
@[simp] theorem setX_serial (c : Ctx) (r : Nat) (v : Word) (m : Bool) : (c.setX r v m).serial = c.serial := by
  unfold Ctx.setX; split <;> rfl
@[simp] theorem setX_run (c : Ctx) (r : Nat) (v : Word) (m : Bool) : (c.setX r v m).run = c.run := by
  unfold Ctx.setX; split <;> rfl
@[simp] theorem setX_arrival (c : Ctx) (r : Nat) (v : Word) (m : Bool) : (c.setX r v m).arrival = c.arrival := by
  unfold Ctx.setX; split <;> rfl
@[simp] theorem setX_held (c : Ctx) (r : Nat) (v : Word) (m : Bool) : (c.setX r v m).held = c.held := by
  unfold Ctx.setX; split <;> rfl
@[simp] theorem setX_pend (c : Ctx) (r : Nat) (v : Word) (m : Bool) : (c.setX r v m).pend = c.pend := by
  unfold Ctx.setX; split <;> rfl
@[simp] theorem setX_weak (c : Ctx) (r : Nat) (v : Word) (m : Bool) : (c.setX r v m).weak = c.weak := by
  unfold Ctx.setX; split <;> rfl
@[simp] theorem setX_slow (c : Ctx) (r : Nat) (v : Word) (m : Bool) : (c.setX r v m).slow = c.slow := by
  unfold Ctx.setX; split <;> rfl
@[simp] theorem setX_pfx (c : Ctx) (r : Nat) (v : Word) (m : Bool) : (c.setX r v m).pfx = c.pfx := by
  unfold Ctx.setX; split <;> rfl
@[simp] theorem setX_rlx (c : Ctx) (r : Nat) (v : Word) (m : Bool) : (c.setX r v m).rlx = c.rlx := by
  unfold Ctx.setX; split <;> rfl
@[simp] theorem setX_lastIssue (c : Ctx) (r : Nat) (v : Word) (m : Bool) : (c.setX r v m).lastIssue = c.lastIssue := by
  unfold Ctx.setX; split <;> rfl
@[simp] theorem setX_readyAt (c : Ctx) (r : Nat) (v : Word) (m : Bool) : (c.setX r v m).readyAt = c.readyAt := by
  unfold Ctx.setX; split <;> rfl
@[simp] theorem setX_got (c : Ctx) (r : Nat) (v : Word) (m : Bool) : (c.setX r v m).got = c.got := by
  unfold Ctx.setX; split <;> rfl
@[simp] theorem setX_rstores (c : Ctx) (r : Nat) (v : Word) (m : Bool) : (c.setX r v m).rstores = c.rstores := by
  unfold Ctx.setX; split <;> rfl
@[simp] theorem setX_refused (c : Ctx) (r : Nat) (v : Word) (m : Bool) : (c.setX r v m).refused = c.refused := by
  unfold Ctx.setX; split <;> rfl
@[simp] theorem setX_lensTags (c : Ctx) (r : Nat) (v : Word) (m : Bool) : (c.setX r v m).lensTags = c.lensTags := by
  unfold Ctx.setX; split <;> rfl
@[simp] theorem setX_stepping (c : Ctx) (r : Nat) (v : Word) (m : Bool) : (c.setX r v m).stepping = c.stepping := by
  unfold Ctx.setX; split <;> rfl
@[simp] theorem setX_stopAt (c : Ctx) (r : Nat) (v : Word) (m : Bool) : (c.setX r v m).stopAt = c.stopAt := by
  unfold Ctx.setX; split <;> rfl
@[simp] theorem setX_susp (c : Ctx) (r : Nat) (v : Word) (m : Bool) : (c.setX r v m).susp = c.susp := by
  unfold Ctx.setX; split <;> rfl
@[simp] theorem setX_ahead (c : Ctx) (r : Nat) (v : Word) (m : Bool) : (c.setX r v m).ahead = c.ahead := by
  unfold Ctx.setX; split <;> rfl
@[simp] theorem setX_needs (c : Ctx) (r : Nat) (v : Word) (m : Bool) : (c.setX r v m).needs = c.needs := by
  unfold Ctx.setX; split <;> rfl

@[simp] theorem setP_st (c : Ctx) (r : Nat) (v m : Bool) : (c.setP r v m).st = c.st := by
  unfold Ctx.setP; split <;> rfl
@[simp] theorem setP_prev (c : Ctx) (r : Nat) (v m : Bool) : (c.setP r v m).prev = c.prev := by
  unfold Ctx.setP; split <;> rfl
@[simp] theorem setP_xs (c : Ctx) (r : Nat) (v m : Bool) : (c.setP r v m).xs = c.xs := by
  unfold Ctx.setP; split <;> rfl
@[simp] theorem setP_xm (c : Ctx) (r : Nat) (v m : Bool) : (c.setP r v m).xm = c.xm := by
  unfold Ctx.setP; split <;> rfl
@[simp] theorem setP_hs (c : Ctx) (r : Nat) (v m : Bool) : (c.setP r v m).hs = c.hs := by
  unfold Ctx.setP; split <;> rfl
@[simp] theorem setP_es (c : Ctx) (r : Nat) (v m : Bool) : (c.setP r v m).es = c.es := by
  unfold Ctx.setP; split <;> rfl
@[simp] theorem setP_em (c : Ctx) (r : Nat) (v m : Bool) : (c.setP r v m).em = c.em := by
  unfold Ctx.setP; split <;> rfl
@[simp] theorem setP_cs (c : Ctx) (r : Nat) (v m : Bool) : (c.setP r v m).cs = c.cs := by
  unfold Ctx.setP; split <;> rfl
@[simp] theorem setP_pc (c : Ctx) (r : Nat) (v m : Bool) : (c.setP r v m).pc = c.pc := by
  unfold Ctx.setP; split <;> rfl
@[simp] theorem setP_cir (c : Ctx) (r : Nat) (v m : Bool) : (c.setP r v m).cir = c.cir := by
  unfold Ctx.setP; split <;> rfl
@[simp] theorem setP_paddr (c : Ctx) (r : Nat) (v m : Bool) : (c.setP r v m).paddr = c.paddr := by
  unfold Ctx.setP; split <;> rfl
@[simp] theorem setP_retry (c : Ctx) (r : Nat) (v m : Bool) : (c.setP r v m).retry = c.retry := by
  unfold Ctx.setP; split <;> rfl
@[simp] theorem setP_chtmo (c : Ctx) (r : Nat) (v m : Bool) : (c.setP r v m).chtmo = c.chtmo := by
  unfold Ctx.setP; split <;> rfl
@[simp] theorem setP_bartmo (c : Ctx) (r : Nat) (v m : Bool) : (c.setP r v m).bartmo = c.bartmo := by
  unfold Ctx.setP; split <;> rfl
@[simp] theorem setP_tpc (c : Ctx) (r : Nat) (v m : Bool) : (c.setP r v m).tpc = c.tpc := by
  unfold Ctx.setP; split <;> rfl
@[simp] theorem setP_tcause (c : Ctx) (r : Nat) (v m : Bool) : (c.setP r v m).tcause = c.tcause := by
  unfold Ctx.setP; split <;> rfl
@[simp] theorem setP_taddr (c : Ctx) (r : Nat) (v m : Bool) : (c.setP r v m).taddr = c.taddr := by
  unfold Ctx.setP; split <;> rfl
@[simp] theorem setP_tscratch (c : Ctx) (r : Nat) (v m : Bool) : (c.setP r v m).tscratch = c.tscratch := by
  unfold Ctx.setP; split <;> rfl
@[simp] theorem setP_tmode (c : Ctx) (r : Nat) (v m : Bool) : (c.setP r v m).tmode = c.tmode := by
  unfold Ctx.setP; split <;> rfl
@[simp] theorem setP_issued (c : Ctx) (r : Nat) (v m : Bool) : (c.setP r v m).issued = c.issued := by
  unfold Ctx.setP; split <;> rfl
@[simp] theorem setP_recaddr (c : Ctx) (r : Nat) (v m : Bool) : (c.setP r v m).recaddr = c.recaddr := by
  unfold Ctx.setP; split <;> rfl
@[simp] theorem setP_serial (c : Ctx) (r : Nat) (v m : Bool) : (c.setP r v m).serial = c.serial := by
  unfold Ctx.setP; split <;> rfl
@[simp] theorem setP_run (c : Ctx) (r : Nat) (v m : Bool) : (c.setP r v m).run = c.run := by
  unfold Ctx.setP; split <;> rfl
@[simp] theorem setP_arrival (c : Ctx) (r : Nat) (v m : Bool) : (c.setP r v m).arrival = c.arrival := by
  unfold Ctx.setP; split <;> rfl
@[simp] theorem setP_held (c : Ctx) (r : Nat) (v m : Bool) : (c.setP r v m).held = c.held := by
  unfold Ctx.setP; split <;> rfl
@[simp] theorem setP_pend (c : Ctx) (r : Nat) (v m : Bool) : (c.setP r v m).pend = c.pend := by
  unfold Ctx.setP; split <;> rfl
@[simp] theorem setP_weak (c : Ctx) (r : Nat) (v m : Bool) : (c.setP r v m).weak = c.weak := by
  unfold Ctx.setP; split <;> rfl
@[simp] theorem setP_slow (c : Ctx) (r : Nat) (v m : Bool) : (c.setP r v m).slow = c.slow := by
  unfold Ctx.setP; split <;> rfl
@[simp] theorem setP_pfx (c : Ctx) (r : Nat) (v m : Bool) : (c.setP r v m).pfx = c.pfx := by
  unfold Ctx.setP; split <;> rfl
@[simp] theorem setP_rlx (c : Ctx) (r : Nat) (v m : Bool) : (c.setP r v m).rlx = c.rlx := by
  unfold Ctx.setP; split <;> rfl
@[simp] theorem setP_lastIssue (c : Ctx) (r : Nat) (v m : Bool) : (c.setP r v m).lastIssue = c.lastIssue := by
  unfold Ctx.setP; split <;> rfl
@[simp] theorem setP_readyAt (c : Ctx) (r : Nat) (v m : Bool) : (c.setP r v m).readyAt = c.readyAt := by
  unfold Ctx.setP; split <;> rfl
@[simp] theorem setP_got (c : Ctx) (r : Nat) (v m : Bool) : (c.setP r v m).got = c.got := by
  unfold Ctx.setP; split <;> rfl
@[simp] theorem setP_rstores (c : Ctx) (r : Nat) (v m : Bool) : (c.setP r v m).rstores = c.rstores := by
  unfold Ctx.setP; split <;> rfl
@[simp] theorem setP_refused (c : Ctx) (r : Nat) (v m : Bool) : (c.setP r v m).refused = c.refused := by
  unfold Ctx.setP; split <;> rfl
@[simp] theorem setP_lensTags (c : Ctx) (r : Nat) (v m : Bool) : (c.setP r v m).lensTags = c.lensTags := by
  unfold Ctx.setP; split <;> rfl
@[simp] theorem setP_stepping (c : Ctx) (r : Nat) (v m : Bool) : (c.setP r v m).stepping = c.stepping := by
  unfold Ctx.setP; split <;> rfl
@[simp] theorem setP_stopAt (c : Ctx) (r : Nat) (v m : Bool) : (c.setP r v m).stopAt = c.stopAt := by
  unfold Ctx.setP; split <;> rfl
@[simp] theorem setP_susp (c : Ctx) (r : Nat) (v m : Bool) : (c.setP r v m).susp = c.susp := by
  unfold Ctx.setP; split <;> rfl
@[simp] theorem setP_ahead (c : Ctx) (r : Nat) (v m : Bool) : (c.setP r v m).ahead = c.ahead := by
  unfold Ctx.setP; split <;> rfl
@[simp] theorem setP_needs (c : Ctx) (r : Nat) (v m : Bool) : (c.setP r v m).needs = c.needs := by
  unfold Ctx.setP; split <;> rfl

@[simp] theorem setH_st (c : Ctx) (r : Nat) (v : BitVec 32) : (c.setH r v).st = c.st := rfl
@[simp] theorem setH_prev (c : Ctx) (r : Nat) (v : BitVec 32) : (c.setH r v).prev = c.prev := rfl
@[simp] theorem setH_xs (c : Ctx) (r : Nat) (v : BitVec 32) : (c.setH r v).xs = c.xs := rfl
@[simp] theorem setH_xm (c : Ctx) (r : Nat) (v : BitVec 32) : (c.setH r v).xm = c.xm := rfl
@[simp] theorem setH_ps (c : Ctx) (r : Nat) (v : BitVec 32) : (c.setH r v).ps = c.ps := rfl
@[simp] theorem setH_pm (c : Ctx) (r : Nat) (v : BitVec 32) : (c.setH r v).pm = c.pm := rfl
@[simp] theorem setH_es (c : Ctx) (r : Nat) (v : BitVec 32) : (c.setH r v).es = c.es := rfl
@[simp] theorem setH_em (c : Ctx) (r : Nat) (v : BitVec 32) : (c.setH r v).em = c.em := rfl
@[simp] theorem setH_cs (c : Ctx) (r : Nat) (v : BitVec 32) : (c.setH r v).cs = c.cs := rfl
@[simp] theorem setH_pc (c : Ctx) (r : Nat) (v : BitVec 32) : (c.setH r v).pc = c.pc := rfl
@[simp] theorem setH_cir (c : Ctx) (r : Nat) (v : BitVec 32) : (c.setH r v).cir = c.cir := rfl
@[simp] theorem setH_paddr (c : Ctx) (r : Nat) (v : BitVec 32) : (c.setH r v).paddr = c.paddr := rfl
@[simp] theorem setH_retry (c : Ctx) (r : Nat) (v : BitVec 32) : (c.setH r v).retry = c.retry := rfl
@[simp] theorem setH_chtmo (c : Ctx) (r : Nat) (v : BitVec 32) : (c.setH r v).chtmo = c.chtmo := rfl
@[simp] theorem setH_bartmo (c : Ctx) (r : Nat) (v : BitVec 32) : (c.setH r v).bartmo = c.bartmo := rfl
@[simp] theorem setH_tpc (c : Ctx) (r : Nat) (v : BitVec 32) : (c.setH r v).tpc = c.tpc := rfl
@[simp] theorem setH_tcause (c : Ctx) (r : Nat) (v : BitVec 32) : (c.setH r v).tcause = c.tcause := rfl
@[simp] theorem setH_taddr (c : Ctx) (r : Nat) (v : BitVec 32) : (c.setH r v).taddr = c.taddr := rfl
@[simp] theorem setH_tscratch (c : Ctx) (r : Nat) (v : BitVec 32) : (c.setH r v).tscratch = c.tscratch := rfl
@[simp] theorem setH_tmode (c : Ctx) (r : Nat) (v : BitVec 32) : (c.setH r v).tmode = c.tmode := rfl
@[simp] theorem setH_issued (c : Ctx) (r : Nat) (v : BitVec 32) : (c.setH r v).issued = c.issued := rfl
@[simp] theorem setH_recaddr (c : Ctx) (r : Nat) (v : BitVec 32) : (c.setH r v).recaddr = c.recaddr := rfl
@[simp] theorem setH_serial (c : Ctx) (r : Nat) (v : BitVec 32) : (c.setH r v).serial = c.serial := rfl
@[simp] theorem setH_run (c : Ctx) (r : Nat) (v : BitVec 32) : (c.setH r v).run = c.run := rfl
@[simp] theorem setH_arrival (c : Ctx) (r : Nat) (v : BitVec 32) : (c.setH r v).arrival = c.arrival := rfl
@[simp] theorem setH_held (c : Ctx) (r : Nat) (v : BitVec 32) : (c.setH r v).held = c.held := rfl
@[simp] theorem setH_pend (c : Ctx) (r : Nat) (v : BitVec 32) : (c.setH r v).pend = c.pend := rfl
@[simp] theorem setH_weak (c : Ctx) (r : Nat) (v : BitVec 32) : (c.setH r v).weak = c.weak := rfl
@[simp] theorem setH_slow (c : Ctx) (r : Nat) (v : BitVec 32) : (c.setH r v).slow = c.slow := rfl
@[simp] theorem setH_pfx (c : Ctx) (r : Nat) (v : BitVec 32) : (c.setH r v).pfx = c.pfx := rfl
@[simp] theorem setH_rlx (c : Ctx) (r : Nat) (v : BitVec 32) : (c.setH r v).rlx = c.rlx := rfl
@[simp] theorem setH_lastIssue (c : Ctx) (r : Nat) (v : BitVec 32) : (c.setH r v).lastIssue = c.lastIssue := rfl
@[simp] theorem setH_readyAt (c : Ctx) (r : Nat) (v : BitVec 32) : (c.setH r v).readyAt = c.readyAt := rfl
@[simp] theorem setH_got (c : Ctx) (r : Nat) (v : BitVec 32) : (c.setH r v).got = c.got := rfl
@[simp] theorem setH_rstores (c : Ctx) (r : Nat) (v : BitVec 32) : (c.setH r v).rstores = c.rstores := rfl
@[simp] theorem setH_refused (c : Ctx) (r : Nat) (v : BitVec 32) : (c.setH r v).refused = c.refused := rfl
@[simp] theorem setH_lensTags (c : Ctx) (r : Nat) (v : BitVec 32) : (c.setH r v).lensTags = c.lensTags := rfl
@[simp] theorem setH_stepping (c : Ctx) (r : Nat) (v : BitVec 32) : (c.setH r v).stepping = c.stepping := rfl
@[simp] theorem setH_stopAt (c : Ctx) (r : Nat) (v : BitVec 32) : (c.setH r v).stopAt = c.stopAt := rfl
@[simp] theorem setH_susp (c : Ctx) (r : Nat) (v : BitVec 32) : (c.setH r v).susp = c.susp := rfl
@[simp] theorem setH_ahead (c : Ctx) (r : Nat) (v : BitVec 32) : (c.setH r v).ahead = c.ahead := rfl
@[simp] theorem setH_needs (c : Ctx) (r : Nat) (v : BitVec 32) : (c.setH r v).needs = c.needs := rfl

@[simp] theorem setE_st (c : Ctx) (r : Nat) (v : Word) (m : Bool) : (c.setE r v m).st = c.st := rfl
@[simp] theorem setE_prev (c : Ctx) (r : Nat) (v : Word) (m : Bool) : (c.setE r v m).prev = c.prev := rfl
@[simp] theorem setE_xs (c : Ctx) (r : Nat) (v : Word) (m : Bool) : (c.setE r v m).xs = c.xs := rfl
@[simp] theorem setE_xm (c : Ctx) (r : Nat) (v : Word) (m : Bool) : (c.setE r v m).xm = c.xm := rfl
@[simp] theorem setE_ps (c : Ctx) (r : Nat) (v : Word) (m : Bool) : (c.setE r v m).ps = c.ps := rfl
@[simp] theorem setE_pm (c : Ctx) (r : Nat) (v : Word) (m : Bool) : (c.setE r v m).pm = c.pm := rfl
@[simp] theorem setE_hs (c : Ctx) (r : Nat) (v : Word) (m : Bool) : (c.setE r v m).hs = c.hs := rfl
@[simp] theorem setE_cs (c : Ctx) (r : Nat) (v : Word) (m : Bool) : (c.setE r v m).cs = c.cs := rfl
@[simp] theorem setE_pc (c : Ctx) (r : Nat) (v : Word) (m : Bool) : (c.setE r v m).pc = c.pc := rfl
@[simp] theorem setE_cir (c : Ctx) (r : Nat) (v : Word) (m : Bool) : (c.setE r v m).cir = c.cir := rfl
@[simp] theorem setE_paddr (c : Ctx) (r : Nat) (v : Word) (m : Bool) : (c.setE r v m).paddr = c.paddr := rfl
@[simp] theorem setE_retry (c : Ctx) (r : Nat) (v : Word) (m : Bool) : (c.setE r v m).retry = c.retry := rfl
@[simp] theorem setE_chtmo (c : Ctx) (r : Nat) (v : Word) (m : Bool) : (c.setE r v m).chtmo = c.chtmo := rfl
@[simp] theorem setE_bartmo (c : Ctx) (r : Nat) (v : Word) (m : Bool) : (c.setE r v m).bartmo = c.bartmo := rfl
@[simp] theorem setE_tpc (c : Ctx) (r : Nat) (v : Word) (m : Bool) : (c.setE r v m).tpc = c.tpc := rfl
@[simp] theorem setE_tcause (c : Ctx) (r : Nat) (v : Word) (m : Bool) : (c.setE r v m).tcause = c.tcause := rfl
@[simp] theorem setE_taddr (c : Ctx) (r : Nat) (v : Word) (m : Bool) : (c.setE r v m).taddr = c.taddr := rfl
@[simp] theorem setE_tscratch (c : Ctx) (r : Nat) (v : Word) (m : Bool) : (c.setE r v m).tscratch = c.tscratch := rfl
@[simp] theorem setE_tmode (c : Ctx) (r : Nat) (v : Word) (m : Bool) : (c.setE r v m).tmode = c.tmode := rfl
@[simp] theorem setE_issued (c : Ctx) (r : Nat) (v : Word) (m : Bool) : (c.setE r v m).issued = c.issued := rfl
@[simp] theorem setE_recaddr (c : Ctx) (r : Nat) (v : Word) (m : Bool) : (c.setE r v m).recaddr = c.recaddr := rfl
@[simp] theorem setE_serial (c : Ctx) (r : Nat) (v : Word) (m : Bool) : (c.setE r v m).serial = c.serial := rfl
@[simp] theorem setE_run (c : Ctx) (r : Nat) (v : Word) (m : Bool) : (c.setE r v m).run = c.run := rfl
@[simp] theorem setE_arrival (c : Ctx) (r : Nat) (v : Word) (m : Bool) : (c.setE r v m).arrival = c.arrival := rfl
@[simp] theorem setE_held (c : Ctx) (r : Nat) (v : Word) (m : Bool) : (c.setE r v m).held = c.held := rfl
@[simp] theorem setE_pend (c : Ctx) (r : Nat) (v : Word) (m : Bool) : (c.setE r v m).pend = c.pend := rfl
@[simp] theorem setE_weak (c : Ctx) (r : Nat) (v : Word) (m : Bool) : (c.setE r v m).weak = c.weak := rfl
@[simp] theorem setE_slow (c : Ctx) (r : Nat) (v : Word) (m : Bool) : (c.setE r v m).slow = c.slow := rfl
@[simp] theorem setE_pfx (c : Ctx) (r : Nat) (v : Word) (m : Bool) : (c.setE r v m).pfx = c.pfx := rfl
@[simp] theorem setE_rlx (c : Ctx) (r : Nat) (v : Word) (m : Bool) : (c.setE r v m).rlx = c.rlx := rfl
@[simp] theorem setE_lastIssue (c : Ctx) (r : Nat) (v : Word) (m : Bool) : (c.setE r v m).lastIssue = c.lastIssue := rfl
@[simp] theorem setE_readyAt (c : Ctx) (r : Nat) (v : Word) (m : Bool) : (c.setE r v m).readyAt = c.readyAt := rfl
@[simp] theorem setE_got (c : Ctx) (r : Nat) (v : Word) (m : Bool) : (c.setE r v m).got = c.got := rfl
@[simp] theorem setE_rstores (c : Ctx) (r : Nat) (v : Word) (m : Bool) : (c.setE r v m).rstores = c.rstores := rfl
@[simp] theorem setE_refused (c : Ctx) (r : Nat) (v : Word) (m : Bool) : (c.setE r v m).refused = c.refused := rfl
@[simp] theorem setE_lensTags (c : Ctx) (r : Nat) (v : Word) (m : Bool) : (c.setE r v m).lensTags = c.lensTags := rfl
@[simp] theorem setE_stepping (c : Ctx) (r : Nat) (v : Word) (m : Bool) : (c.setE r v m).stepping = c.stepping := rfl
@[simp] theorem setE_stopAt (c : Ctx) (r : Nat) (v : Word) (m : Bool) : (c.setE r v m).stopAt = c.stopAt := rfl
@[simp] theorem setE_susp (c : Ctx) (r : Nat) (v : Word) (m : Bool) : (c.setE r v m).susp = c.susp := rfl
@[simp] theorem setE_ahead (c : Ctx) (r : Nat) (v : Word) (m : Bool) : (c.setE r v m).ahead = c.ahead := rfl
@[simp] theorem setE_needs (c : Ctx) (r : Nat) (v : Word) (m : Bool) : (c.setE r v m).needs = c.needs := rfl

@[simp] theorem consume_st (c : Ctx) (m : Bool) : (c.consume m).st = c.st := by
  unfold Ctx.consume; split <;> rfl
@[simp] theorem consume_prev (c : Ctx) (m : Bool) : (c.consume m).prev = c.prev := by
  unfold Ctx.consume; split <;> rfl
@[simp] theorem consume_xs (c : Ctx) (m : Bool) : (c.consume m).xs = c.xs := by
  unfold Ctx.consume; split <;> rfl
@[simp] theorem consume_xm (c : Ctx) (m : Bool) : (c.consume m).xm = c.xm := by
  unfold Ctx.consume; split <;> rfl
@[simp] theorem consume_ps (c : Ctx) (m : Bool) : (c.consume m).ps = c.ps := by
  unfold Ctx.consume; split <;> rfl
@[simp] theorem consume_pm (c : Ctx) (m : Bool) : (c.consume m).pm = c.pm := by
  unfold Ctx.consume; split <;> rfl
@[simp] theorem consume_hs (c : Ctx) (m : Bool) : (c.consume m).hs = c.hs := by
  unfold Ctx.consume; split <;> rfl
@[simp] theorem consume_es (c : Ctx) (m : Bool) : (c.consume m).es = c.es := by
  unfold Ctx.consume; split <;> rfl
@[simp] theorem consume_em (c : Ctx) (m : Bool) : (c.consume m).em = c.em := by
  unfold Ctx.consume; split <;> rfl
@[simp] theorem consume_cs (c : Ctx) (m : Bool) : (c.consume m).cs = c.cs := by
  unfold Ctx.consume; split <;> rfl
@[simp] theorem consume_pc (c : Ctx) (m : Bool) : (c.consume m).pc = c.pc := by
  unfold Ctx.consume; split <;> rfl
@[simp] theorem consume_paddr (c : Ctx) (m : Bool) : (c.consume m).paddr = c.paddr := by
  unfold Ctx.consume; split <;> rfl
@[simp] theorem consume_retry (c : Ctx) (m : Bool) : (c.consume m).retry = c.retry := by
  unfold Ctx.consume; split <;> rfl
@[simp] theorem consume_chtmo (c : Ctx) (m : Bool) : (c.consume m).chtmo = c.chtmo := by
  unfold Ctx.consume; split <;> rfl
@[simp] theorem consume_bartmo (c : Ctx) (m : Bool) : (c.consume m).bartmo = c.bartmo := by
  unfold Ctx.consume; split <;> rfl
@[simp] theorem consume_tpc (c : Ctx) (m : Bool) : (c.consume m).tpc = c.tpc := by
  unfold Ctx.consume; split <;> rfl
@[simp] theorem consume_tcause (c : Ctx) (m : Bool) : (c.consume m).tcause = c.tcause := by
  unfold Ctx.consume; split <;> rfl
@[simp] theorem consume_taddr (c : Ctx) (m : Bool) : (c.consume m).taddr = c.taddr := by
  unfold Ctx.consume; split <;> rfl
@[simp] theorem consume_tscratch (c : Ctx) (m : Bool) : (c.consume m).tscratch = c.tscratch := by
  unfold Ctx.consume; split <;> rfl
@[simp] theorem consume_tmode (c : Ctx) (m : Bool) : (c.consume m).tmode = c.tmode := by
  unfold Ctx.consume; split <;> rfl
@[simp] theorem consume_issued (c : Ctx) (m : Bool) : (c.consume m).issued = c.issued := by
  unfold Ctx.consume; split <;> rfl
@[simp] theorem consume_recaddr (c : Ctx) (m : Bool) : (c.consume m).recaddr = c.recaddr := by
  unfold Ctx.consume; split <;> rfl
@[simp] theorem consume_serial (c : Ctx) (m : Bool) : (c.consume m).serial = c.serial := by
  unfold Ctx.consume; split <;> rfl
@[simp] theorem consume_run (c : Ctx) (m : Bool) : (c.consume m).run = c.run := by
  unfold Ctx.consume; split <;> rfl
@[simp] theorem consume_arrival (c : Ctx) (m : Bool) : (c.consume m).arrival = c.arrival := by
  unfold Ctx.consume; split <;> rfl
@[simp] theorem consume_held (c : Ctx) (m : Bool) : (c.consume m).held = c.held := by
  unfold Ctx.consume; split <;> rfl
@[simp] theorem consume_pend (c : Ctx) (m : Bool) : (c.consume m).pend = c.pend := by
  unfold Ctx.consume; split <;> rfl
@[simp] theorem consume_weak (c : Ctx) (m : Bool) : (c.consume m).weak = c.weak := by
  unfold Ctx.consume; split <;> rfl
@[simp] theorem consume_slow (c : Ctx) (m : Bool) : (c.consume m).slow = c.slow := by
  unfold Ctx.consume; split <;> rfl
@[simp] theorem consume_pfx (c : Ctx) (m : Bool) : (c.consume m).pfx = c.pfx := by
  unfold Ctx.consume; split <;> rfl
@[simp] theorem consume_rlx (c : Ctx) (m : Bool) : (c.consume m).rlx = c.rlx := by
  unfold Ctx.consume; split <;> rfl
@[simp] theorem consume_lastIssue (c : Ctx) (m : Bool) : (c.consume m).lastIssue = c.lastIssue := by
  unfold Ctx.consume; split <;> rfl
@[simp] theorem consume_readyAt (c : Ctx) (m : Bool) : (c.consume m).readyAt = c.readyAt := by
  unfold Ctx.consume; split <;> rfl
@[simp] theorem consume_got (c : Ctx) (m : Bool) : (c.consume m).got = c.got := by
  unfold Ctx.consume; split <;> rfl
@[simp] theorem consume_rstores (c : Ctx) (m : Bool) : (c.consume m).rstores = c.rstores := by
  unfold Ctx.consume; split <;> rfl
@[simp] theorem consume_refused (c : Ctx) (m : Bool) : (c.consume m).refused = c.refused := by
  unfold Ctx.consume; split <;> rfl
@[simp] theorem consume_lensTags (c : Ctx) (m : Bool) : (c.consume m).lensTags = c.lensTags := by
  unfold Ctx.consume; split <;> rfl
@[simp] theorem consume_stepping (c : Ctx) (m : Bool) : (c.consume m).stepping = c.stepping := by
  unfold Ctx.consume; split <;> rfl
@[simp] theorem consume_stopAt (c : Ctx) (m : Bool) : (c.consume m).stopAt = c.stopAt := by
  unfold Ctx.consume; split <;> rfl
@[simp] theorem consume_susp (c : Ctx) (m : Bool) : (c.consume m).susp = c.susp := by
  unfold Ctx.consume; split <;> rfl
@[simp] theorem consume_ahead (c : Ctx) (m : Bool) : (c.consume m).ahead = c.ahead := by
  unfold Ctx.consume; split <;> rfl
@[simp] theorem consume_needs (c : Ctx) (m : Bool) : (c.consume m).needs = c.needs := by
  unfold Ctx.consume; split <;> rfl

@[simp] theorem consumeAt_st (c : Ctx) (m : Bool) (a : Word) : (c.consumeAt m a).st = c.st := by
  unfold Ctx.consumeAt; split <;> rfl
@[simp] theorem consumeAt_prev (c : Ctx) (m : Bool) (a : Word) : (c.consumeAt m a).prev = c.prev := by
  unfold Ctx.consumeAt; split <;> rfl
@[simp] theorem consumeAt_xs (c : Ctx) (m : Bool) (a : Word) : (c.consumeAt m a).xs = c.xs := by
  unfold Ctx.consumeAt; split <;> rfl
@[simp] theorem consumeAt_xm (c : Ctx) (m : Bool) (a : Word) : (c.consumeAt m a).xm = c.xm := by
  unfold Ctx.consumeAt; split <;> rfl
@[simp] theorem consumeAt_ps (c : Ctx) (m : Bool) (a : Word) : (c.consumeAt m a).ps = c.ps := by
  unfold Ctx.consumeAt; split <;> rfl
@[simp] theorem consumeAt_pm (c : Ctx) (m : Bool) (a : Word) : (c.consumeAt m a).pm = c.pm := by
  unfold Ctx.consumeAt; split <;> rfl
@[simp] theorem consumeAt_hs (c : Ctx) (m : Bool) (a : Word) : (c.consumeAt m a).hs = c.hs := by
  unfold Ctx.consumeAt; split <;> rfl
@[simp] theorem consumeAt_es (c : Ctx) (m : Bool) (a : Word) : (c.consumeAt m a).es = c.es := by
  unfold Ctx.consumeAt; split <;> rfl
@[simp] theorem consumeAt_em (c : Ctx) (m : Bool) (a : Word) : (c.consumeAt m a).em = c.em := by
  unfold Ctx.consumeAt; split <;> rfl
@[simp] theorem consumeAt_cs (c : Ctx) (m : Bool) (a : Word) : (c.consumeAt m a).cs = c.cs := by
  unfold Ctx.consumeAt; split <;> rfl
@[simp] theorem consumeAt_pc (c : Ctx) (m : Bool) (a : Word) : (c.consumeAt m a).pc = c.pc := by
  unfold Ctx.consumeAt; split <;> rfl
@[simp] theorem consumeAt_retry (c : Ctx) (m : Bool) (a : Word) : (c.consumeAt m a).retry = c.retry := by
  unfold Ctx.consumeAt; split <;> rfl
@[simp] theorem consumeAt_chtmo (c : Ctx) (m : Bool) (a : Word) : (c.consumeAt m a).chtmo = c.chtmo := by
  unfold Ctx.consumeAt; split <;> rfl
@[simp] theorem consumeAt_bartmo (c : Ctx) (m : Bool) (a : Word) : (c.consumeAt m a).bartmo = c.bartmo := by
  unfold Ctx.consumeAt; split <;> rfl
@[simp] theorem consumeAt_tpc (c : Ctx) (m : Bool) (a : Word) : (c.consumeAt m a).tpc = c.tpc := by
  unfold Ctx.consumeAt; split <;> rfl
@[simp] theorem consumeAt_tcause (c : Ctx) (m : Bool) (a : Word) : (c.consumeAt m a).tcause = c.tcause := by
  unfold Ctx.consumeAt; split <;> rfl
@[simp] theorem consumeAt_taddr (c : Ctx) (m : Bool) (a : Word) : (c.consumeAt m a).taddr = c.taddr := by
  unfold Ctx.consumeAt; split <;> rfl
@[simp] theorem consumeAt_tscratch (c : Ctx) (m : Bool) (a : Word) : (c.consumeAt m a).tscratch = c.tscratch := by
  unfold Ctx.consumeAt; split <;> rfl
@[simp] theorem consumeAt_tmode (c : Ctx) (m : Bool) (a : Word) : (c.consumeAt m a).tmode = c.tmode := by
  unfold Ctx.consumeAt; split <;> rfl
@[simp] theorem consumeAt_issued (c : Ctx) (m : Bool) (a : Word) : (c.consumeAt m a).issued = c.issued := by
  unfold Ctx.consumeAt; split <;> rfl
@[simp] theorem consumeAt_recaddr (c : Ctx) (m : Bool) (a : Word) : (c.consumeAt m a).recaddr = c.recaddr := by
  unfold Ctx.consumeAt; split <;> rfl
@[simp] theorem consumeAt_serial (c : Ctx) (m : Bool) (a : Word) : (c.consumeAt m a).serial = c.serial := by
  unfold Ctx.consumeAt; split <;> rfl
@[simp] theorem consumeAt_run (c : Ctx) (m : Bool) (a : Word) : (c.consumeAt m a).run = c.run := by
  unfold Ctx.consumeAt; split <;> rfl
@[simp] theorem consumeAt_arrival (c : Ctx) (m : Bool) (a : Word) : (c.consumeAt m a).arrival = c.arrival := by
  unfold Ctx.consumeAt; split <;> rfl
@[simp] theorem consumeAt_held (c : Ctx) (m : Bool) (a : Word) : (c.consumeAt m a).held = c.held := by
  unfold Ctx.consumeAt; split <;> rfl
@[simp] theorem consumeAt_pend (c : Ctx) (m : Bool) (a : Word) : (c.consumeAt m a).pend = c.pend := by
  unfold Ctx.consumeAt; split <;> rfl
@[simp] theorem consumeAt_weak (c : Ctx) (m : Bool) (a : Word) : (c.consumeAt m a).weak = c.weak := by
  unfold Ctx.consumeAt; split <;> rfl
@[simp] theorem consumeAt_slow (c : Ctx) (m : Bool) (a : Word) : (c.consumeAt m a).slow = c.slow := by
  unfold Ctx.consumeAt; split <;> rfl
@[simp] theorem consumeAt_pfx (c : Ctx) (m : Bool) (a : Word) : (c.consumeAt m a).pfx = c.pfx := by
  unfold Ctx.consumeAt; split <;> rfl
@[simp] theorem consumeAt_rlx (c : Ctx) (m : Bool) (a : Word) : (c.consumeAt m a).rlx = c.rlx := by
  unfold Ctx.consumeAt; split <;> rfl
@[simp] theorem consumeAt_lastIssue (c : Ctx) (m : Bool) (a : Word) : (c.consumeAt m a).lastIssue = c.lastIssue := by
  unfold Ctx.consumeAt; split <;> rfl
@[simp] theorem consumeAt_readyAt (c : Ctx) (m : Bool) (a : Word) : (c.consumeAt m a).readyAt = c.readyAt := by
  unfold Ctx.consumeAt; split <;> rfl
@[simp] theorem consumeAt_got (c : Ctx) (m : Bool) (a : Word) : (c.consumeAt m a).got = c.got := by
  unfold Ctx.consumeAt; split <;> rfl
@[simp] theorem consumeAt_rstores (c : Ctx) (m : Bool) (a : Word) : (c.consumeAt m a).rstores = c.rstores := by
  unfold Ctx.consumeAt; split <;> rfl
@[simp] theorem consumeAt_refused (c : Ctx) (m : Bool) (a : Word) : (c.consumeAt m a).refused = c.refused := by
  unfold Ctx.consumeAt; split <;> rfl
@[simp] theorem consumeAt_lensTags (c : Ctx) (m : Bool) (a : Word) : (c.consumeAt m a).lensTags = c.lensTags := by
  unfold Ctx.consumeAt; split <;> rfl
@[simp] theorem consumeAt_stepping (c : Ctx) (m : Bool) (a : Word) : (c.consumeAt m a).stepping = c.stepping := by
  unfold Ctx.consumeAt; split <;> rfl
@[simp] theorem consumeAt_stopAt (c : Ctx) (m : Bool) (a : Word) : (c.consumeAt m a).stopAt = c.stopAt := by
  unfold Ctx.consumeAt; split <;> rfl
@[simp] theorem consumeAt_susp (c : Ctx) (m : Bool) (a : Word) : (c.consumeAt m a).susp = c.susp := by
  unfold Ctx.consumeAt; split <;> rfl
@[simp] theorem consumeAt_ahead (c : Ctx) (m : Bool) (a : Word) : (c.consumeAt m a).ahead = c.ahead := by
  unfold Ctx.consumeAt; split <;> rfl
@[simp] theorem consumeAt_needs (c : Ctx) (m : Bool) (a : Word) : (c.consumeAt m a).needs = c.needs := by
  unfold Ctx.consumeAt; split <;> rfl

@[simp] theorem cirSet_st (c : Ctx) (m : BitVec 8) : (c.cirSet m).st = c.st := rfl
@[simp] theorem cirSet_prev (c : Ctx) (m : BitVec 8) : (c.cirSet m).prev = c.prev := rfl
@[simp] theorem cirSet_xs (c : Ctx) (m : BitVec 8) : (c.cirSet m).xs = c.xs := rfl
@[simp] theorem cirSet_xm (c : Ctx) (m : BitVec 8) : (c.cirSet m).xm = c.xm := rfl
@[simp] theorem cirSet_ps (c : Ctx) (m : BitVec 8) : (c.cirSet m).ps = c.ps := rfl
@[simp] theorem cirSet_pm (c : Ctx) (m : BitVec 8) : (c.cirSet m).pm = c.pm := rfl
@[simp] theorem cirSet_hs (c : Ctx) (m : BitVec 8) : (c.cirSet m).hs = c.hs := rfl
@[simp] theorem cirSet_es (c : Ctx) (m : BitVec 8) : (c.cirSet m).es = c.es := rfl
@[simp] theorem cirSet_em (c : Ctx) (m : BitVec 8) : (c.cirSet m).em = c.em := rfl
@[simp] theorem cirSet_cs (c : Ctx) (m : BitVec 8) : (c.cirSet m).cs = c.cs := rfl
@[simp] theorem cirSet_pc (c : Ctx) (m : BitVec 8) : (c.cirSet m).pc = c.pc := rfl
@[simp] theorem cirSet_paddr (c : Ctx) (m : BitVec 8) : (c.cirSet m).paddr = c.paddr := rfl
@[simp] theorem cirSet_retry (c : Ctx) (m : BitVec 8) : (c.cirSet m).retry = c.retry := rfl
@[simp] theorem cirSet_chtmo (c : Ctx) (m : BitVec 8) : (c.cirSet m).chtmo = c.chtmo := rfl
@[simp] theorem cirSet_bartmo (c : Ctx) (m : BitVec 8) : (c.cirSet m).bartmo = c.bartmo := rfl
@[simp] theorem cirSet_tpc (c : Ctx) (m : BitVec 8) : (c.cirSet m).tpc = c.tpc := rfl
@[simp] theorem cirSet_tcause (c : Ctx) (m : BitVec 8) : (c.cirSet m).tcause = c.tcause := rfl
@[simp] theorem cirSet_taddr (c : Ctx) (m : BitVec 8) : (c.cirSet m).taddr = c.taddr := rfl
@[simp] theorem cirSet_tscratch (c : Ctx) (m : BitVec 8) : (c.cirSet m).tscratch = c.tscratch := rfl
@[simp] theorem cirSet_tmode (c : Ctx) (m : BitVec 8) : (c.cirSet m).tmode = c.tmode := rfl
@[simp] theorem cirSet_issued (c : Ctx) (m : BitVec 8) : (c.cirSet m).issued = c.issued := rfl
@[simp] theorem cirSet_recaddr (c : Ctx) (m : BitVec 8) : (c.cirSet m).recaddr = c.recaddr := rfl
@[simp] theorem cirSet_serial (c : Ctx) (m : BitVec 8) : (c.cirSet m).serial = c.serial := rfl
@[simp] theorem cirSet_run (c : Ctx) (m : BitVec 8) : (c.cirSet m).run = c.run := rfl
@[simp] theorem cirSet_arrival (c : Ctx) (m : BitVec 8) : (c.cirSet m).arrival = c.arrival := rfl
@[simp] theorem cirSet_held (c : Ctx) (m : BitVec 8) : (c.cirSet m).held = c.held := rfl
@[simp] theorem cirSet_pend (c : Ctx) (m : BitVec 8) : (c.cirSet m).pend = c.pend := rfl
@[simp] theorem cirSet_weak (c : Ctx) (m : BitVec 8) : (c.cirSet m).weak = c.weak := rfl
@[simp] theorem cirSet_slow (c : Ctx) (m : BitVec 8) : (c.cirSet m).slow = c.slow := rfl
@[simp] theorem cirSet_pfx (c : Ctx) (m : BitVec 8) : (c.cirSet m).pfx = c.pfx := rfl
@[simp] theorem cirSet_rlx (c : Ctx) (m : BitVec 8) : (c.cirSet m).rlx = c.rlx := rfl
@[simp] theorem cirSet_lastIssue (c : Ctx) (m : BitVec 8) : (c.cirSet m).lastIssue = c.lastIssue := rfl
@[simp] theorem cirSet_readyAt (c : Ctx) (m : BitVec 8) : (c.cirSet m).readyAt = c.readyAt := rfl
@[simp] theorem cirSet_got (c : Ctx) (m : BitVec 8) : (c.cirSet m).got = c.got := rfl
@[simp] theorem cirSet_rstores (c : Ctx) (m : BitVec 8) : (c.cirSet m).rstores = c.rstores := rfl
@[simp] theorem cirSet_refused (c : Ctx) (m : BitVec 8) : (c.cirSet m).refused = c.refused := rfl
@[simp] theorem cirSet_lensTags (c : Ctx) (m : BitVec 8) : (c.cirSet m).lensTags = c.lensTags := rfl
@[simp] theorem cirSet_stepping (c : Ctx) (m : BitVec 8) : (c.cirSet m).stepping = c.stepping := rfl
@[simp] theorem cirSet_stopAt (c : Ctx) (m : BitVec 8) : (c.cirSet m).stopAt = c.stopAt := rfl
@[simp] theorem cirSet_susp (c : Ctx) (m : BitVec 8) : (c.cirSet m).susp = c.susp := rfl
@[simp] theorem cirSet_ahead (c : Ctx) (m : BitVec 8) : (c.cirSet m).ahead = c.ahead := rfl
@[simp] theorem cirSet_needs (c : Ctx) (m : BitVec 8) : (c.cirSet m).needs = c.needs := rfl

@[simp] theorem next_st (c : Ctx) (n : Nat) : (c.next n).st = c.st := rfl
@[simp] theorem next_prev (c : Ctx) (n : Nat) : (c.next n).prev = c.prev := rfl
@[simp] theorem next_xs (c : Ctx) (n : Nat) : (c.next n).xs = c.xs := rfl
@[simp] theorem next_xm (c : Ctx) (n : Nat) : (c.next n).xm = c.xm := rfl
@[simp] theorem next_ps (c : Ctx) (n : Nat) : (c.next n).ps = c.ps := rfl
@[simp] theorem next_pm (c : Ctx) (n : Nat) : (c.next n).pm = c.pm := rfl
@[simp] theorem next_hs (c : Ctx) (n : Nat) : (c.next n).hs = c.hs := rfl
@[simp] theorem next_es (c : Ctx) (n : Nat) : (c.next n).es = c.es := rfl
@[simp] theorem next_em (c : Ctx) (n : Nat) : (c.next n).em = c.em := rfl
@[simp] theorem next_cs (c : Ctx) (n : Nat) : (c.next n).cs = c.cs := rfl
@[simp] theorem next_cir (c : Ctx) (n : Nat) : (c.next n).cir = c.cir := rfl
@[simp] theorem next_paddr (c : Ctx) (n : Nat) : (c.next n).paddr = c.paddr := rfl
@[simp] theorem next_retry (c : Ctx) (n : Nat) : (c.next n).retry = c.retry := rfl
@[simp] theorem next_chtmo (c : Ctx) (n : Nat) : (c.next n).chtmo = c.chtmo := rfl
@[simp] theorem next_bartmo (c : Ctx) (n : Nat) : (c.next n).bartmo = c.bartmo := rfl
@[simp] theorem next_tpc (c : Ctx) (n : Nat) : (c.next n).tpc = c.tpc := rfl
@[simp] theorem next_tcause (c : Ctx) (n : Nat) : (c.next n).tcause = c.tcause := rfl
@[simp] theorem next_taddr (c : Ctx) (n : Nat) : (c.next n).taddr = c.taddr := rfl
@[simp] theorem next_tscratch (c : Ctx) (n : Nat) : (c.next n).tscratch = c.tscratch := rfl
@[simp] theorem next_tmode (c : Ctx) (n : Nat) : (c.next n).tmode = c.tmode := rfl
@[simp] theorem next_issued (c : Ctx) (n : Nat) : (c.next n).issued = c.issued := rfl
@[simp] theorem next_recaddr (c : Ctx) (n : Nat) : (c.next n).recaddr = c.recaddr := rfl
@[simp] theorem next_serial (c : Ctx) (n : Nat) : (c.next n).serial = c.serial := rfl
@[simp] theorem next_run (c : Ctx) (n : Nat) : (c.next n).run = c.run := rfl
@[simp] theorem next_arrival (c : Ctx) (n : Nat) : (c.next n).arrival = c.arrival := rfl
@[simp] theorem next_pend (c : Ctx) (n : Nat) : (c.next n).pend = c.pend := rfl
@[simp] theorem next_weak (c : Ctx) (n : Nat) : (c.next n).weak = c.weak := rfl
@[simp] theorem next_slow (c : Ctx) (n : Nat) : (c.next n).slow = c.slow := rfl
@[simp] theorem next_lastIssue (c : Ctx) (n : Nat) : (c.next n).lastIssue = c.lastIssue := rfl
@[simp] theorem next_readyAt (c : Ctx) (n : Nat) : (c.next n).readyAt = c.readyAt := rfl
@[simp] theorem next_got (c : Ctx) (n : Nat) : (c.next n).got = c.got := rfl
@[simp] theorem next_rstores (c : Ctx) (n : Nat) : (c.next n).rstores = c.rstores := rfl
@[simp] theorem next_refused (c : Ctx) (n : Nat) : (c.next n).refused = c.refused := rfl
@[simp] theorem next_lensTags (c : Ctx) (n : Nat) : (c.next n).lensTags = c.lensTags := rfl
@[simp] theorem next_stepping (c : Ctx) (n : Nat) : (c.next n).stepping = c.stepping := rfl
@[simp] theorem next_stopAt (c : Ctx) (n : Nat) : (c.next n).stopAt = c.stopAt := rfl
@[simp] theorem next_susp (c : Ctx) (n : Nat) : (c.next n).susp = c.susp := rfl
@[simp] theorem next_ahead (c : Ctx) (n : Nat) : (c.next n).ahead = c.ahead := rfl
@[simp] theorem next_needs (c : Ctx) (n : Nat) : (c.next n).needs = c.needs := rfl

@[simp] theorem goto_st (c : Ctx) (a : Word) : (c.goto a).st = c.st := rfl
@[simp] theorem goto_prev (c : Ctx) (a : Word) : (c.goto a).prev = c.prev := rfl
@[simp] theorem goto_xs (c : Ctx) (a : Word) : (c.goto a).xs = c.xs := rfl
@[simp] theorem goto_xm (c : Ctx) (a : Word) : (c.goto a).xm = c.xm := rfl
@[simp] theorem goto_ps (c : Ctx) (a : Word) : (c.goto a).ps = c.ps := rfl
@[simp] theorem goto_pm (c : Ctx) (a : Word) : (c.goto a).pm = c.pm := rfl
@[simp] theorem goto_hs (c : Ctx) (a : Word) : (c.goto a).hs = c.hs := rfl
@[simp] theorem goto_es (c : Ctx) (a : Word) : (c.goto a).es = c.es := rfl
@[simp] theorem goto_em (c : Ctx) (a : Word) : (c.goto a).em = c.em := rfl
@[simp] theorem goto_cs (c : Ctx) (a : Word) : (c.goto a).cs = c.cs := rfl
@[simp] theorem goto_cir (c : Ctx) (a : Word) : (c.goto a).cir = c.cir := rfl
@[simp] theorem goto_paddr (c : Ctx) (a : Word) : (c.goto a).paddr = c.paddr := rfl
@[simp] theorem goto_retry (c : Ctx) (a : Word) : (c.goto a).retry = c.retry := rfl
@[simp] theorem goto_chtmo (c : Ctx) (a : Word) : (c.goto a).chtmo = c.chtmo := rfl
@[simp] theorem goto_bartmo (c : Ctx) (a : Word) : (c.goto a).bartmo = c.bartmo := rfl
@[simp] theorem goto_tpc (c : Ctx) (a : Word) : (c.goto a).tpc = c.tpc := rfl
@[simp] theorem goto_tcause (c : Ctx) (a : Word) : (c.goto a).tcause = c.tcause := rfl
@[simp] theorem goto_taddr (c : Ctx) (a : Word) : (c.goto a).taddr = c.taddr := rfl
@[simp] theorem goto_tscratch (c : Ctx) (a : Word) : (c.goto a).tscratch = c.tscratch := rfl
@[simp] theorem goto_tmode (c : Ctx) (a : Word) : (c.goto a).tmode = c.tmode := rfl
@[simp] theorem goto_issued (c : Ctx) (a : Word) : (c.goto a).issued = c.issued := rfl
@[simp] theorem goto_recaddr (c : Ctx) (a : Word) : (c.goto a).recaddr = c.recaddr := rfl
@[simp] theorem goto_serial (c : Ctx) (a : Word) : (c.goto a).serial = c.serial := rfl
@[simp] theorem goto_run (c : Ctx) (a : Word) : (c.goto a).run = c.run := rfl
@[simp] theorem goto_arrival (c : Ctx) (a : Word) : (c.goto a).arrival = c.arrival := rfl
@[simp] theorem goto_pend (c : Ctx) (a : Word) : (c.goto a).pend = c.pend := rfl
@[simp] theorem goto_weak (c : Ctx) (a : Word) : (c.goto a).weak = c.weak := rfl
@[simp] theorem goto_slow (c : Ctx) (a : Word) : (c.goto a).slow = c.slow := rfl
@[simp] theorem goto_lastIssue (c : Ctx) (a : Word) : (c.goto a).lastIssue = c.lastIssue := rfl
@[simp] theorem goto_readyAt (c : Ctx) (a : Word) : (c.goto a).readyAt = c.readyAt := rfl
@[simp] theorem goto_got (c : Ctx) (a : Word) : (c.goto a).got = c.got := rfl
@[simp] theorem goto_rstores (c : Ctx) (a : Word) : (c.goto a).rstores = c.rstores := rfl
@[simp] theorem goto_refused (c : Ctx) (a : Word) : (c.goto a).refused = c.refused := rfl
@[simp] theorem goto_lensTags (c : Ctx) (a : Word) : (c.goto a).lensTags = c.lensTags := rfl
@[simp] theorem goto_stepping (c : Ctx) (a : Word) : (c.goto a).stepping = c.stepping := rfl
@[simp] theorem goto_stopAt (c : Ctx) (a : Word) : (c.goto a).stopAt = c.stopAt := rfl
@[simp] theorem goto_susp (c : Ctx) (a : Word) : (c.goto a).susp = c.susp := rfl
@[simp] theorem goto_ahead (c : Ctx) (a : Word) : (c.goto a).ahead = c.ahead := rfl
@[simp] theorem goto_needs (c : Ctx) (a : Word) : (c.goto a).needs = c.needs := rfl

@[simp] theorem setWait_xs (c : Ctx) (st : CtxState) : (c.setWait st).xs = c.xs := by
  unfold Ctx.setWait; split <;> rfl
@[simp] theorem setWait_xm (c : Ctx) (st : CtxState) : (c.setWait st).xm = c.xm := by
  unfold Ctx.setWait; split <;> rfl
@[simp] theorem setWait_ps (c : Ctx) (st : CtxState) : (c.setWait st).ps = c.ps := by
  unfold Ctx.setWait; split <;> rfl
@[simp] theorem setWait_pm (c : Ctx) (st : CtxState) : (c.setWait st).pm = c.pm := by
  unfold Ctx.setWait; split <;> rfl
@[simp] theorem setWait_hs (c : Ctx) (st : CtxState) : (c.setWait st).hs = c.hs := by
  unfold Ctx.setWait; split <;> rfl
@[simp] theorem setWait_es (c : Ctx) (st : CtxState) : (c.setWait st).es = c.es := by
  unfold Ctx.setWait; split <;> rfl
@[simp] theorem setWait_em (c : Ctx) (st : CtxState) : (c.setWait st).em = c.em := by
  unfold Ctx.setWait; split <;> rfl
@[simp] theorem setWait_cs (c : Ctx) (st : CtxState) : (c.setWait st).cs = c.cs := by
  unfold Ctx.setWait; split <;> rfl
@[simp] theorem setWait_pc (c : Ctx) (st : CtxState) : (c.setWait st).pc = c.pc := by
  unfold Ctx.setWait; split <;> rfl
@[simp] theorem setWait_cir (c : Ctx) (st : CtxState) : (c.setWait st).cir = c.cir := by
  unfold Ctx.setWait; split <;> rfl
@[simp] theorem setWait_paddr (c : Ctx) (st : CtxState) : (c.setWait st).paddr = c.paddr := by
  unfold Ctx.setWait; split <;> rfl
@[simp] theorem setWait_retry (c : Ctx) (st : CtxState) : (c.setWait st).retry = c.retry := by
  unfold Ctx.setWait; split <;> rfl
@[simp] theorem setWait_chtmo (c : Ctx) (st : CtxState) : (c.setWait st).chtmo = c.chtmo := by
  unfold Ctx.setWait; split <;> rfl
@[simp] theorem setWait_bartmo (c : Ctx) (st : CtxState) : (c.setWait st).bartmo = c.bartmo := by
  unfold Ctx.setWait; split <;> rfl
@[simp] theorem setWait_tpc (c : Ctx) (st : CtxState) : (c.setWait st).tpc = c.tpc := by
  unfold Ctx.setWait; split <;> rfl
@[simp] theorem setWait_tcause (c : Ctx) (st : CtxState) : (c.setWait st).tcause = c.tcause := by
  unfold Ctx.setWait; split <;> rfl
@[simp] theorem setWait_taddr (c : Ctx) (st : CtxState) : (c.setWait st).taddr = c.taddr := by
  unfold Ctx.setWait; split <;> rfl
@[simp] theorem setWait_tscratch (c : Ctx) (st : CtxState) : (c.setWait st).tscratch = c.tscratch := by
  unfold Ctx.setWait; split <;> rfl
@[simp] theorem setWait_tmode (c : Ctx) (st : CtxState) : (c.setWait st).tmode = c.tmode := by
  unfold Ctx.setWait; split <;> rfl
@[simp] theorem setWait_issued (c : Ctx) (st : CtxState) : (c.setWait st).issued = c.issued := by
  unfold Ctx.setWait; split <;> rfl
@[simp] theorem setWait_recaddr (c : Ctx) (st : CtxState) : (c.setWait st).recaddr = c.recaddr := by
  unfold Ctx.setWait; split <;> rfl
@[simp] theorem setWait_serial (c : Ctx) (st : CtxState) : (c.setWait st).serial = c.serial := by
  unfold Ctx.setWait; split <;> rfl
@[simp] theorem setWait_run (c : Ctx) (st : CtxState) : (c.setWait st).run = c.run := by
  unfold Ctx.setWait; split <;> rfl
@[simp] theorem setWait_arrival (c : Ctx) (st : CtxState) : (c.setWait st).arrival = c.arrival := by
  unfold Ctx.setWait; split <;> rfl
@[simp] theorem setWait_held (c : Ctx) (st : CtxState) : (c.setWait st).held = c.held := by
  unfold Ctx.setWait; split <;> rfl
@[simp] theorem setWait_pend (c : Ctx) (st : CtxState) : (c.setWait st).pend = c.pend := by
  unfold Ctx.setWait; split <;> rfl
@[simp] theorem setWait_weak (c : Ctx) (st : CtxState) : (c.setWait st).weak = c.weak := by
  unfold Ctx.setWait; split <;> rfl
@[simp] theorem setWait_slow (c : Ctx) (st : CtxState) : (c.setWait st).slow = c.slow := by
  unfold Ctx.setWait; split <;> rfl
@[simp] theorem setWait_pfx (c : Ctx) (st : CtxState) : (c.setWait st).pfx = c.pfx := by
  unfold Ctx.setWait; split <;> rfl
@[simp] theorem setWait_rlx (c : Ctx) (st : CtxState) : (c.setWait st).rlx = c.rlx := by
  unfold Ctx.setWait; split <;> rfl
@[simp] theorem setWait_lastIssue (c : Ctx) (st : CtxState) : (c.setWait st).lastIssue = c.lastIssue := by
  unfold Ctx.setWait; split <;> rfl
@[simp] theorem setWait_readyAt (c : Ctx) (st : CtxState) : (c.setWait st).readyAt = c.readyAt := by
  unfold Ctx.setWait; split <;> rfl
@[simp] theorem setWait_got (c : Ctx) (st : CtxState) : (c.setWait st).got = c.got := by
  unfold Ctx.setWait; split <;> rfl
@[simp] theorem setWait_rstores (c : Ctx) (st : CtxState) : (c.setWait st).rstores = c.rstores := by
  unfold Ctx.setWait; split <;> rfl
@[simp] theorem setWait_refused (c : Ctx) (st : CtxState) : (c.setWait st).refused = c.refused := by
  unfold Ctx.setWait; split <;> rfl
@[simp] theorem setWait_lensTags (c : Ctx) (st : CtxState) : (c.setWait st).lensTags = c.lensTags := by
  unfold Ctx.setWait; split <;> rfl
@[simp] theorem setWait_stepping (c : Ctx) (st : CtxState) : (c.setWait st).stepping = c.stepping := by
  unfold Ctx.setWait; split <;> rfl
@[simp] theorem setWait_stopAt (c : Ctx) (st : CtxState) : (c.setWait st).stopAt = c.stopAt := by
  unfold Ctx.setWait; split <;> rfl
@[simp] theorem setWait_susp (c : Ctx) (st : CtxState) : (c.setWait st).susp = c.susp := by
  unfold Ctx.setWait; split <;> rfl
@[simp] theorem setWait_ahead (c : Ctx) (st : CtxState) : (c.setWait st).ahead = c.ahead := by
  unfold Ctx.setWait; split <;> rfl
@[simp] theorem setWait_needs (c : Ctx) (st : CtxState) : (c.setWait st).needs = c.needs := by
  unfold Ctx.setWait; split <;> rfl

@[simp] theorem wake_xs (c : Ctx) (n : Nat) : (c.wake n).xs = c.xs := by
  unfold Ctx.wake Ctx.setWait; split <;> rfl
@[simp] theorem wake_xm (c : Ctx) (n : Nat) : (c.wake n).xm = c.xm := by
  unfold Ctx.wake Ctx.setWait; split <;> rfl
@[simp] theorem wake_ps (c : Ctx) (n : Nat) : (c.wake n).ps = c.ps := by
  unfold Ctx.wake Ctx.setWait; split <;> rfl
@[simp] theorem wake_pm (c : Ctx) (n : Nat) : (c.wake n).pm = c.pm := by
  unfold Ctx.wake Ctx.setWait; split <;> rfl
@[simp] theorem wake_hs (c : Ctx) (n : Nat) : (c.wake n).hs = c.hs := by
  unfold Ctx.wake Ctx.setWait; split <;> rfl
@[simp] theorem wake_es (c : Ctx) (n : Nat) : (c.wake n).es = c.es := by
  unfold Ctx.wake Ctx.setWait; split <;> rfl
@[simp] theorem wake_em (c : Ctx) (n : Nat) : (c.wake n).em = c.em := by
  unfold Ctx.wake Ctx.setWait; split <;> rfl
@[simp] theorem wake_cs (c : Ctx) (n : Nat) : (c.wake n).cs = c.cs := by
  unfold Ctx.wake Ctx.setWait; split <;> rfl
@[simp] theorem wake_pc (c : Ctx) (n : Nat) : (c.wake n).pc = c.pc := by
  unfold Ctx.wake Ctx.setWait; split <;> rfl
@[simp] theorem wake_cir (c : Ctx) (n : Nat) : (c.wake n).cir = c.cir := by
  unfold Ctx.wake Ctx.setWait; split <;> rfl
@[simp] theorem wake_paddr (c : Ctx) (n : Nat) : (c.wake n).paddr = c.paddr := by
  unfold Ctx.wake Ctx.setWait; split <;> rfl
@[simp] theorem wake_retry (c : Ctx) (n : Nat) : (c.wake n).retry = c.retry := by
  unfold Ctx.wake Ctx.setWait; split <;> rfl
@[simp] theorem wake_chtmo (c : Ctx) (n : Nat) : (c.wake n).chtmo = c.chtmo := by
  unfold Ctx.wake Ctx.setWait; split <;> rfl
@[simp] theorem wake_bartmo (c : Ctx) (n : Nat) : (c.wake n).bartmo = c.bartmo := by
  unfold Ctx.wake Ctx.setWait; split <;> rfl
@[simp] theorem wake_tpc (c : Ctx) (n : Nat) : (c.wake n).tpc = c.tpc := by
  unfold Ctx.wake Ctx.setWait; split <;> rfl
@[simp] theorem wake_tcause (c : Ctx) (n : Nat) : (c.wake n).tcause = c.tcause := by
  unfold Ctx.wake Ctx.setWait; split <;> rfl
@[simp] theorem wake_taddr (c : Ctx) (n : Nat) : (c.wake n).taddr = c.taddr := by
  unfold Ctx.wake Ctx.setWait; split <;> rfl
@[simp] theorem wake_tscratch (c : Ctx) (n : Nat) : (c.wake n).tscratch = c.tscratch := by
  unfold Ctx.wake Ctx.setWait; split <;> rfl
@[simp] theorem wake_tmode (c : Ctx) (n : Nat) : (c.wake n).tmode = c.tmode := by
  unfold Ctx.wake Ctx.setWait; split <;> rfl
@[simp] theorem wake_issued (c : Ctx) (n : Nat) : (c.wake n).issued = c.issued := by
  unfold Ctx.wake Ctx.setWait; split <;> rfl
@[simp] theorem wake_recaddr (c : Ctx) (n : Nat) : (c.wake n).recaddr = c.recaddr := by
  unfold Ctx.wake Ctx.setWait; split <;> rfl
@[simp] theorem wake_serial (c : Ctx) (n : Nat) : (c.wake n).serial = c.serial := by
  unfold Ctx.wake Ctx.setWait; split <;> rfl
@[simp] theorem wake_run (c : Ctx) (n : Nat) : (c.wake n).run = c.run := by
  unfold Ctx.wake Ctx.setWait; split <;> rfl
@[simp] theorem wake_arrival (c : Ctx) (n : Nat) : (c.wake n).arrival = c.arrival := by
  unfold Ctx.wake Ctx.setWait; split <;> rfl
@[simp] theorem wake_held (c : Ctx) (n : Nat) : (c.wake n).held = c.held := by
  unfold Ctx.wake Ctx.setWait; split <;> rfl
@[simp] theorem wake_pend (c : Ctx) (n : Nat) : (c.wake n).pend = c.pend := by
  unfold Ctx.wake Ctx.setWait; split <;> rfl
@[simp] theorem wake_weak (c : Ctx) (n : Nat) : (c.wake n).weak = c.weak := by
  unfold Ctx.wake Ctx.setWait; split <;> rfl
@[simp] theorem wake_slow (c : Ctx) (n : Nat) : (c.wake n).slow = c.slow := by
  unfold Ctx.wake Ctx.setWait; split <;> rfl
@[simp] theorem wake_pfx (c : Ctx) (n : Nat) : (c.wake n).pfx = c.pfx := by
  unfold Ctx.wake Ctx.setWait; split <;> rfl
@[simp] theorem wake_rlx (c : Ctx) (n : Nat) : (c.wake n).rlx = c.rlx := by
  unfold Ctx.wake Ctx.setWait; split <;> rfl
@[simp] theorem wake_lastIssue (c : Ctx) (n : Nat) : (c.wake n).lastIssue = c.lastIssue := by
  unfold Ctx.wake Ctx.setWait; split <;> rfl
@[simp] theorem wake_got (c : Ctx) (n : Nat) : (c.wake n).got = c.got := by
  unfold Ctx.wake Ctx.setWait; split <;> rfl
@[simp] theorem wake_rstores (c : Ctx) (n : Nat) : (c.wake n).rstores = c.rstores := by
  unfold Ctx.wake Ctx.setWait; split <;> rfl
@[simp] theorem wake_refused (c : Ctx) (n : Nat) : (c.wake n).refused = c.refused := by
  unfold Ctx.wake Ctx.setWait; split <;> rfl
@[simp] theorem wake_lensTags (c : Ctx) (n : Nat) : (c.wake n).lensTags = c.lensTags := by
  unfold Ctx.wake Ctx.setWait; split <;> rfl
@[simp] theorem wake_stepping (c : Ctx) (n : Nat) : (c.wake n).stepping = c.stepping := by
  unfold Ctx.wake Ctx.setWait; split <;> rfl
@[simp] theorem wake_stopAt (c : Ctx) (n : Nat) : (c.wake n).stopAt = c.stopAt := by
  unfold Ctx.wake Ctx.setWait; split <;> rfl
@[simp] theorem wake_susp (c : Ctx) (n : Nat) : (c.wake n).susp = c.susp := by
  unfold Ctx.wake Ctx.setWait; split <;> rfl
@[simp] theorem wake_ahead (c : Ctx) (n : Nat) : (c.wake n).ahead = c.ahead := by
  unfold Ctx.wake Ctx.setWait; split <;> rfl
@[simp] theorem wake_needs (c : Ctx) (n : Nat) : (c.wake n).needs = c.needs := by
  unfold Ctx.wake Ctx.setWait; split <;> rfl

@[simp] theorem migsOver_cur (s : State) : s.migsOver.cur = s.cur := by
  unfold State.migsOver; split <;> rfl
@[simp] theorem migsOver_curHart (s : State) : s.migsOver.curHart = s.curHart := by
  unfold State.migsOver; split <;> rfl
@[simp] theorem migsOver_curHalo (s : State) : s.migsOver.curHalo = s.curHalo := by
  unfold State.migsOver; split <;> rfl
@[simp] theorem migsOver_sched (s : State) : s.migsOver.sched = s.sched := by
  unfold State.migsOver; split <;> rfl
@[simp] theorem migsOver_resume (s : State) : s.migsOver.resume = s.resume := by
  unfold State.migsOver; split <;> rfl
@[simp] theorem migsOver_freeCnt (s : State) : s.migsOver.freeCnt = s.freeCnt := by
  unfold State.migsOver; split <;> rfl
@[simp] theorem migsOver_hole (s : State) : s.migsOver.hole = s.hole := by
  unfold State.migsOver; split <;> rfl
@[simp] theorem migsOver_mem (s : State) : s.migsOver.mem = s.mem := by
  unfold State.migsOver; split <;> rfl
@[simp] theorem migsOver_fe (s : State) : s.migsOver.fe = s.fe := by
  unfold State.migsOver; split <;> rfl
@[simp] theorem migsOver_poison (s : State) : s.migsOver.poison = s.poison := by
  unfold State.migsOver; split <;> rfl
@[simp] theorem migsOver_badWords (s : State) : s.migsOver.badWords = s.badWords := by
  unfold State.migsOver; split <;> rfl
@[simp] theorem migsOver_stale (s : State) : s.migsOver.stale = s.stale := by
  unfold State.migsOver; split <;> rfl
@[simp] theorem migsOver_clusters (s : State) : s.migsOver.clusters = s.clusters := by
  unfold State.migsOver; split <;> rfl
@[simp] theorem migsOver_tlb (s : State) : s.migsOver.tlb = s.tlb := by
  unfold State.migsOver; split <;> rfl
@[simp] theorem migsOver_dies (s : State) : s.migsOver.dies = s.dies := by
  unfold State.migsOver; split <;> rfl
@[simp] theorem migsOver_launches (s : State) : s.migsOver.launches = s.launches := by
  unfold State.migsOver; split <;> rfl
@[simp] theorem migsOver_nextSerial (s : State) : s.migsOver.nextSerial = s.nextSerial := by
  unfold State.migsOver; split <;> rfl
@[simp] theorem migsOver_clocks (s : State) : s.migsOver.clocks = s.clocks := by
  unfold State.migsOver; split <;> rfl
@[simp] theorem migsOver_pairMis (s : State) : s.migsOver.pairMis = s.pairMis := by
  unfold State.migsOver; split <;> rfl
@[simp] theorem migsOver_bound286 (s : State) : s.migsOver.bound286 = s.bound286 := by
  unfold State.migsOver; split <;> rfl
@[simp] theorem migsOver_nextOrder (s : State) : s.migsOver.nextOrder = s.nextOrder := by
  unfold State.migsOver; split <;> rfl
@[simp] theorem migsOver_spills (s : State) : s.migsOver.spills = s.spills := by
  unfold State.migsOver; split <;> rfl
@[simp] theorem migsOver_net (s : State) : s.migsOver.net = s.net := by
  unfold State.migsOver; split <;> rfl
@[simp] theorem migsOver_rst (s : State) : s.migsOver.rst = s.rst := by
  unfold State.migsOver; split <;> rfl
@[simp] theorem migsOver_savedCores (s : State) : s.migsOver.savedCores = s.savedCores := by
  unfold State.migsOver; split <;> rfl
@[simp] theorem migsOver_host (s : State) : s.migsOver.host = s.host := by
  unfold State.migsOver; split <;> rfl
@[simp] theorem migsOver_dev (s : State) : s.migsOver.dev = s.dev := by
  unfold State.migsOver; split <;> rfl
@[simp] theorem migsOver_cores (s : State) : s.migsOver.cores = s.cores := by
  unfold State.migsOver; split <;> rfl

@[simp] theorem rowWritten_cur (s : State) (w : Nat) : (s.rowWritten w).cur = s.cur := by
  unfold State.rowWritten State.markStale; split <;> split <;> (try split) <;> rfl
@[simp] theorem rowWritten_curHart (s : State) (w : Nat) : (s.rowWritten w).curHart = s.curHart := by
  unfold State.rowWritten State.markStale; split <;> split <;> (try split) <;> rfl
@[simp] theorem rowWritten_curHalo (s : State) (w : Nat) : (s.rowWritten w).curHalo = s.curHalo := by
  unfold State.rowWritten State.markStale; split <;> split <;> (try split) <;> rfl
@[simp] theorem rowWritten_sched (s : State) (w : Nat) : (s.rowWritten w).sched = s.sched := by
  unfold State.rowWritten State.markStale; split <;> split <;> (try split) <;> rfl
@[simp] theorem rowWritten_resume (s : State) (w : Nat) : (s.rowWritten w).resume = s.resume := by
  unfold State.rowWritten State.markStale; split <;> split <;> (try split) <;> rfl
@[simp] theorem rowWritten_freeCnt (s : State) (w : Nat) : (s.rowWritten w).freeCnt = s.freeCnt := by
  unfold State.rowWritten State.markStale; split <;> split <;> (try split) <;> rfl
@[simp] theorem rowWritten_hole (s : State) (w : Nat) : (s.rowWritten w).hole = s.hole := by
  unfold State.rowWritten State.markStale; split <;> split <;> (try split) <;> rfl
@[simp] theorem rowWritten_mem (s : State) (w : Nat) : (s.rowWritten w).mem = s.mem := by
  unfold State.rowWritten State.markStale; split <;> split <;> (try split) <;> rfl
@[simp] theorem rowWritten_fe (s : State) (w : Nat) : (s.rowWritten w).fe = s.fe := by
  unfold State.rowWritten State.markStale; split <;> split <;> (try split) <;> rfl
@[simp] theorem rowWritten_poison (s : State) (w : Nat) : (s.rowWritten w).poison = s.poison := by
  unfold State.rowWritten State.markStale; split <;> split <;> (try split) <;> rfl
@[simp] theorem rowWritten_clusters (s : State) (w : Nat) : (s.rowWritten w).clusters = s.clusters := by
  unfold State.rowWritten State.markStale; split <;> split <;> (try split) <;> rfl
@[simp] theorem rowWritten_tlb (s : State) (w : Nat) : (s.rowWritten w).tlb = s.tlb := by
  unfold State.rowWritten State.markStale; split <;> split <;> (try split) <;> rfl
@[simp] theorem rowWritten_dies (s : State) (w : Nat) : (s.rowWritten w).dies = s.dies := by
  unfold State.rowWritten State.markStale; split <;> split <;> (try split) <;> rfl
@[simp] theorem rowWritten_launches (s : State) (w : Nat) : (s.rowWritten w).launches = s.launches := by
  unfold State.rowWritten State.markStale; split <;> split <;> (try split) <;> rfl
@[simp] theorem rowWritten_nextSerial (s : State) (w : Nat) : (s.rowWritten w).nextSerial = s.nextSerial := by
  unfold State.rowWritten State.markStale; split <;> split <;> (try split) <;> rfl
@[simp] theorem rowWritten_clocks (s : State) (w : Nat) : (s.rowWritten w).clocks = s.clocks := by
  unfold State.rowWritten State.markStale; split <;> split <;> (try split) <;> rfl
@[simp] theorem rowWritten_pairMis (s : State) (w : Nat) : (s.rowWritten w).pairMis = s.pairMis := by
  unfold State.rowWritten State.markStale; split <;> split <;> (try split) <;> rfl
@[simp] theorem rowWritten_bound286 (s : State) (w : Nat) : (s.rowWritten w).bound286 = s.bound286 := by
  unfold State.rowWritten State.markStale; split <;> split <;> (try split) <;> rfl
@[simp] theorem rowWritten_nextOrder (s : State) (w : Nat) : (s.rowWritten w).nextOrder = s.nextOrder := by
  unfold State.rowWritten State.markStale; split <;> split <;> (try split) <;> rfl
@[simp] theorem rowWritten_spills (s : State) (w : Nat) : (s.rowWritten w).spills = s.spills := by
  unfold State.rowWritten State.markStale; split <;> split <;> (try split) <;> rfl
@[simp] theorem rowWritten_migs (s : State) (w : Nat) : (s.rowWritten w).migs = s.migs := by
  unfold State.rowWritten State.markStale; split <;> split <;> (try split) <;> rfl
@[simp] theorem rowWritten_net (s : State) (w : Nat) : (s.rowWritten w).net = s.net := by
  unfold State.rowWritten State.markStale; split <;> split <;> (try split) <;> rfl
@[simp] theorem rowWritten_rst (s : State) (w : Nat) : (s.rowWritten w).rst = s.rst := by
  unfold State.rowWritten State.markStale; split <;> split <;> (try split) <;> rfl
@[simp] theorem rowWritten_savedCores (s : State) (w : Nat) : (s.rowWritten w).savedCores = s.savedCores := by
  unfold State.rowWritten State.markStale; split <;> split <;> (try split) <;> rfl
@[simp] theorem rowWritten_host (s : State) (w : Nat) : (s.rowWritten w).host = s.host := by
  unfold State.rowWritten State.markStale; split <;> split <;> (try split) <;> rfl
@[simp] theorem rowWritten_dev (s : State) (w : Nat) : (s.rowWritten w).dev = s.dev := by
  unfold State.rowWritten State.markStale; split <;> split <;> (try split) <;> rfl
@[simp] theorem rowWritten_cores (s : State) (w : Nat) : (s.rowWritten w).cores = s.cores := by
  unfold State.rowWritten State.markStale; split <;> split <;> (try split) <;> rfl

/-! Reads after writes. -/

@[simp] theorem core_setCore (s : State) (c : CoreId) (k : Core) : (s.setCore c k).core c = k := by
  simp [State.core, State.setCore, mget_mset_self]
@[simp] theorem core_updCore (s : State) (c : CoreId) (f : Core → Core) : (s.updCore c f).core c = f (s.core c) := by
  simp [State.updCore]
@[simp] theorem ctx_setCtx (s : State) (t : ThreadId) (c : Ctx) : (s.setCtx t c).ctx t = c := by
  simp [State.ctx, State.setCtx, Core.ctx, Core.setCtx, mget_mset_self]
@[simp] theorem ctx_updCtx (s : State) (t : ThreadId) (f : Ctx → Ctx) : (s.updCtx t f).ctx t = f (s.ctx t) := by
  simp [State.updCtx]
@[simp] theorem me_updMe (s : State) (f : Ctx → Ctx) : (s.updMe f).me = f s.me := by
  simp [State.me, State.updMe]
@[simp] theorem die_updDie (s : State) (d : Nat) (f : Die → Die) : (s.updDie d f).die d = f (s.die d) := by
  simp [State.die, State.updDie, mget_mset_self]
@[simp] theorem part_updPart (s : State) (d t : Nat) (f : Part → Part) : (s.updPart d t f).part d t = f (s.part d t) := by
  simp [State.part, State.updPart, Die.part, mget_mset_self]
@[simp] theorem cluster_updCluster (s : State) (n : Nat) (f : Cluster → Cluster) : (s.updCluster n f).cluster n = f (s.cluster n) := by
  simp [State.cluster, State.updCluster, mget_mset_self]
@[simp] theorem cq_updCq (s : State) (n : Nat) (f : CplQ → CplQ) : (s.updCq n f).cq n = f (s.cq n) := by
  simp [State.cq, State.updCq, mget_mset_self]
@[simp] theorem sq_updSq (s : State) (n : Nat) (f : SubQ → SubQ) : (s.updSq n f).sq n = f (s.sq n) := by
  simp [State.sq, State.updSq, mget_mset_self]

theorem mset_mset (m : SMap α) (k : Nat) (v w : α) : mset (mset m k v) k w = mset m k w := by
  induction m with
  | nil => simp [mset]
  | cons h t ih =>
    obtain ⟨a, x⟩ := h
    by_cases h1 : k < a
    · simp [mset, h1]
    · by_cases h2 : a = k
      · simp [mset, h2]
      · simp [mset, h1, h2, ih]

/-- A second update of one core replaces the first. -/
@[simp] theorem setCore_setCore (s : State) (c : CoreId) (j k : Core) : (s.setCore c j).setCore c k = s.setCore c k := by
  simp [State.setCore, mset_mset]
@[simp] theorem setCtx_setCtx (s : State) (t : ThreadId) (c d : Ctx) : (s.setCtx t c).setCtx t d = s.setCtx t d := by
  simp [State.setCtx, State.updCore, Core.setCtx, mset_mset]
@[simp] theorem updMe_updMe (s : State) (f g : Ctx → Ctx) : (s.updMe f).updMe g = s.updMe fun c => g (f c) := by
  simp [State.updMe, State.updCtx]

/-! Registers. -/

@[simp] theorem x_zero (c : Ctx) : c.x 0 = 0 := rfl
@[simp] theorem xp_zero (c : Ctx) : c.xp 0 = false := rfl
@[simp] theorem p_zero (c : Ctx) : c.p 0 = true := rfl
@[simp] theorem pp_zero (c : Ctx) : c.pp 0 = false := rfl

/-- An x register after a write: x0 stays 0, the destination holds the value, every other is as before. -/
theorem x_setX (c : Ctx) (d r : Nat) (v : Word) (m : Bool) :
    (c.setX d v m).x r = if r = 0 then 0 else if r = d then v else c.x r := by
  by_cases h0 : r = 0
  · simp [h0]
  · by_cases hd : d = 0
    · subst hd; simp [Ctx.setX, Ctx.x, h0]
    · simp [Ctx.setX, Ctx.x, h0, hd, mget_mset]

theorem bit_setBit (v : BitVec n) (i j : Nat) (b : Bool) (hi : i < n) : bit (setBit v i b) j = if j = i then b else bit v j := by
  unfold setBit bit
  by_cases h : j = i
  · subst h
    cases b <;> simp [hi]
  · by_cases hj : j < n
    · cases b <;> simp [h, hj] <;> omega
    · have hj' : n ≤ j := by omega
      cases b <;> simp [h, BitVec.getLsbD_of_ge _ _ hj']

/-- Its mark. -/
theorem xp_setX (c : Ctx) (d r : Nat) (v : Word) (m : Bool) (hd : d < 32) :
    (c.setX d v m).xp r = if r = 0 then false else if r = d then m else c.xp r := by
  by_cases h0 : r = 0
  · simp [h0]
  · by_cases h1 : d = 0
    · subst h1; simp [Ctx.setX, Ctx.xp, h0]
    · simp [Ctx.setX, Ctx.xp, h0, h1, bit_setBit _ _ _ _ hd]
      split <;> simp_all

/-- A predicate after a write: p0 stays true. -/
theorem p_setP (c : Ctx) (d r : Nat) (v m : Bool) (hd : d < 8) :
    (c.setP d v m).p r = if r = 0 then true else if r = d then v else c.p r := by
  by_cases h0 : r = 0
  · simp [h0]
  · by_cases h1 : d = 0
    · subst h1; simp [Ctx.setP, Ctx.p, h0]
    · simp [Ctx.setP, Ctx.p, h0, h1, bit_setBit _ _ _ _ hd]
      split <;> simp_all

theorem pp_setP (c : Ctx) (d r : Nat) (v m : Bool) (hd : d < 8) :
    (c.setP d v m).pp r = if r = 0 then false else if r = d then m else c.pp r := by
  by_cases h0 : r = 0
  · simp [h0]
  · by_cases h1 : d = 0
    · subst h1; simp [Ctx.setP, Ctx.pp, h0]
    · simp [Ctx.setP, Ctx.pp, h0, h1, bit_setBit _ _ _ _ hd]
      split <;> simp_all

theorem h_setH (c : Ctx) (d r : Nat) (v : BitVec 32) : (c.setH d v).h r = if r = d then v else c.h r := by
  simp [Ctx.setH, Ctx.h, mget_mset]

theorem e_setE (c : Ctx) (d r : Nat) (v : Word) (m : Bool) : (c.setE d v m).e r = if r = d then v else c.e r := by
  simp [Ctx.setE, Ctx.e, mget_mset]

/-- Register reads look at their own fields only. -/
theorem x_congr {c d : Ctx} (h : c.xs = d.xs) (r : Nat) : c.x r = d.x r := by simp [Ctx.x, h]
theorem xp_congr {c d : Ctx} (h : c.xm = d.xm) (r : Nat) : c.xp r = d.xp r := by simp [Ctx.xp, h]
theorem p_congr {c d : Ctx} (h : c.ps = d.ps) (r : Nat) : c.p r = d.p r := by simp [Ctx.p, h]
theorem pp_congr {c d : Ctx} (h : c.pm = d.pm) (r : Nat) : c.pp r = d.pp r := by simp [Ctx.pp, h]

end Sys2Proof.Machine.Laws
end

