-- ==== Sys2Proof/Laws/Memory.lean ====
section
/-! SUPPORT. The canonical form of memory: what it says, that reset memory has it, and that every operation of the banks, of the memory controllers, of the
caches and of full/empty words keeps it; and what one written byte reads as. -/

namespace Sys2Proof.Machine.Laws

/-! The form. -/

/-- Addresses strictly rise, and no byte listed is 0. -/
theorem wf_iff (m : List Host.Cell) : Memory.wf m = true ↔ m.Pairwise (fun c d => c.1 < d.1) ∧ ∀ c ∈ m, c.2 ≠ 0 := by
  induction m with
  | nil => simp [Memory.wf]
  | cons c t ih =>
    obtain ⟨a, v⟩ := c
    cases t with
    | nil => simp [Memory.wf]
    | cons d t =>
      obtain ⟨b, w⟩ := d
      simp only [Memory.wf, Bool.and_eq_true, bne_iff_ne, ne_eq, decide_eq_true_eq, ih, List.pairwise_cons, List.mem_cons, forall_eq_or_imp]
      constructor
      · rintro ⟨⟨h1, h2⟩, ⟨h3, h4⟩, h5⟩
        exact ⟨⟨⟨h2, fun c hc => Nat.lt_trans h2 (h3 c hc)⟩, h3, h4⟩, h1, h5⟩
      · rintro ⟨⟨⟨h1, _⟩, h3, h4⟩, h5, h6⟩
        exact ⟨⟨h5, h1⟩, ⟨h3, h4⟩, h6⟩

theorem mem_mset {m : List Host.Cell} {k : Nat} {b : Byte} {c : Host.Cell} (h : c ∈ mset m k b) : c = (k, b) ∨ c ∈ m := by
  induction m with
  | nil => simpa [mset] using h
  | cons d t ih =>
    obtain ⟨a, v⟩ := d
    simp only [mset] at h
    split at h
    · simpa using h
    · split at h
      · simp only [List.mem_cons] at h ⊢
        tauto
      · simp only [List.mem_cons] at h ⊢
        rcases h with h | h
        · exact .inr (.inl h)
        · rcases ih h with h | h <;> tauto

theorem pairwise_mset {m : List Host.Cell} (k : Nat) (b : Byte) (h : m.Pairwise (fun c d => c.1 < d.1)) :
    (mset m k b).Pairwise (fun c d => c.1 < d.1) := by
  induction m with
  | nil => simp [mset]
  | cons d t ih =>
    obtain ⟨a, v⟩ := d
    simp only [mset]
    rw [List.pairwise_cons] at h
    split
    · rename_i hk
      refine List.pairwise_cons.mpr ⟨fun c hc => ?_, List.pairwise_cons.mpr h⟩
      rcases List.mem_cons.mp hc with rfl | hc
      · exact hk
      · exact Nat.lt_trans hk (h.1 c hc)
    · split
      · rename_i hk
        subst hk
        exact List.pairwise_cons.mpr h
      · refine List.pairwise_cons.mpr ⟨fun c hc => ?_, ih h.2⟩
        rcases mem_mset hc with rfl | hc
        · show a < k
          omega
        · exact h.1 c hc

/-- Writing a byte keeps the form. -/
theorem wf_memPut {m : List Host.Cell} (k : Nat) (b : Byte) (h : Memory.wf m = true) : Memory.wf (memPut m k b) = true := by
  rw [wf_iff] at h ⊢
  unfold memPut
  split
  · exact ⟨h.1.filter _, fun c hc => h.2 c (List.mem_filter.mp hc).1⟩
  · rename_i hb
    refine ⟨pairwise_mset k b h.1, fun c hc => ?_⟩
    rcases mem_mset hc with rfl | hc
    · exact hb
    · exact h.2 c hc

/-- Writing bytes keeps the form. -/
theorem wf_memWrite {m : List Host.Cell} (k : Nat) (b : List Byte) (h : Memory.wf m = true) : Memory.wf (memWrite m k b) = true := by
  induction b generalizing m k with
  | nil => exact h
  | cons b t ih => exact ih (k + 1) (wf_memPut k b h)

/-- Reset memory has the form. -/
theorem wf_reset : Memory.wf State.reset.mem = true := rfl

/-! One byte written. -/

theorem memGet_filter_ne (m : List Host.Cell) (k j : Nat) : memGet (m.filter fun c => c.1 != k) j = if j = k then 0 else memGet m j := by
  unfold memGet
  induction m with
  | nil => simp [mget]
  | cons c t ih =>
    obtain ⟨a, v⟩ := c
    by_cases h : a = k
    · subst h
      simp only [List.filter_cons, bne_self_eq_false, Bool.false_eq_true, if_false, ih, mget]
      split
      · rfl
      · rw [if_neg (by omega)]
    · simp only [List.filter_cons, bne_iff_ne, ne_eq, h, not_false_eq_true, if_true, mget, ih]
      by_cases ha : a = j
      · subst ha; simp [h]
      · simp [ha]

/-- A byte written is what its key reads, and no other key reads otherwise than before. -/
theorem memGet_memPut (m : List Host.Cell) (k j : Nat) (b : Byte) : memGet (memPut m k b) j = if j = k then b else memGet m j := by
  unfold memPut
  split
  · rename_i hb
    subst hb
    exact memGet_filter_ne m k j
  · exact mget_mset 0 m j k b

/-! The operations on the state. -/

/-- The memory of a state is in canonical form. -/
abbrev Wf (s : State) : Prop := Memory.wf s.mem = true

theorem wf_of_mem {s t : State} (h : t.mem = s.mem) (hs : Wf s) : Wf t := by rw [Wf, h]; exact hs

/-- A fold of steps that keep the form keeps it. -/
theorem wf_foldl {α : Type} (f : State → α → State) (hf : ∀ s x, Wf s → Wf (f s x)) (l : List α) {s : State} (hs : Wf s) : Wf (l.foldl f s) := by
  induction l generalizing s with
  | nil => exact hs
  | cons a t ih => exact ih (hf s a hs)

theorem wf_ite {c : Prop} [Decidable c] {s t : State} (hs : Wf s) (ht : Wf t) : Wf (if c then s else t) := by
  split <;> assumption

theorem wf_wr {s : State} (k : Nat) (b : List Byte) (h : Wf s) : Wf (s.wr k b) := wf_memWrite k b h

theorem countRfault_mem (s : State) (w : Nat) : (s.countRfault w).mem = s.mem := by
  unfold State.countRfault
  split
  · split <;> simp
  · rfl

theorem markStale_mem (s : State) (w : Nat) : (s.markStale w).mem = s.mem := by
  unfold State.markStale
  split
  · rfl
  · split <;> rfl

theorem recall_mem (s : State) (w : Nat) : (s.recall w).mem = s.mem := by
  unfold State.recall
  dsimp only
  split <;> rfl

theorem countRecon_mem (s : State) (w : Nat) : (s.countRecon w).mem = s.mem := by
  unfold State.countRecon
  split
  · split <;> simp
  · rfl

theorem wf_loseWord {s : State} (w : Nat) (h : Wf s) : Wf (s.loseWord w) := by
  unfold State.loseWord
  refine wf_of_mem (recall_mem _ _) ?_
  show Wf (State.setPz _ _ _)
  exact wf_of_mem (setPz_mem _ _ _) (wf_of_mem (setFe_mem _ _ _) (wf_wr _ _ h))

theorem wf_lostFault {s : State} (w : Nat) (h : Wf s) : Wf ((s.loseWord w).countRfault w) := wf_of_mem (countRfault_mem _ w) (wf_loseWord w h)

theorem wf_directRead {s : State} (w : Nat) (h : Wf s) : Wf (s.directRead w).1 := by
  unfold State.directRead
  dsimp only
  split
  · exact h
  · split
    · exact h
    · split
      · exact h
      · exact wf_lostFault w h

theorem wf_bankRead {s : State} (w : Nat) (h : Wf s) : Wf (s.bankRead w).1 := by
  unfold State.bankRead
  split
  · exact h
  · dsimp only
    split
    · split
      · exact wf_loseWord w h
      · split
        · exact wf_lostFault w h
        · exact h
    · split
      · have hc : Wf (s.setCondition w (s.condition w % 4)) := h
        split
        · exact wf_directRead w hc
        · split
          · exact wf_lostFault w hc
          · exact wf_of_mem (countRecon_mem _ _) hc
      · exact wf_directRead w h

theorem wf_bankReads {s : State} (l : List Nat) (h : Wf s) : Wf (s.bankReads l).1 := by
  induction l generalizing s with
  | nil => exact h
  | cons w t ih => exact ih (wf_bankRead w h)

theorem wf_bankWrite {s t : State} (k : Nat) (b : List Byte) (mark : Bool) (e : s.bankWrite k b mark = some t) (h : Wf s) : Wf t := by
  unfold State.bankWrite at e
  dsimp only at e
  split at e
  · simp only [Option.some.injEq] at e
    subst e
    have hw := wf_wr k b h
    refine wf_of_mem (markStale_mem _ _) (wf_ite ?_ ?_) <;> (try show Wf (ite _ _ _)) <;>
      refine wf_ite ?_ ?_ <;> (try show Wf (ite _ _ _)) <;>
      exact wf_ite (wf_of_mem (setPz_mem _ _ _) hw) (wf_ite (wf_of_mem (setPz_mem _ _ _) hw) hw)
  · cases e

/-- The write, or the state as it was where the bank discards it. -/
theorem wf_bankWrite_getD {s : State} (k : Nat) (b : List Byte) (mark : Bool) (h : Wf s) : Wf ((s.bankWrite k b mark).getD s) := by
  cases e : s.bankWrite k b mark with
  | none => exact h
  | some t => exact wf_bankWrite k b mark e h

theorem wf_hbmWrite1 {s : State} (pa : Nat) (b : List Byte) (mark : Bool) (h : Wf s) : Wf (s.hbmWrite1 pa b mark) := by
  refine wf_foldl _ (fun s a hs => ?_) _ h
  dsimp only
  split
  · exact wf_of_mem (setPz_mem _ _ _) (wf_wr a b hs)
  · split
    · exact wf_of_mem (setPz_mem _ _ _) (wf_wr a b hs)
    · exact wf_wr a b hs

theorem wf_hbmWrite {s : State} (pa : Nat) (b : List Byte) (marks : List Bool) (h : Wf s) : Wf (s.hbmWrite pa b marks) :=
  wf_foldl _ (fun _ _ hs => wf_hbmWrite1 _ _ _ hs) _ h

theorem wf_setPzs {s : State} (l : List Nat) (b : Bool) (h : Wf s) : Wf (l.foldl (fun s a => s.setPz (a / 8) b) s) :=
  wf_foldl _ (fun _ _ hs => wf_of_mem (setPz_mem _ _ _) hs) _ h

theorem wf_writeBack {s : State} (cl line : Nat) (h : Wf s) : Wf (s.writeBack cl line) := by
  refine wf_ite h (wf_ite (wf_of_mem (migsOver_mem _) (wf_of_mem (updCluster_mem _ _ _)
    (wf_foldl _ (fun _ _ hs => wf_of_mem (report_mem _ _ _) hs) _ h)))
    (wf_of_mem (migsOver_mem _) (wf_of_mem (updCluster_mem _ _ _) (wf_foldl _ (fun u i hu => ?_) _ h))))
  have hw : Wf ((u.dual (line * 64 + i)).foldl
      (fun v a => v.wr a [(mget CLine.empty (s.cluster cl).lines line).data.getD i 0]) u) := wf_foldl _ (fun _ _ hv => wf_wr _ _ hv) _ hu
  exact wf_ite (wf_ite (wf_ite (wf_setPzs _ _ hw) (wf_ite (wf_setPzs _ _ hw) hw)) hw) hu

theorem wf_writeBackAll {s : State} (cl : Nat) (h : Wf s) : Wf (s.writeBackAll cl) := wf_foldl _ (fun _ _ hs => wf_writeBack _ _ hs) _ h

theorem wf_flushLine {s : State} (cl line : Nat) (h : Wf s) : Wf (s.flushLine cl line) :=
  wf_of_mem (updCluster_mem _ _ _) (wf_writeBack cl line h)

theorem draw_mem (s : State) : s.draw.2.mem = s.mem := rfl

theorem wf_room {s : State} (cl line : Nat) (h : Wf s) : Wf (s.room cl line) := by
  unfold State.room
  refine wf_ite h ?_
  dsimp only
  split
  · exact wf_of_mem (updCluster_mem _ _ _) (wf_flushLine _ _ h)
  · exact wf_flushLine _ _ h

theorem wf_fillLine {s : State} (cl line : Nat) (pf : Bool) (h : Wf s) : Wf (s.fillLine cl line pf) :=
  wf_of_mem (updCluster_mem _ _ _) (wf_room cl line h)

theorem wf_fetched {s : State} (cl line : Nat) (pf : Bool) (h : Wf s) : Wf (s.fetched cl line pf) :=
  wf_of_mem (updCluster_mem _ _ _) (wf_fillLine cl line pf h)

theorem wf_demandMeet {s : State} (cl line : Nat) (h : Wf s) : Wf (s.demandMeet cl line) := by
  unfold State.demandMeet
  refine wf_ite (wf_of_mem (updCluster_mem _ _ _) (wf_fetched cl line false h)) ?_
  dsimp only
  split <;> exact h

theorem wf_demand {s : State} (cl line o n : Nat) (h : Wf s) : Wf (s.demand cl line o n) :=
  wf_ite (wf_demandMeet cl line h) (wf_fillLine cl line false (wf_demandMeet cl line h))

theorem wf_cacheRead {s : State} (cl pa n : Nat) (h : Wf s) : Wf (s.cacheRead cl pa n).1 := wf_demand _ _ _ _ h

theorem wf_cacheWrite {s : State} (cl pa : Nat) (b : List Byte) (marks : List Bool) (owner va : Word) (h : Wf s) :
    Wf (s.cacheWrite cl pa b marks owner va) := wf_of_mem (updCluster_mem _ _ _) (wf_room _ _ (wf_demandMeet _ _ h))

theorem wf_dropClean {s : State} (cl : Nat) (h : Wf s) : Wf (s.dropClean cl) := h

theorem wf_ctrlWrite {s : State} (cl pa : Nat) (b : List Byte) (marks : List Bool) (h : Wf s) : Wf (s.ctrlWrite cl pa b marks) :=
  wf_hbmWrite pa b marks (wf_flushLine _ _ h)

end Sys2Proof.Machine.Laws
end

