-- ==== Sys2Proof/Laws/MemoryOps.lean ====
section
/-! SUPPORT. The operations of a thread and of the device (Ops) keep memory in its canonical form: posts, fault records, loads and stores, full/empty words,
accesses in flight, parking, gang stop, the fatal partition error, and taking a trap. -/

namespace Sys2Proof.Machine.Laws

theorem pairSync_mem (s : State) (t : ThreadId) (xd pd hd : List Nat) : (s.pairSync t xd pd hd).mem = s.mem := by
  unfold State.pairSync
  split <;> simp

theorem wf_pairSync {s : State} (t : ThreadId) (xd pd hd : List Nat) (h : Wf s) : Wf (s.pairSync t xd pd hd) := wf_of_mem (pairSync_mem ..) h

theorem wf_updCtx {s : State} (t : ThreadId) (f : Ctx → Ctx) (h : Wf s) : Wf (s.updCtx t f) := h
theorem wf_updMe {s : State} (f : Ctx → Ctx) (h : Wf s) : Wf (s.updMe f) := h
theorem wf_updCore {s : State} (c : CoreId) (f : Core → Core) (h : Wf s) : Wf (s.updCore c f) := h
theorem wf_updLaunch {s : State} (r : Word) (f : Launch → Launch) (h : Wf s) : Wf (s.updLaunch r f) := h
theorem wf_setFe {s : State} (w : Nat) (f : FeWord) (h : Wf s) : Wf (s.setFe w f) := h
theorem wf_report {s : State} (r : Word) (x : Report) (h : Wf s) : Wf (s.report r x) := h
theorem wf_pushCq {s : State} (x : CqEntry) (h : Wf s) : Wf (s.pushCq x) := h

/-! Posts and fault records. -/

theorem wf_post {s : State} (die tier : Nat) (x : Transit) (h : Wf s) : Wf (s.post die tier x) := h

theorem wf_setLink {s : State} (key : Nat) (next : Word) (h : Wf s) : Wf (s.setLink key next) := wf_hbmWrite _ _ _ h

theorem wf_unchain {s : State} (l : List Cont) (k : Cont) (h : Wf s) : Wf (s.unchain l k) := by
  unfold State.unchain
  split
  · exact wf_setLink _ _ h
  · exact h

theorem wf_unlinkBar {s : State} (w : Nat) (k : Cont) (h : Wf s) : Wf (s.unlinkBar w k) := wf_unchain _ _ h

theorem wf_updSpill {s : State} (addr serial : Word) (f : Spill → Spill) (h : Wf s) : Wf (s.updSpill addr serial f) := h

theorem wf_msi {s : State} (v : Nat) (h : Wf s) : Wf (s.msi v) := h

theorem wf_fqWrite {s : State} (b : List Byte) (h : Wf s) : Wf (s.fqWrite b) :=
  wf_ite h (wf_msi _ (wf_wr _ _ h))

theorem wf_postFault {s : State} (unit : Nat) (serial : Word) (ctx kind cycle : Nat) (va : Word) (h : Wf s) :
    Wf (s.postFault unit serial ctx kind cycle va) := wf_ite h (wf_fqWrite _ h)

theorem wf_redirectAll {s : State} (c d : CoreId) (k : Nat) (hs : List (Nat × Nat)) (ts : List Nat) (h : Wf s) : Wf (s.redirectAll c d k hs ts) := by
  induction hs generalizing s ts with
  | nil => exact h
  | cons x hs ih =>
    cases ts with
    | nil => exact h
    | cons t ts => exact ih ts (wf_hbmWrite _ _ _ h)

theorem wf_thermalMove {s : State} (die tier : Nat) (serial addr : Word) (b : List Byte) (x : Bool) (f : Option Nat) (h : Wf s) :
    Wf (s.thermalMove die tier serial addr b x f).1 := by
  unfold State.thermalMove
  dsimp only
  split
  · exact h
  · split
    · exact h
    · split
      · exact h
      · split
        · exact h
        · split
          · exact h
          · split
            · exact h
            · exact wf_redirectAll _ _ _ _ _ h

theorem wf_postKey {s : State} (die tier key : Nat) (addr serial : Word) (src : Nat) (h : Wf s) : Wf (s.postKey die tier key addr serial src) := by
  unfold State.postKey
  dsimp only
  split
  · exact wf_post _ _ _ (wf_hbmWrite _ _ _ (wf_thermalMove _ _ _ _ _ _ _ h))
  · exact wf_post _ _ _ (wf_hbmWrite _ _ _ h)

theorem arrive_mem (s : State) (die tier : Nat) (x : Transit) (own : Bool) : (s.arrive die tier x own).1.mem = s.mem := by
  unfold State.arrive
  dsimp only
  split
  · split
    · exact report_mem _ _ _
    · exact updPart_mem _ _ _ _
  · split
    · rfl
    · split
      · exact (updLaunch_mem _ _ _).trans (updPart_mem _ _ _ _)
      · exact updPart_mem _ _ _ _

theorem acceptPosts_mem (n : Nat) (s : State) (die tier : Nat) : (s.acceptPosts n die tier).mem = s.mem := by
  induction n generalizing s with
  | zero => rfl
  | succ n ih =>
    unfold State.acceptPosts
    split
    · rfl
    · dsimp only
      split
      · rfl
      · exact (ih _).trans ((pairSync_mem ..).trans ((updCtx_mem _ _ _).trans ((updPart_mem _ _ _ _).trans (arrive_mem ..))))

theorem wf_postCont {s : State} (w : Nat) (k : Cont) (h : Wf s) : Wf (s.postCont w k) := wf_ite h (wf_postKey _ _ _ _ _ _ h)

/-! Loads, stores and full/empty words. -/

theorem wf_release {s : State} (t : ThreadId) (sc : Nat) (h : Wf s) : Wf (s.release t sc) := wf_ite (wf_writeBackAll _ h) h

theorem wf_acquire {s : State} (t : ThreadId) (sc : Nat) (h : Wf s) : Wf (s.acquire t sc) := wf_ite h h

theorem wf_releaseOpt {s : State} (t : ThreadId) (o : Option Nat) (h : Wf s) : Wf (match o with | some sc => s.release t sc | none => s) := by
  cases o with
  | none => exact h
  | some sc => exact wf_release t sc h

theorem wf_acquireOpt {s : State} (t : ThreadId) (o : Option Nat) (h : Wf s) : Wf (match o with | some sc => s.acquire t sc | none => s) := by
  cases o with
  | none => exact h
  | some sc => exact wf_acquire t sc h

theorem wf_loadLoc {s : State} (t : ThreadId) (loc : Loc) (a : Word) (n : Nat) (acq : Option Nat) (h : Wf s) : Wf (s.loadLoc t loc a n acq).1 := by
  unfold State.loadLoc
  split
  · rename_i k
    exact wf_foldl (fun (s : State) w => (s.parityReport (s.ctx t).serial w (a - w64 (k % 8) + w64 (8 * (w - k / 8)))).updCtx t fun c =>
      c.cirSet 2) (fun _ _ hs => hs) _ (wf_bankReads _ h)
  · split
    · exact h
    · exact wf_cacheRead _ _ _ h
  · exact h
  · exact h

theorem wf_finishLoad {s : State} (t : ThreadId) (i : Instr) (b : List Byte) (m : List Bool) (h : Wf s) : Wf (s.finishLoad t i b m) := by
  unfold State.finishLoad
  dsimp only
  refine wf_pairSync _ _ _ _ (wf_acquireOpt t (Instr.form i (s.ctx t)).sc ?_)
  exact h

theorem wf_finishStf {s : State} (t : ThreadId) (i : Instr) (h : Wf s) : Wf (s.finishStf t i) := wf_pairSync _ _ _ _ h

theorem wf_spillOut {s : State} (t : ThreadId) (o : Outcome1) (h : Wf s) : Wf (s.spillOut t o) := h

theorem engMark_mem (s : State) (t : ThreadId) (run : Nat) (m : BitVec 8) (a : Word) : (s.engMark t run m a).mem = s.mem := by
  unfold State.engMark
  split <;> rfl

theorem engCir_mem (s : State) (t : ThreadId) (run : Nat) (m : BitVec 8) : (s.engCir t run m).mem = s.mem := engMark_mem ..

theorem wf_putWord {s : State} (w : Nat) (v : Word) (m : Bool) (serial a : Word) (h : Wf s) : Wf (s.putWord w v m serial a) := by
  unfold State.putWord
  split
  · rename_i e
    exact wf_bankWrite _ _ _ e h
  · exact h

theorem wf_serveLens {s : State} (w : Nat) (c : CoreId) (h : Wf s) : Wf (s.serveLens w c) := wf_updCore _ _ (wf_bankRead w h)

theorem wf_serveStf {s : State} (w : Nat) (t : ThreadId) (i : Instr) (h : Wf s) : Wf (s.serveStf w t i).1 := by
  unfold State.serveStf
  dsimp only
  have hp := wf_putWord w ((s.ctx t).x (Instr.form i (s.ctx t)).rt) ((s.ctx t).xp (Instr.form i (s.ctx t)).rt || (Instr.form i (s.ctx t)).base)
    (s.ctx t).serial (Instr.form i (s.ctx t)).addr (wf_releaseOpt t (Instr.form i (s.ctx t)).sc h)
  have hq (b : Bool) (u : State) (g : FeWord) (hu : Wf u) : Wf (if b = true then u.setFe w g else u) := wf_ite hu hu
  exact wf_ite (wf_spillOut _ _ (hq _ _ _ hp)) (wf_finishStf _ _ (hq _ _ _ hp))

theorem wf_rowWritten {s : State} (w : Nat) (h : Wf s) : Wf (s.rowWritten w) := by
  refine wf_of_mem (markStale_mem _ _) ?_
  exact wf_ite h h

theorem wf_serveLdf {s : State} (w : Nat) (t : ThreadId) (i : Instr) (take : Bool) (h : Wf s) : Wf (s.serveLdf w t i take).1 := by
  unfold State.serveLdf
  have hr := wf_bankRead w h
  dsimp only
  have h1 : Wf (if (s.bankRead w).2 = true then
      ((s.bankRead w).1.parityReport (s.ctx t).serial w (Instr.form i (s.ctx t)).addr).engCir t (s.ctx t).run 2 else (s.bankRead w).1) :=
    wf_ite (wf_of_mem (engCir_mem _ _ _ _) hr) hr
  have h2 (d : List Byte) (m : List Bool) (u : State) (hu : Wf u) : Wf (if u.leaving t then u.spillOut t (.value d m) else u.finishLoad t i d m) :=
    wf_ite hu (wf_finishLoad _ _ _ _ hu)
  have h3 (c : Bool) (u : State) (g : FeWord) (hu : Wf u) : Wf (if c = true then ((u.rowWritten w).setFe w g, true) else (u, false)).1 := by
    cases c
    · exact hu
    · exact wf_setFe _ _ (wf_rowWritten _ hu)
  exact h3 _ _ _ (h2 _ _ _ h1)

theorem wf_serve (n : Nat) {s : State} (w : Nat) (h : Wf s) : Wf (State.serve n s w).1 := by
  induction n generalizing s with
  | zero => exact h
  | succ n ih =>
    unfold State.serve
    dsimp only
    split
    · exact h
    · split
      · exact ih (wf_serveLens _ _ h)
      · split
        · exact ih (wf_serveStf _ _ _ h)
        · exact ih (wf_serveLdf _ _ _ _ h)
        · exact h

theorem wf_settleWord {s : State} (w : Nat) (x y : Bool) (h : Wf s) : Wf (s.settleWord w x y) :=
  wf_foldl _ (fun _ _ hs => wf_postCont _ _ hs) _ (wf_ite (wf_serve _ _ h) (wf_serve _ _ h))

theorem wf_setFull {s : State} (w : Nat) (h : Wf s) : Wf (s.setFull w) := wf_ite h (wf_ite h (wf_settleWord _ _ _ h))

theorem wf_setEmpty {s : State} (w : Nat) (h : Wf s) : Wf (s.setEmpty w) :=
  wf_ite (wf_rowWritten _ h) (wf_settleWord _ _ _ (wf_setFe _ _ (wf_rowWritten _ h)))

theorem wf_releaseBarrier {s : State} (w : Nat) (h : Wf s) : Wf (s.releaseBarrier w) := by
  unfold State.releaseBarrier
  refine wf_ite h (wf_foldl _ (fun _ _ hs => wf_postCont _ _ hs) _ (wf_foldl (fun s t => s.spillOut t .again) (fun _ _ hs => wf_spillOut _ _ hs) _ ?_))
  exact h

theorem wf_bankStore {s : State} (serial : Word) (k : Nat) (b : List Byte) (m : Bool) (a : Word) (h : Wf s) : Wf (s.bankStore serial k b m a) := by
  unfold State.bankStore
  split
  · exact h
  · rename_i t e
    have ht : Wf t := wf_bankWrite _ _ _ e h
    exact wf_ite (wf_ite (wf_setFull _ ht) ht) (wf_releaseBarrier _ (wf_ite (wf_setFull _ ht) ht))

theorem wf_hostPut (s : State) (p : (Nat × List Byte) × Nat) (m : Bool) (h : Wf s) : Wf (let s := s.wr p.1.1 p.1.2
    if m then s.setPz (p.1.1 / 8) true else if p.1.2.length = 8 then s.setPz (p.1.1 / 8) false else s) := by
  have hw := wf_wr p.1.1 p.1.2 h
  exact wf_ite (wf_of_mem (setPz_mem _ _ _) hw) (wf_ite (wf_of_mem (setPz_mem _ _ _) hw) hw)

theorem wf_storeLoc {s : State} (t : ThreadId) (loc : Loc) (a : Word) (b : List Byte) (marks : List Bool) (rel : Option Nat) (h : Wf s) :
    Wf (s.storeLoc t loc a b marks rel) := by
  cases rel <;> unfold State.storeLoc <;> dsimp only
  case none =>
    split
    · exact wf_foldl _ (fun _ _ hs => wf_bankStore _ _ _ _ _ hs) _ h
    · exact wf_ite (wf_ctrlWrite _ _ _ _ h) (wf_cacheWrite _ _ _ _ _ _ h)
    · exact wf_foldl _ (fun u p hu => wf_hostPut u p _ hu) _ h
    · exact h
  case some sc =>
    have hr := wf_release t sc h
    split
    · exact wf_foldl _ (fun _ _ hs => wf_bankStore _ _ _ _ _ hs) _ hr
    · exact wf_ite (wf_ctrlWrite _ _ _ _ hr) (wf_cacheWrite _ _ _ _ _ _ hr)
    · exact wf_foldl _ (fun u p hu => wf_hostPut u p _ hu) _ hr
    · exact hr

/-! Accesses in flight, parking, gang stop, and traps. -/

theorem wf_performAt {s : State} (t : ThreadId) (p : Pend) (loc : Loc) (h : Wf s) : Wf (s.performAt t p loc) :=
  wf_ite (wf_pairSync _ _ _ _ (wf_loadLoc _ _ _ _ _ h)) (wf_storeLoc _ _ _ _ _ _ h)

theorem wf_perform {s u : State} (t : ThreadId) (p : Pend) (e : s.perform t p = some u) (h : Wf s) : Wf u := by
  unfold State.perform at e
  split at e
  · cases e
  · split at e <;> first
      | (simp only [Option.some.injEq] at e; subst e; first | exact h | exact wf_performAt _ _ _ h)
      | cases e

theorem wf_performMarked {s : State} (t : ThreadId) (left : List Pend) (l : List (Pend × Bool)) (h : Wf s) : Wf (s.performMarked t left l).1 := by
  induction l generalizing s left with
  | nil => exact h
  | cons p l ih =>
    unfold State.performMarked
    split
    · rename_i u e
      refine ih _ ?_
      split at e
      · exact wf_perform t p.1 e h
      · cases e
    · exact ih _ h

theorem wf_drainIf {s : State} (t : ThreadId) (q : Pend → Bool) (h : Wf s) : Wf (s.drainIf t q) :=
  wf_ite h (wf_of_mem (migsOver_mem _) (wf_updCtx _ _ (wf_performMarked _ _ _ h)))

theorem wf_drain {s : State} (t : ThreadId) (h : Wf s) : Wf (s.drain t) := wf_drainIf t _ h

theorem wf_park {s : State} (i : Instr) (c : Cause) (h : Wf s) : Wf (s.park i c) := wf_pairSync _ _ _ _ h

theorem wf_parkX {s : State} (i : Instr) (a : Word) (k : Acc1) (h : Wf s) : Wf (s.parkX i a k) := wf_park _ _ (wf_postFault _ _ _ _ _ _ h)

theorem sampLeave_mem (s : State) (t : ThreadId) : (s.sampLeave t).mem = s.mem := by
  unfold State.sampLeave
  split
  · rfl
  · dsimp only
    split
    · rfl
    · split
      · split <;> rfl
      · rfl

theorem withdraw_mem (s : State) (t : ThreadId) : (s.withdraw t).mem = s.mem := by
  unfold State.withdraw
  dsimp only
  refine (updDie_mem _ _ _).trans ((sampLeave_mem _ _).trans ((updCore_mem _ _ _).trans ?_))
  split
  · split <;> rfl
  · rfl

theorem wf_withdraw {s : State} (t : ThreadId) (h : Wf s) : Wf (s.withdraw t) := wf_of_mem (withdraw_mem s t) h

theorem wf_gangStop {s : State} (c : CoreId) (serial : Word) (h : Wf s) : Wf (s.gangStop c serial) :=
  wf_updCore _ _ (wf_foldl _ (fun _ _ hs => wf_updCtx _ _ (wf_drain _ hs)) _ h)

theorem wf_askStop {s : State} (serial : Word) (l : List CoreId) (h : Wf s) : Wf (s.askStop serial l) := h

theorem wf_reportRefused {s : State} (c : Ctx) (t : ThreadId) (h : Wf s) : Wf (s.reportRefused c t) := wf_ite h h

theorem wf_freeLaunch {s : State} (serial : Word) (h : Wf s) : Wf (s.freeLaunch serial) := by
  unfold State.freeLaunch
  refine wf_foldl _ (fun s d hs => wf_foldl _ (fun s n hu => wf_of_mem (acceptPosts_mem _ _ _ _) hu) _ hs) _ ?_
  show Wf (List.foldl _ _ _)
  refine wf_foldl _ (fun _ _ hs => wf_reportRefused _ _ hs) _ ?_
  refine wf_foldl _ (fun _ _ hs => wf_foldl _ (fun _ _ hu => wf_updCtx _ _ (wf_withdraw _ (wf_reportRefused _ _ hu))) _ ?_) _ h
  exact wf_foldl _ (fun _ _ hu => wf_ite (wf_reportRefused _ _ hu) hu) _ hs

theorem wf_cancelSync {s : State} (c : CoreId) (h : Wf s) : Wf (s.cancelSync c) := h

theorem wf_cancelEngines {s : State} (serial : Word) (h : Wf s) : Wf (s.cancelEngines serial) := by
  unfold State.cancelEngines
  show Wf (List.foldl _ _ _)
  exact wf_foldl _ (fun _ (k : Nat × Core) hs => wf_cancelSync (coreOf k.1) hs) _ h

theorem wf_cmdDone {s : State} (serial : Word) (h : Wf s) : Wf (s.cmdDone serial) := wf_ite h h

theorem wf_reject {s : State} (l : Launch) (r : Report) (h : Wf s) : Wf (s.reject l r) := h

theorem wf_fatal {s : State} (serial : Word) (r : Report) (h : Wf s) : Wf (s.fatal serial r) := by
  refine wf_updLaunch _ _ (wf_foldl _ (fun _ _ hs => wf_reject _ _ hs) _ (wf_cmdDone _ (wf_cancelEngines _ ?_)))
  exact wf_freeLaunch _ (wf_foldl _ (fun _ _ hs => wf_gangStop _ _ hs) _ h)

theorem wf_trapTo {s : State} (t : ThreadId) (cause addr tpc : Word) (r : Report) (h : Wf s) : Wf (s.trapTo t cause addr tpc r) :=
  wf_ite (wf_pairSync _ _ _ _ (wf_updCtx _ _ (wf_withdraw _ h))) (wf_fatal _ _ h)

theorem wf_trapAt {s : State} (t : ThreadId) (cls det : Nat) (addr : Word) (h : Wf s) : Wf (s.trapAt t cls det addr) := wf_trapTo _ _ _ _ _ h

theorem wf_trap {s : State} (cls det : Nat) (addr : Word) (h : Wf s) : Wf (s.trap cls det addr) := wf_trapAt _ _ _ _ h

theorem wf_trapReturn {s : State} (h : Wf s) : Wf s.trapReturn := h

/-- An access keeps the form whatever it comes to, if what it goes on with does. -/
theorem wf_access {s t : State} (i : Instr) (a : Word) (n al : Nat) (k : Acc1) (f : Loc → Res) (hf : ∀ loc, f loc = .next t → Wf t)
    (e : s.access i a n al k f = .next t) (h : Wf s) : Wf t := by
  unfold State.access at e
  split at e
  · cases e; exact wf_trap _ _ _ h
  · cases e; exact wf_parkX _ _ _ h
  · cases e
  · cases e; exact wf_trap _ _ _ h
  · exact hf _ e

end Sys2Proof.Machine.Laws
end

