-- ==== Sys2Proof/Laws/Ops.lean ====
section
/-! SUPPORT. What each shared operation of the instruction meanings can do: the operand forms (results into x and p registers, one and two sources),
branches, the privilege check, access checks, and the accesses in flight that precede a serialising instruction. -/

namespace Sys2Proof.Machine.Laws

theorem onlyMe_updMe (s : State) (f : Ctx → Ctx) : OnlyMe s (s.updMe f) := by
  simp only [OnlyMe, me_updMe]
  rfl

theorem sameMem_updMe (s : State) (f : Ctx → Ctx) : SameMem s (s.updMe f) := fun _ => by simp

@[simp] theorem x_next (c : Ctx) (n r : Nat) : (c.next n).x r = c.x r := rfl
@[simp] theorem xp_next (c : Ctx) (n r : Nat) : (c.next n).xp r = c.xp r := rfl
@[simp] theorem p_next (c : Ctx) (n r : Nat) : (c.next n).p r = c.p r := rfl
@[simp] theorem pp_next (c : Ctx) (n r : Nat) : (c.next n).pp r = c.pp r := rfl
@[simp] theorem x_goto (c : Ctx) (a : Word) (r : Nat) : (c.goto a).x r = c.x r := rfl
@[simp] theorem xp_goto (c : Ctx) (a : Word) (r : Nat) : (c.goto a).xp r = c.xp r := rfl
@[simp] theorem x_consume (c : Ctx) (m : Bool) (r : Nat) : (c.consume m).x r = c.x r := by unfold Ctx.consume; split <;> rfl
@[simp] theorem xp_consume (c : Ctx) (m : Bool) (r : Nat) : (c.consume m).xp r = c.xp r := by unfold Ctx.consume; split <;> rfl
@[simp] theorem p_consume (c : Ctx) (m : Bool) (r : Nat) : (c.consume m).p r = c.p r := by unfold Ctx.consume; split <;> rfl
@[simp] theorem pp_consume (c : Ctx) (m : Bool) (r : Nat) : (c.consume m).pp r = c.pp r := by unfold Ctx.consume; split <;> rfl

/-- A result into an x register writes that register and nothing else. -/
theorem writesX_upd (s : State) (d : Nat) (hd : d < 32) (v : Word) (m : Bool) (n : Nat) :
    WritesX s (s.updMe fun c => ((c.consume m).setX d v m).next n) d v m n := by
  refine ⟨onlyMe_updMe .., sameMem_updMe s _, ?_, ?_⟩
  · intro r _
    simp only [me_updMe, x_next, xp_next, x_setX, xp_setX _ _ _ _ _ hd, x_consume, xp_consume]
    simp
  · simp only [XOnly, me_updMe]
    cases m <;> by_cases h : d = 0 <;> simp [Ctx.next, Ctx.setX, Ctx.consume, h]

theorem toX_writes (s : State) (d : BitVec 5) (v : Word) (m : Bool) (n : Nat) :
    ∃ t, s.toX d.toNat v m n = .next t ∧ WritesX s t d.toNat v m n := ⟨_, rfl, writesX_upd s _ (by omega) _ _ _⟩

theorem alu1_writes (s : State) (d a : BitVec 5) (f : Word → Word) (n : Nat) :
    ∃ t, s.alu1 d.toNat a.toNat f n = .next t ∧ WritesX s t d.toNat (f (s.me.x a.toNat)) (s.me.xp a.toNat) n := toX_writes ..

theorem alu2_writes (s : State) (d a b : BitVec 5) (f : Word → Word → Word) (n : Nat) :
    ∃ t, s.alu2 d.toNat a.toNat b.toNat f n = .next t ∧
      WritesX s t d.toNat (f (s.me.x a.toNat) (s.me.x b.toNat)) (s.me.xp a.toNat || s.me.xp b.toNat) n := toX_writes ..

/-- A result into a predicate register writes that register and nothing else. -/
theorem writesP_upd (s : State) (d : Nat) (hd : d < 8) (v m : Bool) (n : Nat) :
    WritesP s (s.updMe fun c => ((c.consume m).setP d v m).next n) d v m n := by
  refine ⟨onlyMe_updMe .., sameMem_updMe s _, ?_, ?_⟩
  · intro r _
    simp only [me_updMe, p_next, pp_next, p_setP _ _ _ _ _ hd, pp_setP _ _ _ _ _ hd, p_consume, pp_consume]
    simp
  · simp only [me_updMe]
    cases m <;> by_cases h : d = 0 <;> simp [Ctx.next, Ctx.setP, Ctx.consume, h]

theorem toP_writes (s : State) (d : BitVec 3) (v m : Bool) (n : Nat) :
    ∃ t, s.toP d.toNat v m n = .next t ∧ WritesP s t d.toNat v m n := ⟨_, rfl, writesP_upd s _ (by omega) _ _ _⟩

/-- A branch changes nothing but the pc. -/
theorem goto_goes (s : State) (a : Word) (m : Bool) : GoesTo s (s.updMe fun c => (c.consume m).goto a) a m := by
  refine ⟨onlyMe_updMe .., sameMem_updMe s _, ?_⟩
  simp only [me_updMe]
  cases m <;> simp [Ctx.goto, Ctx.consume]

/-- The privilege check lets a privileged context go on and traps any other with PERM 0x04. -/
theorem needPriv_next {s t : State} {f : Res} (h : s.needPriv f = .next t) :
    (s.privileged s.cur = true ∧ f = .next t) ∨ (s.privileged s.cur = false ∧ t = s.trap 6 4 0) := by
  unfold State.needPriv at h
  split at h
  · exact .inl ⟨‹_›, h⟩
  · rename_i e
    exact .inr ⟨by simpa using e, by cases h; rfl⟩

/-! Accesses in flight. -/

/-- With nothing in flight, performing accesses changes nothing. -/
@[simp] theorem drainIf_nil (s : State) (t : ThreadId) (q : Pend → Bool) (h : (s.ctx t).pend = []) : s.drainIf t q = s := by
  unfold State.drainIf
  simp [h]

@[simp] theorem drain_nil (s : State) (t : ThreadId) (h : (s.ctx t).pend = []) : s.drain t = s := drainIf_nil s t _ h

/-- With nothing in flight, a wait for accesses goes on at once. -/
theorem afterIf_nil (s : State) (q : Pend → Bool) (parks : State → Pend → State) (f : State → Res) (hh : s.hole = none) (h : s.me.pend = []) :
    s.afterIf q parks f = f s := by
  have e : (s.ctx s.cur).pend = [] := h
  have w : s.me.waitsFor q = none := by simp [Ctx.waitsFor, h, picked]
  simp only [State.afterIf, drainIf_nil _ _ _ e, hh, w]

/-- With nothing in flight, an instruction goes on to its meaning. -/
theorem waitRegs_nil (s : State) (i : Instr) (f : State → Res) (h : s.me.pend = []) : s.waitRegs i f = f s := by
  unfold State.waitRegs
  simp [h]

/-- An access traps, waits for its page, meets no memory, or goes on at its location. -/
theorem access_next {s t : State} {i : Instr} {a : Word} {n al : Nat} {k : Acc1} {f : Loc → Res} (h : s.access i a n al k f = .next t) :
    (∃ c d, s.checkAcc s.cur a n al k = .trap c d ∧ t = s.trap c d a) ∨ (s.checkAcc s.cur a n al k = .xfault ∧ t = s.parkX i a k) ∨
      (∃ o, s.checkAcc s.cur a n al k = .mmio o ∧ t = s.trap 6 7 a) ∨ ∃ l, s.checkAcc s.cur a n al k = l ∧ f l = .next t := by
  unfold State.access at h
  split at h
  · exact .inl ⟨_, _, ‹_›, by cases h; rfl⟩
  · exact .inr (.inl ⟨‹_›, by cases h; rfl⟩)
  · cases h
  · exact .inr (.inr (.inl ⟨_, ‹_›, by cases h; rfl⟩))
  · exact .inr (.inr (.inr ⟨_, rfl, h⟩))

/-- A wait for the thread's own accesses that `q` picks performs those that can be performed. Where one is left it traps, for want of a
permission, or the thread parks; else the instruction goes on. -/
theorem afterIf_next {s t : State} {q : Pend → Bool} {parks : State → Pend → State} {f : State → Res} (h : s.afterIf q parks f = .next t) :
    let u := s.drainIf s.cur q
    u.hole = none ∧
      ((u.me.waitsFor q = none ∧ f u = .next t) ∨
        ∃ p, u.me.waitsFor q = some p ∧
          ((u.pendTrap u.cur p = none ∧ t = parks u p) ∨
            ∃ c d, u.pendTrap u.cur p = some (c, d) ∧ t = (u.updMe fun x => { x with pend := x.pend.erase p }).trap c d p.va)) := by
  unfold State.afterIf at h
  simp only at h
  split at h
  · cases h
  · exact ⟨‹_›, .inl ⟨‹_›, h⟩⟩
  · refine ⟨‹_›, .inr ⟨_, ‹_›, ?_⟩⟩
    split at h
    · exact .inr ⟨_, _, ‹_›, by cases h; rfl⟩
    · exact .inl ⟨‹_›, by cases h; rfl⟩

/-- A reply comes now, or the thread waits for it. -/
theorem replied_next {s t : State} {i : Instr} {b : Bool} {f : State → Res} (h : s.replied i b f = .next t) :
    (s.me.slow = true ∧ t = s.park i (.reply b)) ∨ f s = .next t := by
  unfold State.replied at h
  split at h
  · rename_i c
    exact .inl ⟨by simp only [Bool.and_eq_true] at c; exact c.1, by cases h; rfl⟩
  · exact .inr h

/-! Grants. -/

/-- A unit that asks for a grant has it when its request had waited and has been granted, or when nothing defers it and no other request
of its cluster, of no lower PRIO, waits; it is then charged. -/
theorem request_granted {s : State} {c : CoreId} {unit : Nat} {serial : Word} (h : (s.request c unit serial).2 = true) :
    (s.dev.grants.contains (c, unit, serial) = true ∧
        (s.request c unit serial).1 = { s with dev := { s.dev with grants := s.dev.grants.erase (c, unit, serial) } }) ∨
      (s.dev.defers unit = false ∧ (s.request c unit serial).1 = s.charged unit) := by
  unfold State.request at h ⊢
  simp only at h ⊢
  split at h
  · rename_i g1
    exact .inl ⟨g1, by simp only [g1, if_true]⟩
  · split at h
    · cases h
    · split at h
      · cases h
      · rename_i g1 g2 g3
        split at h
        · cases h
        · rename_i g4
          exact .inr ⟨by simpa using g3, by simp only [g1, g2, g3, g4, if_false, Bool.false_eq_true]⟩

@[simp] theorem updEp_mem (s : State) (c : CoreId) (n : Nat) (f : Ep → Ep) : (s.updEp c n f).mem = s.mem := rfl

/-- An end that leaves changes no memory. -/
theorem leaveEp_mem (s : State) (c : CoreId) (n : Nat) : (s.leaveEp c n).mem = s.mem := by
  simp only [State.leaveEp]
  cases ((s.core c).ep n).peer <;> cases ((s.core c).ep n).rx <;> rfl

/-- The record checks of ADDSUCC trap at one of the two addresses. -/
theorem recTrap_addr (s : State) (t : ThreadId) (x y : Word) (k : Acc1) (c d : Nat) (a : Word) (h : s.recTrap t x y k = some (c, d, a)) :
    a = x ∨ a = y := by
  unfold State.recTrap at h
  split at h
  · simp_all
  · split at h
    · simp_all
    · split at h <;> simp_all
end Sys2Proof.Machine.Laws
end

