-- ==== Sys2Proof/Laws/PerInstr.lean ====
section
/-! SUPPORT. A statement about every instruction, one lemma for each constructor: the shape of its encoding. -/

namespace Sys2Proof.Laws.EncodeShape

/-- The encoding of an instruction is a compact halfword with bit 15 clear, or a word of 32 bits (05 R88, R90; 13 R296). -/
def Statement (i : Instr) : Prop :=
  ∀ p, encode i = some p → (p.1 = 16 ∧ p.2 < 2 ^ 15) ∨ (p.1 = 32 ∧ p.2 < 2 ^ 32)

theorem none_shape {i : Instr} (h : encode i = none) : Statement i := fun p e => by rw [h] at e; cases e

theorem half_shape {i : Instr} {w : Nat} (h : encode i = some (16, w)) (hw : w < 2 ^ 15) : Statement i := fun p e => by
  rw [h] at e; cases e; exact .inl ⟨rfl, hw⟩

theorem wide_shape {i : Instr} {w : Nat} (h : encode i = some (32, w)) (hi : w < 2 ^ 32) : Statement i := fun p e => by
  rw [h] at e; cases e; exact .inr ⟨rfl, hi⟩

theorem add : ∀ a0 a1 a2, Statement (.add a0 a1 a2) := fun _ _ _ => wide_shape rfl (by omega)
theorem sub : ∀ a0 a1 a2, Statement (.sub a0 a1 a2) := fun _ _ _ => wide_shape rfl (by omega)
theorem and : ∀ a0 a1 a2, Statement (.and a0 a1 a2) := fun _ _ _ => wide_shape rfl (by omega)
theorem or : ∀ a0 a1 a2, Statement (.or a0 a1 a2) := fun _ _ _ => wide_shape rfl (by omega)
theorem xor : ∀ a0 a1 a2, Statement (.xor a0 a1 a2) := fun _ _ _ => wide_shape rfl (by omega)
theorem sll : ∀ a0 a1 a2, Statement (.sll a0 a1 a2) := fun _ _ _ => wide_shape rfl (by omega)
theorem srl : ∀ a0 a1 a2, Statement (.srl a0 a1 a2) := fun _ _ _ => wide_shape rfl (by omega)
theorem sra : ∀ a0 a1 a2, Statement (.sra a0 a1 a2) := fun _ _ _ => wide_shape rfl (by omega)
theorem min : ∀ a0 a1 a2, Statement (.min a0 a1 a2) := fun _ _ _ => wide_shape rfl (by omega)
theorem max : ∀ a0 a1 a2, Statement (.max a0 a1 a2) := fun _ _ _ => wide_shape rfl (by omega)
theorem minu : ∀ a0 a1 a2, Statement (.minu a0 a1 a2) := fun _ _ _ => wide_shape rfl (by omega)
theorem maxu : ∀ a0 a1 a2, Statement (.maxu a0 a1 a2) := fun _ _ _ => wide_shape rfl (by omega)
theorem clz : ∀ a0 a1, Statement (.clz a0 a1) := fun _ _ => wide_shape rfl (by omega)
theorem ctz : ∀ a0 a1, Statement (.ctz a0 a1) := fun _ _ => wide_shape rfl (by omega)
theorem popc : ∀ a0 a1, Statement (.popc a0 a1) := fun _ _ => wide_shape rfl (by omega)
theorem mul : ∀ a0 a1 a2, Statement (.mul a0 a1 a2) := fun _ _ _ => wide_shape rfl (by omega)
theorem mulh : ∀ a0 a1 a2, Statement (.mulh a0 a1 a2) := fun _ _ _ => wide_shape rfl (by omega)
theorem mulhu : ∀ a0 a1 a2, Statement (.mulhu a0 a1 a2) := fun _ _ _ => wide_shape rfl (by omega)
theorem div : ∀ a0 a1 a2, Statement (.div a0 a1 a2) := fun _ _ _ => wide_shape rfl (by omega)
theorem divu : ∀ a0 a1 a2, Statement (.divu a0 a1 a2) := fun _ _ _ => wide_shape rfl (by omega)
theorem rem : ∀ a0 a1 a2, Statement (.rem a0 a1 a2) := fun _ _ _ => wide_shape rfl (by omega)
theorem remu : ∀ a0 a1 a2, Statement (.remu a0 a1 a2) := fun _ _ _ => wide_shape rfl (by omega)
theorem addi : ∀ a0 a1 a2, Statement (.addi a0 a1 a2) := fun _ _ _ => wide_shape rfl (by omega)
theorem andi : ∀ a0 a1 a2, Statement (.andi a0 a1 a2) := fun _ _ _ => wide_shape rfl (by omega)
theorem ori : ∀ a0 a1 a2, Statement (.ori a0 a1 a2) := fun _ _ _ => wide_shape rfl (by omega)
theorem xori : ∀ a0 a1 a2, Statement (.xori a0 a1 a2) := fun _ _ _ => wide_shape rfl (by omega)
theorem adda : ∀ a0 a1 a2 a3, Statement (.adda a0 a1 a2 a3) := fun _ _ _ _ => wide_shape rfl (by omega)
theorem slli : ∀ a0 a1 a2, Statement (.slli a0 a1 a2) := fun _ _ _ => wide_shape rfl (by omega)
theorem srli : ∀ a0 a1 a2, Statement (.srli a0 a1 a2) := fun _ _ _ => wide_shape rfl (by omega)
theorem srai : ∀ a0 a1 a2, Statement (.srai a0 a1 a2) := fun _ _ _ => wide_shape rfl (by omega)
theorem bext : ∀ a0 a1 a2 a3 a4, Statement (.bext a0 a1 a2 a3 a4) := fun _ _ _ _ _ => wide_shape rfl (by omega)
theorem bins : ∀ a0 a1 a2 a3, Statement (.bins a0 a1 a2 a3) := fun _ _ _ _ => wide_shape rfl (by omega)
theorem ldk : ∀ a0 a1, Statement (.ldk a0 a1) := fun _ _ => wide_shape rfl (by omega)
theorem move : ∀ a0 a1, Statement (.move a0 a1) := fun _ _ => wide_shape rfl (by omega)
theorem lde : ∀ a0 a1, Statement (.lde a0 a1) := fun _ _ => wide_shape rfl (by omega)
theorem moveXE : ∀ a0 a1, Statement (.moveXE a0 a1) := fun _ _ => wide_shape rfl (by omega)
theorem sel : ∀ a0 a1 a2 a3 a4, Statement (.sel a0 a1 a2 a3 a4) := fun _ _ _ _ _ => wide_shape rfl (by omega)
theorem pand : ∀ a0 a1 a2 a3 a4, Statement (.pand a0 a1 a2 a3 a4) := fun _ _ _ _ _ => wide_shape rfl (by omega)
theorem por : ∀ a0 a1 a2 a3 a4, Statement (.por a0 a1 a2 a3 a4) := fun _ _ _ _ _ => wide_shape rfl (by omega)
theorem pnot : ∀ a0 a1, Statement (.pnot a0 a1) := fun _ _ => wide_shape rfl (by omega)
theorem pmov : ∀ a0 a1 a2, Statement (.pmov a0 a1 a2) := fun _ _ _ => wide_shape rfl (by omega)
theorem br : ∀ a0, Statement (.br a0) := fun _ => wide_shape rfl (by omega)
theorem brp : ∀ a0 a1 a2, Statement (.brp a0 a1 a2) := fun _ _ _ => wide_shape rfl (by omega)
theorem jal : ∀ a0 a1, Statement (.jal a0 a1) := fun _ _ => wide_shape rfl (by omega)
theorem jr : ∀ a0 a1, Statement (.jr a0 a1) := fun _ _ => wide_shape rfl (by omega)
theorem ld : ∀ a0 a1 a2 a3 a4 a5, Statement (.ld a0 a1 a2 a3 a4 a5) := fun _ _ _ _ _ _ => wide_shape rfl (by omega)
theorem st : ∀ a0 a1 a2 a3 a4 a5, Statement (.st a0 a1 a2 a3 a4 a5) := fun _ _ _ _ _ _ => wide_shape rfl (by omega)
theorem ldq : ∀ a0 a1 a2 a3 a4, Statement (.ldq a0 a1 a2 a3 a4) := fun _ _ _ _ _ => wide_shape rfl (by omega)
theorem stq : ∀ a0 a1 a2 a3 a4, Statement (.stq a0 a1 a2 a3 a4) := fun _ _ _ _ _ => wide_shape rfl (by omega)
theorem ldfKeep : ∀ a0 a1 a2 a3 a4, Statement (.ldfKeep a0 a1 a2 a3 a4) := fun _ _ _ _ _ => wide_shape rfl (by omega)
theorem ldfTake : ∀ a0 a1 a2 a3 a4, Statement (.ldfTake a0 a1 a2 a3 a4) := fun _ _ _ _ _ => wide_shape rfl (by omega)
theorem stf : ∀ a0 a1 a2 a3 a4, Statement (.stf a0 a1 a2 a3 a4) := fun _ _ _ _ _ => wide_shape rfl (by omega)
theorem few : ∀ a0 a1, Statement (.few a0 a1) := fun _ _ => wide_shape rfl (by omega)
theorem feq : ∀ a0 a1 a2, Statement (.feq a0 a1 a2) := fun _ _ _ => wide_shape rfl (by omega)
theorem amoadd : ∀ a0 a1 a2 a3 a4 a5, Statement (.amoadd a0 a1 a2 a3 a4 a5) := fun _ _ _ _ _ _ => wide_shape rfl (by omega)
theorem amomin : ∀ a0 a1 a2 a3 a4 a5 a6, Statement (.amomin a0 a1 a2 a3 a4 a5 a6) := fun _ _ _ _ _ _ _ => wide_shape rfl (by omega)
theorem amomax : ∀ a0 a1 a2 a3 a4 a5 a6, Statement (.amomax a0 a1 a2 a3 a4 a5 a6) := fun _ _ _ _ _ _ _ => wide_shape rfl (by omega)
theorem amoand : ∀ a0 a1 a2 a3 a4 a5, Statement (.amoand a0 a1 a2 a3 a4 a5) := fun _ _ _ _ _ _ => wide_shape rfl (by omega)
theorem amoor : ∀ a0 a1 a2 a3 a4 a5, Statement (.amoor a0 a1 a2 a3 a4 a5) := fun _ _ _ _ _ _ => wide_shape rfl (by omega)
theorem amoxor : ∀ a0 a1 a2 a3 a4 a5, Statement (.amoxor a0 a1 a2 a3 a4 a5) := fun _ _ _ _ _ _ => wide_shape rfl (by omega)
theorem amoswp : ∀ a0 a1 a2 a3 a4 a5, Statement (.amoswp a0 a1 a2 a3 a4 a5) := fun _ _ _ _ _ _ => wide_shape rfl (by omega)
theorem amocas : ∀ a0 a1 a2 a3 a4 a5, Statement (.amocas a0 a1 a2 a3 a4 a5) := fun _ _ _ _ _ _ => wide_shape rfl (by omega)
theorem bankopAdd : ∀ a0 a1 a2 a3, Statement (.bankopAdd a0 a1 a2 a3) := fun _ _ _ _ => wide_shape rfl (by omega)
theorem bankopMax : ∀ a0 a1 a2 a3, Statement (.bankopMax a0 a1 a2 a3) := fun _ _ _ _ => wide_shape rfl (by omega)
theorem bankopMin : ∀ a0 a1 a2 a3, Statement (.bankopMin a0 a1 a2 a3) := fun _ _ _ _ => wide_shape rfl (by omega)
theorem bankopAxpy : ∀ a0 a1 a2 a3, Statement (.bankopAxpy a0 a1 a2 a3) := fun _ _ _ _ => wide_shape rfl (by omega)
theorem fence : ∀ a0, Statement (.fence a0) := fun _ => wide_shape rfl (by omega)
theorem cmp : ∀ a0 a1 a2 a3, Statement (.cmp a0 a1 a2 a3) := fun _ _ _ _ => wide_shape rfl (by omega)
theorem cmpi : ∀ a0 a1 a2 a3, Statement (.cmpi a0 a1 a2 a3) := fun _ _ _ _ => wide_shape rfl (by omega)
theorem barinit : ∀ a0 a1, Statement (.barinit a0 a1) := fun _ _ => wide_shape rfl (by omega)
theorem barArrive : ∀ a0, Statement (.barArrive a0) := fun _ => wide_shape rfl (by omega)
theorem barWait : ∀ a0, Statement (.barWait a0) := fun _ => wide_shape rfl (by omega)
theorem htest : ∀ a0 a1, Statement (.htest a0 a1) := fun _ _ => wide_shape rfl (by omega)
theorem hcancel : ∀ a0, Statement (.hcancel a0) := fun _ => wide_shape rfl (by omega)
theorem movhHH : ∀ a0 a1, Statement (.movhHH a0 a1) := fun _ _ => wide_shape rfl (by omega)
theorem ffdone : Statement .ffdone := wide_shape rfl (by decide)
theorem movhHX : ∀ a0 a1, Statement (.movhHX a0 a1) := fun _ _ => wide_shape rfl (by omega)
theorem movhXH : ∀ a0 a1, Statement (.movhXH a0 a1) := fun _ _ => wide_shape rfl (by omega)
theorem send : ∀ a0 a1, Statement (.send a0 a1) := fun _ _ => wide_shape rfl (by omega)
theorem recv : ∀ a0 a1, Statement (.recv a0 a1) := fun _ _ => wide_shape rfl (by omega)
theorem sendt : ∀ a0 a1, Statement (.sendt a0 a1) := fun _ _ => wide_shape rfl (by omega)
theorem recvt : ∀ a0 a1, Statement (.recvt a0 a1) := fun _ _ => wide_shape rfl (by omega)
theorem chset : ∀ a0 a1, Statement (.chset a0 a1) := fun _ _ => wide_shape rfl (by omega)
theorem chreset : ∀ a0, Statement (.chreset a0) := fun _ => wide_shape rfl (by omega)
theorem msgbind : ∀ a0, Statement (.msgbind a0) := fun _ => wide_shape rfl (by omega)
theorem waitall : ∀ a0, Statement (.waitall a0) := fun _ => wide_shape rfl (by omega)
theorem waitany : ∀ a0, Statement (.waitany a0) := fun _ => wide_shape rfl (by omega)
theorem cpy : ∀ a0 a1 a2 a3, Statement (.cpy a0 a1 a2 a3) := fun _ _ _ _ => wide_shape rfl (by omega)
theorem cpyT8 : ∀ a0 a1 a2 a3, Statement (.cpyT8 a0 a1 a2 a3) := fun _ _ _ _ => wide_shape rfl (by omega)
theorem cpyT16 : ∀ a0 a1 a2 a3, Statement (.cpyT16 a0 a1 a2 a3) := fun _ _ _ _ => wide_shape rfl (by omega)
theorem cpys : ∀ a0 a1 a2 a3, Statement (.cpys a0 a1 a2 a3) := fun _ _ _ _ => wide_shape rfl (by omega)
theorem cpyg : ∀ a0 a1 a2 a3 a4, Statement (.cpyg a0 a1 a2 a3 a4) := fun _ _ _ _ _ => wide_shape rfl (by omega)
theorem pfetch : ∀ a0 a1, Statement (.pfetch a0 a1) := fun _ _ => wide_shape rfl (by omega)
theorem rstore : ∀ a0 a1 a2, Statement (.rstore a0 a1 a2) := fun _ _ _ => wide_shape rfl (by omega)
theorem strmBind : ∀ a0 a1, Statement (.strmBind a0 a1) := fun _ _ => wide_shape rfl (by omega)
theorem strmEnd : ∀ a0, Statement (.strmEnd a0) := fun _ => wide_shape rfl (by omega)
theorem restrictWsum : ∀ a0 a1 a2 a3, Statement (.restrictWsum a0 a1 a2 a3) := fun _ _ _ _ => wide_shape rfl (by omega)
theorem restrictMax : ∀ a0 a1 a2 a3, Statement (.restrictMax a0 a1 a2 a3) := fun _ _ _ _ => wide_shape rfl (by omega)
theorem restrictMin : ∀ a0 a1 a2 a3, Statement (.restrictMin a0 a1 a2 a3) := fun _ _ _ _ => wide_shape rfl (by omega)
theorem restrictGather : ∀ a0 a1 a2 a3, Statement (.restrictGather a0 a1 a2 a3) := fun _ _ _ _ => wide_shape rfl (by omega)
theorem prolongInterp : ∀ a0 a1 a2 a3, Statement (.prolongInterp a0 a1 a2 a3) := fun _ _ _ _ => wide_shape rfl (by omega)
theorem prolongBcast : ∀ a0 a1 a2 a3, Statement (.prolongBcast a0 a1 a2 a3) := fun _ _ _ _ => wide_shape rfl (by omega)
theorem prolongScatter : ∀ a0 a1 a2 a3, Statement (.prolongScatter a0 a1 a2 a3) := fun _ _ _ _ => wide_shape rfl (by omega)
theorem lwload : ∀ a0 a1 a2 a3, Statement (.lwload a0 a1 a2 a3) := fun _ _ _ _ => wide_shape rfl (by omega)
theorem lcfg : ∀ a0 a1, Statement (.lcfg a0 a1) := fun _ _ => wide_shape rfl (by omega)
theorem lstat : ∀ a0, Statement (.lstat a0) := fun _ => wide_shape rfl (by omega)
theorem lwait : Statement .lwait := wide_shape rfl (by decide)
theorem haloRun : ∀ a0 a1 a2, Statement (.haloRun a0 a1 a2) := fun _ _ _ => wide_shape rfl (by omega)
theorem haloStat : ∀ a0 a1, Statement (.haloStat a0 a1) := fun _ _ => wide_shape rfl (by omega)
theorem vld : ∀ a0 a1 a2 a3 a4, Statement (.vld a0 a1 a2 a3 a4) := fun _ _ _ _ _ => wide_shape rfl (by omega)
theorem vst : ∀ a0 a1 a2 a3, Statement (.vst a0 a1 a2 a3) := fun _ _ _ _ => wide_shape rfl (by omega)
theorem vlds : ∀ a0 a1 a2 a3 a4 a5, Statement (.vlds a0 a1 a2 a3 a4 a5) := fun _ _ _ _ _ _ => wide_shape rfl (by omega)
theorem vldx : ∀ a0 a1 a2 a3 a4 a5, Statement (.vldx a0 a1 a2 a3 a4 a5) := fun _ _ _ _ _ _ => wide_shape rfl (by omega)
theorem vstx : ∀ a0 a1 a2 a3 a4, Statement (.vstx a0 a1 a2 a3 a4) := fun _ _ _ _ _ => wide_shape rfl (by omega)
theorem vadd : ∀ a0 a1 a2 a3 a4, Statement (.vadd a0 a1 a2 a3 a4) := fun _ _ _ _ _ => wide_shape rfl (by omega)
theorem vsub : ∀ a0 a1 a2 a3 a4, Statement (.vsub a0 a1 a2 a3 a4) := fun _ _ _ _ _ => wide_shape rfl (by omega)
theorem vmul : ∀ a0 a1 a2 a3 a4, Statement (.vmul a0 a1 a2 a3 a4) := fun _ _ _ _ _ => wide_shape rfl (by omega)
theorem vfma : ∀ a0 a1 a2 a3 a4 a5, Statement (.vfma a0 a1 a2 a3 a4 a5) := fun _ _ _ _ _ _ => wide_shape rfl (by omega)
theorem vfms : ∀ a0 a1 a2 a3 a4 a5, Statement (.vfms a0 a1 a2 a3 a4 a5) := fun _ _ _ _ _ _ => wide_shape rfl (by omega)
theorem vmin : ∀ a0 a1 a2 a3 a4, Statement (.vmin a0 a1 a2 a3 a4) := fun _ _ _ _ _ => wide_shape rfl (by omega)
theorem vmax : ∀ a0 a1 a2 a3 a4, Statement (.vmax a0 a1 a2 a3 a4) := fun _ _ _ _ _ => wide_shape rfl (by omega)
theorem vabs : ∀ a0 a1 a2 a3, Statement (.vabs a0 a1 a2 a3) := fun _ _ _ _ => wide_shape rfl (by omega)
theorem vneg : ∀ a0 a1 a2 a3, Statement (.vneg a0 a1 a2 a3) := fun _ _ _ _ => wide_shape rfl (by omega)
theorem vrcp : ∀ a0 a1 a2 a3, Statement (.vrcp a0 a1 a2 a3) := fun _ _ _ _ => wide_shape rfl (by omega)
theorem vrsq : ∀ a0 a1 a2 a3, Statement (.vrsq a0 a1 a2 a3) := fun _ _ _ _ => wide_shape rfl (by omega)
theorem vexp2 : ∀ a0 a1 a2 a3, Statement (.vexp2 a0 a1 a2 a3) := fun _ _ _ _ => wide_shape rfl (by omega)
theorem vlog2 : ∀ a0 a1 a2 a3, Statement (.vlog2 a0 a1 a2 a3) := fun _ _ _ _ => wide_shape rfl (by omega)
theorem vtanh : ∀ a0 a1 a2 a3, Statement (.vtanh a0 a1 a2 a3) := fun _ _ _ _ => wide_shape rfl (by omega)
theorem vand : ∀ a0 a1 a2 a3 a4, Statement (.vand a0 a1 a2 a3 a4) := fun _ _ _ _ _ => wide_shape rfl (by omega)
theorem vor : ∀ a0 a1 a2 a3 a4, Statement (.vor a0 a1 a2 a3 a4) := fun _ _ _ _ _ => wide_shape rfl (by omega)
theorem vxor : ∀ a0 a1 a2 a3 a4, Statement (.vxor a0 a1 a2 a3 a4) := fun _ _ _ _ _ => wide_shape rfl (by omega)
theorem vshl : ∀ a0 a1 a2 a3 a4, Statement (.vshl a0 a1 a2 a3 a4) := fun _ _ _ _ _ => wide_shape rfl (by omega)
theorem vshr : ∀ a0 a1 a2 a3 a4, Statement (.vshr a0 a1 a2 a3 a4) := fun _ _ _ _ _ => wide_shape rfl (by omega)
theorem viadd : ∀ a0 a1 a2 a3 a4, Statement (.viadd a0 a1 a2 a3 a4) := fun _ _ _ _ _ => wide_shape rfl (by omega)
theorem vimul : ∀ a0 a1 a2 a3 a4, Statement (.vimul a0 a1 a2 a3 a4) := fun _ _ _ _ _ => wide_shape rfl (by omega)
theorem vsel : ∀ a0 a1 a2 a3, Statement (.vsel a0 a1 a2 a3) := fun _ _ _ _ => wide_shape rfl (by omega)
theorem vcmpEq : ∀ a0 a1 a2 a3 a4, Statement (.vcmpEq a0 a1 a2 a3 a4) := fun _ _ _ _ _ => wide_shape rfl (by omega)
theorem vcmpNe : ∀ a0 a1 a2 a3 a4, Statement (.vcmpNe a0 a1 a2 a3 a4) := fun _ _ _ _ _ => wide_shape rfl (by omega)
theorem vcmpLt : ∀ a0 a1 a2 a3 a4, Statement (.vcmpLt a0 a1 a2 a3 a4) := fun _ _ _ _ _ => wide_shape rfl (by omega)
theorem vcmpLtu : ∀ a0 a1 a2 a3 a4, Statement (.vcmpLtu a0 a1 a2 a3 a4) := fun _ _ _ _ _ => wide_shape rfl (by omega)
theorem vcmpGe : ∀ a0 a1 a2 a3 a4, Statement (.vcmpGe a0 a1 a2 a3 a4) := fun _ _ _ _ _ => wide_shape rfl (by omega)
theorem vcmpGeu : ∀ a0 a1 a2 a3 a4, Statement (.vcmpGeu a0 a1 a2 a3 a4) := fun _ _ _ _ _ => wide_shape rfl (by omega)
theorem vred : ∀ a0 a1 a2 a3 a4 a5, Statement (.vred a0 a1 a2 a3 a4 a5) := fun _ _ _ _ _ _ => wide_shape rfl (by omega)
theorem vscan : ∀ a0 a1 a2 a3 a4 a5, Statement (.vscan a0 a1 a2 a3 a4 a5) := fun _ _ _ _ _ _ => wide_shape rfl (by omega)
theorem vperm : ∀ a0 a1 a2 a3 a4 a5, Statement (.vperm a0 a1 a2 a3 a4 a5) := fun _ _ _ _ _ _ => wide_shape rfl (by omega)
theorem vsort : ∀ a0 a1 a2 a3 a4 a5 a6, Statement (.vsort a0 a1 a2 a3 a4 a5 a6) := fun _ _ _ _ _ _ _ => wide_shape rfl (by omega)
theorem vcvt : ∀ a0 a1 a2 a3 a4, Statement (.vcvt a0 a1 a2 a3 a4) := fun _ _ _ _ _ => wide_shape rfl (by omega)
theorem vpack : ∀ a0 a1 a2 a3 a4, Statement (.vpack a0 a1 a2 a3 a4) := fun _ _ _ _ _ => wide_shape rfl (by omega)
theorem vunpack : ∀ a0 a1 a2 a3 a4, Statement (.vunpack a0 a1 a2 a3 a4) := fun _ _ _ _ _ => wide_shape rfl (by omega)
theorem mand : ∀ a0 a1 a2 a3 a4, Statement (.mand a0 a1 a2 a3 a4) := fun _ _ _ _ _ => wide_shape rfl (by omega)
theorem mor : ∀ a0 a1 a2 a3 a4, Statement (.mor a0 a1 a2 a3 a4) := fun _ _ _ _ _ => wide_shape rfl (by omega)
theorem mnot : ∀ a0 a1 a2 a3, Statement (.mnot a0 a1 a2 a3) := fun _ _ _ _ => wide_shape rfl (by omega)
theorem vbcast : ∀ a0 a1 a2 a3, Statement (.vbcast a0 a1 a2 a3) := fun _ _ _ _ => wide_shape rfl (by omega)
theorem vmovx : ∀ a0 a1 a2, Statement (.vmovx a0 a1 a2) := fun _ _ _ => wide_shape rfl (by omega)
theorem vrot : ∀ a0 a1 a2 a3 a4, Statement (.vrot a0 a1 a2 a3 a4) := fun _ _ _ _ _ => wide_shape rfl (by omega)
theorem vscale : ∀ a0 a1 a2 a3 a4, Statement (.vscale a0 a1 a2 a3 a4) := fun _ _ _ _ _ => wide_shape rfl (by omega)
theorem vsetf : ∀ a0 a1, Statement (.vsetf a0 a1) := fun _ _ => wide_shape rfl (by omega)
theorem vfence : Statement .vfence := wide_shape rfl (by decide)
theorem rngkey : ∀ a0 a1, Statement (.rngkey a0 a1) := fun _ _ => wide_shape rfl (by omega)
theorem rnggen : ∀ a0 a1 a2, Statement (.rnggen a0 a1 a2) := fun _ _ _ => wide_shape rfl (by omega)
theorem stemp : ∀ a0 a1, Statement (.stemp a0 a1) := fun _ _ => wide_shape rfl (by omega)
theorem stopk : ∀ a0 a1 a2, Statement (.stopk a0 a1 a2) := fun _ _ _ => wide_shape rfl (by omega)
theorem stopp : ∀ a0 a1 a2, Statement (.stopp a0 a1 a2) := fun _ _ _ => wide_shape rfl (by omega)
theorem smerge : ∀ a0 a1 a2, Statement (.smerge a0 a1 a2) := fun _ _ _ => wide_shape rfl (by omega)
theorem sdraw : ∀ a0 a1 a2, Statement (.sdraw a0 a1 a2) := fun _ _ _ => wide_shape rfl (by omega)
theorem specOpen : ∀ a0 a1 a2, Statement (.specOpen a0 a1 a2) := fun _ _ _ => wide_shape rfl (by omega)
theorem specAppend : ∀ a0 a1 a2, Statement (.specAppend a0 a1 a2) := fun _ _ _ => wide_shape rfl (by omega)
theorem specVerify : ∀ a0 a1 a2, Statement (.specVerify a0 a1 a2) := fun _ _ _ => wide_shape rfl (by omega)
theorem specCommit : ∀ a0 a1, Statement (.specCommit a0 a1) := fun _ _ => wide_shape rfl (by omega)
theorem specAbort : ∀ a0 a1, Statement (.specAbort a0 a1) := fun _ _ => wide_shape rfl (by omega)
theorem post : ∀ a0, Statement (.post a0) := fun _ => wide_shape rfl (by omega)
theorem postTry : ∀ a0 a1, Statement (.postTry a0 a1) := fun _ _ => wide_shape rfl (by omega)
theorem take : ∀ a0 a1, Statement (.take a0 a1) := fun _ _ => wide_shape rfl (by omega)
theorem launch : ∀ a0 a1, Statement (.launch a0 a1) := fun _ _ => wide_shape rfl (by omega)
theorem launchTry : ∀ a0 a1, Statement (.launchTry a0 a1) := fun _ _ => wide_shape rfl (by omega)
theorem setpred : ∀ a0 a1, Statement (.setpred a0 a1) := fun _ _ => wide_shape rfl (by omega)
theorem addsucc : ∀ a0 a1 a2, Statement (.addsucc a0 a1 a2) := fun _ _ _ => wide_shape rfl (by omega)
theorem evict : ∀ a0 a1, Statement (.evict a0 a1) := fun _ _ => wide_shape rfl (by omega)
theorem getc : ∀ a0 a1, Statement (.getc a0 a1) := fun _ _ => wide_shape rfl (by omega)
theorem setc : ∀ a0 a1, Statement (.setc a0 a1) := fun _ _ => wide_shape rfl (by omega)
theorem trap : ∀ a0, Statement (.trap a0) := fun _ => wide_shape rfl (by omega)
theorem tret : Statement .tret := wide_shape rfl (by decide)
theorem brk : ∀ a0, Statement (.brk a0) := fun _ => wide_shape rfl (by omega)
theorem chkerr : ∀ a0, Statement (.chkerr a0) := fun _ => wide_shape rfl (by omega)
theorem gstop : ∀ a0, Statement (.gstop a0) := fun _ => wide_shape rfl (by omega)
theorem stepctl : ∀ a0, Statement (.stepctl a0) := fun _ => wide_shape rfl (by omega)
theorem suspend : Statement .suspend := wide_shape rfl (by decide)
theorem yield : Statement .yield := wide_shape rfl (by decide)
theorem retire : Statement .retire := wide_shape rfl (by decide)
theorem nop : ∀ a0, Statement (.nop a0) := fun _ => wide_shape rfl (by omega)
theorem hint : ∀ a0, Statement (.hint a0) := fun _ => wide_shape rfl (by omega)
theorem cHint : ∀ a0, Statement (.cHint a0) := fun _ => half_shape rfl (by omega)
theorem cAdd : ∀ a0 a1, Statement (.cAdd a0 a1) := fun _ _ => half_shape rfl (by omega)
theorem cAddi : ∀ a0 a1, Statement (.cAddi a0 a1) := fun _ _ => half_shape rfl (by omega)
theorem cMove : ∀ a0 a1, Statement (.cMove a0 a1) := fun _ _ => half_shape rfl (by omega)
theorem cLd : ∀ a0 a1 a2, Statement (.cLd a0 a1 a2) := fun _ _ _ => half_shape rfl (by omega)
theorem cSt : ∀ a0 a1 a2, Statement (.cSt a0 a1 a2) := fun _ _ _ => half_shape rfl (by omega)
theorem cBr : ∀ a0, Statement (.cBr a0) := fun _ => half_shape rfl (by omega)
theorem cBrp : ∀ a0 a1 a2, Statement (.cBrp a0 a1 a2) := fun _ _ _ => half_shape rfl (by omega)
theorem sbNext : ∀ a0 a1, Statement (.sbNext a0 a1) := fun _ _ => wide_shape rfl (by omega)
theorem sqPush : ∀ a0 a1, Statement (.sqPush a0 a1) := fun _ _ => wide_shape rfl (by omega)
theorem sqPop : ∀ a0 a1 a2, Statement (.sqPop a0 a1 a2) := fun _ _ _ => wide_shape rfl (by omega)
theorem bqWait : ∀ a0 a1, Statement (.bqWait a0 a1) := fun _ _ => wide_shape rfl (by omega)
theorem ecall : Statement .ecall := wide_shape rfl (by decide)
theorem mnop : Statement .mnop := none_shape rfl
theorem mma : ∀ a0 a1 a2 a3 a4, Statement (.mma a0 a1 a2 a3 a4) := fun _ _ _ _ _ => none_shape rfl
theorem mmaS : ∀ a0 a1 a2 a3 a4 a5 a6 a7, Statement (.mmaS a0 a1 a2 a3 a4 a5 a6 a7) := fun _ _ _ _ _ _ _ _ => none_shape rfl
theorem mloada : ∀ a0 a1 a2, Statement (.mloada a0 a1 a2) := fun _ _ _ => none_shape rfl
theorem mrot : ∀ a0, Statement (.mrot a0) := fun _ => none_shape rfl
theorem mrotLd : ∀ a0 a1, Statement (.mrotLd a0 a1) := fun _ _ => none_shape rfl
theorem maccLd : ∀ a0 a1 a2, Statement (.maccLd a0 a1 a2) := fun _ _ _ => none_shape rfl
theorem maccSt : ∀ a0 a1 a2 a3 a4, Statement (.maccSt a0 a1 a2 a3 a4) := fun _ _ _ _ _ => none_shape rfl
theorem mcfg : ∀ a0, Statement (.mcfg a0) := fun _ => none_shape rfl
theorem mchk : ∀ a0 a1 a2, Statement (.mchk a0 a1 a2) := fun _ _ _ => none_shape rfl
theorem mzero : ∀ a0 a1, Statement (.mzero a0 a1) := fun _ _ => none_shape rfl
theorem mfence : Statement .mfence := none_shape rfl
theorem mtag : ∀ a0 a1, Statement (.mtag a0 a1) := fun _ _ => none_shape rfl
theorem hSend : ∀ a0 a1 a2 a3 a4 a5 a6, Statement (.hSend a0 a1 a2 a3 a4 a5 a6) := fun _ _ _ _ _ _ _ => none_shape rfl
theorem hRecv : ∀ a0 a1 a2 a3 a4 a5 a6, Statement (.hRecv a0 a1 a2 a3 a4 a5 a6) := fun _ _ _ _ _ _ _ => none_shape rfl
theorem hReduce : ∀ a0 a1 a2 a3 a4 a5 a6 a7, Statement (.hReduce a0 a1 a2 a3 a4 a5 a6 a7) := fun _ _ _ _ _ _ _ _ => none_shape rfl
theorem hCopy : ∀ a0 a1 a2 a3 a4 a5, Statement (.hCopy a0 a1 a2 a3 a4 a5) := fun _ _ _ _ _ _ => none_shape rfl
theorem hWait : ∀ a0 a1, Statement (.hWait a0 a1) := fun _ _ => none_shape rfl
theorem hSignal : ∀ a0 a1 a2, Statement (.hSignal a0 a1 a2) := fun _ _ _ => none_shape rfl
theorem hLoop : ∀ a0 a1 a2 a3 a4, Statement (.hLoop a0 a1 a2 a3 a4) := fun _ _ _ _ _ => none_shape rfl
theorem hEnd : Statement .hEnd := none_shape rfl
theorem rv64imc : ∀ a0, Statement (.rv64imc a0) := fun _ => none_shape rfl
theorem reservedOpcode : ∀ a0 a1 a2, Statement (.reservedOpcode a0 a1 a2) := fun _ _ _ => none_shape rfl
theorem haloTransfer : ∀ a0 a1 a2 a3 a4, Statement (.haloTransfer a0 a1 a2 a3 a4) := fun _ _ _ _ _ => none_shape rfl
theorem haloSignalArrival : ∀ a0, Statement (.haloSignalArrival a0) := fun _ => none_shape rfl
theorem haloCancelled : ∀ a0 a1, Statement (.haloCancelled a0 a1) := fun _ _ => none_shape rfl
theorem rstoreArrival : ∀ a0 a1 a2 a3 a4, Statement (.rstoreArrival a0 a1 a2 a3 a4) := fun _ _ _ _ _ => none_shape rfl
theorem rstoreAcknowledgement : ∀ a0 a1, Statement (.rstoreAcknowledgement a0 a1) := fun _ _ => none_shape rfl
theorem wake : ∀ a0, Statement (.wake a0) := fun _ => none_shape rfl
theorem eviction : ∀ a0, Statement (.eviction a0) := fun _ => none_shape rfl
theorem evictionWriteback : ∀ a0, Statement (.evictionWriteback a0) := fun _ => none_shape rfl
theorem suspensionWriteback : ∀ a0, Statement (.suspensionWriteback a0) := fun _ => none_shape rfl
theorem dispatch : ∀ a0, Statement (.dispatch a0) := fun _ => none_shape rfl
theorem condenserArrival : ∀ a0 a1, Statement (.condenserArrival a0 a1) := fun _ _ => none_shape rfl
theorem priorityAgeing : ∀ a0 a1 a2, Statement (.priorityAgeing a0 a1 a2) := fun _ _ _ => none_shape rfl
theorem affinityHintExpiry : ∀ a0 a1 a2, Statement (.affinityHintExpiry a0 a1 a2) := fun _ _ _ => none_shape rfl
theorem packetParse : ∀ a0, Statement (.packetParse a0) := fun _ => none_shape rfl
theorem fencePoll : ∀ a0, Statement (.fencePoll a0) := fun _ => none_shape rfl
theorem fenceTimeout : ∀ a0, Statement (.fenceTimeout a0) := fun _ => none_shape rfl
theorem launchAdmission : ∀ a0, Statement (.launchAdmission a0) := fun _ => none_shape rfl
theorem recordExpansion : ∀ a0, Statement (.recordExpansion a0) := fun _ => none_shape rfl
theorem launchCompletion : ∀ a0, Statement (.launchCompletion a0) := fun _ => none_shape rfl
theorem completionEntryWrite : ∀ a0, Statement (.completionEntryWrite a0) := fun _ => none_shape rfl
theorem watchdogExpiry : ∀ a0, Statement (.watchdogExpiry a0) := fun _ => none_shape rfl
theorem pairScrubComplete : ∀ a0, Statement (.pairScrubComplete a0) := fun _ => none_shape rfl
theorem forcedPreemption : ∀ a0, Statement (.forcedPreemption a0) := fun _ => none_shape rfl
theorem cheapPreemption : ∀ a0, Statement (.cheapPreemption a0) := fun _ => none_shape rfl
theorem gangStop : ∀ a0 a1, Statement (.gangStop a0 a1) := fun _ _ => none_shape rfl
theorem saveBlock : ∀ a0, Statement (.saveBlock a0) := fun _ => none_shape rfl
theorem restore : ∀ a0, Statement (.restore a0) := fun _ => none_shape rfl
theorem channelHandshake : ∀ a0, Statement (.channelHandshake a0) := fun _ => none_shape rfl
theorem ringMessageArrival : ∀ a0, Statement (.ringMessageArrival a0) := fun _ => none_shape rfl
theorem messageReturn : ∀ a0 a1, Statement (.messageReturn a0 a1) := fun _ _ => none_shape rfl
theorem channelTimeout : ∀ a0, Statement (.channelTimeout a0) := fun _ => none_shape rfl
theorem channelAudit : ∀ a0 a1, Statement (.channelAudit a0 a1) := fun _ _ => none_shape rfl
theorem barrierTimeout : ∀ a0 a1, Statement (.barrierTimeout a0 a1) := fun _ _ => none_shape rfl
theorem rowClean : ∀ a0 a1, Statement (.rowClean a0 a1) := fun _ _ => none_shape rfl
theorem bankRetirement : ∀ a0, Statement (.bankRetirement a0) := fun _ => none_shape rfl
theorem patrolScrub : ∀ a0, Statement (.patrolScrub a0) := fun _ => none_shape rfl
theorem faultRecordRetry : Statement .faultRecordRetry := none_shape rfl
theorem vuCommandExecute : ∀ a0, Statement (.vuCommandExecute a0) := fun _ => none_shape rfl
theorem copyComplete : ∀ a0 a1, Statement (.copyComplete a0 a1) := fun _ _ => none_shape rfl
theorem copyCancelled : ∀ a0 a1, Statement (.copyCancelled a0 a1) := fun _ _ => none_shape rfl
theorem lensOperationComplete : ∀ a0, Statement (.lensOperationComplete a0) := fun _ => none_shape rfl
theorem lensCancelled : ∀ a0 a1, Statement (.lensCancelled a0 a1) := fun _ _ => none_shape rfl
theorem flitRetransmit : ∀ a0, Statement (.flitRetransmit a0) := fun _ => none_shape rfl
theorem linkLost : ∀ a0, Statement (.linkLost a0) := fun _ => none_shape rfl
theorem currentGrant : ∀ a0, Statement (.currentGrant a0) := fun _ => none_shape rfl
theorem slewEnd : Statement .slewEnd := none_shape rfl
theorem sensorReading : ∀ a0 a1 a2 a3, Statement (.sensorReading a0 a1 a2 a3) := fun _ _ _ _ => none_shape rfl
theorem thermalTrip : Statement .thermalTrip := none_shape rfl
theorem movedRecordExpiry : ∀ a0 a1, Statement (.movedRecordExpiry a0 a1) := fun _ _ => none_shape rfl
theorem tlbInvalidationAck : Statement .tlbInvalidationAck := none_shape rfl
theorem migrationCopyDone : ∀ a0 a1, Statement (.migrationCopyDone a0 a1) := fun _ _ => none_shape rfl
theorem powerOnReset : ∀ a0, Statement (.powerOnReset a0) := fun _ => none_shape rfl
theorem hostReset : ∀ a0, Statement (.hostReset a0) := fun _ => none_shape rfl
theorem attestationQuote : Statement .attestationQuote := none_shape rfl
theorem recoveryVerify : ∀ a0, Statement (.recoveryVerify a0) := fun _ => none_shape rfl
theorem psctlRequest : ∀ a0, Statement (.psctlRequest a0) := fun _ => none_shape rfl
theorem replay : ∀ a0, Statement (.replay a0) := fun _ => none_shape rfl
theorem tlbinv : ∀ a0, Statement (.tlbinv a0) := fun _ => none_shape rfl
theorem migrationStart : ∀ a0, Statement (.migrationStart a0) := fun _ => none_shape rfl
theorem migrationEnd : ∀ a0, Statement (.migrationEnd a0) := fun _ => none_shape rfl
theorem quoteRequest : ∀ a0 a1, Statement (.quoteRequest a0 a1) := fun _ _ => none_shape rfl
theorem debugToken : ∀ a0 a1, Statement (.debugToken a0 a1) := fun _ _ => none_shape rfl
theorem recoveryGo : ∀ a0, Statement (.recoveryGo a0) := fun _ => none_shape rfl
theorem halt : ∀ a0, Statement (.halt a0) := fun _ => none_shape rfl
theorem resume : ∀ a0, Statement (.resume a0) := fun _ => none_shape rfl
theorem step : ∀ a0, Statement (.step a0) := fun _ => none_shape rfl
theorem ctxres : ∀ a0, Statement (.ctxres a0) := fun _ => none_shape rfl
theorem resave : ∀ a0, Statement (.resave a0) := fun _ => none_shape rfl
theorem sqDoorbell : ∀ a0 a1, Statement (.sqDoorbell a0 a1) := fun _ _ => none_shape rfl
theorem cqConsumerIndex : ∀ a0 a1, Statement (.cqConsumerIndex a0 a1) := fun _ _ => none_shape rfl
theorem queueEnable : ∀ a0 a1 a2, Statement (.queueEnable a0 a1 a2) := fun _ _ _ => none_shape rfl
theorem queueAbort : ∀ a0 a1, Statement (.queueAbort a0 a1) := fun _ _ => none_shape rfl
theorem queueResume : ∀ a0 a1, Statement (.queueResume a0 a1) := fun _ _ => none_shape rfl
theorem sbqData : ∀ a0 a1, Statement (.sbqData a0 a1) := fun _ _ => none_shape rfl
theorem sbqSkip : ∀ a0 a1, Statement (.sbqSkip a0 a1) := fun _ _ => none_shape rfl
theorem sbqStop : ∀ a0, Statement (.sbqStop a0) := fun _ => none_shape rfl
theorem pfctlClr : ∀ a0, Statement (.pfctlClr a0) := fun _ => none_shape rfl
theorem registerWrite : ∀ a0 a1, Statement (.registerWrite a0 a1) := fun _ _ => none_shape rfl
theorem hCopyCompletion : ∀ a0 a1 a2, Statement (.hCopyCompletion a0 a1 a2) := fun _ _ _ => none_shape rfl
theorem repairRecordReset : Statement .repairRecordReset := none_shape rfl

end Sys2Proof.Laws.EncodeShape
end

