-- ==== Sys2Proof/Tests/Slice0.lean ====
section
/-! SUPPORT. Tests of the model: words of the encoding tables, single steps, terms that the well-formedness check refuses, and a witness of the
hypotheses of every statement. Expected results are worked out from the rules that each theorem's comment names. -/

namespace Sys2Proof.Tests

open Sys2Proof Sys2Proof.Machine

set_option maxRecDepth 100000
set_option Elab.async false

/-! States that the tests start from. -/

/-- A READY thread of core 0.0.0, whose launch maps 1 GiB of HBM from address 0 and has 64 KiB of the core's store. -/
def base : State := State.reset.withFetchWord 32 0x80312800

/-- Write x registers. -/
def withX (l : List (Nat × Nat)) (s : State) : State := s.updMe fun c => l.foldl (fun c p => c.setX p.1 (w64 p.2) false) c

/-- Change the thread, its core, its launch. -/
def thr (f : Ctx → Ctx) (s : State) : State := s.updMe f
def cor (f : Core → Core) (s : State) : State := s.updCore s.cur.core f
def lau (f : Launch → Launch) (s : State) : State := { s with launches := s.launches.map f }
def devi (f : Dev → Dev) (s : State) : State := { s with dev := f s.dev }
def hos (f : HostIf → HostIf) (s : State) : State := { s with host := f s.host }

/-- The same thread at another tier. -/
def atTier (t : Nat) : State :=
  let s := { base with cur := ⟨0, t, 0, 0⟩, cores := [] }
  { s.updCore ⟨0, t, 0⟩ fetchCore with launches := [{ fetchLaunch with lsbase := [(t * 256, 65536)] }] }

/-- An extension block with a handler at 0x1000 for every tier, spill frames at 0x300000 and a save area at 0x2000000. -/
def extBlock : List Byte :=
  leBytes 8 0x1000 ++ leBytes 8 0x1000 ++ leBytes 8 0x1000 ++ leBytes 8 0x1000 ++ leBytes 8 0x2000000 ++ leBytes 8 0x300000 ++
  leBytes 8 4 ++ leBytes 8 0

/-- Byte-wise facts about every context follow from the contexts that are listed. -/
theorem mget_all {α : Type} (P : α → Prop) (d : α) (m : SMap α) (k : Nat) (hd : P d) (h : ∀ x ∈ m, P x.2) : P (mget d m k) := by
  induction m with
  | nil => exact hd
  | cons a t ih =>
    obtain ⟨n, v⟩ := a
    unfold mget
    split
    · exact h (n, v) (by simp)
    · exact ih fun x hx => h x (by simp [hx])

theorem ctx_all (P : Ctx → Prop) (s : State) (hd : P Ctx.reset) (h : ∀ c ∈ s.cores, ∀ x ∈ c.2.ctxs, P x.2) (u : ThreadId) : P (s.ctx u) := by
  have := mget_all (fun k : Core => ∀ x ∈ k.ctxs, P x.2) Core.reset s.cores (coreKey u.core) (by simp [Core.reset]) h
  exact mget_all P Ctx.reset _ u.ctx hd this

/-! Words worked out in the spec's own tables of encodings (05 R101, 06, 07, 10, 11, 13, 14, 16, 18, 20; 12 R257; 20 R408), and the instructions that stand beside them
there. -/

/-- Does a word of so many bits decode to the instruction beside it? -/
def decodes (l : List (Nat × Nat × Instr)) : Bool := l.all fun x => decodeTableWord x.1 x.2.1 == some x.2.2

theorem test_decode_scalar : decodes [(32, 0x80321415, .divu 3 4 5), (32, 0x8C73820D, .srai 7 7 13), (32, 0x8E63A626, .bext 6 7 1 12 19),
    (32, 0x8ED64C0E, .bins 13 12 24 7), (32, 0x82A50008, .addi 10 10 8), (32, 0x84C4000F, .andi 12 8 15), (32, 0x87292003, .adda 18 18 8 3),
    (32, 0x80E4A805, .sll 14 9 10), (32, 0x911F8000, .ldk 17 0xF8), (32, 0x92940000, .move 9 8), (32, 0x92258001, .lde 2 11),
    (32, 0x95188002, .sel 17 17 0 0 2), (32, 0x96CA8000, .pand 3 1 2 1 0)] = true := by decide

theorem test_decode_control : decodes [(32, 0x9B7FFFE0, .brp 1 3 0x1FFFE0), (32, 0x9C100080, .jal 1 0x80), (32, 0xB25A8018, .cmpi 1 3 10 24),
    (32, 0xB2840000, .cmpi 2 0 16 0), (32, 0xF8800080, .getc 8 4), (32, 0xF80480A1, .setc 9 5), (32, 0xFA000240, .trap 0x12), (32, 0xFA000001, .tret),
    (32, 0xFA000062, .brk 3), (32, 0xFA900003, .chkerr 9), (32, 0xFA028004, .gstop 5), (32, 0xFA030005, .stepctl 6), (32, 0xFC000002, .retire),
    (32, 0xFE000000, .nop 0), (32, 0xBE123456, .hint 0x123456)] = true := by decide

theorem test_decode_compact : decodes [(16, 0x117D, .cAddi 5 0x3D), (16, 0x2252, .cLd 9 2 2), (16, 0x3E76, .cBrp 1 4 0x76), (16, 0x6800, .cHint 0)] = true := by
  decide

theorem test_decode_memory : decodes [(32, 0xA0324B02, .ld 3 4 2 1 3 2), (32, 0xA2D96000, .st 13 18 3 0 0 0), (32, 0xA5048001, .ldq 2 9 0 0 1),
    (32, 0xA67A2002, .ldfTake 7 20 0 0 2), (32, 0xA67A4000, .stf 7 20 0 0 0), (32, 0xA82A0001, .feq 2 20 1), (32, 0xAA531C00, .amoadd 5 6 7 0 0 0),
    (32, 0xAA549BAB, .amocas 5 9 6 1 1 3), (32, 0xAD04B220, .bankopAxpy 2 9 2 1), (32, 0xAE000003, .fence 3)] = true := by decide

theorem test_decode_sync : decodes [(32, 0xC9020800, .sendt 2 2), (32, 0xC0060001, .barArrive 12), (32, 0xC2118000, .htest 1 3),
    (32, 0xCF000006, .waitany 6)] = true := by decide

theorem test_decode_engines : decodes [(32, 0xD0452D82, .cpyT16 2 10 11 12), (32, 0xD2652D80, .cpys 3 10 11 12), (32, 0xD4852D82, .cpyg 4 10 11 12 2),
    (32, 0xD6002D80, .pfetch 11 12), (32, 0xD8052D80, .rstore 10 11 12), (32, 0xDAC48000, .strmBind 0 9), (32, 0xDAD00001, .strmEnd 1),
    (32, 0x0005028B, .sbNext 10 5), (32, 0x00A2900B, .sqPush 10 5), (32, 0x00A283AB, .sqPop 10 5 7), (32, 0x0005132B, .bqWait 10 6)] = true := by decide

theorem test_decode_lens : decodes [(32, 0xDC252D80, .restrictWsum 1 10 11 12), (32, 0xDC252D81, .restrictMax 1 10 11 12),
    (32, 0xDC652D83, .restrictGather 3 10 11 12), (32, 0xDC46B9E8, .prolongInterp 2 13 14 15), (32, 0xDC46B9E9, .prolongBcast 2 13 14 15),
    (32, 0xDC852D8A, .prolongScatter 4 10 11 12), (32, 0xDC0298F0, .lwload 0 5 6 7), (32, 0xDC029818, .lcfg 5 6), (32, 0xDC048019, .lstat 9),
    (32, 0xDC00001A, .lwait), (32, 0xDE602960, .haloRun 3 10 11), (32, 0xDE648001, .haloStat 3 9)] = true := by decide

theorem test_decode_vector : decodes [(32, 0xE02A0000, .vld 1 10 0 0 0), (32, 0xE069409B, .vldx 3 9 8 1 1 1), (32, 0xE286000B, .vexp2 4 3 0 0),
    (32, 0xE268ACA3, .vfma 3 4 5 6 2 1), (32, 0xE42680AA, .vcmpLt 1 3 4 2 1), (32, 0xE6420200, .vred 2 1 1 0 0 0), (32, 0xE6E300F2, .vperm 7 1 8 3 1 1),
    (32, 0xE6C8A003, .vsort 6 4 5 0 0 0 0), (32, 0xE840B000, .vbcast 2 11 0 0), (32, 0xE804B001, .vmovx 2 11 0), (32, 0xE8400004, .vsetf 2 0),
    (32, 0xE8000005, .vfence)] = true := by decide

theorem test_decode_sampler : decodes [(32, 0xF0052C00, .rngkey 10 11), (32, 0xF0852C01, .rnggen 4 10 11), (32, 0xF0063402, .stemp 12 13),
    (32, 0xF0C63803, .stopk 12 12 14), (32, 0xF0C63C04, .stopp 12 12 15), (32, 0xF0C84405, .smerge 12 16 17), (32, 0xF1264C06, .sdraw 18 12 19),
    (32, 0xF23A5C00, .specOpen 3 20 23), (32, 0xF23A5401, .specAppend 3 20 21), (32, 0xF24A5802, .specVerify 4 20 22), (32, 0xF25A0003, .specCommit 5 20),
    (32, 0xF25A0004, .specAbort 5 20)] = true := by decide

theorem test_decode_condenser : decodes [(32, 0xF4050000, .post 10), (32, 0xF4250001, .postTry 2 10), (32, 0xF4530002, .take 5 6), (32, 0xF4740003, .launch 7 8),
    (32, 0xF4140004, .launchTry 1 8), (32, 0xF404AC05, .setpred 9 11), (32, 0xF434B006, .addsucc 3 9 12), (32, 0xF4320007, .evict 3 4)] = true := by decide

/-- 12: the header of MMA acc0, INIT, K 16 is 0x0000_0000_0010_0101, and its ADDR word follows. -/
theorem test_decode_mma : decodeMxu (0x100101 + 2 ^ 64 * 0x7F00000000010000) = .ok (.mma 0 true false 16 0x7F00000000010000) := by decide

/-- 20 R408: OPC 4 in bits 63:60, EV in 55:53, VALUE in 31:0; H.END is OPC 7 with the rest zero. -/
theorem test_decode_chunk : decodeHalo 0x4040000000000005 = .ok (.hWait 2 5) ∧ decodeHalo 0x7000000000000000 = .ok .hEnd := by decide

/-- 05: compact opcode 0, a blank ALU cell, a reserved major opcode, a blank CH cell, and VADD with z = 1 are refused with the detail of their kind. -/
theorem test_refused : decodeHalf 0 = .error .reservedOpcode ∧ decodeWide 0xB6000000 = .error .reservedOpcode ∧
    decodeWide 0x80000013 = .error .unassignedSub ∧ decodeWide 0xC8003C00 = .error .unassignedSub ∧ decodeWide 0xE2000010 = .error .fieldViolation := by decide

/-- Each constraint of 05 R98 and 02 R21 on a field refuses a term, and that term's word does not decode. -/
def refusedTerm (i : Instr) : Bool := !i.wf && (encode i).any fun p => decodeTableWord p.1 p.2 == none

theorem test_illFormed_scalar : [Instr.bext 1 2 0 40 24, .bins 1 2 40 24, .cmp 1 6 2 3, .cmpi 1 7 2 0, .fence 6].all refusedTerm = true := by decide
theorem test_illFormed_orders : [Instr.ld 1 2 0 2 0 0, .ld 1 2 0 0 1 0, .st 1 2 0 1 0 0, .ldq 0 2 1 6 0, .stq 0 2 1 0 0, .ldfKeep 1 2 2 0 0, .ldfTake 1 2 3 0 0,
    .stf 1 2 1 0 0].all refusedTerm = true := by decide
theorem test_illFormed_atomics : [Instr.amoadd 1 2 3 0 3 0, .amomin 1 2 3 0 0 0 1, .amomax 1 2 3 0 0 1 7, .amoand 1 2 3 0 3 0, .amoor 1 2 3 0 2 6,
    .amoxor 1 2 3 0 3 0, .amoswp 1 2 3 0 3 0, .amocas 1 2 3 0 3 0, .bankopAdd 0 1 5 0, .bankopMax 0 1 15 0, .bankopMin 0 1 8 0,
    .bankopAxpy 0 1 5 0].all refusedTerm = true := by decide
theorem test_illFormed_masks : [Instr.vld 1 2 0 1 0, .vst 1 2 7 0, .vlds 1 2 3 0 1 0, .vldx 1 2 3 0 1 0, .vstx 1 2 3 1 0, .vadd 1 2 3 1 0,
    .vsub 1 2 3 1 0, .vmul 1 2 3 1 0, .vfma 1 2 3 4 1 0, .vfms 1 2 3 4 1 0, .vmin 1 2 3 1 0, .vmax 1 2 3 1 0, .vabs 1 2 1 0, .vneg 1 2 1 0,
    .vrcp 1 2 1 0, .vrsq 1 2 1 0, .vexp2 1 2 1 0, .vlog2 1 2 1 0, .vtanh 1 2 1 0].all refusedTerm = true := by decide
theorem test_illFormed_lanes : [Instr.vand 1 2 3 1 0, .vor 1 2 3 1 0, .vxor 1 2 3 1 0, .vshl 1 2 3 1 0, .vshr 1 2 3 1 0, .viadd 1 2 3 1 0,
    .vimul 1 2 3 1 0, .vcmpEq 1 2 3 1 0, .vcmpNe 1 2 3 1 0, .vcmpLt 1 2 3 1 0, .vcmpLtu 1 2 3 1 0, .vcmpGe 1 2 3 1 0, .vcmpGeu 1 2 3 1 0,
    .vred 1 2 0 1 0 0, .vred 1 2 6 0 0 0, .vscan 1 2 0 1 0 0, .vscan 1 2 9 0 0 0, .vperm 1 2 3 1 0 0, .vsort 1 2 3 0 1 0 0, .vcvt 1 2 3 1 0, .vpack 1 2 3 1 0,
    .vunpack 1 2 3 1 0, .mand 1 2 3 1 0, .mor 1 2 3 1 0, .mnot 1 2 1 0, .vbcast 1 2 1 0, .vrot 1 2 3 1 0, .vscale 1 2 3 1 0].all refusedTerm = true := by
  decide
/-! Witnesses: states and operands that meet the hypotheses of each statement, clause by clause. -/

/-- The thread with a trap handler for its tier, and in that handler. -/
def withHandler : State := lau (fun l => { l with ext := extBlock }) base
def inHandler : State := thr (fun c => { c with tmode := true, tpc := 0x2000 }) withHandler

theorem quiet_base : Quiet base := ⟨by decide, by decide, by decide, by decide, by decide, by decide⟩

theorem wit_ArithmeticResults : (∃ q, aluForm (.divu 31 0 31) = some q) ∧ ∃ q, immForm (.cAddi 31 32) = some q := ⟨⟨_, rfl⟩, ⟨_, rfl⟩⟩

theorem wit_ArithmeticResults_moves :
    (63 : BitVec 6).toNat + (0 : BitVec 6).toNat + 1 ≤ 64 ∧ (base.core base.cur.core).cwBad.contains 255 = false ∧
    (let s := cor (fun k => { k with cwBad := [255] }) base
     let w := 2 ^ 57 + coreKey s.cur.core * 2 ^ 18 + 255
     (s.core s.cur.core).cwBad.contains 255 = true ∧ mget 0 s.badWords w = 0 ∧ bankKey w ∉ s.dev.retired ∧ s.me.slow = false) := by decide

theorem wit_PredicatesAndBranches :
    (predForm (.cmpi 0 5 0 0x2000) base.me).isSome = true ∧ ((withX [(5, 0xFFFFFFFFFFFFFFFE)] base).me.x 5).toNat % 2 = 0 := by decide

theorem canTrap_handler : CanTrap withHandler := ⟨by decide, by decide, by decide⟩

theorem cannotTrap_base : CannotTrap base :=
  ⟨by decide, by decide, ctx_all (fun c => c.pend = []) base rfl (by decide), fun _ _ => rfl⟩

theorem wit_TrapEntry : ((withX [(5, 1)] base).me.x 5).toNat % 2 = 1 ∧ CanTrap withHandler ∧ CannotTrap base ∧ (15 : Nat) < 16 ∧ 255 < 256 :=
  ⟨by decide, canTrap_handler, cannotTrap_base, by decide, by decide⟩

theorem wit_TretResult :
    (base.privileged base.cur = false) ∧
    (let s := lau (fun l => { l with record := [0x40] }) base
     s.privileged s.cur = true ∧ s.me.tmode = false) ∧
    (let s := thr (fun c => { c with tmode := true, tpc := 1 }) base
     s.me.tmode = true ∧ s.me.tpc.toNat % 2 = 1 ∧ CannotTrap s) ∧
    (inHandler.me.tmode = true ∧ inHandler.me.tpc.toNat % 2 = 0 ∧ inHandler.trailer inHandler.cur = none) :=
  ⟨by decide, by decide, ⟨by decide, by decide, ⟨by decide, by decide, ctx_all (fun c => c.pend = []) _ rfl (by decide), fun _ _ => rfl⟩⟩, by decide⟩

theorem wit_BreakAndErrors :
    (base.trailer base.cur = none ∧ base.me.cir = 0) ∧
    (let s := thr (fun c => { c with cir := 1 }) withHandler
     s.trailer s.cur = none ∧ s.me.cir ≠ 0 ∧ CanTrap s) ∧
    (base.dev.dbg = 0) ∧
    (let s := devi (fun d => { d with dbg := 1 }) (cor (fun k => { k with dbgctl := 9 }) base)
     s.trailer s.cur = none ∧ s.dev.dbg ≠ 0 ∧ (s.core s.cur.core).dbgctl.toNat % 2 = 1 ∧ 8 ≤ (s.core s.cur.core).dbgctl.toNat ∧
       s.me.st = .ready) :=
  ⟨by decide, ⟨by decide, by decide, ⟨by decide, by decide, by decide⟩⟩, by decide, by decide⟩

theorem wit_ControlRegisters :
    ctrlAssigned 0xF = false ∧
    (ctrlAssigned 0x118 = true ∧ 0x100 ≤ (0x118 : BitVec 10).toNat ∧ base.privileged base.cur = false) ∧
    (ctrlAssigned 0x1F = true ∧ (0x100 ≤ 0x1F → base.privileged base.cur = true) ∧ base.trailer base.cur = none ∧ (0x00C : Nat) = 0x00C ∧
      (0x10 : Nat) ≤ 0x1F ∧ (0x000, w64 0) ∈ ctrlWords base ∧
      (let s := thr (fun c => { c with got := some (w64 0) }) base
       (∀ w, s.me.got = some w → w = s.ctrl s.cur 0) ∧ s.me.got.isSome = true)) ∧
    ctrlWritable 0x104 = false ∧ (ctrlWritable 0x118 = true ∧ 0x100 ≤ 0x118 ∧ base.privileged base.cur = false) ∧
    (ctrlWritable 0x118 = true ∧ (0x100 ≤ 0x118 → inHandler.privileged inHandler.cur = true) ∧ inHandler.trailer inHandler.cur = none) :=
  ⟨by decide, by decide, ⟨by decide, by decide, by decide, by decide, by decide, by decide, fun w h => by
    rw [show w = w64 0 from (Option.some.inj h).symm]; decide, by decide⟩, by decide, by decide, by decide⟩

/-- A privileged thread. -/
def priv : State := lau (fun l => { l with record := [0x40] }) base

theorem wit_StopAndStep :
    base.privileged base.cur = false ∧
    (let s := withX [(5, 5)] priv
     s.privileged s.cur = true ∧ 4 < (s.me.x 5).toNat) ∧
    (let s := withX [(5, 4)] priv
     s.privileged s.cur = true ∧ (s.me.x 5).toNat ≤ 4 ∧ s.trailer s.cur = none ∧ s.known s.me.serial = true ∧ s.me.st = .ready ∧
       s.cur.ctx < 16 ∧ ∀ u : ThreadId, (s.ctx u).pend = []) ∧
    (let s := withX [(5, 256)] priv
     s.privileged s.cur = true ∧ 256 ≤ (s.me.x 5).toNat) ∧
    (let s := withX [(5, 0x91)] priv
     s.privileged s.cur = true ∧ bit (s.me.x 5) 4 = true ∧ bit (s.me.x 5) 7 = true) ∧
    (let s := withX [(5, 0xF0 / 2 + 7)] priv
     s.privileged s.cur = true ∧ (s.me.x 5).toNat < 256 ∧ ¬(bit (s.me.x 5) 4 = true ∧ bit (s.me.x 5) 7 = true) ∧
       (s.me.x 5).toNat % 16 ≠ s.cur.ctx ∧ s.trailer s.cur = none ∧
       (s.launchOf ⟨s.cur.die, s.cur.tier, s.cur.idx, (s.me.x 5).toNat % 16⟩).isPair = false) :=
  ⟨by decide, by decide,
   ⟨by decide, by decide, by decide, by decide, by decide, by decide, ctx_all (fun c => c.pend = []) (withX [(5, 4)] priv) rfl (by decide)⟩,
   by decide, by decide, by decide⟩

/-- Page tables at 0x10000 with a chosen entry at each level: a root entry to 0x20000, an L2 entry to 0x30000, an L1 entry to 0x40000, and a
leaf of 64 KiB there. -/
def tables (e3 e2 e1 e0 : Nat) : State :=
  let m := memWrite (memWrite [] 0x10000 (leBytes 8 e3)) 0x20000 (leBytes 8 e2)
  { base with mem := memWrite (memWrite m 0x30000 (leBytes 8 e1)) 0x40000 (leBytes 8 e0) }

theorem wit_Translation_checks :
    ((w64 7).toNat % 8 ≠ 0) ∧ ((w64 (0x7F * 2 ^ 56)).toNat % 8 = 0 ∧
      regionLoc (base.launchOf base.cur) base.cur.core (w64 (0x7F * 2 ^ 56)) 8 true = some (.trap 6 3)) := by decide

theorem wit_Translation_pages :
    (let e := 2 ^ 52
     e / 2 ^ 52 ≠ 0 ∧ e < 2 ^ 64) ∧
    (let e := 0x40000003
     e < 2 ^ 52 ∧ e / 2 ^ 10 % 64 = 0 ∧ e / 64 % 4 = 0 ∧ e / 2 ^ 8 % 4 ≤ 1 ∧ ¬leafMay e .load) ∧
    (let e := 0x40000107
     e < 2 ^ 52 ∧ e / 2 ^ 10 % 64 = 0 ∧ e / 64 % 4 = 0 ∧ leafMay e .load ∧ e / 2 ^ 8 % 4 = 1) ∧
    (let e := 0x4000003F
     let pa := e / 2 ^ 16 % 2 ^ 36 * 2 ^ 16 + 0xFFFF
     e < 2 ^ 52 ∧ e / 2 ^ 10 % 64 = 0 ∧ e / 64 % 4 = 0 ∧ leafMay e .amo ∧ e / 2 ^ 8 % 4 = 0 ∧ pa / 2 ^ 36 < 8 ∧ pa % 2 ^ 36 < stackBytes) := by
  refine ⟨by decide, ⟨by decide, by decide, by decide, by decide, ?_⟩, ⟨by decide, by decide, by decide, ?_, by decide⟩,
    by decide, by decide, by decide, ?_, by decide, by decide, by decide⟩ <;> simp [leafMay]

theorem wit_Translation_walk :
    let at_ (s : State) (b i : Nat) : Nat := leNat (s.rd (b + 8 * i) 8)
    let next (e : Nat) : Nat := e / 2 ^ 8 % 2 ^ 44 * 256
    let node (e : Nat) : Prop := e < 2 ^ 52 ∧ e % 256 = 1 ∧ next e % 4096 = 0
    (0x10000 % 65536 = 0 ∧ at_ (tables 0 0 0 0) 0x10000 0 % 2 = 0) ∧
    (node (at_ (tables 0x20001 0 0 0) 0x10000 0) ∧ at_ (tables 0x20001 0 0 0) 0x20000 0 % 2 = 0) ∧
    at_ (tables 0x20001 0x4000001F 0 0) 0x20000 0 % 4 = 3 ∧
    (node (at_ (tables 0x20001 0x30001 0 0) 0x20000 0) ∧ at_ (tables 0x20001 0x30001 0 0) 0x30000 0 % 2 = 0) ∧
    at_ (tables 0x20001 0x30001 0x4000001F 0) 0x30000 0 % 4 = 3 ∧
    (at_ (tables 0x20001 0x30001 0x40001 0) 0x30000 0 % 256 = 1 ∧ at_ (tables 0x20001 0x30001 0x40001 0) 0x40000 0 % 2 = 0) ∧
    at_ (tables 0x20001 0x30001 0x40001 0x4000001F) 0x40000 0 % 4 = 3 := by decide +kernel

/-- A die whose links are lost reaches no table elsewhere. -/
theorem wit_Translation_lost : (fun b => (devi (fun d => { d with ilost := 0xFFF }) base).routed 0 (b / 2 ^ 36)) (2 ^ 36) = false := by decide

/-- Addresses in the core's store, and a few states around one word of it. -/
def ls (o : Nat) : Nat := 0x7F * 2 ^ 56 + o
def lsk (o : Nat) : Nat := 2 ^ 60 + o
def atLs (o : Nat) : State := withX [(5, ls o)] base

theorem wit_LoadResults :
    (let s := atLs 0x1FFC0
     (loadForm (.ldq 3 5 0 0 0) s.me).map (fun f => (f.n, f.addr)) = some (64, w64 (ls 0x1FFC0)) ∧
     s.checkAcc s.cur (w64 (ls 0x1FFC0)) 64 64 .load = .bank (lsk 0x1FFC0) ∧
     ∀ w ∈ wordsOf (lsk 0x1FFC0) 64, mget 0 s.badWords w = 0 ∧ bankKey w ∉ s.dev.retired) ∧
    (loadForm (.ld 3 0 3 1 2 127) base.me).map (·.addr) = some (w64 0x3F8) ∧ base.checkAcc base.cur (w64 0x3F8) 8 8 .load = .hbm 0x400003F8 ∧
    base.roomy (clusterOf base.cur.core) (0x400003F8 / 64) = true := by
  decide

theorem wit_StoreResults :
    ((storeForm (.st 3 0 3 0 0 127) base.me).map (fun f => (f.addr, f.data.length, f.rel)) = some (w64 0x3F8, 8, none) ∧
     base.checkAcc base.cur (w64 0x3F8) 8 8 .store = .hbm 0x400003F8 ∧ wide ((none : Option Nat).getD 0) = false ∧ 0x400003F8 % 8 = 0 ∧
     base.roomy (clusterOf base.cur.core) (0x400003F8 / 64) = true ∧ (base.cluster (clusterOf base.cur.core)).fetching.contains (0x400003F8 / 64) = false ∧
     (mget CLine.empty (cor id { base with clusters := [(0, { Cluster.reset with lines :=
       [(0x400003F8 / 64, { CLine.empty with data := List.replicate 64 0 })] })] } |>.cluster 0).lines (0x400003F8 / 64)).data.length = 64) ∧
    (let s := atLs 0x1FFC0
     (storeForm (.stq 3 5 0 0 0) s.me).map (fun f => (f.addr, f.data.length)) = some (w64 (ls 0x1FFC0), 64) ∧
     s.checkAcc s.cur (w64 (ls 0x1FFC0)) 64 64 .store = .bank (lsk 0x1FFC0) ∧
     ∀ w ∈ wordsOf (lsk 0x1FFC0) 64, s.bankTakes w = true ∧ (s.feAt w).lost = false ∧ (s.feAt w).bars = [] ∧ (s.feAt w).barPark = []) := by
  decide

theorem wit_StoreResults_release :
    let s := withX [(5, 0x400)] base
    (storeForm (.st 3 5 3 2 2 0) s.me).map (fun f => (f.addr, f.data.length, wide (f.rel.getD 0))) = some (w64 0x400, 8, true) ∧ s.migs = [] ∧
      s.checkAcc s.cur (w64 0x400) 8 8 .store = .hbm 0x40000400 ∧ 0x40000400 % 8 = 0 := by
  decide

theorem wit_StopsAndRelaxed_waits :
    (let s := withX [(5, 2 ^ 51)] base
     (storeForm (.st 3 5 3 0 0 0) s.me).isSome = true ∧ s.checkAcc s.cur (w64 (2 ^ 51)) 8 8 .store = .xfault) ∧
    (let s := thr (fun c => { c with slow := true }) { base with cur := ⟨1, 0, 0, 0⟩, cores := [(1024, fetchCore Core.reset)] }
     s.me.slow = true ∧ s.me.held = none ∧ s.trailer s.cur = none ∧ (loadForm (.ld 3 0 3 0 0 0) s.me).isSome = true ∧
       s.checkAcc s.cur 0 8 8 .load = .hbm 0x40000000 ∧ 0x40000000 / 2 ^ 36 ≠ s.cur.die) ∧
    (let s := thr (fun c => { c with slow := true }) (atLs 0x10800)
     s.me.rlx = false ∧ s.me.held = none ∧ s.trailer s.cur = none ∧ s.hole = none ∧ (storeForm (.st 3 5 3 0 0 0) s.me).isSome = true ∧
       s.checkAcc s.cur (w64 (ls 0x10800)) 8 8 .store = .bank (lsk 0x10800) ∧ s.me.slow = true) ∧
    (let s := thr (fun c => { c with weak := true }) base
     s.me.rlx = false ∧ s.me.held = none ∧ s.trailer s.cur = none ∧ s.hole = none ∧ (storeForm (.st 3 0 3 0 0 0) s.me).isSome = true ∧
       s.checkAcc s.cur 0 8 8 .store = .hbm 0x40000000 ∧ s.me.weak = true) := by
  decide

theorem wit_StopsAndRelaxed :
    ((loadForm (.ld 3 5 3 0 0 0) (atLs 1).me).map (·.n) = some 8 ∧ (atLs 1).checkAcc (atLs 1).cur (w64 (ls 1)) 8 8 .load = .trap 8 1) ∧
    ((storeForm (.st 3 5 3 0 0 0) (atLs 0).me).isSome = true ∧ (atLs 0).checkAcc (atLs 0).cur (w64 (ls 0)) 8 8 .store = .trap 6 3) ∧
    (let s := withX [(5, 2 ^ 51)] base
     (loadForm (.ld 3 5 3 0 0 0) s.me).isSome = true ∧ s.checkAcc s.cur (w64 (2 ^ 51)) 8 8 .load = .xfault) ∧
    (let s := thr (fun c => { c with slow := true }) (atLs 0x10800)
     s.me.rlx = false ∧ s.me.slow = true ∧ s.me.held = none ∧ s.trailer s.cur = none ∧ (loadForm (.ld 3 5 3 0 0 0) s.me).isSome = true ∧
       s.checkAcc s.cur (w64 (ls 0x10800)) 8 8 .load = .bank (lsk 0x10800) ∧ (Loc.bank (lsk 0x10800)).key.isSome = true) ∧
    (let p : Pend := { load := true, relaxed := true, va := w64 (ls 0x10000), len := 8, dest := 1, data := [], marks := [], key := none, rel := none, ord := 0 }
     let s := thr (fun c => { c with rlx := true, weak := true, pend := List.replicate 7 p }) (atLs 0x10800)
     s.me.rlx = true ∧ s.me.weak = true ∧ s.me.relaxed < 8 ∧ s.trailer s.cur = none ∧ (Loc.bank (lsk 0x10800)).key.isSome = true ∧
     (loadForm (.ld 3 5 3 0 0 0) s.me).map (·.acq) = some none ∧ (storeForm (.st 3 5 3 0 0 0) s.me).map (·.rel) = some none ∧
     s.checkAcc s.cur (w64 (ls 0x10800)) 8 8 .load = .bank (lsk 0x10800)) := by
  decide
/-- Word 0x10800 of the store, in a state of its full/empty bit, with a waiter or none; x5 holds its address. -/
def wk : Nat := lsk 0x10800 / 8
def atFe (f : FeWord) : State := { atLs 0x10800 with fe := [(wk, f)] }
def feFull : State := atFe { FeWord.reset with full := true }
def feLost : State := atFe { FeWord.reset with lost := true }

theorem atWord (s : State) (h : s.me.pend = [] ∧ s.me.weak = false ∧ s.me.slow = false ∧ s.me.rlx = false ∧ s.trailer s.cur = none ∧ s.hole = none)
    (k : Acc1) (w : Nat) (a : Word) (l : s.checkAcc s.cur a 8 8 k = .bank (8 * w)) (b : mget 0 s.badWords w = 0 ∧ bankKey w ∉ s.dev.retired) :
    AtWord s a k w := ⟨⟨h.1, h.2.1, h.2.2.1, h.2.2.2.1, h.2.2.2.2.1, h.2.2.2.2.2⟩, l, b⟩

theorem wit_FullEmptyForms :
    (AtWord feFull (offAddr feFull.me 5 0) .load wk ∧ (feFull.feAt wk).full = true) ∧
    (AtWord (atLs 0x10800) (offAddr (atLs 0x10800).me 5 0) .load wk ∧
      (isWindowWord wk || ((atLs 0x10800).feAt wk).full || ((atLs 0x10800).feAt wk).lost) = false) ∧
    (AtWord feFull (offAddr feFull.me 5 0) .store wk ∧ (feFull.feAt wk).full = true ∧ (feFull.feAt wk).lost = false ∧
      (feFull.feAt wk).parked = [] ∧ (feFull.feAt wk).writers = []) ∧
    (AtWord feLost (offAddr feLost.me 5 0) .store wk ∧ (feLost.feAt wk).lost = true ∧ (feLost.feAt wk).parked = [] ∧ (feLost.feAt wk).readers = []) ∧
    (AtWord (atLs 0x10800) (offAddr (atLs 0x10800).me 5 0) .store wk ∧ isBanked wk = true ∧ isWindowWord wk = false ∧
      (atLs 0x10800).bankTakes wk = true ∧ ((atLs 0x10800).feAt wk).full = false ∧
      ((atLs 0x10800).feAt wk).parked = [] ∧ ((atLs 0x10800).feAt wk).readers = [] ∧ ((atLs 0x10800).feAt wk).writers = []) :=
  ⟨⟨atWord _ (by decide) _ _ _ (by decide) (by decide), by decide⟩, ⟨atWord _ (by decide) _ _ _ (by decide) (by decide), by decide⟩,
   ⟨atWord _ (by decide) _ _ _ (by decide) (by decide), by decide⟩, ⟨atWord _ (by decide) _ _ _ (by decide) (by decide), by decide⟩,
   atWord _ (by decide) _ _ _ (by decide) (by decide), by decide⟩

theorem quiet_of (s : State) (h : s.me.pend = [] ∧ s.me.weak = false ∧ s.me.slow = false ∧ s.me.rlx = false ∧ s.trailer s.cur = none ∧ s.hole = none) : Quiet s :=
  ⟨h.1, h.2.1, h.2.2.1, h.2.2.2.1, h.2.2.2.2.1, h.2.2.2.2.2⟩

theorem wit_Atomics :
    ((amoForm (.amocas 3 5 6 1 2 4)).map (fun f => (f.ord, f.n)) = some (2, 8) ∧ Quiet (atLs 0x10800) ∧
      (atLs 0x10800).checkAcc (atLs 0x10800).cur ((atLs 0x10800).me.x 5) 8 8 .amo = .bank (lsk 0x10800) ∧
      (∀ w ∈ wordsOf (lsk 0x10800) 8, mget 0 (atLs 0x10800).badWords w = 0 ∧ bankKey w ∉ (atLs 0x10800).dev.retired) ∧
      ((atLs 0x10800).bankTakes wk = true ∧ ((atLs 0x10800).feAt wk).lost = false ∧ ((atLs 0x10800).feAt wk).bars = [] ∧
        ((atLs 0x10800).feAt wk).barPark = [])) ∧
    (let s := withX [(5, 0x3FFFFFFC)] base
     (amoForm (.amoadd 3 5 6 0 0 0)).map (·.n) = some 4 ∧ Quiet s ∧ s.migs = [] ∧
       s.checkAcc s.cur (s.me.x 5) 4 4 .amo = .hbm (0x40000000 + 0x3FFFFFFC) ∧ (0x40000000 + 0x3FFFFFFC) % 4 = 0 ∧
       ((afterRelease s none).flushLine (clusterOf s.cur.core) ((0x40000000 + 0x3FFFFFFC) / 64)).pz ((0x40000000 + 0x3FFFFFFC) / 8) = false) :=
  ⟨⟨by decide, quiet_of _ (by decide), by decide, by decide, by decide⟩,
   by decide, quiet_of _ (by decide), by decide, by decide, by decide, by decide⟩

/-- An address in Nimbus inside a launch's range. -/
def nmLaunch : State := withX [(5, 0x7E * 2 ^ 56 + 0x1000)] (lau (fun l =>
  { l with record := List.replicate 40 0 ++ leBytes 8 (2 ^ 40 + 2 ^ 20 * 16 + 64) ++ List.replicate 80 0 }) base)

theorem wit_BankopResults :
    ((2 : Nat) ^ 32 - 1 < 2 ^ 32) ∧ (bankForm (.bankopAxpy 3 5 0 7)).isSome = true ∧ (Fmt.ofClass 0).isSome = true ∧
    ((withX [(5, 8)] base).me.x 5).toNat % 64 + 8 * 8 > 64 ∧
    (let a := (atLs 0x10800).me.x 5
     a.toNat % 8 = 0 ∧ a.toNat % 64 + 8 * 8 ≤ 64 ∧ a.toNat / 2 ^ 56 ≠ 0x7E) ∧
    (let a := nmLaunch.me.x 5
     a.toNat % 8 = 0 ∧ a.toNat % 64 + 8 * 8 ≤ 64 ∧ a.toNat / 2 ^ 56 = 0x7E ∧
       nmLaunch.checkAcc nmLaunch.cur a 64 8 .store = .bank (keyNm 0 0x1000) ∧ keyNm 0 0x1000 % 8 = 0 ∧
       (∀ w ∈ wordsOf (keyNm 0 0x1000) 64, (mget 0 nmLaunch.badWords w = 0 ∧ bankKey w ∉ nmLaunch.dev.retired) ∧
         nmLaunch.bankTakes w = true ∧ (nmLaunch.feAt w).lost = false ∧ (nmLaunch.feAt w).bars = [] ∧ (nmLaunch.feAt w).barPark = [])) ∧
    Quiet nmLaunch :=
  ⟨by decide, by decide, by decide, by decide, by decide, by decide, quiet_of _ (by decide)⟩

def mmio (o : Nat) : State := withX [(5, 0x7D * 2 ^ 56 + o)] base

theorem wit_FenceAndMmio :
    (Quiet base ∧ wide 1 = false ∧ wide 2 = true ∧ base.migs = [] ∧ ((base.cluster 0).lines.map (·.1)).Pairwise (· < ·)) ∧
    (let s := mmio 0xF010
     Quiet s ∧ (s.me.x 5).toNat / 2 ^ 56 = 0x7D ∧ (s.me.x 5).toNat % 8 = 0 ∧ (s.me.x 5).toNat % 2 ^ 56 = 0xF010) ∧
    (let s := mmio 0xF040
     Quiet s ∧ (s.me.x 5).toNat / 2 ^ 56 = 0x7D ∧ 0xF040 ≤ (s.me.x 5).toNat % 2 ^ 56) :=
  ⟨⟨quiet_of _ (by decide), by decide, by decide, by decide, by decide⟩, ⟨quiet_of _ (by decide), by decide, by decide, by decide⟩,
   quiet_of _ (by decide), by decide, by decide⟩

/-- A barrier word at 0x10800, with a COUNT and a number of arrivals, and an operand in x6. -/
def atBar (v x6 : Nat) : State := withX [(6, x6)] { atLs 0x10800 with mem := memWrite base.mem (lsk 0x10800) (leBytes 8 v) }

/-- A continuation recorded at the barrier by its eviction. -/
def evicted : Spill :=
  { addr := w64 0x200000, serial := 1, thread := ⟨0, 0, 0, 3⟩, out := .again, cir := 0, paddr := 0, late := [], frame := 0, recorded := true
    written := true, woken := false
    ctx := { Ctx.reset with held := some { instr := .barWait 5, cause := .bar wk, since := 0, retryAt := 0, snap := [], pfx := 0, rlx := false
                                           left := none, fetch := false } } }
/-- The tier's clock stands at a cycle. -/
def clk (n : Nat) (s : State) : State := { s with clocks := mset s.clocks s.cur.tier n }
def recorded : Cont := { addr := w64 0x200000, serial := 1, die := 0, tier := 0, key := 0x40200000, left := 5 }
def barTimer : State :=
  { atFe { FeWord.reset with bars := [recorded] } with spills := [evicted], clocks := [(0, 6)] }

theorem wit_Barriers :
    (AtWord (atBar 0x20003 0) (w64 (ls 0x10800)) .store wk ∧ barrierIs (memWord (atBar 0x20003 0) wk) 0 0 2 3 ∧
      ((atBar 0x20003 0).me.x 6).toNat % 2 ^ 16 = 0) ∧
    (0 < ((atBar 0x20003 65535).me.x 6).toNat ∧ ((atBar 0x20003 65535).me.x 6).toNat < 2 ^ 16 ∧
      ((atBar 0x20003 65535).bankTakes wk = true ∧ ((atBar 0x20003 65535).feAt wk).lost = false ∧ ((atBar 0x20003 65535).feAt wk).bars = [] ∧
        ((atBar 0x20003 65535).feAt wk).barPark = [])) ∧
    (barrierIs (memWord (atBar 0 0) wk) 0 0 0 0 ∧ (atBar 0 0).pz wk = false) ∧
    ((afterRelease (atBar 0x20003 0) (some 2)).pz wk = (atBar 0x20003 0).pz wk ∧
      memWord (afterRelease (atBar 0x20003 0) (some 2)) wk = memWord (atBar 0x20003 0) wk) ∧
    (AtWord (atBar 0x20003 0) (w64 (ls 0x10800)) .load wk ∧ (atBar 0x20003 0).me.arrival.map (·.addr) ≠ some (w64 (ls 0x10800))) ∧
    (let s := thr (fun c => { c with arrival := some { addr := w64 (ls 0x10800), gen := 1 } }) (atBar 0x20003 0)
     AtWord s (w64 (ls 0x10800)) .load wk ∧ s.me.arrival = some { addr := w64 (ls 0x10800), gen := 1 } ∧ (1 : BitVec 16).toNat ≠ 0) ∧
    (let s := thr (fun c => { c with arrival := some { addr := w64 (ls 0x10800), gen := 0 } }) (atBar 0x20003 0)
     AtWord s (w64 (ls 0x10800)) .load wk ∧ s.me.arrival = some { addr := w64 (ls 0x10800), gen := 0 } ∧ s.pz wk = false) :=
  ⟨⟨atWord _ (by decide) _ _ _ (by decide) (by decide), by unfold barrierIs; decide +kernel, by decide⟩, by decide,
   by unfold barrierIs; decide +kernel, by decide +kernel,
   ⟨atWord _ (by decide) _ _ _ (by decide) (by decide), by decide⟩, ⟨atWord _ (by decide) _ _ _ (by decide) (by decide), by decide, by decide⟩,
   atWord _ (by decide) _ _ _ (by decide) (by decide), by decide, by decide⟩

/-- A thread parked in BAR.WAIT since cycle 0, at a cycle of its core. -/
def barParked (n : Nat) : State :=
  clk n (thr (fun c =>
    { c with st := .parked, bartmo := 9, arrival := some { addr := w64 (ls 0x10800), gen := 0 }, held := evicted.ctx.held }) (atBar 0x20003 0))

theorem wit_BarrierTimeout :
    (base.me.held = none ∧ (barParked 9).me.held = evicted.ctx.held ∧ (barParked 9).cycleOf base.cur - 0 ≤ (barParked 9).me.bartmo.toNat) ∧
    ((barParked 10).me.st = .parked ∧ (barParked 10).me.bartmo.toNat < (barParked 10).cycleOf base.cur - 0 ∧
      (barParked 10).me.arrival.isSome = true) ∧
    (∀ y ∈ base.spills, y.addr = 0 → y.thread.core ≠ base.cur.core) ∧
    (barTimer.spills = [evicted] ∧ evicted.thread.core = base.cur.core ∧
      evicted.ctx.held.map (fun y : Held => y.cause) = some (.bar wk) ∧ (barTimer.feAt wk).bars = [recorded] ∧ recorded.addr = evicted.addr ∧
      recorded.serial = evicted.serial ∧ recorded.left < barTimer.cyc base.cur.core ∧ evicted.written = true ∧ barTimer.migs = []) ∧
    ∀ c, (barTimer.cluster c).hot = false :=
  ⟨by decide, by decide, by decide, by decide, fun _ => rfl⟩
theorem wit_HandlesAndWaits :
    base.trailer base.cur = none ∧
    (let v := ((withX [(5, 2 ^ 32)] base).me.x 5).toNat
     2 ^ 32 ≤ v) ∧
    (let v := ((withX [(5, 0x0308)] base).me.x 5).toNat
     ¬(2 ^ 32 ≤ v ∨ v / 2 ^ 10 % 64 ≠ 0 ∨ v / 64 % 4 ≠ 0 ∨ (v / 256 % 4 = 2 ∧ 8 ≤ v % 64) ∨ (v / 256 % 4 = 3 ∧ 16 ≤ v % 64))) ∧
    handleOver base (base.me.h 0) = true ∧
    (let s := cor (fun k => { k with tags := [(0, { Tag.reset with st := .running })] }) (thr (fun c => { c with hs := [(0, 0x100)] }) base)
     handleOver s (s.me.h 0) = false ∧ (s.me.h 0).toNat / 256 % 4 = 1) ∧
    (thr (fun c => { c with rstores := 1 }) base).me.rstores ≠ 0 ∧
    ((thr (fun c => { c with refused := 2 }) base).me.rstores = 0 ∧ (thr (fun c => { c with refused := 2 }) base).me.refused ≠ 0) ∧
    (base.me.rstores = 0 ∧ base.me.refused = 0) ∧
    (∀ n, n < 16 → bit (0x8001 : BitVec 16) n = true → handleOver base (base.me.h n) = true) ∧
    (let s := cor (fun k => { k with tags := [(0, { Tag.reset with st := .running })], classes := [(3, { ClassB.reset with bound := true })] })
       (thr (fun c => { c with hs := [(0, 0x100)] }) base)
     (bit (1 : BitVec 16) 0 = true ∧ handleOver s (s.me.h 0) = false) ∧
     ∀ n, n < 16 → bit (1 : BitVec 16) n = true → handleOver s (s.me.h n) = false) := by decide

/-- An endpoint c2 of the thread, entry 0 of the core's table, whose peer is entry 1. -/
def withEp (e : Ep) (f : Ep) : State :=
  cor (fun k => { k with eps := [(0, { e with bound := true, met := true, peer := some (0, 1) }), (1, f)] })
    (thr (fun c => { c with cs := [(2, 0)] }) base)

theorem hasEnd (s : State) (c : BitVec 4) (n : Nat) (x y : Bool)
    (h : mfind s.me.cs c.toNat = some n ∧ ((s.core s.cur.core).ep n).isCls = x ∧ ((s.core s.cur.core).ep n).rx = y ∧
      (((s.core s.cur.core).ep n).broken = 0 ∧ ((s.core s.cur.core).ep n).returned = false) ∧ s.trailer s.cur = none) : HasEnd s c n x y :=
  ⟨h.1, h.2.1, h.2.2.1, h.2.2.2.1, h.2.2.2.2⟩

def word0 : Word × Bool := (7, true)

theorem wit_Channels_local :
    mfind base.me.cs 2 = none ∧
    (let s := withEp { Ep.reset with desc := 0x10 } .reset
     mfind s.me.cs 2 = some 0 ∧ ((s.core s.cur.core).ep 0).rx = true) ∧
    (let s := withEp .reset { Ep.reset with words := List.replicate 3 word0 }
     HasEnd s 2 0 false false ∧ ((s.core s.cur.core).ep 0).rem = false ∧ ((s.core s.cur.core).ep 0).met = true ∧
       ((s.core s.cur.core).ep 0).peer = some (0, 1) ∧ ((s.core (coreOf 0)).ep 1).words.length < 4) ∧
    (let s := withEp .reset { Ep.reset with words := List.replicate 4 word0 }
     HasEnd s 2 0 false false ∧ 4 ≤ ((s.core (coreOf 0)).ep 1).words.length) ∧
    (let s := withEp { Ep.reset with desc := 0x10, words := [word0] } .reset
     HasEnd s 2 0 false true ∧ ((s.core s.cur.core).ep 0).words = [(7, true)] ∧ ((s.core s.cur.core).ep 0).peer ≠ none) ∧
    (let s := withEp { Ep.reset with desc := 0x10 } .reset
     HasEnd s 2 0 false true ∧ ((s.core s.cur.core).ep 0).rem = false ∧ ((s.core s.cur.core).ep 0).words = []) :=
  ⟨by decide, by decide, ⟨hasEnd _ _ _ _ _ (by decide), by decide⟩, ⟨hasEnd _ _ _ _ _ (by decide), by decide⟩,
   ⟨hasEnd _ _ _ _ _ (by decide), by decide⟩, hasEnd _ _ _ _ _ (by decide), by decide⟩

/-- 04 R83, by hand: a word sent before its sender retires stays to be received, and the receiving end no longer has a peer. -/
theorem test_leaveEp_keeps_words :
    (let s := (withEp { Ep.reset with bound := true } { Ep.reset with desc := 0x10, bound := true, met := true, peer := some (0, 0), words := [word0] }).leaveEp
       base.cur.core 0
     ((s.core base.cur.core).ep 1).words = [word0] ∧ ((s.core base.cur.core).ep 1).met = true ∧ ((s.core base.cur.core).ep 1).peer = none ∧
       ((s.core base.cur.core).ep 0).bound = false) := by decide

/-- A ring of 16 words at 0x10800, of an endpoint of the thread. -/
def ringEp : Ep := { Ep.reset with desc := w64 (2 ^ 48 * 16 + 2 ^ 32 * (0x10800 / 64) + 0x30), received := 2 }

theorem wit_Channels_remote :
    (let s := withEp { Ep.reset with desc := 0x20, free := 2 } .reset
     HasEnd s 2 0 false false ∧ ((s.core s.cur.core).ep 0).rem = true ∧ ((s.core s.cur.core).ep 0).met = true ∧
       ((s.core s.cur.core).ep 0).peer = some (0, 1) ∧ 2 ≤ ((s.core s.cur.core).ep 0).free) ∧
    (let s := withEp { Ep.reset with desc := 0x20, free := 1 } .reset
     HasEnd s 2 0 false false ∧ ((s.core s.cur.core).ep 0).free < 2) ∧
    (let s := withEp ringEp .reset
     HasEnd s 2 0 false true ∧ ((s.core s.cur.core).ep 0).rem = true ∧ ((s.core s.cur.core).ep 0).met = true ∧
       ((s.core s.cur.core).ep 0).received ≠ ((s.core s.cur.core).ep 0).consumed ∧ ((s.core s.cur.core).ep 0).peer = some (0, 1) ∧ (1 : Nat) ≠ 0 ∧
       (let e := (s.core s.cur.core).ep 0
        let key := 2 ^ 60 + coreKey s.cur.core * 2 ^ 21 + (e.rbase + 8 * ((e.rpos + 1) % e.rwords))
        key % 8 = 0 ∧ mget 0 s.badWords (key / 8) = 0 ∧ bankKey (key / 8) ∉ s.dev.retired)) ∧
    (let s := withEp { ringEp with received := 0 } .reset
     HasEnd s 2 0 false true ∧ ((s.core s.cur.core).ep 0).rem = true ∧ ((s.core s.cur.core).ep 0).received = ((s.core s.cur.core).ep 0).consumed) :=
  ⟨⟨hasEnd _ _ _ _ _ (by decide), by decide⟩, ⟨hasEnd _ _ _ _ _ (by decide), by decide⟩, ⟨hasEnd _ _ _ _ _ (by decide), by decide⟩,
   hasEnd _ _ _ _ _ (by decide), by decide⟩

/-- A class endpoint in a direction, with class 3 bound to a context and holding messages. -/
def withCls (d : Nat) (b : Bool) (m : Nat) : State :=
  let ring := w64 (2 ^ 48 * 16 + 2 ^ 32 * (0x10800 / 64) + 3)
  cor (fun k => { k with classes := [(3, { ClassB.reset with bound := b, msgs := m, binding := ring })] }) (withEp { Ep.reset with desc := w64 d } .reset)

theorem wit_ClassMessages :
    HasEnd (withCls 0x43 true 0) 2 0 true false ∧
    (HasEnd (withCls 0x53 false 0) 2 0 true true ∧ (((withCls 0x53 false 0).core base.cur.core).cls 3).bound = false) ∧
    (HasEnd (withCls 0x53 true 0) 2 0 true true ∧ (((withCls 0x53 true 0).core base.cur.core).cls 3).bound = true ∧
      (((withCls 0x53 true 0).core base.cur.core).cls 3).binding.toNat / 16 % 16 = base.cur.ctx ∧
      (((withCls 0x53 true 0).core base.cur.core).ep 0).peerNum = 3 ∧ (((withCls 0x53 true 0).core base.cur.core).cls 3).msgs = 0) ∧
    (HasEnd (withCls 0x53 true 1) 2 0 true true ∧ 0 < (((withCls 0x53 true 1).core base.cur.core).cls 3).msgs ∧
      (let s := withCls 0x53 true 1
       let b := (s.core s.cur.core).cls 3
       ∀ j, j < 8 → (2 ^ 60 + coreKey s.cur.core * 2 ^ 21 + (b.rbase + 8 * ((b.rpos + 1 + j) % b.rwords))) % 8 = 0 ∧
         bankKey ((2 ^ 60 + coreKey s.cur.core * 2 ^ 21 + (b.rbase + 8 * ((b.rpos + 1 + j) % b.rwords))) / 8) ∉ s.dev.retired)) :=
  ⟨hasEnd _ _ _ _ _ (by decide), ⟨hasEnd _ _ _ _ _ (by decide), by decide⟩, ⟨hasEnd _ _ _ _ _ (by decide), by decide⟩,
   hasEnd _ _ _ _ _ (by decide), by decide⟩

theorem wit_ClassesAndBinding_binding :
    base.trailer base.cur = none ∧ (mfind (withEp .reset .reset).me.cs 2).isSome = true ∧
    (mfind base.me.cs 2 = none ∧ base.descOk base.cur 0x80 = false) ∧
    (let s := cor (fun k => { k with eps := [(0, { Ep.reset with bound := true })] }) base
     mfind s.me.cs 2 = none ∧ s.descOk s.cur ringEp.desc = true ∧ ((s.core s.cur.core).ep 1).bound = false ∧
       (∀ m, m < 1 → ((s.core s.cur.core).ep m).bound = true) ∧ bit ringEp.desc 5 = true) ∧
    (let s := withEp .reset .reset
     mfind s.me.cs 2 = some 0 ∧ ((s.core s.cur.core).ep 0).peer = some (0, 1) ∧ (1 : Nat) ≠ 0) ∧
    bit (0x100 : Word) 8 = true ∧
    (let v := w64 (2 ^ 48 * 16 + 2 ^ 32 * (0x10800 / 64) + 3)
     v.toNat / 2 ^ 47 % 2 = 0 ∧ v.toNat / 2 ^ 9 % 2 ^ 23 = 0 ∧ bit v 8 = false ∧ ((base.core base.cur.core).cls 3).bound = false ∧
       ((base.core base.cur.core).cls 3).binding.toNat / 2 ^ 32 ≠ v.toNat / 2 ^ 32 ∧
       base.ringOk base.me.serial base.cur.core (v.toNat / 2 ^ 48) (v.toNat / 2 ^ 32 % 2 ^ 15 * 64) = true) := by decide

/-- Operands of a copy inside the footprint. -/
def copyArgs (d a l : Nat) : State := withX [(5, ls d), (6, ls a), (7, l)] base

theorem wit_CopyIssues :
    (Quiet base ∧ ((copyArgs 0 0 4).me.x 7).toNat % 8 ≠ 0 ∧ (base.me.x 7) = 0) ∧
    (let s := copyArgs 0x10804 0x10000 8
     (s.me.x 7).toNat % 8 = 0 ∧ 0 < (s.me.x 7).toNat ∧ (s.me.x 7).toNat ≤ 0xFFFFFFF8 ∧ (s.me.x 5).toNat % 8 ≠ 0) ∧
    (FreeCopyTag base 0) ∧
    (let s := copyArgs 0x10800 0x11000 0x800
     Quiet s ∧ FreeCopyTag s 0 ∧ (s.me.x 5).toNat % 8 = 0 ∧ (s.me.x 6).toNat % 8 = 0 ∧ copyFree s (s.me.x 5) 0x800 .store ∧
       copyFree s (s.me.x 6) 0x800 .load ∧ (s.me.x 5).toNat + 0x800 ≤ (s.me.x 6).toNat) ∧
    (let s := copyArgs 0x10800 0x11000 (2 ^ 16 * 8 + 8)
     (s.me.x 7).toNat < 2 ^ 32 ∧ (s.me.x 7).toNat / 2 ^ 16 % 2 ^ 16 = 8 ∧ (s.me.x 7).toNat % 2 ^ 16 = 8 ∧ copyFree s (s.me.x 5) 128 .store) ∧
    (let s := thr (fun c => { c with es := [(0, 2), (1, 8), (2, 8)] }) (copyArgs 0x10800 0x11000 8)
     8 ≤ (s.me.x 7).toNat ∧ (s.me.e 0).toNat * (s.me.x 7).toNat ≤ 0xFFFFFFF8 ∧ (s.me.e 1).toNat % 8 = 0 ∧ (s.me.e 2).toNat % 8 = 0 ∧
       s.me.e 2 ≠ 0 ∧
       (let r := rowsRange (s.me.x 5) (s.me.e 2) 2 8
        let q := rowsRange (s.me.x 6) (s.me.e 1) 2 8
        copyFree s r.1 r.2 .store ∧ copyFree s q.1 q.2 .load ∧ r.1.toNat + r.2 ≤ q.1.toNat)) ∧
    (let s := thr (fun c => { c with es := [(0, w64 (ls 0x12000))] }) (copyArgs 0x10800 0x11000 8)
     (s.me.e 0).toNat % 4 = 0 ∧ (s.me.x 6).toNat % 2 ^ 3 = 0 ∧ (s.me.x 7).toNat * 2 ^ 0 % 8 = 0 ∧
       (s.me.x 6).toNat / 2 ^ 56 ∈ [0x00, 0x7C, 0x7E, 0x7F] ∧ copyFree s (s.me.x 5) (8 * 2 ^ 0) .store ∧
       s.copyRange (s.me.e 0) (4 * 8) .load [0x00, 0x7E, 0x7F] = none) := by
  have tag (s : State) (h : ((s.core s.cur.core).tag 0).st ≠ .running ∧ (s.core s.cur.core).tagWait = []) : FreeCopyTag s 0 :=
    ⟨by decide, h.1, fun m hm => absurd hm (Nat.not_lt_zero m), h.2⟩
  refine ⟨⟨quiet_of _ (by decide), by decide, by decide⟩, by decide, tag _ (by decide), ⟨quiet_of _ (by decide), tag _ (by decide), ?_⟩,
    ?_, ?_, ?_⟩ <;> (unfold copyFree; decide)

/-- A copy with one word left. -/
def copyOp : CopyOp :=
  { tag := 3, kind := 0, dst := w64 (ls 0x10800), src := w64 (ls 0x11000), len := 8, e0 := 0, e1 := 0, e2 := 0, w := 0, thread := base.cur
    serial := 1, run := 0, written := [], cancel := false, after := [], frozen := false, resw := false, granted := 0, redirect := [] }
def copying (o : CopyOp) : State := cor (fun k => { k with copies := [o] }) base

/-- A store of the thread to a peer's window: a leaf of kind 2. -/
def toPeer : State :=
  let m := memWrite (memWrite [] 0x10000 (leBytes 8 0x20001)) 0x20000 (leBytes 8 0x20F)
  { withX [(5, 0x10000), (6, ls 0x10800), (7, 4096)] base with mem := m }

theorem granted_of (s : State) (c : CoreId) (u : Nat) (r : Word) (h : (c, u, r) ∉ s.dev.deferred ∧ 100 * s.dev.p1 ≤ 99 * s.dev.capavg ∧
    s.dev.p10 + s.dev.chargeOf u ≤ s.dev.cappeak ∧ ∀ y ∈ s.dev.deferred, clusterOf y.1 = clusterOf c → (s.launch y.2.2).prio < (s.launch r).prio) :
    Granted s c u r := .inr h

/-- The estimate of the last millisecond forbids every grant. -/
def hungry (s : State) : State := devi (fun d => { d with p1 := 2600 }) s
theorem notGranted (s : State) (c : CoreId) (u : Nat) (r : Word) (h : (c, u, r) ∉ s.dev.grants ∧ ¬100 * s.dev.p1 ≤ 99 * s.dev.capavg) :
    ¬Granted s c u r := fun g => g.elim h.1 fun x => h.2 x.2.1

theorem wit_CopyEventsAndRstore :
    (CopyGoes (copying copyOp) base.cur.core copyOp ∧ copyOp.redirect = []) ∧
    (toPeer.portLost toPeer.cur.die (16 + 0) = false ∧
      (devi (fun d => { d with xlost := 1 }) toPeer).portLost toPeer.cur.die (16 + 0) = true) ∧
    ((base.core base.cur.core).copy 3 = none) ∧
    (((copying { copyOp with cancel := true }).core base.cur.core).copy 3).map (fun o => o.cancel) = some true ∧
    (let s := copying copyOp
     let k := lsk 0x10800 / 8
     (s.core base.cur.core).copy 3 = some copyOp ∧ (List.range (copyOp.len.toNat / 8)).filter (fun m => !copyOp.written.contains m) = [0] ∧
       s.locate (s.launch copyOp.serial) base.cur.core (copyOp.src + w64 (8 * 0)) 8 .engRead = .bank (8 * (lsk 0x11000 / 8)) ∧
       s.locate (s.launch copyOp.serial) base.cur.core (copyOp.dst + w64 (8 * 0)) 8 .engWrite = .bank (8 * k) ∧
       (∀ w ∈ wordsOf (8 * (lsk 0x11000 / 8)) 8, mget 0 s.badWords w = 0 ∧ bankKey w ∉ s.dev.retired) ∧
       (s.bankTakes k = true ∧ (s.feAt k).lost = false ∧ (s.feAt k).bars = [] ∧ (s.feAt k).barPark = []) ∧
       isBanked k = true ∧ isWindowWord k = false ∧ (s.feAt k).parked = [] ∧ (s.feAt k).readers = []) ∧
    (((withX [(7, 4104)] base).me.x 7).toNat > 4096) ∧
    Quiet toPeer ∧
    ((toPeer.me.x 7).toNat % 8 = 0 ∧ 8 ≤ (toPeer.me.x 7).toNat ∧ (toPeer.me.x 7).toNat ≤ 4096 ∧ (toPeer.me.x 5).toNat % 8 = 0 ∧
      (toPeer.me.x 6).toNat % 8 = 0 ∧ toPeer.copyRange (toPeer.me.x 5) 4096 .store [0x00] = none ∧
      (toPeer.locate (toPeer.launchOf toPeer.cur) toPeer.cur.core (toPeer.me.x 5) 4096 .engWrite = .peer 0 0 0) ∧
      toPeer.me.rstores < 15 ∧ lsk 0x10800 % 8 = 0 ∧
      (∀ w ∈ wordsOf (lsk 0x10800) 4096, mget 0 toPeer.badWords w = 0 ∧ bankKey w ∉ toPeer.dev.retired) ∧
      ∀ j, j < 4096 / 8 → toPeer.locate (toPeer.launchOf toPeer.cur) toPeer.cur.core (toPeer.me.x 6 + w64 (8 * j)) 8 .load =
        .bank (lsk 0x10800 + 8 * j)) ∧
    copyFree toPeer (toPeer.me.x 6) 4096 .load := by
  refine ⟨⟨⟨rfl, by decide, .inr (granted_of _ _ _ _ (by decide))⟩, rfl⟩, by decide, by decide, by decide, by decide, by decide,
    quiet_of _ (by decide), by decide +kernel, ?_⟩
  unfold copyFree; decide
/-- A stream control block at 0x10800 for an input port: every loop of one turn, format FMT0, which is FP32. -/
def scb (ctl : Nat) : List Byte :=
  leBytes 8 ctl ++ leBytes 8 (ls 0x11000) ++ leBytes 8 0 ++ (List.replicate 4 (leBytes 8 (2 ^ 48))).flatten ++ leBytes 8 0
def atScb (ctl : Nat) : State :=
  cor (fun k => { k with fmtset := 1 }) { atLs 0x10800 with mem := memWrite base.mem (lsk 0x10800) (scb ctl) }
def noWindow : State := lau (fun l => { l with ext := List.replicate 72 0 ++ [0x0F] }) base

theorem wit_StreamBinding :
    (Quiet noWindow ∧ noWindow.vwin noWindow.cur = 15) ∧
    (let s := atScb 0x20001
     let c := s.core s.cur.core
     let b := s.rd (lsk 0x10800) 64
     s.vwin s.cur ≠ 15 ∧ s.cur.tier < 2 ∧ c.vuTakes s.cur.ctx false = true ∧ (s.me.x 5).toNat / 2 ^ 56 = 0x7F ∧
       s.checkAcc s.cur (s.me.x 5) 64 64 .load = .bank (lsk 0x10800) ∧
       (∀ w ∈ wordsOf (lsk 0x10800) 64, mget 0 s.badWords w = 0 ∧ bankKey w ∉ s.dev.retired) ∧
       scbOk b = true ∧ (c.fmtOf (leAt b 0 8 / 2 ^ 8 % 16)).isSome = true ∧ leAt b 0 8 % 4 = 1 ∧ (c.port 1).bound = false ∧
       mfind (c.win (s.vwin s.cur)).binds 12 = none ∧ (c.hart 1).ended = true ∧ (c.hart 5).ended = true ∧ c.ending 1 = false) ∧
    scbOk ((atScb 0x01001).rd (lsk 0x10800) 64) = false ∧
    (let s := cor (fun k => { k with fmtset := 0 }) (atScb 0x20001)
     let b := s.rd (lsk 0x10800) 64
     scbOk b = true ∧ (leAt b 0 8 / 4 % 2 == 1) = false ∧ (s.core s.cur.core).fmtOf (leAt b 0 8 / 2 ^ 8 % 16) = none) ∧
    (let s := lau (fun l => { l with ext := List.replicate 72 0 ++ [0x0F] }) (atScb 0x20001)
     s.vwin s.cur = 15 ∧ (s.core s.cur.core).vuTakes s.cur.ctx false = true ∧ s.checkAcc s.cur (s.me.x 5) 64 64 .load = .bank (lsk 0x10800) ∧
       scbOk (s.rd (lsk 0x10800) 64) = true) ∧
    (let s := cor (fun k => { k with ports := [(1, { Port.reset with bound := true })] }) (atScb 0x20001)
     ((s.core s.cur.core).port 1).bound = true ∧ (s.core s.cur.core).vuTakes s.cur.ctx false = true ∧ scbOk (s.rd (lsk 0x10800) 64) = true) ∧
    (let s := cor (fun k => { k with wins := [(0, { Window.reset with binds := [(12, 1)] })] }) base
     s.vwin s.cur ≠ 15 ∧ (s.core s.cur.core).vuTakes s.cur.ctx false = true ∧ mfind ((s.core s.cur.core).win 0).binds 12 = some 1) :=
  ⟨⟨quiet_of _ (by decide), by decide⟩, by decide, by decide, by decide, by decide, by decide, by decide⟩

/-- A hart of port 0, whose x1 names the port and x2 an address in the store. -/
def hart (storer : Bool) (o : Nat) (p : Port) : State :=
  { cor (fun k =>
      { k with harts := [(if storer then 4 else 0, { Hart.reset with xs := [(1, 0), (2, w64 (ls o))], ended := false })]
               ports := [(0, { p with bound := true, ended := p.ended, serial := 1, out := storer })] }) base with
    curHart := ⟨⟨0, 0, 0⟩, storer, 0⟩ }
def live : Port := { Port.reset with ended := false, scb := scb 0 }
def blk : Block := { seq := 5, lanes := List.replicate 64 9, marks := 0 }

theorem hartOn (s : State) (p : Nat) (h : ((s.hartOf s.curHart).ended = false ∧ (s.hartOf s.curHart).stalled = false) ∧ s.hole = none ∧
    ((s.core s.curHart.core).port p).out = s.curHart.storer ∧ ((s.core s.curHart.core).port p).bound = true ∧ p < 4) : HartOn s p :=
  ⟨h.1, h.2.1, h.2.2.1, h.2.2.2.1, h.2.2.2.2⟩

theorem wit_HartStreams_in :
    (let s := hart false 0x10800 { live with gend := true }
     HartOn s 0 ∧ ((s.hartOf s.curHart).x 1).toNat % 4 = 0 ∧ ((s.core s.curHart.core).port 0).gend = true) ∧
    (let s := hart false 0x10800 live
     HartOn s 0 ∧ ((s.core s.curHart.core).port 0).gend = false ∧ ((s.core s.curHart.core).port 0).ind = false ∧
       ((s.core s.curHart.core).port 0).late = []) ∧
    (let s := hart false 0x10800 live
     ((s.hartOf s.curHart).x 2).toNat % (s.core s.curHart.core).portAlign 0 = 0 ∧ ((s.core s.curHart.core).port 0).held = none ∧
       ((s.core s.curHart.core).port 0).out = false) ∧
    (let s := hart false 0x10800 { live with held := some 5, queue := List.replicate 8 blk }
     HartOn s 0 ∧ ((s.core s.curHart.core).port 0).held.isSome = true ∧ 8 ≤ ((s.core s.curHart.core).port 0).queue.length) ∧
    (let s := hart false 0x10800 { live with held := some 5, queue := List.replicate 7 blk }
     HartOn s 0 ∧ ((s.core s.curHart.core).port 0).queue.length < 8 ∧ s.performed ((s.core s.curHart.core).port 0).after = true ∧
       5 ∉ ((s.core s.curHart.core).port 0).badIdx ∧ lsk 0x10800 % 8 = 0 ∧
       (∀ w ∈ wordsOf (lsk 0x10800) 256, mget 0 s.badWords w = 0 ∧ bankKey w ∉ s.dev.retired) ∧
       ∀ j, j < 32 → s.locate (s.launch ((s.core s.curHart.core).port 0).serial) s.curHart.core ((s.hartOf s.curHart).x 2 + w64 (8 * j)) 8 .engRead =
         .bank (lsk 0x10800 + 8 * j)) ∧
    (let s := hart false 0x10800 { live with back := [7] }
     HartOn s 0 ∧ ((s.core s.curHart.core).port 0).back = [7]) ∧
    (let s := hart false 0x10800 live
     HartOn s 0 ∧ ((s.core s.curHart.core).port 0).back = [] ∧ ((s.core s.curHart.core).port 0).ended = false) :=
  ⟨⟨hartOn _ _ (by decide), by decide⟩, ⟨hartOn _ _ (by decide), by decide⟩, by decide, ⟨hartOn _ _ (by decide), by decide⟩,
   ⟨hartOn _ _ (by decide), by decide⟩, ⟨hartOn _ _ (by decide), by decide⟩, hartOn _ _ (by decide), by decide⟩

theorem wit_HartStreams_out :
    (let s := hart true 0x10800 { live with ended := true }
     HartOn s 0 ∧ ((s.core s.curHart.core).port 0).out = true ∧ ((s.core s.curHart.core).port 0).queue = [] ∧
       ((s.core s.curHart.core).port 0).ended = true) ∧
    (((hart true 0x10800 live).core ⟨0, 0, 0⟩).port 0).ended = false ∧
    (let s := hart true 0x10800 { live with queue := [blk] }
     HartOn s 0 ∧ ((s.hartOf s.curHart).x 1).toNat % 4 = 0 ∧ ((s.core s.curHart.core).port 0).queue = [blk] ∧ lsk 0x10800 % 8 = 0 ∧
       (∀ j, j < 32 → s.locate (s.launch ((s.core s.curHart.core).port 0).serial) s.curHart.core ((s.hartOf s.curHart).x 2 + w64 (8 * j)) 8 .engWrite =
         .bank (lsk 0x10800 + 8 * j)) ∧
       ∀ j, j < 32 → (s.bankTakes (lsk 0x10800 / 8 + j) = true ∧ (s.feAt (lsk 0x10800 / 8 + j)).lost = false ∧
         (s.feAt (lsk 0x10800 / 8 + j)).bars = [] ∧ (s.feAt (lsk 0x10800 / 8 + j)).barPark = []) ∧ isBanked (lsk 0x10800 / 8 + j) = true ∧
         isWindowWord (lsk 0x10800 / 8 + j) = false ∧ (s.feAt (lsk 0x10800 / 8 + j)).parked = []) ∧
    (let s := { hart false 0x10800 live with curHart := ⟨⟨0, 0, 0⟩, false, 0⟩ }
     (s.hartOf s.curHart).ended = false ∧ (s.hartOf s.curHart).stalled = false ∧ s.hole = none) ∧
    (let s := cor (fun k => { k with ports := [(0, { live with bound := true }), (1, { live with bound := true, out := true })] })
       (hart false 1 live)
     ((s.hartOf s.curHart).x 2).toNat % 4 = 1 ∧ ((s.core s.curHart.core).port 1).out ≠ s.curHart.storer ∧
       ((s.core s.curHart.core).port s.curHart.n).out = s.curHart.storer) ∧
    (let s := hart false 0x10800 live
     ((s.hartOf s.curHart).x 1).toNat % 4 = 0 ∧ ((s.core s.curHart.core).port 0).out = false) ∧
    (let s := hart true 0x10800 live
     ((s.hartOf s.curHart).x 1).toNat % 4 = 0 ∧ ((s.core s.curHart.core).port 0).out = true) :=
  ⟨⟨hartOn _ _ (by decide), by decide⟩, by decide, ⟨hartOn _ _ (by decide), by decide⟩, by decide, by decide, by decide, by decide⟩

theorem wit_HartCode :
    (let s := hart false 0x10800 live
     (s.hartOf s.curHart).ended = false ∧ (s.hartOf s.curHart).stalled = false ∧ s.hole = none ∧
       (s.hartOf s.curHart).x 2 + 0xFFFFFFFFFFFFF800 = w64 (ls 0x10000) ∧
       s.locate (s.launch ((s.core s.curHart.core).port s.curHart.n).serial) s.curHart.core (w64 (ls 0x10000)) 8 .engRead = .bank (lsk 0x10000) ∧
       ∀ w ∈ wordsOf (lsk 0x10000) 8, mget 0 s.badWords w = 0 ∧ bankKey w ∉ s.dev.retired) ∧
    rvDecode 0xFFFFF0B7 = .lui 1 0xFFFFFFFFFFFFF000 ∧ rvDecode 0x00001097 = .auipc 1 0x1000 ∧
    (∃ f w i, rvDecode 0x00108093 = .alui f w 1 1 i) ∧ (∃ f w, rvDecode 0x003100B3 = .alu f w 1 2 3) ∧ rvDecode 0x0FF0000F = .fence ∧
    rvDecode 0x008000EF = .jal 1 8 ∧ rvDecode 0x00008067 = .jalr 0 1 0 ∧ (∃ f, rvDecode 0x00208463 = .branch f 1 2 8) ∧
    rvDecode 0x80013083 = .load 3 1 2 0xFFFFFFFFFFFFF800 ∧ rvDecode 0x00113023 = .store 2 0 ∧ rvDecode 0xFFFFFFFF = .illegal ∧
    (let s := hart false 0x10800 { live with back := List.replicate 7 3 }
     ((s.core s.cur.core).port 0).bound = true ∧ ((s.core s.cur.core).port 0).out = false ∧ ((s.core s.cur.core).port 0).back.length < 8 ∧
       ((s.core s.cur.core).port 0).claim ≤ ((s.core s.cur.core).port 0).seq) ∧
    (let s := hart false 0x10800 { live with back := List.replicate 8 3 }
     8 ≤ ((s.core s.cur.core).port 0).back.length) ∧
    ((base.core base.cur.core).port 0).bound = false :=
  ⟨by decide, by decide, by decide, ⟨_, _, _, rfl⟩, ⟨_, _, rfl⟩, by decide, by decide, by decide, ⟨_, rfl⟩, by decide, by decide, by decide,
   by decide, by decide, by decide⟩
/-- The thread with window 0 whose registers v1 and v2 have a tag, with FP32 named by FMT0, INT32 by FMT1, and INT8 by FMT2. -/
def vec (t1 t2 : BitVec 8) : State :=
  let r (t : BitVec 8) : VReg := { VReg.reset with tag := t }
  cor (fun k => { k with fmtset := 7, fmt := [(0, 0), (1, 0x30000000), (2, 0x70000000)]
                         wins := [(0, { Window.reset with vs := [(1, r t1), (2, r t2)] })] })
    (withX [(5, ls 0x10800), (6, 4)] base)

theorem vuReady (s : State) (e : Bool) (h : s.vwin s.cur ≠ 15 ∧ ((s.core s.cur.core).win (s.vwin s.cur)).binds = [] ∧
    (s.core s.cur.core).vuTakes s.cur.ctx e = true) (q : Quiet s) : VuReady s e :=
  ⟨h.1, fun r => by rw [h.2.1]; rfl, h.2.2, q⟩

theorem wit_VectorAcceptance_tags :
    (∃ q, vecForm (.vfma 3 1 2 2 7 1) = some q) ∧ noWindow.vwin noWindow.cur = 15 ∧
    (VuReady (vec 0xC1 0xC1) false ∧ inF .fp16 = true ∧ viewFmt (vec 0xC1 0xC1) 1 = some .fp16 ∧ viewFmt (vec 0xC1 0xC1) 2 = some .fp16) ∧
    (VuReady (vec 0xC0 0) false ∧ viewFmt (vec 0xC0 0) 2 = none) ∧
    (VuReady (vec 0xC0 0xC1) false ∧ (viewFmt (vec 0xC0 0xC1) 1).isSome = true ∧ viewFmt (vec 0xC0 0xC1) 2 ≠ viewFmt (vec 0xC0 0xC1) 1) :=
  ⟨⟨_, rfl⟩, by decide, ⟨vuReady _ _ (by decide) (quiet_of _ (by decide)), by decide⟩, ⟨vuReady _ _ (by decide) (quiet_of _ (by decide)), by decide⟩,
   vuReady _ _ (by decide) (quiet_of _ (by decide)), by decide⟩

theorem wit_VectorGroups :
    VuReady (vec 0xC3 0xC3) false ∧ (viewFmt (vec 0xC3 0xC3) 2).map inI32 = some true ∧ (2 : BitVec 4).toNat % 2 = 0 ∧
    (viewFmt (vec 0xC3 0xC3) 1).map inW32 = some true ∧ (3 : BitVec 4).toNat % 2 = 1 ∧
    (viewFmt (vec 0xC3 0xC3) 1 = some (.int true 32) ∧ ((vec 0xC3 0xC3).core base.cur.core).fmtOf 0 = some .fp32 ∧
      (Fmt.int true 32).cont = Fmt.fp32.cont) ∧
    (let s := cor (fun k => { k with wins := [(0, { Window.reset with vs :=
        [(4, { VReg.reset with tag := 0xC3 }), (5, { VReg.reset with tag := 0xC3 }), (6, { VReg.reset with tag := 0xC3 }),
         (7, { VReg.reset with tag := 0xC3 })] })] }) (vec 0 0)
     (s.core s.cur.core).fmtOf 2 = some (.int true 8) ∧ inNar (.int true 8) = true ∧ (4 : BitVec 4).toNat % (32 / (Fmt.int true 8).cont) = 0 ∧
       inW32 (.int true 32) = true ∧ ∀ j, j < 32 / (Fmt.int true 8).cont → viewFmt s (4 + j) = some (.int true 32)) ∧
    (viewFmt (vec 0xC7 0) 1 = some (.int true 8) ∧ ((vec 0xC7 0).core base.cur.core).fmtOf 1 = some (.int true 32) ∧
      (8 : BitVec 4).toNat % (32 / (Fmt.int true 8).cont) = 0) ∧
    base.me.relaxed < 8 ∧ base.me.held = none ∧ (base.core base.cur.core).vq = [] :=
  ⟨vuReady _ _ (by decide) (quiet_of _ (by decide)), by decide, by decide, by decide, by decide, by decide, by decide, by decide, by decide, by decide⟩

/-- The thread has eight relaxed accesses in flight. -/
def eightRelaxed : State :=
  let p : Pend := { load := true, relaxed := true, va := w64 (ls 0x10000), len := 8, dest := 1, data := [], marks := [], key := none, rel := none, ord := 0 }
  thr (fun c => { c with pend := List.replicate 8 p }) (vec 0xC3 0xC3)

theorem wit_VectorAcceptance_ninth :
    (eightRelaxed.vwin eightRelaxed.cur ≠ 15 ∧ (eightRelaxed.core eightRelaxed.cur.core).vuTakes eightRelaxed.cur.ctx false = true ∧
      eightRelaxed.trailer eightRelaxed.cur = none ∧ eightRelaxed.me.held = none ∧ 8 ≤ eightRelaxed.me.relaxed) ∧
    ∀ r, mfind ((eightRelaxed.core eightRelaxed.cur.core).win (eightRelaxed.vwin eightRelaxed.cur)).binds r = none :=
  ⟨by decide, fun r => by
    rw [show ((eightRelaxed.core eightRelaxed.cur.core).win (eightRelaxed.vwin eightRelaxed.cur)).binds = [] by decide]; rfl⟩

theorem reach (s : State) (f : VMem)
    (h : (match s.vuKeys f with | .ok l => l.all fun x => x.2.1.key.isSome | .error _ => false) = true) : ∃ locs, vuReach s f locs := by
  split at h
  · rename_i l e
    exact ⟨l, e, fun x hx => (List.all_eq_true.mp h) x hx⟩
  · exact absurd h (by decide)

/-- The strided element list of the statement. -/
def stridedOf (n : Nat) (a b : Word) : VMem :=
  { store := false, size := n, align := n, step := 0, detail := 1, elems := (List.range (256 / n)).map fun l => (l, a + w64 l * b) }

theorem wit_VectorMemory :
    (VuReady (vec 0xC3 0xC3) true ∧ ((vec 0xC3 0xC3).core base.cur.core).fmtOf 15 = none ∧ viewFmt (vec 0xC3 0xC3) 3 = none) ∧
    (∃ l, vuReach (vec 0xC3 0xC3) ((vec 0xC3 0xC3).vBlock false (some .fp32) ((vec 0xC3 0xC3).me.x 5) 0 0) l) ∧
    (∃ c d x, (vec 0xC3 0xC3).vuKeys ((vec 0xC3 0xC3).vBlock false (some .fp32) (w64 (ls 0x10802)) 0 0) = .error (c, d, x)) ∧
    (∃ l, vuReach (vec 0xC3 0xC3) (stridedOf 4 ((vec 0xC3 0xC3).me.x 5) ((vec 0xC3 0xC3).me.x 6)) l) ∧
    ((viewFmt (vec 0xC3 0xC3) 1).isSome = true ∧
      ∃ l, vuReach (vec 0xC3 0xC3) ((vec 0xC3 0xC3).vBlock true (viewFmt (vec 0xC3 0xC3) 1) ((vec 0xC3 0xC3).me.x 5) 0 0) l) ∧
    ((viewFmt (vec 0xC3 0xC3) 2).map inI32 = some true ∧
      (∃ l, vuReach (vec 0xC3 0xC3) ((vec 0xC3 0xC3).vIndexed false ((vec 0xC3 0xC3).me.x 5) 2 0 0) l) ∧
      ∃ l, vuReach (vec 0xC3 0xC3) ((vec 0xC3 0xC3).vIndexed true ((vec 0xC3 0xC3).me.x 5) 2 0 0) l) ∧
    ((∃ c d x, (vec 0xC3 0xC3).vuKeys (stridedOf 4 (w64 (ls 0x10802)) 4) = .error (c, d, x)) ∧
      (∃ c d x, (vec 0xC3 0xC3).vuKeys ((vec 0xC3 0xC3).vBlock true (viewFmt (vec 0xC3 0xC3) 1) (w64 (ls 0x10802)) 0 0) = .error (c, d, x)) ∧
      (∃ c d x, (vec 0xC3 0xC3).vuKeys ((vec 0xC3 0xC3).vIndexed false (w64 (ls 0x10802)) 2 0 0) = .error (c, d, x)) ∧
      ∃ c d x, (vec 0xC3 0xC3).vuKeys ((vec 0xC3 0xC3).vIndexed true (w64 (ls 0x10802)) 2 0 0) = .error (c, d, x)) :=
  ⟨⟨vuReady _ _ (by decide) (quiet_of _ (by decide)), by decide⟩, reach _ _ (by decide +kernel), ⟨8, 1, w64 (ls 0x10802), by rfl⟩,
   reach _ _ (by decide +kernel), ⟨by decide, reach _ _ (by decide +kernel)⟩, ⟨by decide, reach _ _ (by decide +kernel),
   reach _ _ (by decide +kernel)⟩, ⟨8, 1, w64 (ls 0x10802), by rfl⟩, ⟨8, 1, w64 (ls 0x10802), by rfl⟩, ⟨8, 1, w64 (ls 0x10802), by rfl⟩,
   8, 1, w64 (ls 0x10802), by rfl⟩

def vuCmd (i : Instr) : VuCmd :=
  { instr := i, thread := ⟨0, 0, 0, 0⟩, serial := 1, run := 0, win := 0, xa := 63, xb := 0, xam := false, keys := [], ins := [], outs := [] }

theorem wit_StreamBinding_ending :
    let s := cor (fun k => { k with vq := [{ vuCmd (.strmEnd 0) with keys := [(1, 0, 0)] }] }) (atScb 0x20001)
    let c := s.core s.cur.core
    s.vwin s.cur ≠ 15 ∧ c.vuTakes s.cur.ctx false = true ∧ (c.port 1).bound = false ∧ c.ending 1 = true ∧ scbOk (s.rd (lsk 0x10800) 64) = true := by
  decide

/-- The VU of the thread's core holds a command. -/
def vuq (i : Instr) : State := cor (fun k => { k with vq := [vuCmd i, vuCmd .vfence] }) (vec 0xC3 0xC3)

theorem wit_VectorExecution :
    (base.core base.cur.core).vq = [] ∧
    (let s := hungry (cor (fun k => { k with vq := [vuCmd .vfence] }) (vec 0xC3 0xC3))
     (s.core s.cur.core).strw = [] ∧ ¬Granted s s.cur.core 0 (vuCmd .vfence).serial) ∧
    Granted (vec 0xC3 0xC3) base.cur.core 0 (vuCmd .vfence).serial ∧
    (let k := (vuq (.vrot 3 1 5 0 0)).core base.cur.core
     k.vq = vuCmd (.vrot 3 1 5 0 0) :: [vuCmd .vfence] ∧ (vuq .vfence).hole = none ∧ (vuCmd .vfence).ins = [] ∧ (vuCmd .vfence).outs = [] ∧
       k.tagFmt ((k.win 0).v 1).tag = some (.int true 32)) ∧
    (∃ f, laneForm (.vrot 3 1 5 0 0) .reset 63 false true = some f ∧ f.fmt = none) ∧
    (∃ f, laneForm (.vmin 3 1 2 0 0) .reset 0 false true = some f ∧ f.fmt = some (.int true 32) ∧ f.a = 1) ∧
    (∃ d m e g, maskForm (.vcmpLt 3 1 2 0 0) .reset true = some (d, m, e, g, some 1)) ∧ ∃ d m e g, maskForm (.mnot 1 2 0 0) .reset true = some (d, m, e, g, none) :=
  ⟨by decide, ⟨by decide, notGranted _ _ _ _ (by decide)⟩, granted_of _ _ _ _ (by decide), by decide, ⟨_, rfl, rfl⟩, ⟨_, rfl, rfl, rfl⟩,
   ⟨_, _, _, _, rfl⟩, _, _, _, _, rfl⟩

/-- A command that moves lanes 0 and 5 to or from two words of the store. -/
def moving (i : Instr) : State :=
  cor (fun k => { k with vq := [{ vuCmd i with keys := [(0, lsk 0x10800, 0), (5, lsk 0x10804, 0)] }] }) (vec 0xC3 0xC3)

theorem wit_VectorTransfers :
    (let s := moving (.vld 1 5 0 0 0)
     let k := s.core s.cur.core
     (s.hole = none ∧ memForm (.vld 1 5 0 0 0) k (k.win 0) = some (false, 1, some 0, none, true) ∧
       memForm (.vstx 1 5 2 0 0) k (k.win 0) = some (true, 1, none, some 2, true)) ∧
       ∀ c ∈ k.vq, (c.keys.map (·.1)).Nodup ∧ (c.keys.map (·.2.1)).Nodup ∧ c.ins = [] ∧ c.outs = [] ∧
         ∀ x ∈ c.keys, x.1 < 64 ∧ x.2.1 % 4 = 0 ∧ 2 ^ 60 ≤ x.2.1 ∧ x.2.1 < 2 ^ 62 ∧
           (∀ w ∈ wordsOf x.2.1 4, mget 0 s.badWords w = 0 ∧ bankKey w ∉ s.dev.retired) ∧
           (s.bankTakes (x.2.1 / 8) = true ∧ (s.feAt (x.2.1 / 8)).lost = false ∧ (s.feAt (x.2.1 / 8)).bars = [] ∧
             (s.feAt (x.2.1 / 8)).barPark = [])) ∧
    Granted (moving (.vstx 1 5 2 0 0)) base.cur.core 0 1 :=
  ⟨⟨⟨rfl, rfl, rfl⟩, by decide⟩, granted_of _ _ _ _ (by decide)⟩

/-- The port of a T1 core's thread, with geometry registers. -/
def lens (m : Nat) (l : List (Nat × Nat)) : State :=
  cor (fun k => { k with lens := { k.lens with lmode := w64 m } }) (withX l (atTier 1))
def lensOp (k : Nat) (d a z m : Nat) : LensOp :=
  { tag := 7, kind := k, dst := w64 d, src := w64 a, size := w64 z, lmode := w64 m, lfine := 0, lcoarse := 0, thread := ⟨0, 1, 0, 0⟩, serial := 1
    run := 0, at_ := 0, done := 0, got := [], waiting := false, arrived := none, cancel := false, frozen := false, after := [] }
/-- A launch of PCLASS 0b10. -/
def anywhere : State := lau (fun l => { l with record := [0x20] }) base

theorem wit_LensRegisters :
    (base.trailer base.cur = none ∧ (anywhere.launchOf anywhere.cur).pclass = 2) ∧
    ((base.launchOf base.cur).pclass ≠ 2 ∧ 2 < ((withX [(5, 3)] base).me.x 5).toNat) ∧
    (let x := (withX [(6, 2 ^ 30 - 1 - 127 * 128)] base).me.x 6
     ¬(2 < 0 ∨ ((0 : Nat) = 0 ∧ (2 ^ 30 ≤ x.toNat ∨ x.toNat / 2 ^ 7 % 2 ^ 7 ≠ 0)) ∨ (0 < 0 ∧ 2 ^ 48 ≤ x.toNat))) ∧
    (let s := cor (fun k => { k with lens := { k.lens with ops := [lensOp 3 0 0 0 0], tags := [(7, { Tag.reset with st := .running })] } })
       (thr (fun c => { c with lensTags := 0x80 }) (atTier 1))
     let l := (s.core s.cur.core).lens
     (l.ops.map (·.tag)).Nodup ∧ (∀ o ∈ l.ops, o.tag < 8) ∧
       ∃ o ∈ l.ops, o.run = s.me.run ∧ bit s.me.lensTags o.tag = true ∧ (l.tag o.tag).st = .running ∧ o.tag < 8) ∧
    (base.core base.cur.core).lens.ops = [] := by decide

theorem lensTag (s : State) (h : ((s.core s.cur.core).lens.tag 0).st ≠ .running ∧ (s.core s.cur.core).tagWait = []) : FreeLensTag s 0 :=
  ⟨by decide, h.1, fun m hm => absurd hm (Nat.not_lt_zero m), h.2⟩

theorem wit_LensIssue :
    (lensForm 10 1 5 6 7).isSome = true ∧ (anywhere.launchOf anywhere.cur).pclass = 2 ∧
    lensIllegal base 3 0 (2 ^ 32 + 2 ^ 16 + 1) ∧
    ¬lensIllegal (lens 8 []) 3 8 (2 ^ 32 + 2 ^ 16 + 1) ∧ ¬lensIllegal (lens 8 []) 3 8 0 ∧
    ((withX [(5, ls 0x10802)] base).me.x 5).toNat % 4 ≠ 0 ∧
    (let s := lens 8 [(5, ls 0x10800), (6, ls 0x10804), (7, 2 ^ 32 + 2 ^ 16 + 1)]
     let L := s.launchOf s.cur
     Quiet s ∧ FreeLensTag s 0 ∧ (s.me.x 5).toNat % 4 = 0 ∧ (s.me.x 6).toNat % 4 = 0 ∧ (s.me.x 5).toNat / 2 ^ 21 = 0x7F * 2 ^ 35 ∧
       0x800 ≤ (s.me.x 5).toNat % 2 ^ 21 ∧ L.on s.cur.core = true ∧ L.base s.cur.core ≤ (s.me.x 5).toNat % 2 ^ 21 ∧
       (s.me.x 6).toNat % 2 ^ 21 + lensExtent 4 1 0 0 ≤ L.base s.cur.core + L.lssize ∧
       (s.me.x 5).toNat + lensExtent 4 1 0 0 ≤ (s.me.x 6).toNat) ∧
    (let s := { lens 0 [] with launches := [{ fetchLaunch with lsbase := [(0, 0), (1, 0), (2, 0), (3, 0), (256, 65536)] }] }
     let L := s.launchOf s.cur
     0 + lensExtent 4 1 0 0 ≤ L.lssize ∧ ∀ k, k < 4 → L.on ⟨s.cur.die, s.cur.tier - 1, 4 * s.cur.idx + k⟩ = true) ∧
    (¬((withX [(6, 64)] base).me.x 6).toNat ≤ 63 ∧ (63 ≤ 63 ∧ 4 % 4 = 0 ∧ 4 * 63 + 4 ≤ 256)) ∧
    (anywhere.launchOf anywhere.cur).pclass = 2 ∧ (base.launchOf base.cur).pclass ≠ 2 ∧
    (let s := withX [(5, 63), (6, ls 0x10800), (7, 4)] base
     let L := s.launchOf s.cur
     Quiet s ∧ FreeLensTag s 0 ∧ (s.me.x 6).toNat / 2 ^ 21 = 0x7F * 2 ^ 35 ∧ L.on s.cur.core = true ∧ L.base s.cur.core ≤ (s.me.x 6).toNat % 2 ^ 21 ∧
       (s.me.x 6).toNat % 2 ^ 21 + 4 ≤ L.base s.cur.core + L.lssize) := by
  refine ⟨by decide, by decide, ?_, ?_, ?_, by decide, ⟨quiet_of _ (by decide), lensTag _ (by decide), by decide⟩, by decide, by decide,
    by decide, by decide, quiet_of _ (by decide), lensTag _ (by decide), by decide⟩ <;> (unfold lensIllegal; decide)

/-- A core of T1 whose port's oldest operation is `o`. -/
def lensAt (o : LensOp) : State := cor (fun k => { k with lens := { k.lens with ops := [o] } }) (atTier 1)
def lk (o : Nat) : Nat := 2 ^ 60 + 256 * 2 ^ 21 + o

/-- No core but 0.1.0 is listed, so no other port of its engine is ready. -/
theorem otherPorts (s : State) (k : Core) (h : s.cores = [(256, k)]) (p : CoreId) (q : p.idx < 256 ∧ p.die = 0 ∧ p.tier - 1 = 0) (n : p ≠ ⟨0, 1, 0⟩) :
    (s.core p).lens.ops = [] ∧ s.lensReady p = false := by
  obtain ⟨d, t, i⟩ := p
  obtain ⟨q1, q2, q3⟩ := q
  simp only at q1 q2 q3
  have e : s.core ⟨d, t, i⟩ = Core.reset := by
    have : ¬(256 = (d * 4 + t) * 256 + i) := by
      intro x
      apply n
      simp only [CoreId.mk.injEq]
      omega
    simp [State.core, h, mget, coreKey, this]
  exact ⟨by rw [e]; rfl, by unfold State.lensReady; rw [e]; rfl⟩

theorem wit_LensEvents :
    (∀ p : CoreId, p.idx < 256 ∧ p.die = 0 ∧ p.tier - 1 = 0 → ((atTier 1).core p).lens.ops = []) ∧
    (∀ p : CoreId, p.idx < 256 ∧ p.die = 0 ∧ p.tier - 1 = 0 → p ≠ ⟨0, 1, 0⟩ → (lensAt (lensOp 16 63 (ls 0x10800) 4 0)).lensReady p = false) ∧
    (∀ p ∈ ((lensAt (lensOp 16 63 0 4 0)).core ⟨0, 1, 0⟩).lens.ops, p.tag ≠ 7 ∨ p.cancel = false) ∧
    (((lensAt { lensOp 16 63 0 4 0 with cancel := true }).core ⟨0, 1, 0⟩).lens.ops.find? (fun p => p.tag == 7 && p.cancel)).isSome = true ∧
    (let o := lensOp 16 63 (ls 0x10800) 4 0
     let s := lensAt o
     (s.core ⟨0, 1, 0⟩).lens.ops = o :: [] ∧ o.cancel = false ∧ o.frozen = false ∧ s.performed o.after = true ∧ o.waiting = false ∧
       o.arrived = none ∧ o.at_ = 0 ∧ o.got = [] ∧ o.kind = 16 ∧ o.size = 4 ∧ o.src.toNat % 4 = 0 ∧
       o.dst.toNat < 64 ∧ mget 0 s.badWords (lk 0x10800 / 8) = 0 ∧ bankKey (lk 0x10800 / 8) ∉ s.dev.retired) ∧
    (let o := lensOp 3 (ls 0x10800) (ls 0x11000) (2 ^ 32 + 2 ^ 16 + 1) 11
     let s := lensAt o
     o.size.toNat = 2 ^ 32 + 2 ^ 16 + 1 ∧ lk 0x10800 % 8 = 0 ∧ lk 0x11000 % 8 = 0 ∧ o.lmode.toNat = 11 ∧
       (s.bankTakes (lk 0x10800 / 8) = true ∧ (s.feAt (lk 0x10800 / 8)).lost = false ∧ (s.feAt (lk 0x10800 / 8)).bars = [] ∧
         (s.feAt (lk 0x10800 / 8)).barPark = []) ∧ isWindowWord (lk 0x10800 / 8) = false ∧ (s.feAt (lk 0x10800 / 8)).parked = [] ∧
       bankKey (lk 0x11000 / 8) ∉ s.dev.retired) ∧
    (let o := lensOp 3 (ls 0x10800) (ls 0x11000) (2 ^ 32 + 2 ^ 16 + 1) 27
     let s := lensAt o
     o.lmode.toNat = 27 ∧ (mget 0 s.badWords (lk 0x11000 / 8) = 0 ∧ bankKey (lk 0x11000 / 8) ∉ s.dev.retired) ∧
       (s.feAt (lk 0x11000 / 8)).full = false ∧ (s.feAt (lk 0x11000 / 8)).lost = false ∧ isWindowWord (lk 0x11000 / 8) = false ∧
       (s.launch o.serial).st ≠ .ending) := by
  refine ⟨fun p q => ?_, fun p q n => (otherPorts _ _ rfl p q n).2, ?_⟩
  · by_cases n : p = ⟨0, 1, 0⟩
    · subst n; decide
    · exact (otherPorts _ _ rfl p q n).1
  · decide
/-- A T3 thread with operands, and its store's memory. -/
def zen (l : List (Nat × Nat)) (m : List Host.Cell) : State := withX l { atTier 3 with mem := memWrite m 0x10000 [] }
def zk (o : Nat) : Nat := 2 ^ 60 + 3 * 256 * 2 ^ 21 + o
/-- A descriptor of a list at an offset with N entries. -/
def listDesc (o n : Nat) : Nat := n * 2 ^ 32 + o

theorem goodList (s : State) (v : Word) (h : (v.toNat < 2 ^ 48 ∧ v.toNat / 2 ^ 21 % 2 ^ 11 = 0 ∧ v.toNat / 2 ^ 32 ≤ 4096) ∧ v.toNat % 2 ^ 21 % 512 = 0)
    (a : let a := w64 (0x7F * 2 ^ 56 + (listOf v).1); a.toNat / 2 ^ 21 = 0x7F * 2 ^ 35 ∧ 0x800 ≤ a.toNat % 2 ^ 21 ∧
      (s.launchOf s.cur).on s.cur.core = true ∧ (s.launchOf s.cur).base s.cur.core ≤ a.toNat % 2 ^ 21 ∧
      a.toNat % 2 ^ 21 + (listOf v).2.2 ≤ (s.launchOf s.cur).base s.cur.core + (s.launchOf s.cur).lssize)
    (w : ∀ w ∈ wordsOf (ownKey s (listOf v).1) (listOf v).2.2, (mget 0 s.badWords w = 0 ∧ bankKey w ∉ s.dev.retired) ∧ s.bankTakes w = true ∧
      (s.feAt w).lost = false ∧ (s.feAt w).bars = [] ∧ (s.feAt w).barPark = []) : GoodList s v :=
  ⟨h.1, h.2, ⟨a.1, a.2.1, a.2.2.1, a.2.2.2.1, a.2.2.2.2⟩, fun x hx => (w x hx).1, fun x hx => (w x hx).2⟩

theorem sampFree (s : State) (h : (s.core s.cur.core).sampWait = [] ∧ (s.core s.cur.core).sampGot = []) : SampFree s :=
  ⟨fun n hn => by rw [h.1] at hn; exact absurd hn (by simp), h.2⟩

theorem wit_SamplerResults :
    (SampFree (zen [] []) ∧ SampFree (zen [(5, listDesc 0x10800 1), (6, 0x00800000)] []) ∧
      SampFree (zen [(5, listDesc 0x10800 0), (6, 0x3F800000)] []) ∧ SampFree (zen [(5, listDesc 0x10800 1), (6, listDesc 0x10A00 64)] [])) ∧
    ((base.cur.tier ≠ 3) ∧ Instr.specAbort 3 5 ∈ zenithForm 3 5 6 7) ∧
    ((zen [] []).cur.tier = 3 ∧ (zen [] []).trailer (zen [] []).cur = none ∧ (zen [] []).me.held = none) ∧
    (2 ^ 48 ≤ ((zen [(5, 2 ^ 48)] []).me.x 5).toNat ∧ ((zen [(6, 0x7F800000)] []).me.x 6).toNat > 0x7F7FFFFF ∧
      ((zen [(6, 0x3F800001)] []).me.x 6).toNat > 0x3F800000 ∧ ((zen [(6, 1025 * 2 ^ 32)] []).me.x 6).toNat / 2 ^ 32 % 2 ^ 16 > 1024) ∧
    (let s := zen [(5, listDesc 0x10800 1), (6, 0x00800000)] []
     Quiet s ∧ GoodList s (s.me.x 5) ∧ (listOf (s.me.x 5)).2.1 = 1 ∧ 0x00800000 ≤ (s.me.x 6).toNat ∧ (s.me.x 6).toNat ≤ 0x7F7FFFFF ∧
       (listKey s (s.me.x 5) 0).toNat % 2 ^ 31 ≤ 0x7F800000) ∧
    (let s := zen [(5, listDesc 0x10800 0), (6, 0x3F800000)] []
     Quiet s ∧ GoodList s (s.me.x 5) ∧ (listOf (s.me.x 5)).2.1 = 0 ∧ 0 < (s.me.x 6).toNat ∧ (s.me.x 6).toNat ≤ 0x3F800000) ∧
    (let s := zen [(5, listDesc 0x10800 1), (6, listDesc 0x10A00 64)] []
     Quiet s ∧ GoodList s (s.me.x 5) ∧ GoodList s (s.me.x 6) ∧ 0 < (listOf (s.me.x 6)).2.1 ∧ (listOf (s.me.x 6)).2.1 ≤ 1024 ∧
       (listOf (s.me.x 5)).1 + 512 ≤ (listOf (s.me.x 6)).1) :=
  ⟨⟨sampFree _ (by decide), sampFree _ (by decide), sampFree _ (by decide), sampFree _ (by decide)⟩, by decide, by decide, by decide,
   ⟨quiet_of _ (by decide), goodList _ _ (by decide) (by decide) (by decide), by decide +kernel⟩,
   ⟨quiet_of _ (by decide), goodList _ _ (by decide) (by decide) (by decide), by decide⟩,
   quiet_of _ (by decide), goodList _ _ (by decide) (by decide) (by decide), goodList _ _ (by decide) (by decide) (by decide), by decide⟩

theorem wit_SamplerResults_stopk :
    (zen [] []).cur.tier = 3 ∧ 4096 < ((zen [(6, 4097)] []).me.x 6).toNat ∧
    (let s := zen [(5, listDesc 0x10800 4096), (6, 4096)] []
     ¬(2 ^ 48 ≤ (s.me.x 5).toNat ∨ (s.me.x 5).toNat / 2 ^ 21 % 2 ^ 11 ≠ 0 ∨ 4096 < (s.me.x 5).toNat / 2 ^ 32 % 2 ^ 16) ∧ 1 ≤ (s.me.x 6).toNat ∧
       (s.me.x 6).toNat ≤ 4096 ∧ s.trailer s.cur = none ∧ SampFree s) :=
  ⟨by decide, by decide, by decide, by decide, by decide, by decide, sampFree _ (by decide)⟩

/-- A sequence state block at 0x10800 from its first two words and VACC, with drafts 1 to 8, and a block of targets at 0x10840. -/
def ssb (w0 w1 vacc : Nat) (t : List Nat) : State :=
  zen [(5, ls 0x10800), (6, ls 0x10840)] (memWrite (memWrite [] (zk 0x10800)
    (leBytes 8 w0 ++ leBytes 8 w1 ++ leBytes 8 0 ++ leBytes 8 (vacc * 2 ^ 32) ++ (List.range 8).flatMap fun n => leBytes 4 (n + 1)))
    (zk 0x10840) (t.flatMap fun n => leBytes 4 n))
/-- First word: SEQ, DCOUNT, OPEN, VER; second: KVLEN and MAX. -/
def w0 (q n o v : Nat) : Nat := q + n * 2 ^ 32 + o * 2 ^ 38 + v * 2 ^ 39
def w1 (kv m : Nat) : Nat := kv + m * 2 ^ 32

theorem goodBlock (s : State) (a : Word) (h : a.toNat % 64 = 0 ∧ a.toNat / 2 ^ 21 = 0x7F * 2 ^ 35 ∧ 0x800 ≤ a.toNat % 2 ^ 21 ∧
      (s.launchOf s.cur).on s.cur.core = true ∧ (s.launchOf s.cur).base s.cur.core ≤ a.toNat % 2 ^ 21 ∧
      a.toNat % 2 ^ 21 + 64 ≤ (s.launchOf s.cur).base s.cur.core + (s.launchOf s.cur).lssize)
    (w : ∀ w ∈ wordsOf (ownKey s (a.toNat % 2 ^ 21)) 64, (mget 0 s.badWords w = 0 ∧ bankKey w ∉ s.dev.retired) ∧ (s.bankTakes w = true ∧
      (s.feAt w).lost = false ∧ (s.feAt w).bars = [] ∧ (s.feAt w).barPark = []) ∧ s.pz w = false) : GoodBlock s a :=
  ⟨h.1, ⟨h.2.1, h.2.2.1, h.2.2.2.1, h.2.2.2.2.1, h.2.2.2.2.2⟩, fun x hx => (w x hx).1, fun x hx => (w x hx).2⟩

theorem wit_SpeculationResults :
    (let s := ssb (w0 5 3 1 0) (w1 10 20) 0 [1, 2, 9, 7]
     s.cur.tier = 3 ∧ Quiet s ∧ SampFree s ∧ s.me.xp 5 = false ∧ s.me.xp 6 = false ∧ GoodBlock s (s.me.x 5) ∧ GoodBlock s (s.me.x 6)) ∧
    (2 ^ 32 ≤ ((zen [(6, 2 ^ 32)] []).me.x 6).toNat ∧ ((zen [(5, ls 0x10808)] []).me.x 5).toNat % 64 ≠ 0) ∧
    ssbMalformed (blockAt (ssb (w0 5 9 0 0) (w1 10 20) 0 []) (w64 (ls 0x10800))) ∧
    (let v := blockAt (ssb (w0 5 0 0 0) (w1 19 20) 0 []) (w64 (ls 0x10800))
     ¬ssbMalformed v ∧ ssbF v 38 1 ≠ 1 ∧ ssbF v 0 32 = 5 ∧ ssbF v 64 32 < ssbF v 96 32) ∧
    (let v := blockAt (ssb (w0 5 0 0 0) (w1 20 20) 0 []) (w64 (ls 0x10800))
     ¬ssbMalformed v ∧ ssbF v 96 32 ≤ ssbF v 64 32) ∧
    (let v := blockAt (ssb (w0 5 7 1 0) (w1 10 19) 0 []) (w64 (ls 0x10800))
     ¬ssbMalformed v ∧ ssbF v 38 1 = 1 ∧ ssbF v 39 1 ≠ 1 ∧ ssbF v 32 4 < 8 ∧ ssbF v 64 32 + ssbF v 32 4 + 1 < ssbF v 96 32) ∧
    (let v := blockAt (ssb (w0 5 8 1 0) (w1 10 20) 0 []) (w64 (ls 0x10800))
     ¬ssbMalformed v ∧ ssbF v 32 4 = 8) ∧
    (let s := ssb (w0 5 3 1 0) (w1 10 20) 0 [1, 2, 9, 7]
     let v := blockAt s (s.me.x 5)
     let t (i : Nat) : Nat := ssbF (blockAt s (s.me.x 6)) (32 * i) 32
     (∀ i, i < 2 → ssbF v (256 + 32 * i) 32 = t i) ∧ ssbF v (256 + 32 * 2) 32 ≠ t 2 ∧ 2 ≤ ssbF v 32 4) ∧
    (let v := blockAt (ssb (w0 5 3 1 1) (w1 10 20) 2 []) (w64 (ls 0x10800))
     ¬ssbMalformed v ∧ ssbF v 38 1 = 1 ∧ ssbF v 39 1 = 1 ∧ ssbF v 224 4 < ssbF v 32 4) := by
  refine ⟨⟨by decide, quiet_of _ (by decide), sampFree _ (by decide), by decide, by decide, goodBlock _ _ (by decide) (by decide), goodBlock _ _ (by decide) (by decide)⟩, by decide,
    ?_, ?_, ?_, ?_, ?_, ?_, ?_⟩ <;> (try unfold ssbMalformed) <;> decide +kernel

/-- A block of HALO.RUN at 0x10800: COMM in its first word; the schedule's memory at 0. -/
def halo (comm : Nat) (tags : List (Nat × HTag)) : State :=
  let m := memWrite base.mem (lsk 0x10800) (leBytes 8 comm ++ List.replicate 120 0)
  { withX [(5, 0), (6, ls 0x10800)] base with mem := m, dies := [(0, { Die.reset with htags := tags })] }
def sched : Sched :=
  { code := 0, bases := [(1, w64 (ls 0x10800)), (2, w64 (ls 0x11000))], evs := [(1, 3)], lcs := [], pcix := 5, comm := 9, thread := ⟨0, 0, 0, 0⟩
    serial := 1, run := 0, ops := [], cnts := [], evw := false, sig := false, sigTo := 0, stopped := false, cancel := false, frozen := false, after := []
    word := none, endedAs := none }
def htag (c : Sched) : HTag := { HTag.reset with st := .running, sched := some c }

theorem wit_HaloThreads :
    (((withX [(5, 4)] base).me.x 5).toNat % 8 ≠ 0 ∧ ((withX [(6, 64)] base).me.x 6).toNat % 128 ≠ 0 ∧
      ((withX [(5, ls 0)] base).me.x 5).toNat / 2 ^ 56 ≠ 0 ∧ ((withX [(6, 0x7E * 2 ^ 56)] base).me.x 6).toNat / 2 ^ 56 ≠ 0x7F) ∧
    (let s := halo 9 []
     Quiet s ∧ (s.me.x 5).toNat / 2 ^ 56 = 0 ∧ s.checkAcc s.cur (s.me.x 5) 8 8 .load = .hbm 0x40000000 ∧ (s.me.x 6).toNat / 2 ^ 56 = 0x7F ∧
       s.checkAcc s.cur (s.me.x 6) 128 128 .load = .bank (lsk 0x10800) ∧
       (∀ w ∈ wordsOf (lsk 0x10800) 128, mget 0 s.badWords w = 0 ∧ bankKey w ∉ s.dev.retired) ∧
       leNat ((afterRelease s (some 4)).rd (lsk 0x10800) 8) < 2 ^ 16 ∧ leNat ((afterRelease s (some 4)).rd (lsk 0x10800 + 0x48) 56) = 0 ∧
       FreeHaloTag s 0 ∧ ∀ m c, m < 16 → schedAt s s.cur.die m = some c → c.endedAs = none → c.comm ≠ 9) ∧
    2 ^ 16 ≤ leNat ((afterRelease (halo (2 ^ 16) []) (some 4)).rd (lsk 0x10800) 8) ∧
    (schedAt (halo 9 [(15, htag sched)]) 0 15 = some sched ∧ sched.endedAs = none ∧ sched.comm = leNat ((afterRelease (halo 9 [(15, htag sched)]) (some 4)).rd (lsk 0x10800) 2)) ∧
    (base.me.h 0).toNat / 2 ^ 8 % 4 ≠ 3 ∧
    (let s := thr (fun c => { c with hs := [(1, 0x10300)] }) (halo 9 [(0, htag sched)])
     (s.me.h 1).toNat / 2 ^ 8 % 4 = 3 ∧ s.trailer s.cur = none ∧ ((s.die s.cur.die).htag 0).sched = some sched ∧ sched.ops.length ≤ 64 ∧
       sched.pcix < 65536) :=
  ⟨by decide,
   ⟨quiet_of _ (by decide), by decide, by decide, by decide, by decide, by decide, by decide +kernel, by decide +kernel,
    ⟨by decide, by decide, fun m hm => absurd hm (Nat.not_lt_zero m), by decide⟩, fun m c _ h _ => by simp [schedAt, halo, State.die, mget,
      Die.htag, Die.reset, HTag.reset, withX, State.updMe, State.updCtx, State.setCtx, State.updCore, State.setCore] at h⟩,
   by decide +kernel, by decide +kernel, by decide, by decide⟩

def op (k : Nat) (va src peer : Nat) : HaloOp :=
  { kind := k, va := w64 va, src := w64 src, len := 8, even := true, ev := 2, peer := peer, ch := 3, opr := 0, order := 0, num := 0, at_ := 0,
    rerouting := false, stalled := false }
def chunk (c : Sched) : State := halo 9 [(0, htag c)]

theorem wit_HaloChunks :
    (schedAt base base.curHalo.1 base.curHalo.2 = none ∧ (chunkForm (.hSend 1 true 2 0 3 1 0)).isSome = true) ∧
    (ChunkOn (chunk sched) sched ∧ (chunk sched).haloOps 0 < 64) ∧
    (64 ≤ (chunk { sched with ops := List.replicate 64 (op 0 0 0 1) }).haloOps 0) ∧
    (let s := devi (fun d => { d with xlost := 0x8000 }) (chunk sched)
     ChunkOn s sched ∧ bit s.dev.xlost (31 - 16) = true ∧ (chunkForm (.hSend 1 true 2 31 3 1 0)).map (·.peer) = some 31) ∧
    (let b (n : Nat) : Word × Word := (mget 0 sched.bases n, mget 0 sched.bases n + w64 (8 * 0))
     (chunk sched).haloChecks sched 0 (b 1) (b 2) 8 = none ∧ (chunk sched).haloChecks sched 3 (b 1) (b 2) 8 = none) ∧
    (let c := { sched with bases := [(1, w64 (0x7D * 2 ^ 56))] }
     ChunkOn (chunk c) c ∧ (chunk c).haloOps 0 < 64 ∧ (mget 0 c.bases 1).toNat / 2 ^ 56 = 0x7D ∧ (mget 0 c.bases 1 + w64 (8 * 0)).toNat % 8 = 0) ∧
    (let c := { sched with bases := [(1, w64 (2 ^ 64 - 8))] }
     ChunkOn (chunk c) c ∧ (mget 0 c.bases 1).toNat / 2 ^ 56 ∉ [0, 0x7E, 0x7F] ∧ (mget 0 c.bases 1 + w64 (8 * 1)).toNat / 2 ^ 56 = 0) ∧
    (let c := { sched with sig := true }
     ChunkOn (chunk c) c ∧ c.sig = true) ∧
    (sched.sig = false ∧ (0 : BitVec 5).toNat < 8 ∧ (chunk sched).routed 0 0 = true ∧ bit (chunk sched).dev.xlost 15 = false ∧
      (chunk sched).routed 0 ((31 - 16) / 2) = true ∧ 16 ≤ (31 : BitVec 5).toNat ∧ (chunk sched).heldFor sched.serial = false) ∧
    (lau (fun l => { l with st := .saving }) (chunk sched)).heldFor sched.serial = true ∧
    (sched.pcix < (6 : BitVec 12).toNat ∧ (5 : BitVec 12).toNat ≤ sched.pcix) ∧
    (let c := { sched with ops := [op 0 0 0 1] }
     ChunkOn (chunk c) c ∧ c.ops ≠ []) ∧ sched.ops = [] :=
  ⟨by decide, ⟨⟨by decide, by decide⟩, by decide⟩, by decide, ⟨⟨by decide, by decide⟩, by decide⟩, by decide, ⟨⟨by decide, by decide⟩, by decide⟩,
   ⟨⟨by decide, by decide⟩, by decide⟩, ⟨⟨by decide, by decide⟩, rfl⟩, by decide, by decide, by decide, ⟨⟨by decide, by decide⟩, by decide⟩, rfl⟩

theorem wit_HaloWait :
    ChunkOn (chunk sched) sched ∧ (3 : BitVec 32).toNat ≤ (mget 0 sched.evs 1).toNat ∧ (mget 0 sched.evs 1).toNat < (4 : BitVec 32).toNat :=
  ⟨⟨by decide, by decide⟩, by decide⟩
/-- Two dies with a schedule each, whose operations match. -/
def sendC : Sched := { sched with ops := [op 0 (ls 0x11000) 0 1] }
def recvC : Sched := { sched with ops := [op 1 (ls 0x10800) 0 0], thread := ⟨1, 0, 0, 0⟩ }
def twoDies : State :=
  { lau (fun l => { l with lsbase := [(0, 65536), (1024, 65536)] }) base with
    dies := [(0, { Die.reset with htags := [(4, htag sendC)] }), (1, { Die.reset with htags := [(2, htag recvC)] })] }
def k1 (o : Nat) : Nat := 2 ^ 60 + 1024 * 2 ^ 21 + o

theorem wit_HaloEvents_transfer :
    (∀ m : Nat, m < 16 → schedAt base 3 m = none) ∧
    (schedAt twoDies 0 4 = some sendC ∧ schedAt twoDies 1 2 = some recvC ∧ sendC.ops = [op 0 (ls 0x11000) 0 1] ∧ recvC.ops = [op 1 (ls 0x10800) 0 0] ∧
      (∀ j, j < 16 → (schedAt twoDies 0 j).isSome = true → j = 4) ∧ (∀ j, j < 16 → (schedAt twoDies 1 j).isSome = true → j = 2) ∧
      sendC.comm = 9 ∧ recvC.comm = 9 ∧ (sendC.stopped = false ∧ sendC.endedAs = none ∧ recvC.stopped = false ∧ recvC.endedAs = none) ∧
      (op 0 (ls 0x11000) 0 1).stalled = false ∧ (op 0 (ls 0x11000) 0 1).rerouting = false ∧ (twoDies.launch 1).st = .admitted ∧ twoDies.routed 0 1 = true ∧
      twoDies.hole = none ∧ twoDies.dev.pscur ≠ 3 ∧ (devi (fun d => { d with pscur := 3 }) twoDies).dev.pscur = 3 ∧
      twoDies.locate (twoDies.launch sendC.serial) sendC.thread.core (w64 (ls 0x11000)) 8 .engRead = .bank (8 * (lsk 0x11000 / 8)) ∧
      twoDies.locate (twoDies.launch recvC.serial) recvC.thread.core (w64 (ls 0x10800)) 8 .engWrite = .bank (8 * (k1 0x10800 / 8)) ∧
      (∀ w ∈ wordsOf (8 * (lsk 0x11000 / 8)) 8, mget 0 twoDies.badWords w = 0 ∧ bankKey w ∉ twoDies.dev.retired) ∧
      (let w := k1 0x10800 / 8
       (twoDies.bankTakes w = true ∧ (twoDies.feAt w).lost = false ∧ (twoDies.feAt w).bars = [] ∧ (twoDies.feAt w).barPark = []) ∧
         isBanked w = true ∧ isWindowWord w = false ∧ (twoDies.feAt w).parked = [] ∧ (twoDies.feAt w).readers = [])) := by decide

theorem wit_HaloEvents_copies :
    (schedAt base 0 3 = none ∧ schedAt (chunk sched) 0 0 = some sched ∧ sched.ops[0]? = none ∧ sched.cancel = false) ∧
    (let o := op 3 (ls 0x10800) (ls 0x11000) 0
     let c := { sched with ops := [o] }
     let s := chunk c
     let w := lsk 0x10800 / 8
     schedAt s 0 0 = some c ∧ s.dev.pscur ≠ 3 ∧ (devi (fun d => { d with pscur := 3 }) s).dev.pscur = 3 ∧ c.ops = [o] ∧ o.kind = 3 ∧ o.stalled = false ∧ o.len = 8 ∧ c.stopped = false ∧ c.endedAs = none ∧ (s.launch c.serial).st = .admitted ∧
       s.locate (s.launch c.serial) c.thread.core o.src 8 .engRead = .bank (8 * (lsk 0x11000 / 8)) ∧
       s.locate (s.launch c.serial) c.thread.core o.va 8 .engWrite = .bank (8 * w) ∧
       (s.bankTakes w = true ∧ (s.feAt w).lost = false ∧ (s.feAt w).bars = [] ∧ (s.feAt w).barPark = []) ∧ isBanked w = true ∧
       isWindowWord w = false ∧ (s.feAt w).parked = [] ∧ (s.feAt w).readers = []) ∧
    (let c := { sched with cancel := true }
     schedAt (chunk c) 0 0 = some c ∧ c.cancel = true ∧ c.ops = [] ∧ c.endedAs = none ∧ (chunk c).heldFor c.serial = false) := by decide

def hsig : HSig := { comm := 9, ev := 7, value := 0xFFFFFFFF, src := none }
def withSig (tags : List (Nat × HTag)) : State := { base with dies := [(0, { Die.reset with htags := tags, sigIn := [hsig] })] }
/-- An RSTORE of the thread on its way. -/
def rst1 : RSt := { port := 0, page := 0, off := 0, data := [1], marks := [], thread := ⟨0, 0, 0, 0⟩, serial := 1, run := 0
                    ord := 0, frozen := false, answer := none }

theorem wit_HaloEvents_signals :
    ((base.die 5).sigIn = []) ∧
    (((withSig [(4, htag sched)]).die 0).sigIn = [hsig] ∧ (withSig [(4, htag sched)]).dev.pscur ≠ 3 ∧ (withSig []).dev.pscur ≠ 3) ∧
    (schedAt (withSig [(4, htag sched)]) 0 4 = some sched ∧ sched.comm = hsig.comm ∧ sched.endedAs = none ∧
      ∀ j, j < 16 → (schedAt (withSig [(4, htag sched)]) 0 j).isSome = true → j = 4) ∧
    ((∀ j, j < 16 → schedAt (withSig []) 0 j = none) ∧ ((withSig []).die 0).sigs.length < 16) := by decide

theorem wit_HaloEvents_rstores :
    ((mget 0 base.host.wins (3 * 4096 + 5)).toNat % 4 ≠ 3 ∧ bit (devi (fun d => { d with xlost := 8 }) base).dev.xlost 3 = true) ∧
    (bit base.dev.xlost 3 = false ∧ base.dev.pscur ≠ 3 ∧ base.routed (3 / 2) ((0x4000 * 65536 + 65535) / 2 ^ 36) = true) ∧
    (let s := hos (fun h => { h with wins := [(3 * 4096 + 5, w64 (0x4000 * 65536 + 3))] }) base
     let e := (mget 0 s.host.wins (3 * 4096 + 5)).toNat
     e % 4 = 3 ∧ 65535 + 1 ≤ 65536 ∧ (e / 2 ^ 16 % 2 ^ 36 * 2 ^ 16 + 65535) / 2 ^ 36 < 8 ∧
       (e / 2 ^ 16 % 2 ^ 36 * 2 ^ 16 + 65535) % 2 ^ 36 < stackBytes ∧ s.migs = [] ∧
     65528 % 8 = 0 ∧ 65528 + 8 ≤ 65536 ∧ (e / 2 ^ 16 % 2 ^ 36 * 2 ^ 16 + 65528) / 2 ^ 36 < 8 ∧
       (e / 2 ^ 16 % 2 ^ 36 * 2 ^ 16 + 65528) % 2 ^ 36 < stackBytes) ∧
    base.rst.filter (fun r => r.thread == base.cur && r.answer.isNone) = [] ∧
    (let s := { base with rst := [rst1, { rst1 with port := 2, ord := 1 }] }
     (∀ x ∈ s.rst, x.thread = s.cur → x.frozen = false ∧ s.heldFor x.serial = false ∧ (s.ctx s.cur).run = x.run) ∧
       s.rst.filter (fun r => r.thread == s.cur && r.answer.isNone) ≠ []) ∧
    (let s := { base with rst := [rst1] }
     s.rst.filter (fun r => r.thread == s.cur && r.answer.isNone) = [rst1] ∧ rst1.frozen = false ∧ s.heldFor rst1.serial = false ∧
       (s.ctx s.cur).live = true ∧ (s.ctx s.cur).st ≠ .evicting ∧ (s.ctx s.cur).run = rst1.run ∧ s.trailer s.cur = none) ∧
    (lau (fun l => { l with st := .saved }) base).heldFor rst1.serial = true := by decide

/-- A record in memory at 0x40000000, which address 0 reaches, and one at 0x40000040. -/
def rec2 (b c : List Byte) (s : State) : State := { s with mem := memWrite (memWrite s.mem 0x40000000 b) 0x40000040 c }
/-- 64 bytes of a record: KEY, OP, TIER and PRIO; payload n in word 4 + n. -/
def recb (key oper tier prio : Nat) : List Byte :=
  leBytes 8 (key + oper * 2 ^ 48 + prio * 2 ^ 52 + tier * 2 ^ 55) ++ List.replicate 24 0 ++ leBytes 8 1 ++ leBytes 8 2 ++ leBytes 8 3 ++ leBytes 8 4
/-- The launch has code for T0. -/
def sections : State := lau (fun l => { l with ext := List.replicate 128 0 ++ [4] }) base
def entry (b : List Byte) : CEntry :=
  { addr := 0x5000, serial := 1, bytes := b, order := 7, since := 0, prio := 0, aged := 0, hintOver := false, folded := false }
def withEntries (l : List CEntry) (s : State) : State := { s with dies := [(0, { Die.reset with parts := [(0, { Part.reset with entries := l })] })] }
def posting (oper : Nat) (l : List CEntry) : State := withEntries l (rec2 (recb 77 oper 0 7) [] sections)

theorem atRecord (s : State) (a : Word) (k : Nat) (x : Acc1) (q : Quiet s) (h : (a.toNat % 64 = 0 ∧ a.toNat / 2 ^ 56 = 0) ∧
    (s.checkAcc s.cur a 64 64 x = .hbm k ∨ s.checkAcc s.cur a 64 64 x = .hostMem k) ∧ (s.migs = [] ∧ (s.cluster (clusterOf s.cur.core)).lines = []) ∧
    s.known s.me.serial = true) : AtRecord s a k x := ⟨q, h.1, h.2.1, h.2.2.1, h.2.2.2⟩

theorem wit_Posts :
    (let s := posting 1 []
     let b := recAt s 0x40000000
     AtRecord s (s.me.x 5) 0x40000000 .load ∧ s.me.xp 5 = false ∧ noPoison s 0x40000000 64 ∧ ¬postBad s b ∧
       (∀ x ∈ (s.part 0 0).entries, ¬postMatches s b x) ∧ (s.part 0 0).entries.length < partSize (recTier b)) ∧
    postBad (posting 14 []) (recAt (posting 14 []) 0x40000000) ∧
    (let s := withEntries (List.replicate 256 (entry (recb 5 1 2 0))) (rec2 (recb 77 1 2 7) [] sections)
     partSize 2 ≤ (s.part 0 0).entries.length) ∧
    (let e := entry (recb 77 1 0 2)
     let s := posting 1 [e]
     let b := recAt s 0x40000000
     (s.part 0 0).entries = [e] ∧ postMatches s b e ∧ recOp e.bytes = recOp b) ∧
    (let e := entry (recb 77 2 0 2)
     let s := posting 1 [e]
     let b := recAt s 0x40000000
     (s.part 0 0).entries = [e] ∧ postMatches s b e ∧ recOp e.bytes ≠ recOp b) := by
  refine ⟨⟨atRecord _ _ _ _ (quiet_of _ (by decide)) (by decide +kernel), by decide, ?_, ?_, ?_, ?_⟩, ?_, ?_, ?_, ?_⟩
  · unfold noPoison; decide
  · unfold postBad; decide +kernel
  · unfold postMatches; decide
  · decide +kernel
  · unfold postBad; decide +kernel
  · decide +kernel
  · unfold postMatches; decide +kernel
  · unfold postMatches; decide +kernel

/-- A launch record at 0x10800, with a control word and a child budget; the parent may have a budget of its own. -/
def launching (ctl budget own used : Nat) : State :=
  let m := memWrite base.mem (lsk 0x10800) (leBytes 8 ctl ++ List.replicate 40 0 ++ leBytes 8 (budget * 2 ^ 16) ++ List.replicate 72 0)
  let s := lau (fun l => { l with budget := [(0, own)] }) (atLs 0x10800)
  { s with mem := m, dies := [(0, { Die.reset with used := used })] }

theorem wit_LaunchesAndTakes_launch :
    (let s := launching 0x40 0 1 0
     Quiet s ∧ s.known s.me.serial = true ∧ (s.cluster (clusterOf s.cur.core)).lines = [] ∧ (s.me.x 5).toNat % 128 = 0 ∧
       (s.me.x 5).toNat / 2 ^ 56 = 0x7F ∧ s.checkAcc s.cur (s.me.x 5) 128 128 .load = .bank (lsk 0x10800) ∧
       (∀ w ∈ wordsOf (lsk 0x10800) 128, mget 0 s.badWords w = 0 ∧ bankKey w ∉ s.dev.retired) ∧ noPoison s (lsk 0x10800) 128 ∧
       ({ Launch.empty with record := s.rd (lsk 0x10800) 128 } : Launch).priv = true ∧ s.privileged s.cur = false) ∧
    (let s := launching 0 0 1 poolSize
     ({ Launch.empty with record := s.rd (lsk 0x10800) 128 } : Launch).priv = false ∧ s.remainder 0 < 1 ∧ 1 + 0 ≤ mget 0 (s.launchOf s.cur).budget 0) ∧
    (let s := launching 0 5 5 (poolSize - 6)
     ({ Launch.empty with record := s.rd (lsk 0x10800) 128 } : Launch).budgetN = 5 ∧ mget 0 (s.launchOf s.cur).budget 0 < 1 + 5 ∧
       1 + 5 ≤ s.remainder 0) := by
  refine ⟨⟨quiet_of _ (by decide), by decide, by decide, by decide, by decide, by decide, by decide, ?_, by decide +kernel, by decide +kernel⟩,
    by decide +kernel, by decide +kernel⟩
  unfold noPoison; decide

theorem wit_LaunchesAndTakes_take :
    2 ^ 48 ≤ ((withX [(5, 2 ^ 48)] base).me.x 5).toNat ∧
    ((base.me.x 5).toNat < 2 ^ 48 ∧ base.trailer base.cur = none ∧ ∀ x ∈ (base.part 0 0).entries, x.serial = base.me.serial → recKey x.bytes ≠ 0) ∧
    (let e := entry (recb (2 ^ 48 - 1) 1 0 2)
     let s := withEntries [e] (withX [(5, 2 ^ 48 - 1)] base)
     (s.me.x 5).toNat < 2 ^ 48 ∧ (s.part 0 0).entries = [e] ∧ (s.part 0 0).posts = [] ∧ e.serial = s.me.serial ∧ recKey e.bytes = (s.me.x 5).toNat ∧
       e.bytes.length = 64 ∧ AtRecord s e.addr 0x40005000 .store) :=
  ⟨by decide, by decide, by decide, by decide, by decide, by decide, by decide, by decide, atRecord _ _ _ _ (quiet_of _ (by decide)) (by decide)⟩

/-- A parked thread in context 3 that waits in RECV, and spill frames for its launch. -/
def recvHeld : Held := { instr := .recv 4 1, cause := .recv 0, since := 0, retryAt := 0, snap := [], pfx := 0, rlx := false, left := none,
                         fetch := false }
def parked3 (n : Nat) : State :=
  clk n <| cor (fun k => { k with ctxs := mset k.ctxs 3 { Ctx.reset with st := .parked, serial := 1, recaddr := 0x4000, held := some recvHeld } })
    (lau (fun l => { l with ext := extBlock }) (withX [(5, 3)] base))

theorem wit_LaunchesAndTakes_evict :
    16 ≤ ((withX [(5, 16)] base).me.x 5).toNat ∧
    (let u : ThreadId := ⟨0, 0, 0, 15⟩
     (base.launchOf base.cur).isPair = false ∧ (base.ctx u).st ≠ .parked ∧ (base.ctx u).pend = [] ∧ base.hole = none) ∧
    (let s := parked3 0
     let u : ThreadId := ⟨0, 0, 0, 3⟩
     let l := s.launchOf s.cur
     (s.me.x 5).toNat = 3 ∧ l.isPair = false ∧ (s.ctx u).st = .parked ∧ (s.ctx u).pend = [] ∧ (s.ctx u).serial = s.me.serial ∧
       (s.ctx u).held = some recvHeld ∧ recvHeld.cause = .recv 0 ∧ u ∉ s.resume ∧ s.wakeMet u (.recv 0) = false ∧ l.frames = [] ∧ 0 < l.spilln ∧
       (s.devLoc l s.cur.die l.spillbase 512 .engWrite).key.isSome = true ∧ (s.devLoc l s.cur.die (s.ctx u).recaddr 64 .engWrite).key.isSome = true) := by
  decide +kernel

/-- The operands x5 and x6 name the records at 0 and 0x40. -/
def recs (b c : List Byte) : State := rec2 b c (withX [(6, 0x40)] base)
/-- A record that is DONE, or has a successor list at 0x100. -/
def doneRec : List Byte := leBytes 8 (2 ^ 61) ++ List.replicate 56 0
def predRec : List Byte := leBytes 8 (7 + 2 ^ 48) ++ List.replicate 16 0 ++ leBytes 8 (0x100 / 16) ++ List.replicate 32 0
def succRec : List Byte := leBytes 8 (7 + 2 ^ 48) ++ List.replicate 16 0 ++ leBytes 8 (2 * 2 ^ 48) ++ List.replicate 32 0
def dieRec : List Byte := leBytes 8 (2 ^ 58) ++ List.replicate 56 0

/-- The thread's record, with one successor whose PCOUNT is `n`, named by the list at 0x100. -/
def retiring (n : Nat) : State :=
  let s := recs (leBytes 8 (7 + 2 ^ 48) ++ zeros 9 ++ [1] ++ zeros 6 ++ leBytes 8 (0x100 / 16) ++ zeros 32)
    (leBytes 8 (7 + 2 ^ 48) ++ zeros 16 ++ leBytes 8 (n * 2 ^ 48) ++ zeros 32)
  thr (fun c => { c with susp := some 2 }) { s with mem := memWrite s.mem 0x40000100 (leBytes 8 0x40) }

theorem wit_TasksAndSuspension_successor (n : Nat) (h : n ∈ [0, 1, 2]) :
    OneSucc (retiring n) 0x40000000 0x40000040 0x40000100 (w64 0x40) ∧ recPcount (recAt (retiring n) 0x40000040) = n ∧
      AtRecord (retiring n) (retiring n).me.recaddr 0x40000000 .store ∧ (retiring n).me.cir = 0 ∧ (retiring n).me.susp = some 2 ∧
      (retiring n).me.tmode = false := by
  simp only [List.mem_cons, List.not_mem_nil, or_false] at h
  rcases h with rfl | rfl | rfl <;>
    exact ⟨⟨by decide +kernel, by decide +kernel, by decide +kernel, by decide⟩, by decide +kernel,
      atRecord _ _ _ _ (quiet_of _ (by decide)) (by decide), by decide, by decide, by decide⟩

theorem wit_TasksAndSuspension :
    2 ^ 16 ≤ ((withX [(6, 2 ^ 16)] base).me.x 6).toNat ∧
    (let s := recs (recb 0 1 0 0) succRec
     AtRecord s (s.me.x 5) 0x40000000 .amo ∧ AtRecord s (s.me.x 6) 0x40000040 .amo ∧ (s.me.x 6).toNat < 2 ^ 16) ∧
    recDie (recAt (recs dieRec succRec) 0x40000000) ≠ recDie (recAt (recs dieRec succRec) 0x40000040) ∧
    (let s := recs doneRec succRec
     let p := recAt s 0x40000000
     let q := recAt s 0x40000040
     recDie p = recDie q ∧ recLpix p = recLpix q ∧ recPcount q ≠ 0xFFFF ∧ recDone p = true ∧ recPcount q ≠ 0) ∧
    (let s := recs predRec succRec
     let p := recAt s 0x40000000
     recDone p = false ∧ recScount p < 255 ∧ recSlist p ≠ 0 ∧ s.checkAcc s.cur (recSlist p + w64 (8 * recScount p)) 8 8 .store = .hbm 0x40000100 ∧
       0x40000000 + 64 ≤ 0x40000040 ∧ 0x40000040 + 64 ≤ 0x40000100) ∧
    inHandler.me.tmode = true ∧
    (AtRecord base base.me.recaddr 0x40000000 .store ∧ base.me.tmode = false ∧ recScount (recAt base 0x40000000) = 0) ∧
    base.me.susp = none ∧
    (let s := thr (fun c => { c with susp := some 2 }) base
     AtRecord s s.me.recaddr 0x40000000 .store ∧ s.me.susp = some 2 ∧ s.me.st = .ready ∧ s.me.cs = [] ∧ s.me.refused = 0 ∧ s.me.cir = 0 ∧
       (∀ n, n < 16 → s.me.h n = 0) ∧ ∀ c, (s.cluster c).hot = false) :=
  ⟨by decide, ⟨atRecord _ _ _ _ (quiet_of _ (by decide)) (by decide), atRecord _ _ _ _ (quiet_of _ (by decide)) (by decide), by decide⟩,
   by decide +kernel, by decide +kernel, by decide +kernel, by decide, ⟨atRecord _ _ _ _ (quiet_of _ (by decide)) (by decide), by decide, by decide +kernel⟩,
   by decide, atRecord _ _ _ _ (quiet_of _ (by decide)) (by decide), by decide, by decide, by decide, by decide, by decide, by decide, fun _ => rfl⟩
/-- A core whose matrix unit's queue holds one command, with a configuration snapshot and an MXU. FMT2 is INT8 and FMT3 FP16. -/
def mxq (snap : Nat) : MxCmd := { bytes := List.replicate 64 0, snap := BitVec.ofNat 16 snap, thread := ⟨0, 0, 0, 0⟩, serial := 1, run := 0 }
def mx (snap : Nat) (f : Mxu → Mxu) : State :=
  (cor (fun k => { k with fmtset := 12, fmt := [(2, 0x70000000), (3, 0x10000000)], mxu := f { Mxu.reset with queue := [mxq snap] } }) base).updCore
    ⟨0, 0, 1⟩ fun k => { k with residents := [1] }
def mxLatch (k fb : Nat) : Latch := { Latch.reset with valid := true, k := k, fb := fb, data := List.replicate 256 0 }

theorem mxHead (s : State) (q : MxCmd) (r : List MxCmd) (h : (s.core s.cur.core).mxu.queue = q :: r ∧ (s.core s.cur.core).mxu.late = false ∧
    (s.core s.cur.core).mxu.writes = [] ∧ s.hole = none) : MxHead s q r := ⟨h.1, h.2.1, h.2.2.1, h.2.2.2⟩

theorem mxRange (s : State) (q : MxCmd) (a : Word) (n al : Nat) (h : a.toNat % al = 0 ∧ a.toNat / 2 ^ 21 = 0x7F * 2 ^ 35 ∧ 0x800 ≤ a.toNat % 2 ^ 21 ∧
      (s.launch q.serial).on s.cur.core = true ∧ (s.launch q.serial).base s.cur.core ≤ a.toNat % 2 ^ 21 ∧
      a.toNat % 2 ^ 21 + n ≤ (s.launch q.serial).base s.cur.core + (s.launch q.serial).lssize)
    (w : ∀ w ∈ wordsOf (ownKey s (a.toNat % 2 ^ 21)) n, mget 0 s.badWords w = 0 ∧ bankKey w ∉ s.dev.retired) : MxRange s q a n al :=
  ⟨h.1, h.2.1, h.2.2.1, h.2.2.2.1, h.2.2.2.2.1, h.2.2.2.2.2, w⟩

theorem mxTakes_of (s : State) (a : Word) (n : Nat) (w : ∀ w ∈ wordsOf (ownKey s (a.toNat % 2 ^ 21)) n, (s.bankTakes w = true ∧
      (s.feAt w).lost = false ∧ (s.feAt w).bars = [] ∧ (s.feAt w).barPark = []) ∧ isBanked w = true ∧ isWindowWord w = false ∧
      (s.feAt w).parked = [] ∧ (s.feAt w).readers = []) : mxTakes s a n := w

theorem wit_MatrixCommands_data :
    (base.core base.cur.core).mxu.queue = [] ∧
    (((hungry (mx 0 id)).core base.cur.core).mxu.queue = [mxq 0] ∧ ¬Granted (hungry (mx 0 id)) base.cur.core 1 (mxq 0).serial) ∧
    Granted (mx 0 id) base.cur.core 1 (mxq 0).serial ∧
    MxHead (mx 0 id) (mxq 0) [] ∧ MxRange (mx 0 id) (mxq 0) (w64 (ls 0x10800)) 8192 64 ∧ MxRange (mx 0 id) (mxq 0) (w64 (ls 0x10800)) 1024 64 ∧
    (((mx 0x20 id).core base.cur.core).fmtOf (bits (mxq 0x20).snap 7 4) = some (.int true 8) ∧ operandFmt (.int true 8) = true ∧
      kFits (.int true 8) 16 = true ∧
      MxRange (mx 0x20 id) (mxq 0x20) (w64 (ls 0x10800)) (operandBytes (.int true 8) 16) (operandAlign (.int true 8)).1) ∧
    ((mx 0 id).core base.cur.core).tagSet (((mx 0 id).core base.cur.core).mxu.acc 3).tag = false ∧
    (let s := mx 0 fun m => { m with accs := [(3, { Acc.reset with tag := 0xC3 }), (1, { Acc.reset with tag := 0xC3 })] }
     (s.core s.cur.core).tagSet ((s.core s.cur.core).mxu.acc 3).tag = true ∧ ((s.core s.cur.core).mxu.acc 3).bits.length = 256 ∧
       ((s.core s.cur.core).mxu.acc 3).tag = 0xC3) ∧
    mxTakes (mx 0 id) (w64 (ls 0x10800)) 1024 ∧ MxRange (mx 0 id) (mxq 0) (w64 (ls 0x10808)) 8 8 ∧ mxTakes (mx 0 id) (w64 (ls 0x10808)) 8 :=
  ⟨by decide, ⟨by decide, notGranted _ _ _ _ (by decide)⟩, granted_of _ _ _ _ (by decide), mxHead _ _ _ (by decide), mxRange _ _ _ _ _ (by decide) (by decide +kernel),
   mxRange _ _ _ _ _ (by decide) (by decide +kernel), ⟨by decide, by decide, by decide, mxRange _ _ _ _ _ (by decide) (by decide +kernel)⟩, by decide,
   by decide, mxTakes_of _ _ _ (by decide +kernel), mxRange _ _ _ _ _ (by decide) (by decide +kernel), mxTakes_of _ _ _ (by decide +kernel)⟩

theorem wit_MatrixCommands_products :
    (let s := mx 0x22 fun m => { m with latch := mxLatch 16 2, accs := [(3, { Acc.reset with tag := 0xC3 })] }
     MmaReady s (mxq 0x22) 16 (.int true 8) (.int true 8) ∧ ((s.core s.cur.core).mxu.acc 3).tag = 0xC3 ∧
       ((s.core s.cur.core).mxu.acc 3).bits.length = 256 ∧ 16 % 4 = 0 ∧
       MxRange s (mxq 0x22) (w64 (ls 0x10800)) (operandBytes (.int true 8) 16) (operandAlign (.int true 8)).1) ∧
    (let s := mx 0x33 fun m => { m with latch := mxLatch 256 3 }
     MmaReady s (mxq 0x33) 256 .fp16 .fp16 ∧ Fmt.fp16.isInt = false ∧ (16256 : BitVec 14).toNat + 16 * (256 / 32) ≤ 16384) :=
  ⟨⟨⟨by decide, by decide, by decide, by decide, by decide⟩, by decide, by decide, by decide, mxRange _ _ _ _ _ (by decide) (by decide +kernel)⟩,
   ⟨by decide, by decide, by decide, by decide, by decide⟩, by decide, by decide⟩

/-- An MROT at the head of the queue of both cores of a ring of two, whose tile has been sent; the other's tile has come or not. -/
def mrotq : MxCmd := { mxq 0x20 with bytes := leBytes 8 ((encodeMxu (.mrot (w64 (ls 0x10800)))).getD 0) ++ List.replicate 56 0 }
def ringOf (i : Option (Nat × Latch)) : State :=
  let s := mx 0x20 fun m => { m with queue := [mrotq], sent := true, incoming := i }
  s.updCore ⟨0, 0, 1⟩ fun k => { k with mxu := { k.mxu with queue := [mrotq] } }

theorem wit_MatrixCommands_ring :
    let tile := mxLatch 16 2
    let at_ (d : Nat) : CoreId := ringCore base.cur.core (ringLen mrotq.snap) d
    ((∀ d, d < ringLen mrotq.snap → mrotq.serial ∈ ((ringOf none).core (at_ d)).residents) ∧
      (∀ d ∈ [1, ringLen mrotq.snap - 1], ((ringOf none).core (at_ d)).mxu.disagrees 0 (bits mrotq.snap 15 14) = false ∧
        ((ringOf none).core (at_ d)).mxu.rotKnown 0 = true) ∧
      ((ringOf none).core base.cur.core).mxu.queue = [mrotq] ∧ ((ringOf none).core base.cur.core).mxu.rot = 0 ∧
      ((ringOf none).core base.cur.core).mxu.ringBad = [] ∧ ((ringOf none).core base.cur.core).mxu.sent = true) ∧
    ((ringOf none).core base.cur.core).mxu.tile = none ∧
    ((ringOf (some (0, { tile with valid := false }))).core base.cur.core).mxu.incoming = some (0, { tile with valid := false }) ∧
    (((ringOf (some (0, tile))).core base.cur.core).mxu.incoming = some (0, tile) ∧ tile.valid = true ∧
      ((ringOf (some (0, tile))).core base.cur.core).fmtOf tile.fb = some (.int true 8)) ∧
    MxRange (ringOf (some (0, tile))) mrotq (w64 (ls 0x10800)) tile.data.length (operandAlign (.int true 8)).1 ∧
    mxTakes (ringOf (some (0, tile))) (w64 (ls 0x10800)) tile.data.length :=
  ⟨by decide +kernel, by decide, by decide, by decide, mxRange _ _ _ _ _ (by decide) (by decide +kernel), mxTakes_of _ _ _ (by decide +kernel)⟩

theorem wit_DispatchAndAgeing :
    (bestEntry [entry (recb 7 1 0 2), { entry (recb 8 1 0 2) with prio := 3 }]).isSome = true ∧
    (∀ x ∈ (base.part 0 0).entries, base.eligibleEntry base.cur x = false) ∧
    (let e := entry (recb 7 1 0 2)
     let s := withEntries [e] base
     let t : ThreadId := ⟨0, 0, 0, 15⟩
     (s.part t.die t.tier).entries = [e] ∧ (s.part t.die t.tier).posts = [] ∧ s.eligibleEntry t e = true ∧ recSpill e.bytes = false ∧
       e.folded = false ∧ s.hole = none) ∧
    (base.part 7 3).transit = [] ∧
    (let x : Transit := { addr := 0x4000, serial := 1, bytes := recb 7 1 0 2, newLive := true, src := 0 }
     let s := { base with dies := [(0, { Die.reset with parts := [(0, { Part.reset with transit := [x] })] })] }
     (s.part 0 0).transit = [x] ∧ (s.part 0 0).entries = [] ∧ s.ended x.serial = false) ∧
    ((withEntries [entry (recb 7 1 0 2)] base).part 0 0).entries[0]? = some (entry (recb 7 1 0 2)) := by decide +kernel

theorem wit_EvictionAndWaking :
    (let s := parked3 65
     let t : ThreadId := ⟨0, 0, 0, 3⟩
     s.hole = none ∧ s.pressed (s.launchOf t) = false ∧ (s.ctx t).held = some recvHeld ∧ (s.ctx t).st = .parked ∧ recvHeld.cause = .recv 0 ∧
       ¬((s.ctx t).retry ≠ 0 ∧ max 64 (s.ctx t).retry.toNat < s.cycleOf t - recvHeld.retryAt)) ∧
    (let s := parked3 4097
     let t : ThreadId := ⟨0, 0, 0, 3⟩
     ((s.ctx t).retry ≠ 0 ∧ max 64 (s.ctx t).retry.toNat < s.cycleOf t - recvHeld.retryAt) ∧ (s.ctx t).pend = [] ∧ t ∉ s.resume ∧
       s.wakeMet t (.recv 0) = false ∧ (s.launchOf t).isPair = false ∧ (s.launchOf t).frames = [] ∧ 0 < (s.launchOf t).spilln ∧
       (s.devLoc (s.launchOf t) t.die (s.launchOf t).spillbase 512 .engWrite).key.isSome = true ∧
       (s.devLoc (s.launchOf t) t.die (s.ctx t).recaddr 64 .engWrite).key.isSome = true) ∧
    base.me.held = none ∧
    (∀ y ∈ barTimer.spills, y.thread = ⟨0, 0, 0, 3⟩ → y.written = true) ∧
    (let x := { evicted with written := false, addr := w64 0x4000 }
     let s := { withHandler with spills := [x] }
     s.spills = [x] ∧ x.written = false ∧ x.woken = false ∧ x.recorded = true ∧
       mfind (s.cluster (clusterOf x.thread.core)).lines (0x40004000 / 64) = none ∧ s.migs = [] ∧ s.trailer x.thread = none ∧
       (s.devLoc (s.launch x.serial) 0 ((s.launch x.serial).spillbase + w64 (512 * x.frame)) 512 .engWrite).key = some 0x40300000 ∧
       (s.devLoc (s.launch x.serial) 0 x.addr 64 .engWrite).key = some 0x40004000 ∧ 0x40004000 + 64 ≤ 0x40300000) ∧
    (let s := cor (fun k => { k with eps := [(0, { Ep.reset with met := true, words := [word0] })] }) (parked3 65)
     let t : ThreadId := ⟨0, 0, 0, 3⟩
     (s.ctx t).held = some recvHeld ∧ (s.ctx t).parked = true ∧ s.wakeMet t recvHeld.cause = true ∧ t ∉ s.resume) ∧
    (let x := { evicted with addr := w64 0x4000, ctx := { Ctx.reset with held := some recvHeld } }
     let s := { cor (fun k => { k with eps := [(0, { Ep.reset with met := true, words := [word0] })] }) withHandler with spills := [x] }
     let t : ThreadId := ⟨0, 0, 0, 3⟩
     (s.ctx t).held = none ∧ s.spills = [x] ∧ x.thread = t ∧ x.written = true ∧ x.woken = false ∧
       x.ctx.held.map (fun y : Held => y.cause) = some (.recv 0) ∧ s.wakeMet t (.recv 0) = true ∧ s.dev.pscur ≠ 3 ∧ s.migs = [] ∧
       (s.devLoc (s.launch x.serial) t.die x.addr 64 .engWrite).key = some 0x40004000) ∧
    (∀ c, (withHandler.cluster c).hot = false) := by
  refine ⟨by decide, by decide +kernel, by decide, by decide, by decide +kernel, by decide, by decide +kernel, fun _ => rfl⟩
/-- The device is SECURE. -/
def secure (s : State) : State := devi (fun d => { d with sstate := 1 }) s
/-- Submission queue 2 of sixteen slots at bus address 0x9000, whose slots hold some bytes. -/
def subq (compat : Bool) (filled : Nat) (b : List Byte) : State :=
  let s := secure base
  hos (fun h => { h with sqs := [(2, { SubQ.reset with en := true, log2n := 4, base := 0x9000, prod := filled, compat := compat })] })
    { s with mem := memWrite s.mem (keyHost 0x9000) b }
def fenceHead (n : Nat) : List Byte := leBytes 8 (0x400 + n * 2 ^ 12)
def fence1 (v tmo : Nat) : Fence := { cq := 1, ptroot := 0x10000, tmo := tmo, since := 0, counters := [(0x100, w64 v)] }
def fencing (v tmo : Nat) (s : State) : State :=
  hos (fun h => { h with sqs := [(2, { SubQ.reset with en := true, fence := some (fence1 v tmo) })] }) (devi (fun d => { d with time := 9 }) s)

theorem queueReady (s : State) (q : Nat) (h : ((s.sq q).en = true ∧ (s.sq q).halt = false ∧ s.dev.sstate = 1) ∧
    ((s.sq q).compat = true → (s.sq q).waits = none ∧ (s.sq q).fence = none)) : QueueReady s q := ⟨h.1, h.2⟩

theorem wit_QueueEvents_packets :
    (base.sq 2).filled = 0 ∧
    (QueueReady (subq true 1 [7]) 2 ∧ ((subq true 1 [7]).sq 2).filled ≠ 0 ∧ ¬isFence ((subq true 1 [7]).slot ((subq true 1 [7]).sq 2) 0) ∧
      ((subq true 1 [7]).sq 2).compat = true) ∧
    (let s := subq true 2 (fenceHead 0)
     let b := s.slot (s.sq 2) 0
     QueueReady s 2 ∧ 2 ≤ (s.sq 2).filled ∧ isFence b ∧ fenceBad (!(s.sq 2).compat) (b ++ s.slot (s.sq 2) 1) = some 1) ∧
    (let s := subq true 2 (fenceHead 1)
     let b := s.slot (s.sq 2) 0
     QueueReady s 2 ∧ 2 ≤ (s.sq 2).filled ∧ isFence b ∧ fenceBad (!(s.sq 2).compat) (b ++ s.slot (s.sq 2) 1) = none) := by
  refine ⟨by decide, ⟨queueReady _ _ (by decide), by decide, ?_, by decide⟩, ⟨queueReady _ _ (by decide), by decide, ?_, by decide +kernel⟩,
    queueReady _ _ (by decide), by decide, ?_, by decide +kernel⟩ <;> (unfold isFence; decide +kernel)

theorem wit_QueueEvents_fences :
    (base.sq 2).fence = none ∧
    (((fencing 5 0 base).sq 2).fence = some (fence1 5 0) ∧ (fence1 5 0).tmo = 0) ∧
    (let s := fencing 5 9 base
     (s.sq 2).fence = some (fence1 5 9) ∧ fld (0x100 : Word).toNat 52 4 = 0 ∧ (s.walk 0 0x10000 0x100 .engRead).noPeer = .hbm 0x40000100 ∧
       leNat (s.rd 0x40000100 8) < 5 ∧ s.dev.pscur ≠ 3 ∧ (devi (fun d => { d with pscur := 3 }) s).dev.pscur = 3 ∧ (fence1 5 9).tmo ≠ 0 ∧ 9 ≤ s.dev.time - (fence1 5 9).since) ∧
    (let s := fencing 0 9 base
     (s.sq 2).fence = some (fence1 0 9) ∧ (s.walk 0 0x10000 0x100 .engRead).noPeer = .hbm 0x40000100 ∧ (0 : Word).toNat ≤ leNat (s.rd 0x40000100 8)) ∧
    (let s := fencing 5 9 (tables 0x20001 0x4000103F 0 0)
     (s.sq 2).fence = some (fence1 5 9) ∧ ∃ c d, (s.walk 0 0x10000 0x100 .engRead).noPeer = .trap c d) := by
  refine ⟨by decide, by decide, by decide, by decide, by decide, 5, 0, by decide⟩

def cqe (serial : Word) (interim : Bool) : CqEntry :=
  { cq := 1, rep := poolReport 9 0x21 0 0, serial := serial, cookie := 0, errcnt := 1, interim := interim, degr := false, rerun := false }
def cplq (e : List CqEntry) (s : State) : State :=
  hos (fun h => { h with cqs := [(1, { CplQ.reset with en := true, log2n := 4, base := 0xA000, waiting := e })] }) s

theorem wit_QueueEvents_entries :
    (base.cq 1).waiting = [] ∧
    (((cplq [cqe 1 true] base).cq 1).waiting = [cqe 1 true] ∧ ((cplq [cqe 1 true] base).cq 1).en = true ∧ (1 : Nat) ≠ 0 ∧ (cqe 1 true).interim = true) ∧
    (let s := cplq [cqe 1 false] (lau (fun l => { l with st := .rejected }) base)
     (s.cq 1).waiting = [cqe 1 false] ∧ (s.cq 1).en = true ∧ (cqe 1 false).interim = false ∧ (cqe 1 false).serial ≠ 0 ∧
       (s.launch (cqe 1 false).serial).st = .rejected) := by decide
/-- A launch record with a control word and an address of its extension block: one core, a footprint of 64 KiB, tables at 0x10000. -/
def newRecord (ctl ext : Nat) : List Byte :=
  leBytes 8 ctl ++ [0x84] ++ List.replicate 7 0 ++ leBytes 16 1 ++ leBytes 8 ext ++ leBytes 8 (2 ^ 40) ++ leBytes 8 0 ++ leBytes 8 0x10000 ++ zeros 64
/-- An extension block with an entry for context 0 of T0. -/
def newExt : List Byte := padTo 640 (zeros 128 ++ leBytes 8 4)
def waiter (ctl ext : Nat) : Launch := { Launch.empty with serial := 1, record := newRecord ctl ext }
/-- The one launch waits, with its extension block at 0x200, and no core is taken. -/
def waiting (l : Launch) : State :=
  let s := secure base
  { s with launches := [l], cores := [], mem := memWrite s.mem 0x40000200 newExt }

theorem wit_LaunchEvents_admission :
    ((base.launch 1).st ≠ .waiting) ∧
    (Admissible (waiting (waiter 0 0x201)) (waiter 0 0x201) ∧ (waiter 0 0x201).extUsable = false ∧
      (waiter 0 0x201).firstBad false = some (need false 0x20)) ∧
    (let l := waiter 0 0x200
     let s := waiting l
     let x : Launch := { l with ext := newExt }
     Admissible s l ∧ l.extUsable = true ∧ s.devBytes l l.checkDie l.extaddr 640 = .ok newExt (List.replicate 80 false) ∧
       x.firstBad true = none ∧ x.donerec = 0 ∧ x.parent = none ∧ s.images x = .ok (imageWords ([], [])) [] [] ∧
       (∀ d ∈ x.dies, 1 + x.budgetN ≤ s.remainder d) ∧
       (∀ c ∈ x.layout, (s.core c).residents = [] ∧ 65536 + x.lssize ≤ storeSize c.tier) ∧ x.layout = [⟨0, 0, 0⟩] ∧ x.records = 1) := by
  refine ⟨by decide, ⟨⟨by decide, by decide, by decide⟩, by decide, by decide⟩, ⟨by decide, by decide, by decide⟩, ?_⟩
  decide +kernel

def expanding : State := lau (fun l => { l with st := .admitted, ext := newExt }) (waiting (waiter 0 0x200))

theorem wit_LaunchEvents_running :
    (State.reset.launch 1).st ≠ .admitted ∧
    (let s := expanding
     let l := s.launch 1
     let f : LeafRec := ⟨0, 0, 0, 0, 2⟩
     l.st = .admitted ∧ s.nextRecord l = some 0 ∧ l.leaves[0 / l.soft]? = some f ∧ (s.part 0 0).entries.length + (s.part 0 0).transit.length < partSize 0 ∧
       s.migs = [] ∧ s.devLoc l 0 (l.recAddr 0) 64 .engWrite = .hbm 0x40000000) ∧
    (let p : Part := { Part.reset with entries := List.replicate 4096 (entry []) }
     partSize 0 ≤ p.entries.length + p.transit.length) ∧
    (let s := lau (fun l => { l with live := 0 }) base
     let l := s.launch 1
     (l.st = .admitted ∧ l.live = 0) ∧ l.waitReplay = false ∧ s.working 1 = false ∧ l.donectr = 0 ∧ l.parent = none ∧ ∀ c, (s.cluster c).lines = []) ∧
    ((lau (fun l => { l with waitReplay := true }) base).launch 1).waitReplay = true ∧
    (let s := lau (fun l => { l with st := .ending, waitReplay := true }) base
     (s.launch 1).st = .ending ∧ (s.launch 1).waitReplay = true ∧ (s.deliver 1).launch 1 = s.launch 1) ∧
    (base.launch 1).tlimit = 0 ∧
    (let s := lau (fun l => { l with record := zeros 0x34 ++ [1], used := 2 }) base
     let l := s.launch 1
     l.st = .admitted ∧ l.tlimit ≠ 0 ∧ l.tlimit < l.used) ∧
    (base.me.st ≠ .killed ∧ ((thr (fun c => { c with st := .killed }) base).ctx base.cur).st = .killed ∧ base.me.pend = [] ∧
      (thr (fun c => { c with st := .killed }) eightRelaxed).me.pend ≠ []) := by
  refine ⟨by decide, by decide +kernel, by decide, ⟨by decide, by decide, by decide, by decide, by decide, fun _ => rfl⟩, by decide, by decide, by decide, by decide,
    by decide⟩

/-- Launch 1 holds core 0.0.0 at a PCLASS with PRIO 0, and launch 2 waits for it with PRIO 3. -/
def preempting (pclass : Nat) : State :=
  let w : Launch := { waiter 3 0x200 with serial := 2, ext := newExt }
  let s := lau (fun l => { l with record := newRecord (pclass * 16) 0x200 }) base
  secure { s with launches := s.launches ++ [w] }

theorem wit_Preemption :
    (let v := base.launch 1
     base.preemptorOf v = none ∧ v.pclass ≠ 2 ∧ v.pclass ≠ 1) ∧
    (∀ p, p = 1 ∨ p = 2 →
      let v := (preempting p).launch 1
      v.st = .admitted ∧ v.pclass = p ∧ (preempting p).preemptorOf v = some { waiter 3 0x200 with serial := 2, ext := newExt }) := by
  refine ⟨by decide, ?_⟩
  rintro p (rfl | rfl) <;> decide +kernel

theorem rd_agree (s : State) (m : List Host.Cell) (k n : Nat) (h : ∀ i, i < n → memGet m (k + i) = memGet s.mem (k + i)) :
    ({ s with mem := m } : State).rd k n = s.rd k n := by
  unfold State.rd
  show memRead m k n = memRead s.mem k n
  induction n generalizing k with
  | zero => rfl
  | succ n ih =>
    unfold memRead
    rw [show memGet m k = memGet s.mem k from h 0 (by omega), ih (k + 1) fun i hi => by rw [Nat.add_assoc, Nat.add_comm 1 i]; exact h (i + 1) (by omega)]

theorem areaReady (s : State) (l : Launch) (len : Nat) (hl : len ≤ 2 ^ 20)
    (h : l.savearea.toNat = 0x2000000 ∧ l.ptroot = 0x10000 ∧ s.tlb = [] ∧ leNat (s.rd 0x10000 8) = 0x20001 ∧ leNat (s.rd 0x20000 8) = 0x4000003F ∧
      s.migs = [] ∧ s.hole = none ∧ s.routed l.lowDie 0 = true) : AreaReady s l 0x42000000 len := by
  obtain ⟨h1, h2, h3, h4, h5, h6, h7, h8⟩ := h
  refine ⟨by omega, by decide, ?_, h6, h7⟩
  intro m hm j hj
  have e1 := rd_agree s m 0x10000 8 fun i hi => hm _ (.inl (by omega))
  have e2 := rd_agree s m 0x20000 8 fun i hi => hm _ (.inl (by omega))
  rw [h1, h2]
  have hv : (33554432 + j) / 549755813888 % 8192 = 0 := by omega
  have hw : (33554432 + j) / 1073741824 % 512 = 0 := by omega
  have hr : ({ s with mem := m } : State).routed l.lowDie 0 = true := h8
  have ho (b : Nat) (hb : b < 2 ^ 36) : ({ s with mem := m } : State).reaches l.lowDie b = true := by
    unfold State.reaches; rw [Nat.div_eq_of_lt hb, hr, Bool.or_true]
  have hx := ho 65536 (by decide)
  have hy := ho 131072 (by decide)
  have hl : ({ s with mem := m } : State).leafOf (({ s with mem := m } : State).reaches l.lowDie) 0x10000 (0x2000000 + j) = .leaf 0x4000003F 30 := by
    unfold State.leafOf
    simp only [fld, Nat.reduceDiv, Nat.reducePow, Nat.reduceMod, Nat.reduceMul, hv, hw, Nat.mul_zero, Nat.add_zero, e1, h4, e2, h5, badNode,
      hx, hy]
    rfl
  have ht : ({ s with mem := m } : State).tlb = [] := h3
  clear ho hx hy
  revert hr hl ht
  generalize ({ s with mem := m } : State) = u
  intro hr hl ht
  have q : (33554432 + j) % 1073741824 = 33554432 + j := by omega
  have r : (1073741824 + (33554432 + j)) / 68719476736 = 0 := by omega
  unfold State.walk
  rw [ht, List.find?_nil]
  dsimp only
  rw [hl]
  dsimp only
  unfold leafLoc
  simp only [fld, stackBytes, Nat.reduceDiv, Nat.reducePow, Nat.reduceMod, Nat.reduceMul, Nat.reduceSub, q]
  rw [r, hr, if_neg (by decide), if_neg (by decide), if_neg (by decide), if_neg (by decide), if_neg (by omega), if_pos rfl]
  congr 1; omega

/-- Launch 1 is being saved on core 0.0.0, with a save area at 0x2000000. -/
def saving (stat : Nat) : State :=
  lau (fun l => { l with st := .saving, ext := extBlock, savestat := w64 (stat * 2 ^ 60) }) base

/-- Launch 1 is being restored on core 0.2.0; its block says that context 0 was PARKED. -/
def restoring : State :=
  let k : Core := { Core.reset with ctxs := [(0, { Ctx.reset with serial := 1 })] }
  let s := lau (fun l => { l with
    st := .restoring, ext := padTo 0x48 (zeros 32 ++ leBytes 8 0x2000000) ++ List.replicate 8 0xFF, lsbase := [(512, 65536)]
    record := zeros 0x38 ++ leBytes 8 0x10000 ++ zeros 64 }) base
  { s with savedCores := [(8192 + 512, k)], mem := memWrite s.mem (0x42000200 + 1792 + 0x188) [2] }

def okBytes (r : BlockRead) : List Byte := match r with | .ok b => b | _ => []
def isOk (r : BlockRead) : Bool := match r with | .ok _ => true | _ => false
theorem ok_of (r : BlockRead) (h : isOk r = true) : r = .ok (okBytes r) := by cases r <;> simp_all [isOk, okBytes]

def asked : State := lau (fun l => { l with stopReq := [0] }) base
def stopping : State := lau (fun l => { l with stopReq := [0] }) (saving 1)

theorem wit_SaveAndRestore_gangStop :
    coreKey ⟨0, 0, 0⟩ ∉ (base.launch 1).stopReq ∧
    (coreKey ⟨0, 0, 0⟩ ∈ (asked.launch 1).stopReq ∧
      ∀ i, i < 16 → (asked.ctx (CoreId.thread ⟨0, 0, 0⟩ i)).serial = 1 → (asked.ctx (CoreId.thread ⟨0, 0, 0⟩ i)).pend = []) :=
  ⟨by decide, by decide, by decide⟩

theorem wit_SaveAndRestore_waits :
    (∀ x ∈ (base.core base.cur.core).residents, (base.launch x).st ≠ .saving) ∧
    ((stopping.core base.cur.core).residents = [1] ∧ (stopping.launch 1).st = .saving ∧ (stopping.launch 1).stopReq ≠ []) ∧
    (base.launch 1).st ≠ .saved ∧ (base.launch 1).st ≠ .restoring :=
  ⟨fun x hx => by rw [List.mem_singleton.mp (show x ∈ [1] from hx)]; decide, by decide, by decide, by decide⟩

def savingL : Launch := (saving 1).launch 1
def savingC : CoreId := ⟨0, 0, 0⟩

theorem wit_SaveAndRestore_save :
    ((saving 1).core savingC).residents = [1] ∧ savingL.st = .saving ∧ savingL.stopReq = [] ∧ savingL.saveDone = [] ∧ savingL.saveFault = [] ∧
      savingL.saveAt = [] ∧ savingL.saveState = 1 ∧ savingL.cores = [savingC] ∧ savingC.die = savingL.lowDie ∧ (saving 1).drained savingC = true ∧
      (saving 1).streamStop savingC 1 = none ∧
      (saving 1).sideStores savingL savingC = [] ∧ AreaReady (saving 1) savingL 0x42000000 (2 ^ 20) ∧
      savingL.blockOff savingC + savingL.blockSize savingC ≤ 2 ^ 20 :=
  ⟨by decide, by decide, by decide, by decide, by decide, by decide, by decide, by decide, by decide, by decide, rfl, by decide,
   areaReady _ _ _ (by decide) (by decide +kernel), by decide⟩

def restoredBlock : List Byte := okBytes (restoring.readBlock (restoring.launch 1) ⟨0, 2, 0⟩)
theorem restoring_reads : isOk (restoring.readBlock (restoring.launch 1) ⟨0, 2, 0⟩) = true := by decide +kernel
theorem restoredBlock_code : fld (leAt (blockRecord restoredBlock 0) 0x188 1) 0 3 = 2 := by decide +kernel

theorem wit_SaveAndRestore_restore :
    (restoring.launch 1).st = .restoring ∧ (restoring.launch 1).cores = [⟨0, 2, 0⟩] ∧ (restoring.launch 1).restored = [] ∧
      (restoring.launch 1).lssize = 0 ∧ (restoring.launch 1).windows = [] ∧
      restoring.readBlock (restoring.launch 1) ⟨0, 2, 0⟩ = .ok restoredBlock ∧ AreaReady restoring (restoring.launch 1) 0x42000000 8 ∧
      ((mget Core.reset restoring.savedCores (savedKey 1 ⟨0, 2, 0⟩)).ctx 0).serial = 1 ∧ restoring.rst = [] ∧
      ∀ d, restoring.scheds d = [] :=
  ⟨by decide, by decide, by decide, by decide, by decide, ok_of _ restoring_reads, areaReady _ _ _ (by decide) (by decide +kernel), by decide, rfl,
   fun _ => rfl⟩
/-- The host's commands name launch 1, at a debug level. -/
def commanded (level : Nat) (s : State) : State := hos (fun h => { h with partser := 1 }) (devi (fun d => { d with dbg := level }) (secure s))
/-- The thread is STOPPED, and was READY before. -/
def halted (s : State) : State := cor (fun k => { k with stopped := [1] }) (thr (fun c => { c with st := .stopped, prev := .ready }) s)
def faulting : State :=
  let h : Held := { recvHeld with cause := .xlate 0x8000 }
  thr (fun c => { c with st := .parked, held := some h }) base

theorem partFit (s : State) (v : Word) (cmd level : Nat) (h : (s.dev.sstate = 1 ∧ s.host.partbusy = none ∧ s.hole = none) ∧
    (bits v 3 0 = cmd ∧ bits v 63 39 = 0 ∧ bits v 7 4 = 0) ∧ (s.known s.host.partser = true ∧ (s.launch s.host.partser).st ≠ .rejected ∧
    (s.launch s.host.partser).st ≠ .ending ∧ (s.launch s.host.partser).st ≠ .done) ∧ level ≤ s.dev.dbg) : PartFit s v cmd level :=
  ⟨h.1, h.2.1, h.2.2.1, h.2.2.2⟩

theorem wit_HostCommands_taken :
    base.dev.sstate ≠ 1 ∧
    ((commanded 0 base).dev.sstate = 1 ∧ (commanded 0 base).host.partbusy = none ∧ bits (0x11 : Word) 3 0 = 1 ∧ bits (0x11 : Word) 7 4 ≠ 0) ∧
    ((hos (fun h => { h with partser := 9 }) (commanded 0 base)).known 9 = false ∧ bits (1 : Word) 63 39 = 0 ∧ bits (1 : Word) 7 4 = 0) ∧
    ((commanded 0 base).known 1 = true ∧ ((commanded 0 base).launch 1).st ≠ .rejected ∧ ((commanded 0 base).launch 1).st ≠ .ending ∧
      ((commanded 0 base).launch 1).st ≠ .done ∧ (commanded 0 base).dev.dbg < 1) ∧
    ((lau (fun l => { l with st := .ending }) (commanded 0 base)).launch 1).st = .ending :=
  ⟨by decide, by decide, by decide, by decide, by decide⟩

theorem wit_HostCommands_halt :
    (PartFit (commanded 1 base) 1 1 1 ∧ ((commanded 1 base).launch 1).cores = [⟨0, 0, 0⟩] ∧ 1 ∉ ((commanded 1 base).core ⟨0, 0, 0⟩).stopped) ∧
    (PartFit (commanded 1 (halted base)) 1 1 1 ∧ 1 ∈ ((commanded 1 (halted base)).core ⟨0, 0, 0⟩).stopped) ∧
    (PartFit (commanded 1 (saving 1)) 1 1 1 ∧ ((commanded 1 (saving 1)).launch 1).st = .saving ∧ ((commanded 1 (saving 1)).launch 1).stopReq = []) ∧
    (let s := commanded 1 (lau (fun l => { l with stopReq := [0] }) (saving 1))
     PartFit s 1 1 1 ∧ (s.launch 1).st = .saving ∧ (s.launch 1).stopReq ≠ []) ∧
    (PartFit (commanded 1 restoring) 1 1 1 ∧ ((commanded 1 restoring).launch 1).st = .restoring) :=
  ⟨⟨partFit _ _ _ _ (by decide), by decide, by decide⟩, ⟨partFit _ _ _ _ (by decide), by decide⟩, ⟨partFit _ _ _ _ (by decide), by decide⟩,
   ⟨partFit _ _ _ _ (by decide), by decide⟩, partFit _ _ _ _ (by decide), by decide⟩

theorem wit_HostCommands_resume :
    (PartFit (commanded 0 (saving 1)) 2 2 0 ∧ ((commanded 0 (saving 1)).launch 1).st ≠ .admitted) ∧
    (PartFit (commanded 0 (halted base)) 2 2 0 ∧ ((commanded 0 (halted base)).launch 1).st = .admitted ∧
      ((commanded 0 (halted base)).launch 1).cores = [⟨0, 0, 0⟩] ∧ 1 ∈ ((commanded 0 (halted base)).core ⟨0, 0, 0⟩).stopped ∧
      ((commanded 0 (halted base)).ctx ⟨0, 0, 0, 0⟩).serial = 1 ∧ ((commanded 0 (halted base)).ctx ⟨0, 0, 0, 0⟩).st = .stopped) :=
  ⟨⟨partFit _ _ _ _ (by decide), by decide⟩, partFit _ _ _ _ (by decide), by decide⟩

/-- The same with the thread PARKED before the stop. -/
def haltedParked : State := commanded 1 (thr (fun c => { c with prev := .parked }) (halted base))

theorem wit_HostCommands_step :
    (PartFit (commanded 1 base) 3 3 1 ∧ PartFit (commanded 1 base) 4 4 1 ∧ (commanded 1 base).cmdCtx ((commanded 1 base).launch 1) 3 = none) ∧
    (PartFit haltedParked 3 3 1 ∧ haltedParked.cmdCtx (haltedParked.launch 1) 3 = some ⟨0, 0, 0, 0⟩ ∧ (haltedParked.ctx ⟨0, 0, 0, 0⟩).prev ≠ .ready) ∧
    (PartFit (commanded 1 (halted base)) 3 3 1 ∧ PartFit (commanded 1 (halted base)) 4 4 1 ∧
      (commanded 1 (halted base)).cmdCtx ((commanded 1 (halted base)).launch 1) 3 = some ⟨0, 0, 0, 0⟩ ∧
      (commanded 1 (halted base)).cmdCtx ((commanded 1 (halted base)).launch 1) 4 = some ⟨0, 0, 0, 0⟩ ∧
      ((commanded 1 (halted base)).ctx ⟨0, 0, 0, 0⟩).prev = .ready ∧ (commanded 1 (halted base)).trailer ⟨0, 0, 0, 0⟩ = none) :=
  ⟨⟨partFit _ _ _ _ (by decide), partFit _ _ _ _ (by decide), by decide⟩, ⟨partFit _ _ _ _ (by decide), by decide⟩,
   partFit _ _ _ _ (by decide), partFit _ _ _ _ (by decide), by decide⟩

theorem wit_HostCommands_resave :
    (PartFit (commanded 0 base) 5 5 0 ∧ ((commanded 0 base).launch 1).st ≠ .saving) ∧
    (PartFit (commanded 0 (saving 3)) 5 5 0 ∧ ((commanded 0 (saving 3)).launch 1).st = .saving ∧ ((commanded 0 (saving 3)).launch 1).saveState = 3 ∧
      ((commanded 0 (saving 3)).launch 1).cores = [⟨0, 0, 0⟩] ∧ ((commanded 0 (saving 3)).launch 1).saveDone = [] ∧
      AreaReady (commanded 0 (saving 3)) ((commanded 0 (saving 3)).launch 1) 0x42000000 0x50) :=
  ⟨⟨partFit _ _ _ _ (by decide), by decide⟩, partFit _ _ _ _ (by decide), by decide, by decide, by decide, by decide,
   areaReady _ _ _ (by decide) (by decide +kernel)⟩

theorem wit_HostCommands_replay :
    base.dev.sstate ≠ 1 ∧ (secure faulting).dev.sstate = 1 ∧ (secure faulting).spills = [] ∧ ((secure faulting).launch 1).isPair = false ∧
    ((secure faulting).launch 1).cores = [⟨0, 0, 0⟩] ∧ ((secure faulting).ctx ⟨0, 0, 0, 0⟩).serial = 1 ∧
    ((secure faulting).ctx ⟨0, 0, 0, 0⟩).parked = true ∧ ((secure faulting).ctx ⟨0, 0, 0, 0⟩).held = some { recvHeld with cause := .xlate 0x8000 } ∧
    (∀ k ∈ (secure faulting).cores, ∀ x ∈ k.2.ctxs, x.2.pend = []) ∧
    (let p : Pend := { load := true, relaxed := true, va := w64 (2 ^ 51), len := 8, dest := 1, data := [], marks := [], key := none, rel := none, ord := 0 }
     let s := secure (thr (fun c => { c with pend := [p] }) base)
     s.spills = [] ∧ s.cores = [(coreKey s.cur.core, s.core s.cur.core)] ∧ coreOf (coreKey s.cur.core) = s.cur.core ∧
       (s.core s.cur.core).ctxs = [(s.cur.ctx, s.me)] ∧ s.me.serial = 1 ∧ s.me.pend = [p] ∧ p.len ≠ 0 ∧ s.pendLoc s.cur p = .xfault) := by
  decide

/-! Two remote ends, of context 0 of cores 0.0.0 and 0.0.1; the second receives into a ring of 16 words. -/

def endA : Ep := { Ep.reset with bound := true, desc := 0x20 + 1 * 2 ^ 8, serial := 1 }
def endB : Ep := { Ep.reset with bound := true, desc := w64 (2 ^ 48 * 16 + 2 ^ 32 * (0x10800 / 64) + 0x30), serial := 1 }
def ends (a b : Ep) : State :=
  { base with cores := mset (mset base.cores 0 { base.core ⟨0, 0, 0⟩ with eps := [(0, a)] }) 1 { Core.reset with residents := [1], eps := [(0, b)] } }

theorem wit_ChannelEvents_handshake :
    (∀ x ∈ (base.core ⟨0, 0, 0⟩).eps, x.2.bound = false ∨ x.2.rem = false ∨ x.2.isCls = true ∨ x.2.peer.isSome = true) ∧
    (((ends endA endB).core ⟨0, 0, 0⟩).eps = [(0, endA)] ∧ endA.peerCore ⟨0, 0, 0⟩ = ⟨0, 0, 1⟩ ∧ ((ends endA endB).core ⟨0, 0, 1⟩).eps = [(0, endB)] ∧
      endA.rem = true ∧ endA.matches_ ⟨0, 0, 0⟩ endB ⟨0, 0, 1⟩ = true ∧ endA.ring = 0 ∧ endB.ring = 0) := by decide

def msg1 (cls : Bool) : Msg :=
  { dst := ⟨0, 0, 1⟩, src := ⟨0, 0, 0⟩, srcCtx := 0, cls := cls, target := 0, srcEp := 0, seq := 0, words := [word0], serial := 1, srcOrder := 0
    since := none, tmo := 9 }
def sentMsg (cls : Bool) (cycle : Nat) : State :=
  let b : ClassB := { ClassB.reset with bound := true, binding := w64 (2 ^ 48 * 16 + 2 ^ 32 * (0x10800 / 64)) }
  let s := { ends { endA with met := true } { endB with met := true, peer := some (0, 0) } with net := [msg1 cls] }
  clk cycle (s.updCore ⟨0, 0, 1⟩ fun k => { k with classes := [(0, b)] })

/-- The same with the channel's ring of sixteen words full. -/
def ringFull (n : Nat) : State :=
  clk n (sentMsg false 0 |>.updCore ⟨0, 0, 1⟩ fun k => { k with eps := [(0, { endB with met := true, peer := some (0, 0), received := 16 })] })

theorem takes_of (s : State) (w : Nat) (h : (s.bankTakes w = true ∧ (s.feAt w).lost = false ∧ (s.feAt w).bars = [] ∧ (s.feAt w).barPark = []) ∧
    isBanked w = true ∧ isWindowWord w = false ∧ (s.feAt w).parked = [] ∧ (s.feAt w).readers = []) : takesWord s w := h

theorem wit_ChannelEvents_messages :
    (∀ y ∈ base.net, y.dst ≠ ⟨0, 0, 1⟩) ∧
    (OneMsg (sentMsg false 0) ⟨0, 0, 1⟩ (msg1 false) ∧ (msg1 false).cls = false ∧ (msg1 false).words = [word0] ∧
      (((sentMsg false 0).core ⟨0, 0, 1⟩).ep 0).met = true ∧ (((sentMsg false 0).core ⟨0, 0, 1⟩).ep 0).peer = some (coreKey ⟨0, 0, 0⟩, 0) ∧
      ((((sentMsg false 0).core ⟨0, 0, 1⟩).ep 0).received - (((sentMsg false 0).core ⟨0, 0, 1⟩).ep 0).consumed).toNat + 2 ≤
        (((sentMsg false 0).core ⟨0, 0, 1⟩).ep 0).rwords ∧
      takesWord (sentMsg false 0) (keyLs ⟨0, 0, 1⟩ 0x10800 / 8) ∧ takesWord (sentMsg false 0) (keyLs ⟨0, 0, 1⟩ 0x10808 / 8)) ∧
    (OneMsg (sentMsg true 0) ⟨0, 0, 1⟩ (msg1 true) ∧ (msg1 true).cls = true ∧ (((sentMsg true 0).core ⟨0, 0, 1⟩).cls 0).bound = true ∧
      9 * (((sentMsg true 0).core ⟨0, 0, 1⟩).cls 0).msgs + 9 ≤ (((sentMsg true 0).core ⟨0, 0, 1⟩).cls 0).rwords) ∧
    (let s := ringFull 0
     OneMsg s ⟨0, 0, 1⟩ (msg1 false) ∧ s.ringRoom (msg1 false) = false ∧ (msg1 false).since = none) ∧
    (let s := ringFull 9
     let m := { msg1 false with since := some 0 }
     OneMsg { s with net := [m] } ⟨0, 0, 1⟩ m ∧ ({ s with net := [m] } : State).cyc ⟨0, 0, 1⟩ - 0 ≤ m.tmo ∧ (sentMsg false 0).ringRoom m = true) ∧
    (let m := { msg1 false with since := some 0 }
     let s := { ringFull 10 with net := [m] }
     OneMsg s ⟨0, 0, 1⟩ m ∧ m.tmo < s.cyc ⟨0, 0, 1⟩ - 0 ∧ s.ringRoom m = false ∧ s.ringOwner m ∉ (s.core ⟨0, 0, 1⟩).stopped ∧
       ((s.core ⟨0, 0, 0⟩).ep 0).bound = true ∧ ((s.core ⟨0, 0, 0⟩).ep 0).order = m.srcOrder ∧ s.known m.serial = true) :=
  ⟨by decide, ⟨⟨by decide, by decide, by decide⟩, by decide, by decide, by decide, by decide, by decide, takes_of _ _ (by decide +kernel),
   takes_of _ _ (by decide +kernel)⟩, ⟨⟨by decide, by decide, by decide⟩, by decide, by decide, by decide⟩,
   ⟨⟨by decide, by decide, by decide⟩, by decide, by decide⟩, ⟨⟨by decide, by decide, by decide⟩, by decide, by decide⟩,
   ⟨by decide, by decide, by decide⟩, by decide, by decide, by decide, by decide, by decide, by decide⟩

def sendHeld : Held := { recvHeld with cause := .send 0 }
def sendParked (n : Nat) : State := clk n (thr (fun c => { c with st := .parked, held := some sendHeld, chtmo := 5 }) base)
/-- The two ends, met, with counters of their own. -/
def counted (sent : Nat) : State :=
  ends { endA with met := true, peer := some (1, 0), free := 16, sent := BitVec.ofNat 16 sent } { endB with met := true, peer := some (0, 0) }

theorem wit_ChannelEvents_timeouts :
    base.me.held = none ∧
    (((sendParked 5).ctx ⟨0, 0, 0, 0⟩).held = some sendHeld ∧ sendHeld.cause = .send 0 ∧ ((sendParked 5).ctx ⟨0, 0, 0, 0⟩).st = .parked ∧
      (sendParked 5).cycleOf ⟨0, 0, 0, 0⟩ - sendHeld.since ≤ ((sendParked 5).ctx ⟨0, 0, 0, 0⟩).chtmo.toNat) ∧
    ((sendParked 6).ctx ⟨0, 0, 0, 0⟩).chtmo.toNat < (sendParked 6).cycleOf ⟨0, 0, 0, 0⟩ - sendHeld.since := by decide

theorem wit_ChannelEvents_audit :
    ((base.core ⟨0, 0, 0⟩).ep 0).peer = none ∧
    (((counted 0).core ⟨0, 0, 0⟩).ep 0).peer = some (coreKey ⟨0, 0, 1⟩, 0) ∧ coreOf (coreKey ⟨0, 0, 1⟩) = ⟨0, 0, 1⟩ ∧
    (((counted 0).core ⟨0, 0, 0⟩).ep 0).rem = true ∧ (((counted 0).core ⟨0, 0, 0⟩).ep 0).rx = false ∧ (((counted 0).core ⟨0, 0, 0⟩).ep 0).met = true ∧
    (counted 0).net = [] ∧ (((counted 0).core ⟨0, 0, 0⟩).ep 0).sent = (((counted 0).core ⟨0, 0, 1⟩).ep 0).received ∧
    (((counted 0).core ⟨0, 0, 0⟩).ep 0).free +
      ((((counted 0).core ⟨0, 0, 0⟩).ep 0).sent - (((counted 0).core ⟨0, 0, 1⟩).ep 0).consumed).toNat = (((counted 0).core ⟨0, 0, 1⟩).ep 0).rwords ∧
    (((counted 2).core ⟨0, 0, 0⟩).ep 0).sent ≠ (((counted 2).core ⟨0, 0, 1⟩).ep 0).received := by decide
/-- A banked word with an uncorrectable error; a bank of its group may be retired. -/
def badWord (retired : List Nat) (s : State) : State := devi (fun d => { d with retired := retired }) { s with badWords := [(wk, 1)] }
def queued (b : List (List Byte)) (head : Nat) : State := hos (fun h => { h with fqheld := b, fqlog := 4, fqhead := head }) base
def copying2 (done : Bool) : State := { base with migs := [(9, { src := 0x40000000, dst := 0x50000000, done := done, ending := false })] }

/-- No schedule runs anywhere. -/
theorem noSched (s : State) (h : ∀ d ∈ s.dies, ∀ x ∈ d.2.htags, x.2.sched = none) (d n : Nat) : schedAt s d n = none := by
  have := mget_all (fun x : Die => ∀ y ∈ x.htags, y.2.sched = none) Die.reset s.dies d (by simp [Die.reset]) h
  exact mget_all (fun y : HTag => y.sched = none) HTag.reset _ n rfl this

theorem wit_DeviceEvents_banks :
    isBank (2 ^ 20) = false ∧
    (isBank 5 = true ∧ 5 ∉ base.dev.retired ∧ mget 0 base.dev.bankErrs 5 < 4 ∧
      (base.dev.scrubbed.any fun x => x.2 == 2 && bankKey x.1 == 5 && isBanked x.1) = false) ∧
    4 ≤ mget 0 (devi (fun d => { d with bankErrs := [(5, 4)] }) base).dev.bankErrs 5 ∧
    (base.condition wk = 0 ∧ 4 ≤ { base with badWords := [(wk, 5)] }.condition wk) ∧
    (let s := { base with badWords := [(wk, 2)] }
     rowKey wk ∉ s.stale ∧ s.condition wk ≠ 0 ∧ s.condition wk < 4 ∧ bankKey wk ∉ s.dev.retired ∧ s.inError wk = false) ∧
    (isBanked wk = true ∧ rowKey wk ∉ (badWord [] base).stale ∧ (badWord [] base).condition wk ≠ 0 ∧ (badWord [] base).condition wk < 4 ∧
      (badWord [] base).inError wk = true ∧ bankKey wk ∉ (badWord [] base).dev.retired ∧ (badWord [] base).groupRetired (bankKey wk) = 0 ∧ (badWord [] base).rowBad wk = false) ∧
    ((badWord [bankKey wk + 1] base).groupRetired (bankKey wk) ≠ 0 ∧ bankKey wk ∉ (badWord [bankKey wk + 1] base).dev.retired) ∧
    { badWord [] base with badWords := [(wk, 1), (wk + 1, 1)] }.rowBad wk = true ∧ bankKey wk ∈ (badWord [bankKey wk] base).dev.retired := by decide

theorem wit_DeviceEvents_faults :
    base.host.fqheld = [] ∧
    ((queued [[1]] 1).host.fqheld = [[1]] ∧ ((queued [[1]] 1).host.fqtail + 1) % 2 ^ (queued [[1]] 1).host.fqlog = (queued [[1]] 1).host.fqhead) ∧
    ((queued [[1]] 0).host.fqheld = [[1]] ∧ ¬((queued [[1]] 0).host.fqtail + 1) % 2 ^ (queued [[1]] 0).host.fqlog = (queued [[1]] 0).host.fqhead) := by
  decide

theorem wit_DeviceEvents_links :
    (bit base.dev.xlost 3 = false ∧ base.rst = [] ∧ ∀ d n, schedAt base d n = none) ∧ bit base.dev.ilost 3 = false ∧
    bit (devi (fun d => { d with xlost := 8, ilost := 8 }) base).dev.xlost 3 = true ∧
    bit (devi (fun d => { d with xlost := 8, ilost := 8 }) base).dev.ilost 3 = true :=
  ⟨⟨by decide, by decide, noSched _ (by decide)⟩, by decide, by decide, by decide⟩

/-- A load of the VU that a named translation served, and the invalidation of that page's table. -/
def vuServing : State :=
  hos (fun h => { h with tlbpend := [1] })
    (cor (fun k => { k with vq := [{ vuCmd (.vld 1 5 0 0 0) with keys := [(0, 0x40000000, 0)] }] }) base)

theorem wit_DeviceEvents_pages :
    base.host.tlbpend = [] ∧
    ((hos (fun h => { h with tlbpend := [7] }) base).vuServed 7 = false ∧ (vuServing.host.tlbpend = [1] ∧ vuServing.vuServed 1 = true)) ∧
    ((hos (fun h => { h with tlbpend := [7] }) base).host.tlbpend = [7] ∧ base.hole = none ∧ ∀ c ∈ base.cores, ∀ x ∈ c.2.ctxs, x.2.pend = []) ∧
    mfind base.migs 9 = none ∧
    mfind (copying2 true).migs 9 = some { src := 0x40000000, dst := 0x50000000, done := true, ending := false } ∧
    mfind (copying2 false).migs 9 = some { src := 0x40000000, dst := 0x50000000, done := false, ending := false } ∧ (copying2 false).dev.pscur ≠ 3 ∧
    (copying2 false).routed (0x40000000 / 2 ^ 36) (0x50000000 / 2 ^ 36) = true ∧
    (let m : Mig := { src := 0x40000000, dst := 2 ^ 36, done := false, ending := false }
     let s := devi (fun d => { d with ilost := 0xFFF }) { base with migs := [(9, m)] }
     mfind s.migs 9 = some m ∧ s.routed (m.src / 2 ^ 36) (m.dst / 2 ^ 36) = false) ∧
    (devi (fun d => { d with pscur := 3 }) (copying2 false)).dev.pscur = 3 := by decide

theorem wit_PowerEvents_requests :
    bits (4 : Word) 15 2 ≠ 0 ∧ (bits (1 : Word) 15 2 = 0 ∧ base.dev.sstate ≠ 1) ∧
    ((devi (fun d => { d with slew := true }) (secure base)).dev.slew = true ∧ (secure base).dev.slew = false) ∧
    (bits (3 : Word) 1 0 = 3 ∧ ((secure base).cores.any fun k => !k.2.residents.isEmpty) = true) ∧
    (bits (0 : Word) 1 0 = (secure base).dev.pscur ∧ bits (1 : Word) 1 0 ≠ (secure base).dev.pscur) := by decide

/-- The matrix unit of core 0.0.0 and the VU of its neighbour wait for a grant. -/
def mxReq : CoreId × Nat × Word := (⟨0, 0, 0⟩, 1, 1)
def vuReq : CoreId × Nat × Word := (⟨0, 0, 1⟩, 0, 1)
def deferring (p1 p10 : Nat) : State := devi (fun d => { d with deferred := [mxReq, vuReq], p1 := p1, p10 := p10 }) base

theorem wit_PowerEvents_events :
    (base.dev.slew = false ∧ (devi (fun d => { d with slew := true }) base).dev.slew = true) ∧
    base.dev.deferred = [] ∧
    (NextGrant (deferring 9999 0) mxReq ∧ 99 * (deferring 9999 0).dev.capavg < 100 * (deferring 9999 0).dev.p1) ∧
    (NextGrant (deferring 0 0) mxReq ∧ mxReq.1 = ⟨0, 0, 0⟩ ∧
      ¬(99 * (deferring 0 0).dev.capavg < 100 * (deferring 0 0).dev.p1 ∨
        (deferring 0 0).dev.cappeak < (deferring 0 0).dev.p10 + (deferring 0 0).dev.chargeOf 1)) ∧
    coresOf 2 ≤ 16 * (1 : BitVec 4).toNat ∧ 16 * (0 : BitVec 4).toNat < coresOf 2 ∧
    (∀ c ∈ base.clusters, c.2.celsius.toNat < 115) ∧
    ∃ c ∈ ({ base with clusters := [(0, { Cluster.reset with celsius := 115 })] } : State).clusters, 115 ≤ c.2.celsius.toNat := by
  refine ⟨by decide, by decide, ⟨⟨mxReq, [], [vuReq], rfl, rfl, rfl, by decide⟩, by decide⟩,
    ⟨⟨mxReq, [], [vuReq], rfl, rfl, rfl, by decide⟩, by decide⟩, by decide, by decide, by decide, (0, { Cluster.reset with celsius := 115 }), by decide,
    by decide⟩

/-- No cluster of a tier is hot after reset, T3's one cluster no more than another (22 R433). -/
theorem test_thermstat_cool : State.reset.thermStat = 0 := by decide

def recovery (r : Nat) : State := hos (fun h => { h with rstat := r }) (devi (fun d => { d with sstate := 2 }) base)

theorem wit_SecurityEvents :
    (Instr.hostReset ([], []), 1) ∈ [(Instr.powerOnReset ([], []), 0), (.hostReset ([], []), 1)] ∧
    (base.dev.sstate ≠ 1 ∧ base.host.attbusy = false) ∧ (hos (fun h => { h with attbusy := true }) base).host.attbusy = true ∧
    (secure base).dev.sstate = 1 ∧
    ((recovery 0).dev.sstate = 2 ∧ (recovery 0).host.rstat ≠ 1) ∧
    (bit (w64 (2 ^ 63)) 63 = true ∧ bits (w64 (2 ^ 63)) 23 0 = 0) ∧
    (bit (w64 (2 ^ 63 + 0x800000)) 63 = true ∧ bits (w64 (2 ^ 63 + 0x800000)) 23 0 = 0x800000) ∧
    ((recovery 1).dev.sstate = 2 ∧ (recovery 1).host.rstat = 1) ∧
    ¬(base.dev.dbg = 2 ∧ (base.dev.sstate = 2 ∨ (base.dev.sstate = 1 ∧ base.dev.pscur = 3))) ∧
    ((devi (fun d => { d with dbg := 2 }) (recovery 0)).dev.dbg = 2 ∧ (devi (fun d => { d with dbg := 2 }) (recovery 0)).dev.sstate = 2) := by
  decide

/-- A migration of a frame of stack 0 in slot 1. -/
def migrating : State := secure { hos (fun h => { h with migsrc := 0x40000000, migdst := 0x50000000 }) base with
  migs := [(1, { src := 0x40000000, dst := 0x50000000, done := true, ending := false })] }

theorem wit_HostRegisters_pages :
    base.dev.sstate ≠ 1 ∧ (secure base).dev.sstate = 1 ∧
    (bits (0x102 : Word) 9 8 = 1 ∧ mfind migrating.migs (fld migrating.host.migsrc.toNat 36 3 * 8 + bits (0x102 : Word) 2 0) = none ∧
      migrating.host.migsrc.toNat / 65536 * 65536 < 8 * 2 ^ 36 ∧ migrating.host.migsrc.toNat / 65536 * 65536 % 2 ^ 36 < stackBytes ∧
      migrating.host.migdst.toNat / 65536 * 65536 < 8 * 2 ^ 36 ∧ migrating.host.migdst.toNat / 65536 * 65536 % 2 ^ 36 < stackBytes) ∧
    (mfind migrating.migs (fld migrating.host.migsrc.toNat 36 3 * 8 + bits (0x101 : Word) 2 0)).isSome = true ∧
    (bits (0x201 : Word) 9 8 = 2 ∧ mfind migrating.migs (fld migrating.host.migsrc.toNat 36 3 * 8 + bits (0x202 : Word) 2 0) = none) ∧
    (mfind migrating.migs (fld migrating.host.migsrc.toNat 36 3 * 8 + bits (0x201 : Word) 2 0) =
      some { src := 0x40000000, dst := 0x50000000, done := true, ending := false } ∧ migrating.migs = [(fld migrating.host.migsrc.toNat 36 3 * 8 + bits (0x201 : Word) 2 0,
        { src := 0x40000000, dst := 0x50000000, done := true, ending := false })]) ∧
    (migrating.dev.dbg = 0 ∧ 0x1000000 ≤ (0x1000008 : BitVec 25).toNat) := by
  decide

/-- Both queues of number 2 enabled. -/
def enabledQ (halt : Bool) : State :=
  secure (hos (fun h => { h with
    sqs := [(2, { SubQ.reset with en := true, halt := halt, log2n := 4 })], cqs := [(2, { CplQ.reset with en := true, log2n := 4 })] }) base)

theorem wit_HostRegisters_queues :
    (2 ^ (base.sq 2).log2n ≤ (1 : Word).toNat ∧ (1 : Word).toNat < 2 ^ ((enabledQ false).sq 2).log2n ∧
      (1 : Word).toNat < 2 ^ ((enabledQ false).cq 2).log2n) ∧
    (bit (0x80000000 : Word) 31 = true ∧ bit (0 : Word) 31 = false ∧ ((secure base).cq 2).en = false ∧ ((secure base).sq 2).en = false) ∧
    (((enabledQ false).cq 2).en = true ∧ ((enabledQ false).sq 2).en = true) ∧
    (4 ≤ bits (0x80040000 : Word) 19 16 ∧ bits (0x80030000 : Word) 19 16 < 4) ∧
    ((lau (fun l => { l with st := .waiting, queue := some 2 }) (enabledQ false)).launches =
        [{ fetchLaunch with st := .waiting, queue := some 2 }]) ∧
    (((enabledQ true).sq 2).en = true ∧ ((enabledQ true).sq 2).halt = true) := by decide

theorem wit_HostRegisters_writes :
    bit (w64 (2 ^ 63)) 63 = true ∧ (0x1050 : BitVec 25).toNat = 0x1010 + 32 * (2 : BitVec 6).toNat ∧
    (0x2058 : BitVec 25).toNat = 0x2018 + 32 * (2 : BitVec 6).toNat ∧
    ((0x44 : BitVec 25).toNat < 0x1000000 ∧ (0x44 : BitVec 25).toNat % 8 ≠ 0 ∧ (0x44 : BitVec 25).toNat ≠ 0x10) ∧
    (base.dev.sstate ≠ 1 ∧ base.dev.sstate ≠ 2) ∧ (recovery 0).dev.sstate = 2 := by decide
theorem wit_EncodeDecode :
    ((Instr.add 3 2 10).wf = true ∧ encode (.add 3 2 10) = some (32, 0x80312800)) ∧
    (encodeMxu (.mma 1 false false 0 0) = some 0x11 ∧ usedMxu (.mma 1 false false 0 0) = true) ∧
    (encodeHalo (.hWait 2 5) = some 0x4040000000000005 ∧ chunkOk (.hWait 2 5) = true) ∧
    (2 ^ 31 ≤ 0x80312800 ∧ decodeWide 0x80312800 = .ok (.add 3 2 10)) ∧ decodeHalf (33 * 64) = .ok (.instr (.cAdd 1 0)) := by decide

def isNext (r : Res) : Bool := match r with | .next _ => true | _ => false
theorem next_of (r : Res) (h : isNext r = true) : ∃ t, r = .next t := by cases r <;> simp_all [isNext]

def compact : State := State.reset.withFetchWord 16 0x840
def onHart : State := State.reset.withFetchWord 32 0x73

/-- The launch is a PAIR launch; its thread is a leader. -/
def paired : State := lau (fun l => { l with record := zeros 8 ++ [0x85] ++ l.record.drop 9 }) base

theorem issues_of (s : State) (c : CoreId) (k n : Nat) (rest : List Turn)
    (t : (s.sched = [] ∧ s.cur.core = c ∧ rest = []) ∨ s.sched = .core c :: rest)
    (h : (s.hole = none ∧ s.resume = []) ∧ (s.dev.powered = true ∧ s.clocked = true) ∧ s.firstDue c = c ∧ s.nextIssue c = some (k, n)) :
    Issues s c k n rest := ⟨h.1, t, h.2.1, h.2.2.1, h.2.2.2⟩

theorem wit_StepRuns_threads :
    (compact.codeHalf (compact.launchOf compact.cur) compact.cur.core (compact.me.pc + w64 0) = .ok 0x840 ∧ decodeHalf 0x840 = .ok (.instr (.cAdd 1 0))) ∧
    (base.codeHalf (base.launchOf base.cur) base.cur.core (base.me.pc + w64 0) = .ok 0x8031 ∧
      base.codeHalf (base.launchOf base.cur) base.cur.core (base.me.pc + w64 2) = .ok 0x2800 ∧
      decodeWide (0x8031 * 65536 + 0x2800) = .ok (.add 3 2 10)) ∧
    (Issues base ⟨0, 0, 0⟩ 0 0 [] ∧ base.fetch (CoreId.thread ⟨0, 0, 0⟩ 0) = .instr (.add 3 2 10) 0 false none 4 ∧
      (base.launchOf (CoreId.thread ⟨0, 0, 0⟩ 0)).isPair = false ∧ (base.ctx (CoreId.thread ⟨0, 0, 0⟩ 0)).pend = [] ∧ illegalAt (.add 3 2 10) = none) ∧
    Issues { base with sched := [.core ⟨0, 0, 0⟩, .core ⟨0, 0, 1⟩] } ⟨0, 0, 0⟩ 0 0 [.core ⟨0, 0, 1⟩] ∧
    (Issues paired ⟨0, 0, 0⟩ 0 0 [] ∧ paired.fetch (CoreId.thread ⟨0, 0, 0⟩ 0) = .instr (.add 3 2 10) 0 false none 4 ∧
      (paired.launchOf (CoreId.thread ⟨0, 0, 0⟩ 0)).isPair = true) :=
  ⟨by decide +kernel, by decide +kernel, ⟨issues_of _ _ _ _ _ (.inl (by decide)) (by decide +kernel), by decide +kernel⟩,
   issues_of _ _ _ _ _ (.inr (by decide)) (by decide +kernel), issues_of _ _ _ _ _ (.inl (by decide)) (by decide +kernel), by decide +kernel⟩

/-- PRED !p2, which holds after reset, or PRED p2, before a compact ADD. -/
def predOn (n : Nat) : State := { base with mem := fetchMem base.mem (codeBytes 32 (n * 65536 + 0x840)) }

/-- The leader's instruction waits for its trailer, context 8, whose registers are the same. -/
def trailing : State :=
  let a : Ahead := { instr := .add 3 2 10, pfx := 0, rlx := false, pred := none, len := 4, got := none }
  clk 8 (cor (fun k => { k with ctxs := [(0, { paired.me with ahead := some a, lastIssue := some 0 }), (8, paired.me)] }) paired)

theorem wit_StepRuns_pairs :
    (Issues (predOn 0x7100) ⟨0, 0, 0⟩ 0 0 [] ∧ (predOn 0x7100).fetch (CoreId.thread ⟨0, 0, 0⟩ 0) = .instr (.cAdd 1 0) 2 false (some (false, 2)) 2 ∧
      (predOn 0x7500).fetch (CoreId.thread ⟨0, 0, 0⟩ 0) = .instr (.cAdd 1 0) 2 false (some (true, 2)) 2 ∧ (predOn 0x7100).me.p 2 = false) ∧
    (Issues trailing ⟨0, 0, 0⟩ 8 8 [] ∧ (trailing.launchOf (CoreId.thread ⟨0, 0, 0⟩ 0)).isPair = true ∧
      (trailing.launchOf (CoreId.thread ⟨0, 0, 0⟩ 8)).isPair = true ∧ (trailing.ctx (CoreId.thread ⟨0, 0, 0⟩ 0)).ahead.isSome = true ∧
      (trailing.ctx (CoreId.thread ⟨0, 0, 0⟩ 0)).pend = [] ∧ SamePair (trailing.ctx (CoreId.thread ⟨0, 0, 0⟩ 0)) (trailing.ctx (CoreId.thread ⟨0, 0, 0⟩ 8)) ∧
      ∃ r, predicated (prefixed ((issuing { trailing with sched := [] } ⟨0, 0, 0⟩ 8 8 (CoreId.thread ⟨0, 0, 0⟩ 0)).updMe fun x => { x with ahead := none })
        0 false none) (.add 3 2 10) none 4 = .next r) :=
  ⟨⟨issues_of _ _ _ _ _ (.inl (by decide)) (by decide +kernel), by decide +kernel, by decide +kernel, by decide⟩,
   issues_of _ _ _ _ _ (.inl (by decide)) (by decide +kernel), by decide +kernel, by decide +kernel, by decide +kernel, by decide +kernel,
   ⟨by decide +kernel, by decide +kernel, by decide +kernel, by decide +kernel, by decide +kernel, by decide +kernel, by decide +kernel⟩,
   next_of _ (by decide +kernel)⟩

theorem wit_StepRuns_engines :
    (onHart.hole = none ∧ onHart.resume = [] ∧ onHart.sched = [.hart onHart.curHart] ∧ onHart.dev.powered = true ∧
      (onHart.hartOf onHart.curHart).ended = false ∧ (onHart.hartOf onHart.curHart).stalled = false ∧
      onHart.hartFetch onHart.curHart = some .ecall) ∧
    (((mx 0 id).core ⟨0, 0, 0⟩).mxu.queue = [mxq 0] ∧ (mx 0 id).savingOn ⟨0, 0, 0⟩ (mxq 0).serial = false ∧
      decodeMxu (leNat (mxq 0).bytes) = .ok .mnop) ∧
    (onHart.streamStop onHart.curHart.core (onHart.hartBy onHart.curHart).serial).isNone = true ∧
    (let c := { sched with word := some (w64 0x7000000000000000) }
     (chunk c).dev.pscur ≠ 3 ∧ (chunk c).sched_ 0 0 = some c ∧ c.stopped = false ∧ c.frozen = false ∧ c.after = [] ∧ decodeHalo (w64 0x7000000000000000).toNat = .ok .hEnd) ∧
    Instr.isEvent .faultRecordRetry = true := by decide +kernel

theorem wit_MemoryReads : Memory.wf [(5, (1 : Byte))] = true ∧ Memory.wf [(5, (1 : Byte)), (6, 2)] = true := by decide

theorem wit_StepKeepsMemory : Memory.wf base.mem = true ∧ ∃ t, step base = .next t :=
  ⟨by decide, next_of _ (by decide +kernel)⟩

theorem wit_IssueRotation (t : Nat) (ht : t = 0 ∨ t = 1) :
    ((atTier t).core (atTier t).cur.core).lastCtx < 16 ∧
    (∀ k, k < 16 → (((atTier t).core (atTier t).cur.core).ctx k).susp = none ∧
      ((atTier t).launch (((atTier t).core (atTier t).cur.core).ctx k).serial).isPair = false) ∧
    (∀ k, k < 16 → (((atTier t).core (atTier t).cur.core).ctx k).lastIssue = none ∧ (((atTier t).core (atTier t).cur.core).ctx k).readyAt ≤ 1) ∧ ((atTier t).core (atTier t).cur.core).issuedIn = none ∧
    (atTier t).nextIssue (atTier t).cur.core = some (0, 0) ∧ State.reset.nextIssue ⟨0, t, 0⟩ = none ∧
    (let s := { atTier t with sched := [.tick t 40] }
     s.hole = none ∧ s.resume = [] ∧ s.dev.powered = true ∧ s.dev.pscur ≠ 3 ∧ s.cores.map (·.1) = [coreKey s.cur.core]) ∧
    ((devi (fun d => { d with pscur := 3 }) (atTier t)).dev.pscur = 3 ∧ (atTier t).dev.slew = false) := by
  rcases ht with rfl | rfl <;> decide

theorem lie (s : State) (n al : Nat) (wr : Bool) (as : List Word) (h : (as.all fun a => a.toNat % al == 0 &&
    match regionLoc (s.launchOf s.cur) s.cur.core a n wr with | some (.bank _) => true | _ => false) = true) : elemsLie s n al wr as := by
  intro a ha
  have q := List.all_eq_true.mp h a ha
  rw [Bool.and_eq_true] at q
  refine ⟨by simpa using q.1, ?_⟩
  revert q
  cases regionLoc (s.launchOf s.cur) s.cur.core a n wr with
  | none => simp
  | some l => cases l <;> simp

theorem vuIdle (s : State) (h : s.vwin s.cur ≠ 15 ∧ (s.core s.cur.core).vq = [] ∧ (s.core s.cur.core).vuResw = false ∧
    (s.core s.cur.core).vuWait = []) (q : Quiet s) : VuIdle s := ⟨h.1, h.2, q⟩

theorem wit_FormsComplete_banks :
    Quiet nmLaunch ∧
    (let v := (nmLaunch.me.x 5).toNat
     let L := nmLaunch.launchOf nmLaunch.cur
     (Fmt.ofClass 0).isSome = true ∧ v % 8 = 0 ∧ v % 64 + 64 ≤ 64 ∧ v / 2 ^ 25 = 0x7E * 2 ^ 31 ∧ L.nmbase ≤ v % 2 ^ 25 ∧
       v % 2 ^ 25 + 64 ≤ L.nmbase + L.nmsize ∧
       ∀ w ∈ wordsOf (2 ^ 61 + v % 2 ^ 25) 64, mget 0 nmLaunch.badWords w = 0 ∧ bankKey w ∉ nmLaunch.dev.retired ∧ (nmLaunch.bankTakes w = true ∧
         (nmLaunch.feAt w).lost = false ∧ (nmLaunch.feAt w).bars = [] ∧ (nmLaunch.feAt w).barPark = [])) ∧
    VuIdle (atScb 0x20001) ∧
    (let s := atScb 0x20001
     let o := (s.me.x 5).toNat % 2 ^ 21
     let L := s.launchOf s.cur
     storeKey s o = lsk 0x10800 ∧ (s.me.x 5).toNat / 2 ^ 21 = 0x7F * 2 ^ 35 ∧ (s.me.x 5).toNat % 64 = 0 ∧ L.on s.cur.core = true ∧
       L.base s.cur.core ≤ o ∧ o + 64 ≤ L.base s.cur.core + L.lssize) ∧
    VuIdle (cor (fun k => { k with wins := [(0, { Window.reset with binds := [(12, 1)] })] }) base) :=
  ⟨quiet_of _ (by decide), by decide, vuIdle _ (by decide) (quiet_of _ (by decide)), by decide, vuIdle _ (by decide) (quiet_of _ (by decide))⟩

theorem wit_FormsComplete_vectors :
    let s := vec 0xC3 0xC3
    let all := (List.range 64).filter fun l => (0 : BitVec 1) == 0 || bit (((s.core s.cur.core).win 0).m 0) (l * 4 / 4)
    (VuIdle s ∧ ((s.core s.cur.core).win (s.vwin s.cur)).binds = [] ∧ (s.core s.cur.core).fmtOf 0 = some .fp32 ∧ viewFmt s 1 = some (.int true 32) ∧
      (Fmt.int true 32).cont = 32 ∧ Fmt.fp32.cont = 32 ∧ inW32 .fp32 = true ∧ inI32 (.int true 32) = true ∧ (s.me.x 5).toNat % 4 = 0) ∧
    elemsLie s 4 4 false (all.map fun l => s.me.x 5 + w64 (4 * l)) ∧ elemsLie s 4 4 true (all.map fun l => s.me.x 5 + w64 (4 * l)) ∧
    elemsLie s 4 4 false (all.map fun l => s.me.x 5 + w64 l * s.me.x 6) ∧
    elemsLie s 4 4 false (all.map fun l => s.me.x 5 + 4 * (laneOf ((s.core s.cur.core).win 0) 2 l).signExtend 64) ∧
    elemsLie s 4 4 true (all.map fun l => s.me.x 5 + 4 * (laneOf ((s.core s.cur.core).win 0) 2 l).signExtend 64) :=
  ⟨⟨vuIdle _ (by decide) (quiet_of _ (by decide)), by decide⟩, lie _ _ _ _ _ (by decide +kernel), lie _ _ _ _ _ (by decide +kernel),
   lie _ _ _ _ _ (by decide +kernel), lie _ _ _ _ _ (by decide +kernel), lie _ _ _ _ _ (by decide +kernel)⟩

theorem wit_FormsComplete_chunks :
    let c := { sched with bases := [(7, w64 (2 ^ 52 - 8))] }
    ChunkOn (chunk c) c ∧ (chunk c).haloOps (chunk c).curHalo.1 < 64 ∧ (15 : BitVec 5).toNat < 16 ∧
      (bit (chunk c).dev.xlost (31 - 16) = false ∧ (chunk c).routed (chunk c).curHalo.1 ((31 - 16) / 2) = true) ∧
      (mget 0 c.bases 7).toNat / 2 ^ 56 = 0 ∧ (mget 0 c.bases 0).toNat / 2 ^ 56 = 0 ∧ (mget 0 c.bases 7 + w64 (8 * 0)).toNat % 8 = 0 ∧ (mget 0 c.bases 7 + w64 (8 * 0)).toNat < 2 ^ 52 ∧
      (mget 0 c.bases 0 + w64 (8 * 0xFFFFFF)).toNat < 2 ^ 52 :=
  ⟨⟨by decide, by decide⟩, by decide⟩

/-! Single steps. What each should give is taken from the rule, worked encoding or worked trace that its comment names. -/

def after (r : Res) : State := match r with | .next s => s | _ => State.reset
def x (n : Nat) (s : State) : Nat := (s.me.x n).toNat
/-- The thread's next instruction is a word, with x registers. -/
def at_ (w : Nat) (l : List (Nat × Nat)) : State := withX l (State.reset.withFetchWord 32 w)

/-- 06 R114: ADD x3, x2, x10 wraps, and the pc goes on by 4. -/
theorem test_add_wraps : x 3 (after (step (at_ 0x80312800 [(2, 2 ^ 64 - 1), (10, 3)]))) = 2 ∧
    (after (step (at_ 0x80312800 []))).me.pc = 4 := by decide +kernel
/-- 06 R114: SUB subtracts rb from ra. -/
theorem test_sub_order : x 3 (after (exec (.sub 3 4 5) (withX [(4, 7), (5, 9)] base))) = 2 ^ 64 - 2 := by decide
/-- 06 R114: SRA copies the sign, and uses six bits of the count. -/
theorem test_sra_sign : x 7 (after (exec (.sra 7 4 5) (withX [(4, 2 ^ 63), (5, 65)] base))) = 3 * 2 ^ 62 := by decide
/-- 06 R115: DIV by 0 gives -1; REM by 0 the dividend; the most negative number over -1 is itself. -/
theorem test_div_corners : x 3 (after (exec (.div 3 4 0) (withX [(4, 5)] base))) = 2 ^ 64 - 1 ∧
    x 3 (after (exec (.rem 3 4 0) (withX [(4, 5)] base))) = 5 ∧
    x 3 (after (exec (.div 3 4 5) (withX [(4, 2 ^ 63), (5, 2 ^ 64 - 1)] base))) = 2 ^ 63 := by decide
/-- 06 R115: MULH is the signed high half. -/
theorem test_mulh_signed : x 3 (after (exec (.mulh 3 4 5) (withX [(4, 2 ^ 64 - 1), (5, 2)] base))) = 2 ^ 64 - 1 := by decide
/-- 06: BEXT.s x6, x7, 12, 20 extracts bits 31:12 with their sign. -/
theorem test_bext_signed : x 6 (after (step (at_ 0x8E63A626 [(7, 0x80001FFF)]))) = 2 ^ 64 - 2 ^ 19 + 1 := by decide +kernel
/-- 06: BINS x13, x12, 24, 8 puts eight bits at bit 24 and keeps the rest. -/
theorem test_bins_keeps : x 13 (after (step (at_ 0x8ED64C0E [(13, 2 ^ 64 - 1), (12, 0x5A)]))) = 2 ^ 64 - 1 - 0xA5 * 2 ^ 24 := by decide +kernel
/-- 05 R103: JAL x1 with offset 0x80 halfwords, from address 0, links 4 and goes to 0x100; BRP goes back 32 halfwords when !p3 holds. -/
theorem test_jal : (x 1 (after (step (at_ 0x9C100080 []))), (after (step (at_ 0x9C100080 []))).me.pc) = (4, 0x100) := by decide +kernel
theorem test_brp_back : (after (exec (.brp 1 3 0x1FFFE0) (thr (fun c => { c with pc := 0x140 }) base))).me.pc = 0x100 := by decide
/-- 06: CMPI.LTU p1, x10, 24 is unsigned: -1 is not below 24. -/
theorem test_cmpi_unsigned : ((after (exec (.cmpi 1 3 10 24) (withX [(10, 2 ^ 64 - 1)] base))).me.p 1) = false ∧
    ((after (exec (.cmpi 1 2 10 24) (withX [(10, 2 ^ 64 - 1)] base))).me.p 1) = true := by decide
/-- 06 R113: a write to x0 is discarded. -/
theorem test_x0 : x 0 (after (exec (.addi 0 4 1) base)) = 0 := by decide

/-- 10 R204, R207: TRAP 0x12 enters the handler of the thread's tier, with TPC the address of the next instruction. -/
theorem test_trap_entry : let s := after (exec (.trap 0x12) withHandler)
    (s.me.pc, s.me.tpc, s.me.tmode) = (0x1000, 4, true) := by decide
/-- 10, the worked check interval: CHKERR x9 at 0x0120 with CIR 1 and PADDR 0x7F00_0000_0001_0040. -/
theorem test_chkerr : let s := after (exec (.chkerr 9) (thr (fun c => { c with pc := 0x120, cir := 1, paddr := w64 (ls 0x10040) }) withHandler))
    (x 9 s, s.me.tpc, s.me.tcause, s.me.taddr, s.me.pc) = (1, 0x124, 0x200101, w64 (ls 0x10040), 0x1000) := by decide
/-- 10 R205: TRET goes back to TPC. -/
theorem test_tret : let s := after (exec .tret inHandler)
    (s.me.pc, s.me.tmode) = (0x2000, false) := by decide

/-- 07 R135: ST.d stores eight bytes, the low one at the lowest address. -/
def wordAt (o v : Nat) (s : State) : State := { s with mem := memWrite s.mem (lsk o) (leBytes 8 v) }
theorem test_st_bytes : ((after (exec (.st 6 5 3 0 0 0) (withX [(6, 0x0102030405060708)] (atLs 0x10800)))).rd (lsk 0x10800) 8).map (·.toNat) =
    [8, 7, 6, 5, 4, 3, 2, 1] := by decide +kernel
/-- 07 R148: AMOADD.w adds modulo 2^32 to the low word and gives the old word. -/
theorem test_amoadd_word : let s := after (exec (.amoadd 3 5 6 0 0 0) (withX [(6, 1)] (wordAt 0x10800 0x5FFFFFFFF (atLs 0x10800))))
    leNat (s.rd (lsk 0x10800) 8) = 0x500000000 := by decide +kernel
/-- 07 R144: LDF.take of a FULL word takes it and leaves EMPTY; of an EMPTY word parks. -/
theorem test_ldf_take : let s := after (exec (.ldfTake 7 5 0 0 0) (wordAt 0x10800 9 feFull))
    (x 7 s, (s.feAt wk).full, s.me.st) = (9, false, .ready) ∧ (after (exec (.ldfTake 7 5 0 0 0) (atLs 0x10800))).me.st = .parked := by decide +kernel

/-- 11: the worked softmax. VRED.max of 3, 1, 2, 3 is 3 in lane 0; VEXP2 of -2 is 0.25; VRED.add of 1, 0.25, 0.5, 1 is 2.75. -/
def lanesOf (l : List Nat) (fill : Nat) : List (BitVec 32) := l.map (BitVec.ofNat 32) ++ List.replicate (64 - l.length) (BitVec.ofNat 32 fill)
def vuRun (i : Instr) (l : List (BitVec 32)) : State :=
  after (execVuCommandExecute ⟨0, 0, 0⟩ (cor (fun k => { k with
    vq := [vuCmd i], wins := [(0, { Window.reset with vs := [(1, { lanes := l, tag := 0x80, marks := 0 })] })] }) (vec 0 0)))
def lane (s : State) (v n : Nat) : Nat := (((s.core s.cur.core).win 0).v v).lanes.getD n 0 |>.toNat
theorem test_vred_max : lane (vuRun (.vred 2 1 1 0 0 0) (lanesOf [0x40400000, 0x3F800000, 0x40000000, 0x40400000] 0xFF800000)) 2 0 = 0x40400000 := by
  decide +kernel
theorem test_vred_add : lane (vuRun (.vred 2 1 0 0 0 0) (lanesOf [0x3F800000, 0x3E800000, 0x3F000000, 0x3F800000] 0)) 2 0 = 0x40300000 := by
  decide +kernel
theorem test_vexp2 : lane (vuRun (.vexp2 4 1 0 0) (lanesOf [0, 0xC0000000, 0xBF800000] 0xFF800000)) 4 1 = 0x3E800000 ∧
    lane (vuRun (.vexp2 4 1 0 0) (lanesOf [0, 0xC0000000, 0xBF800000] 0xFF800000)) 4 9 = 0 := by decide +kernel

/-- 12: MTAG 0x1 writes the doubleword, makes it FULL and sets LASTTAG. -/
theorem test_mtag : let s := after (exec (.mtag (w64 (ls 0x10800)) 1) (mx 0 id))
    (leNat (s.rd (lsk 0x10800) 8), (s.feAt wk).full, (s.core s.cur.core).mxu.lasttag) = (1, true, 1) := by decide +kernel

/-- 16 R349: a post of KEY 77 with ADD64 folds into the held entry: each payload word is the sum. -/
theorem test_post_folds : let s := after (exec (.post 5) (posting 1 [entry (recb 77 1 0 2)]))
    ((s.part 0 0).entries.map fun e => (recPayload e.bytes 3).toNat) = [8] := by decide +kernel

/-- 22 R433: a reading of 95 degrees makes the cluster hot. -/
theorem test_sensor_hot : ((after (exec (.sensorReading 0 1 2 95) base)).cluster 18).hot = true := by decide
/-- 22 R428: a request for PS2 from SECURE lowers the caps at once to those of PS2. -/
theorem test_slew_caps : let s := after (exec (.psctlRequest 2) (secure base))
    (s.dev.slew, s.dev.capavg, s.dev.cappeak) = (true, 1400, 1800) := by decide
/-- 08 R186: PFCTL after reset is EN with DIST 4. -/
theorem test_reset_prefetch : (State.reset.cluster 3).pfctl = 0x41 := by decide

end Sys2Proof.Tests
end

section
/-! Proofs about what reset leaves (04 R57) and about the rotation by which a core issues (04 R59, R60). -/

namespace Sys2Proof.Machine.Laws

/-! What reset leaves: every map is empty, so that each of its entries reads as the reset value of its kind. -/

theorem core_reset (c : CoreId) : State.reset.core c = Core.reset := rfl
theorem ctx_reset (t : ThreadId) : State.reset.ctx t = Ctx.reset := rfl
theorem die_reset (d : Nat) : State.reset.die d = Die.reset := rfl
theorem cluster_reset (n : Nat) : State.reset.cluster n = Cluster.reset := rfl
theorem sq_reset (n : Nat) : State.reset.sq n = SubQ.reset := rfl
theorem cq_reset (n : Nat) : State.reset.cq n = CplQ.reset := rfl

/-! Which context may issue. -/

/-- A context that is no half of a pair and has no write-back to come may issue from the cycle in which it is READY. -/
theorem mayIssue_iff {s : State} {c : CoreId} {k : Nat} (n : Nat) (hs : ((s.core c).ctx k).susp = none)
    (hp : (s.launch ((s.core c).ctx k).serial).isPair = false) :
    s.mayIssue c k n = true ↔ ((s.core c).ctx k).st = .ready ∧ ((s.core c).ctx k).readyAt ≤ n := by
  simp [State.mayIssue, hs, hp]

/-- A context may issue in a cycle, and has not issued in the seven before: the test of `State.eligible`. -/
def restedIn (s : State) (c : CoreId) (n k : Nat) : Bool :=
  s.mayIssue c k n && (match ((s.core c).ctx k).lastIssue with | some m => decide (m + 8 ≤ n) | none => true)

theorem restedIn_iff {s : State} {c : CoreId} {n k : Nat} :
    restedIn s c n k = true ↔ s.mayIssue c k n = true ∧ ∀ m, ((s.core c).ctx k).lastIssue = some m → m + 8 ≤ n := by
  cases h : ((s.core c).ctx k).lastIssue <;> simp [restedIn, h]

/-- How far a context's number lies behind that of the context that issued last, the next number being 0. -/
def behind (last k : Nat) : Nat := (k + 15 - last) % 16

theorem behind_rotation {last i : Nat} (hl : last < 16) (hi : i < 16) : behind last ((last + 1 + i) % 16) = i := by
  unfold behind; omega

theorem rotation_behind {last k : Nat} (hl : last < 16) (hk : k < 16) : (last + 1 + behind last k) % 16 = k := by
  unfold behind; omega

theorem behind_lt (last k : Nat) : behind last k < 16 := Nat.mod_lt _ (by decide)

/-! The cycle and the context of the next issue, at T0. -/

/-- Cycle `m` has an issue: of the context that owns it. -/
def T0Issues (s : State) (c : CoreId) (m : Nat) : Prop := s.mayIssue c (m % 16) m = true ∧ (s.core c).issuedIn ≠ some m

theorem nextT0_none {s : State} {c : CoreId} : s.nextT0 c = none ↔ ∀ j < 17, ¬T0Issues s c (s.cyc c + j) := by
  simp [State.nextT0, T0Issues]

theorem nextT0_some {s : State} {c : CoreId} {k n : Nat} (h : s.nextT0 c = some (k, n)) :
    s.cyc c ≤ n ∧ k = n % 16 ∧ T0Issues s c n ∧ ∀ m, s.cyc c ≤ m → m < n → ¬T0Issues s c m := by
  simp only [State.nextT0, Option.map_eq_some_iff, List.find?_range_eq_some, Prod.mk.injEq] at h
  obtain ⟨j, ⟨hj, -, hmin⟩, rfl, rfl⟩ := h
  refine ⟨by omega, rfl, by simpa [T0Issues] using hj, fun m h1 h2 => ?_⟩
  have hm := hmin (m - s.cyc c) (by omega)
  rw [Nat.add_sub_cancel' h1] at hm
  simpa [T0Issues, imp_iff_not_or] using hm

/-! The same at another tier. -/

theorem eligible_eq {s : State} {c : CoreId} {n : Nat} (ho : (s.core c).issuedIn ≠ some n) :
    s.eligible c n = ((List.range 16).map fun j => ((s.core c).lastCtx + 1 + j) % 16).find? (restedIn s c n) := if_neg ho

theorem eligible_none {s : State} {c : CoreId} {n : Nat} (hl : (s.core c).lastCtx < 16) (ho : (s.core c).issuedIn ≠ some n) :
    s.eligible c n = none ↔ ∀ k < 16, restedIn s c n k = false := by
  rw [eligible_eq ho]
  simp only [List.find?_eq_none, List.mem_map, List.mem_range, Bool.not_eq_true]
  constructor
  · exact fun h k hk => h k ⟨_, behind_lt _ k, rotation_behind hl hk⟩
  · rintro h k ⟨i, -, rfl⟩
    exact h _ (Nat.mod_lt _ (by decide))

theorem eligible_some {s : State} {c : CoreId} {n k : Nat} (hl : (s.core c).lastCtx < 16) (h : s.eligible c n = some k) :
    (s.core c).issuedIn ≠ some n ∧ k < 16 ∧ restedIn s c n k = true ∧
      ∀ j < 16, restedIn s c n j = true → behind (s.core c).lastCtx k ≤ behind (s.core c).lastCtx j := by
  by_cases ho : (s.core c).issuedIn = some n
  · simp [State.eligible, ho] at h
  · rw [eligible_eq ho, List.find?_map, Option.map_eq_some_iff] at h
    obtain ⟨i, hi, rfl⟩ := h
    obtain ⟨hr, hi, hmin⟩ := List.find?_range_eq_some.mp hi
    refine ⟨ho, Nat.mod_lt _ (by decide), hr, fun j hj hrj => ?_⟩
    rw [behind_rotation hl (List.mem_range.mp hi)]
    by_contra hlt
    have hm := hmin (behind (s.core c).lastCtx j) (by omega)
    rw [Function.comp_apply, rotation_behind hl hj, hrj] at hm
    cases hm

/-- A search over a range gives what its least number with an answer gives. -/
theorem findSome_range {α : Type} {f : Nat → Option α} {a : α} {n : Nat} (h : (List.range n).findSome? f = some a) :
    ∃ j < n, f j = some a ∧ ∀ i < j, f i = none := by
  induction n with
  | zero => simp at h
  | succ n ih =>
    rw [List.range_succ, List.findSome?_append, Option.or_eq_some_iff] at h
    rcases h with h | ⟨h, hn⟩
    · obtain ⟨j, hj, hr⟩ := ih h
      exact ⟨j, by omega, hr⟩
    · exact ⟨n, by omega, by simpa using hn, by simpa using h⟩

theorem nextTn_none {s : State} {c : CoreId} : s.nextTn c = none ↔ ∀ j < 9, s.eligible c (s.cyc c + j) = none := by
  simp [State.nextTn]

theorem nextTn_some {s : State} {c : CoreId} {k n : Nat} (h : s.nextTn c = some (k, n)) :
    s.cyc c ≤ n ∧ s.eligible c n = some k ∧ ∀ m, s.cyc c ≤ m → m < n → s.eligible c m = none := by
  obtain ⟨j, -, hj, hmin⟩ := findSome_range h
  simp only [Option.map_eq_some_iff, Prod.mk.injEq, Option.map_eq_none_iff] at hj hmin
  obtain ⟨k, hk, rfl, rfl⟩ := hj
  refine ⟨by omega, hk, fun m h1 h2 => ?_⟩
  have hm := hmin (m - s.cyc c) (by omega)
  rwa [Nat.add_sub_cancel' h1] at hm

theorem nextIssue_tier0 {s : State} {c : CoreId} (h : c.tier = 0) : s.nextIssue c = s.nextT0 c := if_pos h
theorem nextIssue_tierN {s : State} {c : CoreId} (h : c.tier ≠ 0) : s.nextIssue c = s.nextTn c := if_neg h

/-- The next issue of a core comes in a cycle that its clock has not passed. -/
theorem cyc_le_nextIssue {s : State} {c : CoreId} {k n : Nat} (h : s.nextIssue c = some (k, n)) : s.cyc c ≤ n := by
  unfold State.nextIssue at h
  split at h
  · exact (nextT0_some h).1
  · exact (nextTn_some h).1

/-! A core with no pair and no write-back to come, whose past issues lie in no later cycle than its clock. -/

/-- A context is READY in a cycle. -/
def ReadyIn (s : State) (c : CoreId) (n k : Nat) : Prop :=
  k < 16 ∧ ((s.core c).ctx k).st = .ready ∧ ((s.core c).ctx k).readyAt ≤ n

/-- What the rotation asks of a core. -/
structure PlainCore (s : State) (c : CoreId) : Prop where
  last : (s.core c).lastCtx < 16
  single : ∀ k, k < 16 → ((s.core c).ctx k).susp = none ∧ (s.launch ((s.core c).ctx k).serial).isPair = false
  issued : ∀ k m, k < 16 → ((s.core c).ctx k).lastIssue = some m → m ≤ s.cyc c
  taken : ∀ m, (s.core c).issuedIn = some m → m ≤ s.cyc c
  woken : ∀ k, k < 16 → ((s.core c).ctx k).readyAt ≤ s.cyc c + 1

namespace PlainCore

variable {s : State} {c : CoreId} {n k : Nat} (h : PlainCore s c)
include h

theorem mayIssue (hk : k < 16) : s.mayIssue c k n = true ↔ ReadyIn s c n k := by
  obtain ⟨hs, hp⟩ := h.single k hk
  rw [mayIssue_iff n hs hp]
  exact (and_iff_right hk).symm

/-- A context that is READY at all is so from the cycle after the clock's. -/
theorem readyNext (hr : ReadyIn s c n k) : ReadyIn s c (s.cyc c + 1) k := ⟨hr.1, hr.2.1, h.woken k hr.1⟩

theorem open_of_lt (hn : s.cyc c < n) : (s.core c).issuedIn ≠ some n := fun e => Nat.not_lt.mpr (h.taken n e) hn

theorem t0Issues : T0Issues s c n ↔ ReadyIn s c n (n % 16) ∧ (s.core c).issuedIn ≠ some n := by
  rw [T0Issues, h.mayIssue (Nat.mod_lt _ (by decide))]

theorem restedIn_iff (hk : k < 16) :
    restedIn s c n k = true ↔ ReadyIn s c n k ∧ ∀ m, ((s.core c).ctx k).lastIssue = some m → m + 7 < n := by
  rw [Laws.restedIn_iff, h.mayIssue hk]
  rfl

/-- Eight cycles on, a context that is READY has rested. -/
theorem restedIn_later (hr : ReadyIn s c (s.cyc c + 1) k) : restedIn s c (s.cyc c + 8) k = true := by
  obtain ⟨hk, hst, hat⟩ := hr
  refine (h.restedIn_iff hk).mpr ⟨⟨hk, hst, by omega⟩, fun m hm => ?_⟩
  have := h.issued k m hk hm
  omega

/-- At T0 a context that is READY comes to a cycle of its own within sixteen. -/
theorem nextT0_none : s.nextT0 c = none ↔ ∀ k, ¬ReadyIn s c (s.cyc c + 1) k := by
  rw [Laws.nextT0_none]
  constructor
  · rintro hno k ⟨hk, hst, hat⟩
    have hown : (s.cyc c + ((k + 15 - s.cyc c % 16) % 16 + 1)) % 16 = k := by omega
    refine hno ((k + 15 - s.cyc c % 16) % 16 + 1) (by omega) (h.t0Issues.mpr ⟨?_, h.open_of_lt (by omega)⟩)
    rw [hown]
    exact ⟨hk, hst, by omega⟩
  · exact fun hno j _ hj => hno _ (h.readyNext (h.t0Issues.mp hj).1)

/-- At another tier it comes to one within nine. -/
theorem nextTn_none : s.nextTn c = none ↔ ∀ k, ¬ReadyIn s c (s.cyc c + 1) k := by
  rw [Laws.nextTn_none]
  constructor
  · intro hno k hr
    have he := (eligible_none h.last (h.open_of_lt (by omega))).mp (hno 8 (by omega)) k hr.1
    rw [h.restedIn_later hr] at he
    cases he
  · intro hno j _
    by_contra he
    obtain ⟨k, hk⟩ := Option.ne_none_iff_exists'.mp he
    obtain ⟨-, hk16, hr, -⟩ := eligible_some h.last hk
    exact hno k (h.readyNext ((h.restedIn_iff hk16).mp hr).1)

theorem nextIssue_none : s.nextIssue c = none ↔ ∀ k, ¬ReadyIn s c (s.cyc c + 1) k := by
  by_cases ht : c.tier = 0
  · rw [nextIssue_tier0 ht, h.nextT0_none]
  · rw [nextIssue_tierN ht, h.nextTn_none]

/-- The next issue at T0 is in the first open cycle that a READY context owns. -/
theorem nextIssue_t0 (ht : c.tier = 0) (hn : s.nextIssue c = some (k, n)) :
    (s.core c).issuedIn ≠ some n ∧ ReadyIn s c n k ∧ n % 16 = k ∧
      ∀ m, s.cyc c ≤ m → m < n → (s.core c).issuedIn ≠ some m → ¬ReadyIn s c m (m % 16) := by
  rw [nextIssue_tier0 ht] at hn
  obtain ⟨-, rfl, hi, hmin⟩ := nextT0_some hn
  obtain ⟨hr, ho⟩ := h.t0Issues.mp hi
  exact ⟨ho, hr, rfl, fun m h1 h2 hm hrm => hmin m h1 h2 (h.t0Issues.mpr ⟨hrm, hm⟩)⟩

/-- The next issue at another tier is in the first open cycle with a context that is READY and has rested, and of those contexts the closest behind. -/
theorem nextIssue_tn (ht : c.tier ≠ 0) (hn : s.nextIssue c = some (k, n)) :
    (s.core c).issuedIn ≠ some n ∧ k < 16 ∧ restedIn s c n k = true ∧
      (∀ j < 16, restedIn s c n j = true → behind (s.core c).lastCtx k ≤ behind (s.core c).lastCtx j) ∧
      ∀ m j, s.cyc c ≤ m → m < n → (s.core c).issuedIn ≠ some m → j < 16 → restedIn s c m j = false := by
  rw [nextIssue_tierN ht] at hn
  obtain ⟨-, he, hmin⟩ := nextTn_some hn
  obtain ⟨ho, hk, hr, hb⟩ := eligible_some h.last he
  exact ⟨ho, hk, hr, hb, fun m j h1 h2 hm hj => (eligible_none h.last hm).mp (hmin m h1 h2) j hj⟩

end PlainCore

/-! The clock of a tier. -/

/-- The earlier of a tier's issue found so far and that of one more core: the step of `State.tierNext`. -/
def tierStep (s : State) (tier : Nat) (b : Option (CoreId × Nat)) (x : Nat × Core) : Option (CoreId × Nat) :=
  if (coreOf x.1).tier ≠ tier then b
  else match s.nextIssue (coreOf x.1), b with
    | some (_, m), some (d, n) => if m < n then some (coreOf x.1, m) else some (d, n)
    | some (_, m), none => some (coreOf x.1, m)
    | none, b => b

theorem tierNext_eq (s : State) (tier : Nat) : s.tierNext tier = s.cores.foldl (tierStep s tier) none := rfl

/-- An issue is found that comes no later than cycle `m`. -/
def FoundBy (m : Nat) (b : Option (CoreId × Nat)) : Prop := ∃ d n, b = some (d, n) ∧ n ≤ m

theorem tierStep_keeps {s : State} {tier m : Nat} {b : Option (CoreId × Nat)} (x : Nat × Core) (h : FoundBy m b) :
    FoundBy m (tierStep s tier b x) := by
  obtain ⟨d, n, rfl, hn⟩ := h
  unfold tierStep
  split
  · exact ⟨d, n, rfl, hn⟩
  · rcases s.nextIssue (coreOf x.1) with _ | ⟨k, i⟩
    · exact ⟨d, n, rfl, hn⟩
    · simp only
      split
      · exact ⟨_, i, rfl, by omega⟩
      · exact ⟨d, n, rfl, hn⟩

theorem tierStep_finds {s : State} {tier k m : Nat} (b : Option (CoreId × Nat)) {x : Nat × Core} (ht : (coreOf x.1).tier = tier)
    (h : s.nextIssue (coreOf x.1) = some (k, m)) : FoundBy m (tierStep s tier b x) := by
  rcases b with _ | ⟨d, n⟩
  · exact ⟨coreOf x.1, m, by simp [tierStep, ht, h], le_rfl⟩
  · by_cases hm : m < n
    · exact ⟨coreOf x.1, m, by simp [tierStep, ht, h, hm], le_rfl⟩
    · exact ⟨d, n, by simp [tierStep, ht, h, hm], by omega⟩

theorem tierStep_some {s : State} {tier n : Nat} {b : Option (CoreId × Nat)} {x : Nat × Core} {d : CoreId}
    (h : tierStep s tier b x = some (d, n)) : b = some (d, n) ∨ (d.tier = tier ∧ ∃ k, s.nextIssue d = some (k, n)) := by
  unfold tierStep at h
  split at h
  · exact .inl h
  · rename_i ht
    have ht : (coreOf x.1).tier = tier := by simpa using ht
    rcases hx : s.nextIssue (coreOf x.1) with _ | ⟨k, m⟩ <;> simp only [hx] at h
    · exact .inl h
    · rcases b with _ | ⟨d', n'⟩ <;> simp only at h
      · cases h; exact .inr ⟨ht, k, hx⟩
      · split at h
        · cases h; exact .inr ⟨ht, k, hx⟩
        · exact .inl h

theorem tierFold_finds {s : State} {tier m : Nat} (l : List (Nat × Core)) {b : Option (CoreId × Nat)}
    (h : FoundBy m b ∨ ∃ x ∈ l, (coreOf x.1).tier = tier ∧ ∃ k, s.nextIssue (coreOf x.1) = some (k, m)) :
    FoundBy m (l.foldl (tierStep s tier) b) := by
  induction l generalizing b with
  | nil => simpa using h
  | cons y l ih =>
    refine ih ?_
    rcases h with h | ⟨x, hx, ht, k, hk⟩
    · exact .inl (tierStep_keeps y h)
    · rcases List.mem_cons.mp hx with rfl | hx
      · exact .inl (tierStep_finds b ht hk)
      · exact .inr ⟨x, hx, ht, k, hk⟩

theorem tierFold_some {s : State} {tier n : Nat} (l : List (Nat × Core)) {b : Option (CoreId × Nat)} {d : CoreId}
    (h : l.foldl (tierStep s tier) b = some (d, n)) : b = some (d, n) ∨ (d.tier = tier ∧ ∃ k, s.nextIssue d = some (k, n)) := by
  induction l generalizing b with
  | nil => exact .inl h
  | cons y l ih =>
    rcases ih h with h | h
    · exact tierStep_some h
    · exact .inr h

/-- No core of a tier issues before the tier's next issue. -/
theorem tierNext_le {s : State} {k m : Nat} {x : Nat × Core} (hx : x ∈ s.cores) (h : s.nextIssue (coreOf x.1) = some (k, m)) :
    FoundBy m (s.tierNext (coreOf x.1).tier) :=
  tierFold_finds s.cores (.inr ⟨x, hx, rfl, k, h⟩)

/-- A tier's next issue comes in a cycle that its clock has not passed. -/
theorem clock_le_tierNext {s : State} {tier n : Nat} {d : CoreId} (h : s.tierNext tier = some (d, n)) : mget 0 s.clocks tier ≤ n := by
  rcases tierFold_some s.cores h with h | ⟨rfl, k, hk⟩
  · cases h
  · exact cyc_le_nextIssue hk

/-- Cycles that pass change the tier's clock and nothing else; it stands while the clocks are stopped. -/
theorem passCycles_eq (s : State) (tier n : Nat) : s.passCycles tier n = { s with clocks := (s.passCycles tier n).clocks } := by
  unfold State.passCycles; split <;> rfl

theorem passCycles_stopped {s : State} (tier n : Nat) (h : s.clocked = false) : s.passCycles tier n = s := by
  simp [State.passCycles, h]

theorem passCycles_clock {s : State} (tier n : Nat) (h : s.clocked = true) : mget 0 (s.passCycles tier n).clocks tier =
    (s.tierNext tier).elim (mget 0 s.clocks tier + n) (fun x => min (mget 0 s.clocks tier + n) x.2) := by
  cases hn : s.tierNext tier <;> simp [State.passCycles, h, hn, mget_mset_self]

/-- A tier's clock does not go back, goes on by no more than the cycles that pass, and passes over no issue of the tier. -/
theorem passCycles_bounds (s : State) (tier n : Nat) :
    mget 0 s.clocks tier ≤ mget 0 (s.passCycles tier n).clocks tier ∧
      mget 0 (s.passCycles tier n).clocks tier ≤ mget 0 s.clocks tier + n ∧
      ∀ x ∈ s.cores, ∀ k m, (coreOf x.1).tier = tier → s.nextIssue (coreOf x.1) = some (k, m) →
        mget 0 (s.passCycles tier n).clocks tier ≤ m := by
  by_cases hc : s.clocked = true
  · rw [passCycles_clock tier n hc]
    rcases hn : s.tierNext tier with _ | ⟨d, i⟩ <;> simp only [Option.elim_none, Option.elim_some]
    · refine ⟨by omega, le_rfl, fun x hx k m ht hk => ?_⟩
      obtain ⟨d, i, hi, -⟩ := tierNext_le hx hk
      simp [ht, hn] at hi
    · have hle := clock_le_tierNext hn
      refine ⟨by omega, by omega, fun x hx k m ht hk => ?_⟩
      obtain ⟨d', i', hi, him⟩ := tierNext_le hx hk
      rw [ht, hn] at hi
      cases hi
      omega
  · rw [passCycles_stopped tier n (by simpa using hc)]
    exact ⟨le_rfl, by omega, fun x _ k m ht hk => ht ▸ cyc_le_nextIssue hk⟩

/-- The step of a turn that lets cycles pass. -/
theorem step_tick {s : State} {tier n : Nat} {rest : List Turn} (hh : s.hole = none) (hr : s.resume = []) (hs : s.sched = .tick tier n :: rest)
    (hp : s.dev.powered = true) : step s = .next (State.passCycles { s with sched := rest } tier n) := by
  simp [step, hh, hr, hs, State.turn, hp]

end Sys2Proof.Machine.Laws

open Sys2Proof Sys2Proof.Machine Sys2Proof.Machine.Laws

/-- Settles O55: every map of the reset state is empty, and every register has its reset value. -/
theorem resetValues : Obligations.ResetValues := by
  unfold Obligations.ResetValues
  simp only [core_reset, ctx_reset, die_reset, cluster_reset, sq_reset, cq_reset]
  exact ⟨fun _ => ⟨rfl, rfl, rfl⟩, fun _ _ => ⟨rfl, rfl, rfl, rfl, rfl, rfl, rfl⟩, fun _ _ => ⟨rfl, rfl, rfl, rfl, rfl, rfl⟩,
    rfl, rfl, rfl, rfl, rfl, rfl, rfl, wf_reset⟩

/-- Settles O59: the rotation by the least cycle, and the least distance behind the last to issue, that `State.nextIssue` looks for; the clock by
the least next issue of the tier's cores. -/
theorem issueRotation : Obligations.IssueRotation := by
  unfold Obligations.IssueRotation
  refine ⟨fun c => rfl, fun s c hl hplain => ?_, fun s tier n rest hh hr hs hp => ?_⟩
  · intro now open_ hlast hin hready ready free after
    have h : PlainCore s c := ⟨hl, hplain, hlast, hin, hready⟩
    have hfree : ∀ m j, free m j → j < 16 ∧ restedIn s c m j = true := fun m j hj => ⟨hj.1.1, (h.restedIn_iff hj.1.1).mpr hj⟩
    refine ⟨h.nextIssue_none, fun k n hn => ⟨cyc_le_nextIssue hn, ?_⟩⟩
    by_cases ht : c.tier = 0
    · obtain ⟨ho, hr⟩ := h.nextIssue_t0 ht hn
      exact ⟨ho, fun _ => hr, fun hne => absurd ht hne⟩
    · obtain ⟨ho, hk, hr, hb, hmin⟩ := h.nextIssue_tn ht hn
      refine ⟨ho, fun h0 => absurd h0 ht, fun _ => ⟨(h.restedIn_iff hk).mp hr, fun j hj => ?_, fun m j h1 h2 hm hj => ?_⟩⟩
      · obtain ⟨hj16, hrj⟩ := hfree n j hj
        exact hb j hj16 hrj
      · obtain ⟨hj16, hrj⟩ := hfree m j hj
        rw [hmin m j h1 h2 hm hj16] at hrj
        cases hrj
  · refine ⟨_, step_tick hh hr hs hp, passCycles_eq _ _ _, fun h3 hslew => ?_, passCycles_bounds { s with sched := rest } tier n⟩
    rw [passCycles_stopped tier n (by simp [State.clocked, h3, hslew])]

end

section
/-! Proofs that a step runs the decoded instruction (04 R59, R60; 05 R88, R89, R99; 10 R222, R224; 12 R256; 13 R295). -/

namespace Sys2Proof.Machine.Laws

/-! The fetch. -/

/-- A 16-bit instruction at the pc. -/
theorem fetch_half {s : State} {t : ThreadId} {h : Nat} {i : Instr}
    (h0 : s.codeHalf (s.launchOf t) t.core ((s.ctx t).pc + w64 0) = .ok h) (hh : h < 32768) (hd : decodeHalf h = .ok (.instr i)) :
    s.fetch t = .instr i 0 false none 2 := by
  simp only [State.fetch, State.fetchFrom, h0, hh, hd, if_true, Bool.false_and, Bool.false_eq_true, if_false]

/-- A 32-bit instruction at the pc. -/
theorem fetch_wide {s : State} {t : ThreadId} {h g : Nat} {i : Instr}
    (h0 : s.codeHalf (s.launchOf t) t.core ((s.ctx t).pc + w64 0) = .ok h)
    (h2 : s.codeHalf (s.launchOf t) t.core ((s.ctx t).pc + w64 2) = .ok g) (hh : 32768 ≤ h)
    (hd : decodeWide (h * 65536 + g) = .ok i) : s.fetch t = .instr i 0 false none 4 := by
  simp only [State.fetch, State.fetchFrom, h0, Nat.not_lt.mpr hh, Nat.zero_add, h2, hd, if_false, Bool.false_and, Bool.false_eq_true]

/-- The fetch reads memory, its marks, the tables and the instruction cache of its core, not the rotation. -/
theorem codeHalf_frame (s : State) (cores : SMap Core) (clocks : SMap Nat) (cur : ThreadId) (l : Launch) (c : CoreId) (a : Word)
    (h : (mget Core.reset cores (coreKey c)).icache = (s.core c).icache) :
    State.codeHalf { s with cores := cores, clocks := clocks, cur := cur } l c a = s.codeHalf l c a := by
  have hl (n : Nat) (k : Acc1) : State.locate { s with cores := cores, clocks := clocks, cur := cur } l c a n k = s.locate l c a n k := rfl
  simp only [State.codeHalf, hl]
  rw [show (State.core { s with cores := cores, clocks := clocks, cur := cur } c).icache = (s.core c).icache from h]
  rfl

theorem fetchFrom_congr {s u : State} {l : Launch} {c : CoreId} {pc : Word} (h : ∀ a, u.codeHalf l c a = s.codeHalf l c a) (n pfx : Nat) (rlx : Bool)
    (pred : Option (Bool × BitVec 3)) : u.fetchFrom l c pc n pfx rlx pred = s.fetchFrom l c pc n pfx rlx pred := by
  induction n generalizing pfx rlx pred with
  | zero => rfl
  | succ n ih => simp only [State.fetchFrom, h, ih]

/-! A core's turn. -/

@[simp] theorem thread_core (c : CoreId) (k : Nat) : (c.thread k).core = c := rfl

/-- A context keeps its state when another context of its core is written. -/
theorem ctx_setCtx_thread {s : State} {c : CoreId} {j k : Nat} (h : j ≠ k) (x : Ctx) :
    (s.setCtx (c.thread k) x).ctx (c.thread j) = s.ctx (c.thread j) := by
  have hne : (c.thread j).ctx ≠ (c.thread k).ctx := h
  simp [State.ctx, State.setCtx, Core.ctx, Core.setCtx, mget_mset_ne _ _ _ hne]

theorem ctx_updCtx_thread {s : State} {c : CoreId} {j k : Nat} (h : j ≠ k) (f : Ctx → Ctx) :
    (s.updCtx (c.thread k) f).ctx (c.thread j) = s.ctx (c.thread j) := ctx_setCtx_thread h _

theorem issuing_cur (s : State) (c : CoreId) (k n : Nat) (t : ThreadId) : (issuing s c k n t).cur = t := rfl

theorem ctx_issuing_self (s : State) (c : CoreId) (k n : Nat) (t : ThreadId) :
    (issuing s c k n t).ctx (c.thread k) = { s.ctx (c.thread k) with lastIssue := some n } := by
  simp [issuing, State.ctx, State.updCtx, State.setCtx, State.core, State.updCore, State.setCore, mget_mset_self, Core.setCtx, Core.ctx]

theorem ctx_issuing_other {s : State} {c : CoreId} {j k : Nat} (h : j ≠ k) (n : Nat) (t : ThreadId) :
    (issuing s c k n t).ctx (c.thread j) = s.ctx (c.thread j) := by
  rw [issuing, ctx_updCtx_thread h]
  simp [State.ctx, State.core, State.updCore, State.setCore, mget_mset_self, Core.ctx]

/-- Does context `k` issue as the trailer of a pair? -/
def Trails (s : State) (c : CoreId) (k : Nat) : Prop := (s.launchOf (c.thread k)).isPair = true ∧ 8 ≤ k

theorem trails_iff {s : State} {c : CoreId} {k : Nat} :
    ((s.launch ((s.core c).ctx k).serial).isPair && decide (8 ≤ k)) = true ↔ Trails s c k := by
  rw [Bool.and_eq_true, decide_eq_true_eq]
  rfl

/-- The turn of a core at which a thread of no pair, or a leader, issues. -/
theorem coreTurn_issues {s : State} {c : CoreId} {k n : Nat} (hf : s.firstDue c = c) (hc : s.clocked = true)
    (hn : s.nextIssue c = some (k, n)) (ht : ¬Trails s c k) :
    s.coreTurn c = ((issuing s c k n (c.thread k)).updMe fun x => { x with pfx := 0, rlx := false }).issue := by
  rw [← trails_iff, Bool.not_eq_true] at ht
  simp only [State.coreTurn, hf, hc, hn, ht, if_true, Bool.false_eq_true, if_false]
  rfl

/-- The turn of a core at which a trailer issues. -/
theorem coreTurn_trails {s : State} {c : CoreId} {k n : Nat} (hf : s.firstDue c = c) (hc : s.clocked = true)
    (hn : s.nextIssue c = some (k, n)) (ht : Trails s c k) : s.coreTurn c = (issuing s c k n (c.thread (k - 8))).issueTrailer := by
  rw [← trails_iff] at ht
  simp only [State.coreTurn, hf, hc, hn, ht, if_true]
  rfl

/-- A step takes the turn of the core whose turn it is. -/
theorem step_turn {s : State} {c : CoreId} {k n : Nat} {rest : List Turn} (h : Issues s c k n rest) :
    step s = State.coreTurn { s with sched := rest } c := by
  obtain ⟨⟨hh, hr⟩, ht, ⟨hp, -⟩, -, -⟩ := h
  rcases ht with ⟨hs, rfl, rfl⟩ | hs
  · have he : { s with sched := [] } = s := by rw [← hs]
    rw [he]
    simp only [step, hh, hr, hs, State.turn, hp, Bool.not_true, Bool.false_eq_true, if_false]
  · simp only [step, hh, hr, hs, State.turn, hp, Bool.not_true, Bool.false_eq_true, if_false]

theorem step_issues {s : State} {c : CoreId} {k n : Nat} {rest : List Turn} (h : Issues s c k n rest) (ht : ¬Trails s c k) :
    step s = ((issuing { s with sched := rest } c k n (c.thread k)).updMe fun x => { x with pfx := 0, rlx := false }).issue :=
  (step_turn h).trans (coreTurn_issues h.first h.on.2 h.next ht)

theorem step_trails {s : State} {c : CoreId} {k n : Nat} {rest : List Turn} (h : Issues s c k n rest) (ht : Trails s c k) :
    step s = (issuing { s with sched := rest } c k n (c.thread (k - 8))).issueTrailer :=
  (step_turn h).trans (coreTurn_trails h.first h.on.2 h.next ht)

/-! The effect of the instruction. -/

theorem launchOf_updMe {s : State} {f : Ctx → Ctx} (h : (f s.me).serial = s.me.serial) : (s.updMe f).launchOf s.cur = s.launchOf s.cur := by
  show s.launch ((s.updMe f).me).serial = s.launch s.me.serial
  rw [me_updMe, h]

theorem trailer_updMe {s : State} {f : Ctx → Ctx} (h : (f s.me).serial = s.me.serial) : (s.updMe f).trailer s.cur = s.trailer s.cur := by
  simp only [State.trailer, launchOf_updMe h]

theorem trailer_single {s : State} {t : ThreadId} (h : (s.launchOf t).isPair = false) : s.trailer t = none := by
  simp [State.trailer, h]

theorem trailer_leader {s : State} {c : CoreId} {k : Nat} (h : (s.launchOf (c.thread k)).isPair = true) (hk : k < 8) :
    s.trailer (c.thread k) = some (c.thread (k + 8)) := if_pos ⟨h, hk⟩

/-- A trailer is eight contexts on from its leader. -/
theorem trailer_eq_some {s : State} {t u : ThreadId} (h : s.trailer t = some u) : u = t.core.thread (t.ctx + 8) := by
  unfold State.trailer at h
  split at h
  · exact (Option.some.inj h).symm
  · cases h

/-- Consuming a mark in a context that has been written sets CIR bit 0, or does nothing. -/
theorem updMe_consume (s : State) (f : Ctx → Ctx) (m : Bool) : ((s.updMe f).updMe fun c => c.consume m) =
    if m = true then (s.updMe f).updMe fun c => { c with cir := c.cir ||| 1 } else s.updMe f := by
  cases m <;> simp [updMe_updMe, Ctx.consume]

theorem updMe_consume_pend (s : State) (f : Ctx → Ctx) (m : Bool) : ((s.updMe f).updMe fun c => c.consume m).me.pend = (f s.me).pend := by
  rw [me_updMe, me_updMe, consume_pend]

/-- With no ILLEGAL encoding and nothing in flight, an instruction has the effect of its predicate and its meaning. -/
theorem effect_predicated {s : State} {f : Ctx → Ctx} {i : Instr} (pred : Option (Bool × BitVec 3)) (len : Nat) (hi : illegalAt i = none)
    (hp : (f s.me).pend = []) : State.effect i pred len (s.updMe f) = predicated (s.updMe f) i pred len := by
  have hw (m : Bool) : ((s.updMe f).updMe fun c => c.consume m).waitRegs i (fun s => exec i s) =
      exec i ((s.updMe f).updMe fun c => c.consume m) := waitRegs_nil _ _ _ (by rw [updMe_consume_pend, hp])
  rcases pred with _ | ⟨inv, p⟩
  · simp only [State.effect, hi, Ctx.predOk, Ctx.predMark, if_true, hw, predicated]
    rw [updMe_consume]
    rfl
  · simp only [State.effect, hi, Ctx.predOk, Ctx.predMark, hw, predicated]
    rw [updMe_consume]
    by_cases hv : (s.updMe f).me.p p.toNat = inv
    · rw [if_neg (by simpa using hv), if_pos hv]
      cases (s.updMe f).me.pp p.toNat <;> rfl
    · rw [if_pos (by simpa using hv), if_neg hv]

theorem perform1_eq (s : State) (i : Instr) (pfx len : Nat) (rlx : Bool) (pred : Option (Bool × BitVec 3)) (got : Option Word) :
    s.perform1 i pfx rlx pred len got = afterIssue s.cur ((prefixed s pfx rlx got).run i pred (State.effect i pred len)) := rfl

theorem run_single {s : State} (i : Instr) (pred : Option (Bool × BitVec 3)) (f : State → Res) (h : s.trailer s.cur = none) :
    s.run i pred f = f s := by
  simp only [State.run, h]

theorem run_pair {s : State} {u : ThreadId} (i : Instr) (pred : Option (Bool × BitVec 3)) (f : State → Res) (h : s.trailer s.cur = some u) :
    s.run i pred f = s.pairRun s.cur u i pred f := by
  simp only [State.run, h]

/-- Outside pairs the issued instruction runs at once. -/
theorem perform1_single {s : State} {i : Instr} (pred : Option (Bool × BitVec 3)) (pfx len : Nat) (rlx : Bool) (got : Option Word)
    (ht : s.trailer s.cur = none) (hi : illegalAt i = none) (hp : s.me.pend = []) :
    s.perform1 i pfx rlx pred len got = afterIssue s.cur (predicated (prefixed s pfx rlx got) i pred len) := by
  have hq : (prefixed s pfx rlx got).trailer s.cur = none := (trailer_updMe rfl).trans ht
  rw [perform1_eq, run_single _ _ _ hq, prefixed, effect_predicated pred len hi hp]

theorem issue_single {s : State} {i : Instr} {pfx len : Nat} {rlx : Bool} {pred : Option (Bool × BitVec 3)}
    (hf : s.fetch s.cur = .instr i pfx rlx pred len) (ht : s.trailer s.cur = none) :
    s.issue = s.perform1 i pfx rlx pred len (s.reads s.cur i) := by
  simp only [State.issue, hf, ht, Option.isSome_none, Bool.false_eq_true, if_false]

theorem issue_leader {s : State} {i : Instr} {pfx len : Nat} {rlx : Bool} {pred : Option (Bool × BitVec 3)} {u : ThreadId}
    (hf : s.fetch s.cur = .instr i pfx rlx pred len) (ht : s.trailer s.cur = some u) :
    s.issue = .next (s.updMe fun x =>
      { x with ahead := some { instr := i, pfx := pfx, rlx := rlx, pred := pred, len := len, got := s.reads s.cur i } }) := by
  simp only [State.issue, hf, ht, Option.isSome_some, if_true]

/-! The state in which a context issues. -/

/-- The state in which the fetch of context `k` takes place. -/
def fetching (s : State) (c : CoreId) (k n : Nat) : State := (issuing s c k n (c.thread k)).updMe fun x => { x with pfx := 0, rlx := false }

theorem core_updCtx (s : State) (c : CoreId) (k : Nat) (f : Ctx → Ctx) :
    (s.updCtx (c.thread k) f).core c = (s.core c).setCtx k (f (s.ctx (c.thread k))) := by
  simp only [State.updCtx, State.setCtx, thread_core, core_updCore]
  rfl

theorem ctx_fetching (s : State) (c : CoreId) (k n : Nat) :
    (fetching s c k n).ctx (c.thread k) = { s.ctx (c.thread k) with lastIssue := some n, pfx := 0, rlx := false } := by
  rw [fetching, State.updMe, issuing_cur, ctx_updCtx, ctx_issuing_self]

theorem launchOf_fetching (s : State) (c : CoreId) (k n : Nat) : (fetching s c k n).launchOf (c.thread k) = s.launchOf (c.thread k) := by
  show s.launch ((fetching s c k n).ctx (c.thread k)).serial = _
  rw [ctx_fetching]
  rfl

theorem icache_fetching (s : State) (c : CoreId) (k n : Nat) : ((fetching s c k n).core c).icache = (s.core c).icache := by
  rw [fetching, State.updMe, issuing_cur, core_updCtx, issuing, core_updCtx]
  show ((s.updCore c fun x => { x with lastCtx := k, issuedIn := some n }).core c).icache = _
  rw [core_updCore]

/-- The issue itself changes nothing that the fetch reads. -/
theorem fetch_fetching (s : State) (c : CoreId) (k n : Nat) : (fetching s c k n).fetch (c.thread k) = s.fetch (c.thread k) := by
  have hc (l : Launch) (a : Word) : (fetching s c k n).codeHalf l c a = s.codeHalf l c a :=
    codeHalf_frame s (fetching s c k n).cores (fetching s c k n).clocks (fetching s c k n).cur l c a (icache_fetching s c k n)
  simp only [State.fetch, launchOf_fetching, ctx_fetching, thread_core]
  exact fetchFrom_congr (hc _) _ _ _ _

theorem fetch_sched (s : State) (rest : List Turn) (t : ThreadId) : State.fetch { s with sched := rest } t = s.fetch t :=
  fetchFrom_congr (fun _ => rfl) _ _ _ _

/-- A thread of no pair issues and runs its instruction in one step. -/
theorem step_single {s : State} {c : CoreId} {k n pfx len : Nat} {rlx : Bool} {i : Instr} {pred : Option (Bool × BitVec 3)} {rest : List Turn}
    (h : Issues s c k n rest) (hf : s.fetch (c.thread k) = .instr i pfx rlx pred len) (hs : (s.launchOf (c.thread k)).isPair = false)
    (hp : (s.ctx (c.thread k)).pend = []) (hi : illegalAt i = none) :
    let u := fetching { s with sched := rest } c k n
    step s = afterIssue (c.thread k) (predicated (prefixed u pfx rlx (u.reads (c.thread k) i)) i pred len) := by
  intro u
  have hu : u.fetch (c.thread k) = .instr i pfx rlx pred len := by rw [fetch_fetching, fetch_sched, hf]
  have ht : u.trailer (c.thread k) = none := trailer_single (by rw [launchOf_fetching]; exact hs)
  have hpend : u.me.pend = [] := by
    show (u.ctx (c.thread k)).pend = []
    rw [ctx_fetching]
    exact hp
  calc step s = u.issue := step_issues h fun ht => by rw [ht.1] at hs; cases hs
    _ = u.perform1 i pfx rlx pred len (u.reads (c.thread k) i) := issue_single hu ht
    _ = _ := perform1_single pred pfx len rlx _ ht hi hpend

/-- The leader of a pair only issues its instruction. -/
theorem step_leader {s : State} {c : CoreId} {k n pfx len : Nat} {rlx : Bool} {i : Instr} {pred : Option (Bool × BitVec 3)} {rest : List Turn}
    (h : Issues s c k n rest) (hf : s.fetch (c.thread k) = .instr i pfx rlx pred len) (hs : (s.launchOf (c.thread k)).isPair = true) (hk : k < 8) :
    let u := fetching { s with sched := rest } c k n
    step s = .next (u.updMe fun x =>
      { x with ahead := some { instr := i, pfx := pfx, rlx := rlx, pred := pred, len := len, got := u.reads (c.thread k) i } }) := by
  intro u
  have hu : u.fetch (c.thread k) = .instr i pfx rlx pred len := by rw [fetch_fetching, fetch_sched, hf]
  have ht : u.trailer (c.thread k) = some (c.thread (k + 8)) := trailer_leader (by rw [launchOf_fetching]; exact hs) hk
  exact (step_issues h fun ht => Nat.not_le.mpr hk ht.2).trans (issue_leader hu ht)

/-! Pairs whose two halves hold the same registers. -/

theorem withRegs_same {c d : Ctx} (h : SamePair c d) : c.withRegs d = c := by
  obtain ⟨h1, h2, h3, h4, h5, h6, h7⟩ := h
  simp only [Ctx.withRegs, h1, h2, h3, h4, h5, h6, h7]

theorem predOk_same {c d : Ctx} (h : SamePair c d) (pred : Option (Bool × BitVec 3)) : d.predOk pred = c.predOk pred := by
  obtain ⟨-, -, hps, -⟩ := h
  cases pred with
  | none => rfl
  | some p => simp only [Ctx.predOk, p_congr hps]

theorem operands_same {c d : Ctx} (h : SamePair c d) (i : Instr) : Instr.operands i d = Instr.operands i c := by
  obtain ⟨h1, h2, -, -, h5, h6, h7⟩ := h
  simp only [Instr.operands, x_congr h1, xp_congr h2, Ctx.h, Ctx.e, Ctx.ep, h5, h6, h7]

/-- The trailer's copy of an instruction sees the state that the leader's sees. -/
theorem asTrailer_same {s : State} {t u : ThreadId} {f : Ctx → Ctx} (h : SamePair ((s.updCtx t f).ctx t) ((s.updCtx t f).ctx u)) :
    (s.updCtx t f).asTrailer t u = s.updCtx t f := by
  have hr := withRegs_same h
  rw [State.asTrailer, State.updCtx, hr, ctx_updCtx, State.updCtx, setCtx_setCtx]

/-- The leader's effect, or that with the trailer's context brought up to it: nothing else comes of an instruction whose copies agree. -/
def OnceFor (u : ThreadId) (r w : State) : Prop := w = r ∨ ∃ x, w = r.setCtx u x

theorem pairSync_once (s : State) (c : CoreId) (k : Nat) (xd pd hd : List Nat) :
    OnceFor (c.thread (k + 8)) s (s.pairSync (c.thread k) xd pd hd) := by
  unfold State.pairSync
  split
  · exact .inl rfl
  · rename_i u hu
    exact .inr ⟨_, by rw [show u = c.thread (k + 8) from trailer_eq_some hu]⟩

/-- The two copies of an instruction agree where they see the same state, and its effect comes once. -/
theorem pairRun_same {s r : State} {c : CoreId} {k : Nat} {i : Instr} {pred : Option (Bool × BitVec 3)} {f : State → Res}
    (hs : SamePair (s.ctx (c.thread k)) (s.ctx (c.thread (k + 8)))) (ha : s.asTrailer (c.thread k) (c.thread (k + 8)) = s) (hf : f s = .next r) :
    ∃ w, s.pairRun (c.thread k) (c.thread (k + 8)) i pred f = .next w ∧ OnceFor (c.thread (k + 8)) r w := by
  simp only [State.pairRun, predOk_same hs, operands_same hs, ha, hf, bne_self_eq_false, Bool.false_eq_true, if_false, if_true]
  split
  · exact ⟨_, rfl, pairSync_once ..⟩
  · split
    · exact ⟨_, rfl, pairSync_once ..⟩
    · exact ⟨_, rfl, .inr ⟨_, rfl⟩⟩

/-- The state in which the trailer of context `k` issues, and the copy that waits is taken. -/
def trailingAt (s : State) (c : CoreId) (k n : Nat) : State := (issuing s c (k + 8) n (c.thread k)).updMe fun x => { x with ahead := none }

theorem ctx_trailingAt (s : State) (c : CoreId) (k n : Nat) :
    (trailingAt s c k n).ctx (c.thread k) = { s.ctx (c.thread k) with ahead := none } := by
  rw [trailingAt, State.updMe, issuing_cur, ctx_updCtx, ctx_issuing_other (by omega)]

theorem ctx_trailingAt_trailer (s : State) (c : CoreId) (k n : Nat) : (trailingAt s c k n).ctx (c.thread (k + 8)) =
    { s.ctx (c.thread (k + 8)) with lastIssue := some n } := by
  rw [trailingAt, State.updMe, issuing_cur, ctx_updCtx_thread (by omega), ctx_issuing_self]

/-- The trailer's issue runs the leader's instruction, once. -/
theorem step_trailer {s r : State} {c : CoreId} {k n : Nat} {a : Ahead} {rest : List Turn} (h : Issues s c (k + 8) n rest) (hk : k < 8)
    (hl : (s.launchOf (c.thread k)).isPair = true) (ht : (s.launchOf (c.thread (k + 8))).isPair = true)
    (ha : (s.ctx (c.thread k)).ahead = some a) (hp : (s.ctx (c.thread k)).pend = []) (hi : illegalAt a.instr = none)
    (hs : SamePair (s.ctx (c.thread k)) (s.ctx (c.thread (k + 8))))
    (hr : predicated (prefixed (trailingAt { s with sched := rest } c k n) a.pfx a.rlx a.got) a.instr a.pred a.len = .next r) :
    ∃ w, step s = afterIssue (c.thread k) (.next w) ∧ OnceFor (c.thread (k + 8)) r w := by
  let z : State := { s with sched := rest }
  let u := trailingAt z c k n
  let v := prefixed u a.pfx a.rlx a.got
  have hme : u.me = { s.ctx (c.thread k) with ahead := none } := ctx_trailingAt z c k n
  have hva : v.ctx (c.thread k) = { s.ctx (c.thread k) with ahead := none, pfx := a.pfx, rlx := a.rlx, got := a.got } := by
    show (u.updMe _).me = _
    rw [me_updMe, hme]
  have hvb : v.ctx (c.thread (k + 8)) = { s.ctx (c.thread (k + 8)) with lastIssue := some n } :=
    (ctx_updCtx_thread (by omega) _).trans (ctx_trailingAt_trailer z c k n)
  have hsame : SamePair (v.ctx (c.thread k)) (v.ctx (c.thread (k + 8))) := by rw [hva, hvb]; exact hs
  have htr : v.trailer (c.thread k) = some (c.thread (k + 8)) := by
    refine trailer_leader ?_ hk
    show (s.launch (v.ctx (c.thread k)).serial).isPair = true
    rw [hva]
    exact hl
  have hf : State.effect a.instr a.pred a.len v = .next r := (effect_predicated a.pred a.len hi (by rw [hme]; exact hp)).trans hr
  obtain ⟨w, hw, ho⟩ := pairRun_same (i := a.instr) (pred := a.pred) hsame (asTrailer_same hsame) hf
  refine ⟨w, ?_, ho⟩
  have hah : (issuing z c (k + 8) n (c.thread k)).me.ahead = some a := by
    show ((issuing z c (k + 8) n (c.thread k)).ctx (c.thread k)).ahead = some a
    rw [ctx_issuing_other (by omega)]
    exact ha
  calc step s = (issuing z c (k + 8) n (c.thread k)).issueTrailer := step_trails h ⟨ht, by omega⟩
    _ = u.perform1 a.instr a.pfx a.rlx a.pred a.len a.got := by simp only [State.issueTrailer, hah]; rfl
    _ = afterIssue (c.thread k) (v.run a.instr a.pred (State.effect a.instr a.pred a.len)) := rfl
    _ = afterIssue (c.thread k) (.next w) := by rw [run_pair _ _ _ htr]; exact congrArg _ hw

/-! The other engines. -/

/-- With no fault and no instruction to present again, a step takes the schedule's next turn. -/
theorem step_sched {s : State} {x : Turn} {rest : List Turn} (hh : s.hole = none) (hr : s.resume = []) (hs : s.sched = x :: rest) :
    step s = State.turn { s with sched := rest } x := by
  simp only [step, hh, hr, hs]

/-- Under power a turn of the schedule is its agent's. -/
theorem turn_hart {s : State} (h : HartId) (hp : s.dev.powered = true) : s.turn (.hart h) = s.hartTurn h := by simp [State.turn, hp]
theorem turn_mxu {s : State} (c : CoreId) (hp : s.dev.powered = true) : s.turn (.mxu c) = s.mxuTurn c := by simp [State.turn, hp]
theorem turn_halo {s : State} (d n : Nat) (hp : s.dev.powered = true) : s.turn (.halo d n) = s.haloTurn d n := by simp [State.turn, hp]
theorem turn_event {s : State} {i : Instr} (hp : s.dev.powered = true) (hi : Instr.isEvent i = true) : s.turn (.event i) = exec i s := by
  simp [State.turn, hp, hi]

/-- What the streams' stop of a launch on a core looks at is the core. -/
theorem streamStop_none {s u : State} {c : CoreId} {serial : Word} (hc : u.core c = s.core c) (h : s.streamStop c serial = none) :
    u.streamStop c serial = none := by
  simp only [State.streamStop, hc] at h ⊢
  split at h
  · rw [if_pos ‹_›]
  · rename_i h1
    split at h
    · cases h
    · rename_i h2
      split at h
      · rw [if_neg h1, if_neg h2, if_pos ‹_›]
      · rename_i h3
        split at h
        · cases h
        · rename_i h4
          rw [if_neg h1, if_neg h2, if_neg h3, if_neg h4]

/-- A hart that may issue runs what it fetches. -/
theorem hartTurn_runs {s : State} {h : HartId} {i : Instr} (he : (s.hartOf h).ended = false) (hst : (s.hartOf h).stalled = false)
    (hs : s.streamStop h.core (s.hartBy h).serial = none) (hf : s.hartFetch h = some i) : s.hartTurn h = exec i { s with curHart := h } := by
  have hs' : State.streamStop { s with curHart := h } h.core (State.hartBy { s with curHart := h } h).serial = none := streamStop_none (s := s) rfl hs
  have hf' : State.hartFetch { s with curHart := h } h = some i := hf
  have he' : (State.hartOf { s with curHart := h } h).ended = false := he
  have hst' : (State.hartOf { s with curHart := h } h).stalled = false := hst
  simp only [State.hartTurn, hs', hf', he', hst', Bool.or_self, Bool.false_eq_true, if_false]

/-- The matrix unit runs the command at the head of its queue. -/
theorem mxuTurn_runs {s : State} {c : CoreId} {q : MxCmd} {r : List MxCmd} {i : Instr} (hq : (s.core c).mxu.queue = q :: r)
    (hs : s.savingOn c q.serial = false) (hd : decodeMxu (leNat q.bytes) = .ok i) : s.mxuTurn c = exec i { s with cur := q.thread } := by
  simp only [State.mxuTurn, hq, hs, hd, Bool.false_and, Bool.false_eq_true, if_false]

/-- A schedule runs the chunk word that it has fetched. -/
theorem haloTurn_runs {s : State} {d n : Nat} {c : Sched} {w : Word} {i : Instr} (hps : s.dev.pscur ≠ 3) (hc : s.sched_ d n = some c)
    (hst : c.stopped = false) (hfz : c.frozen = false) (ha : c.after = []) (hw : c.word = some w) (hd : decodeHalo w.toNat = .ok i) :
    s.haloTurn d n = exec i { s with curHalo := (d, n) } := by
  have hc' : State.sched_ { s with curHalo := (d, n) } d n = some c := hc
  have hup : State.hbmUp { s with curHalo := (d, n) } = true := by simpa [State.hbmUp] using hps
  simp only [State.haloTurn, State.onSched, hc', hst, hfz, ha, hw, State.performed, hup, State.haloWord, hd, List.isEmpty_nil, Bool.true_or, Bool.not_true,
    Bool.or_self, Bool.false_and, Bool.false_eq_true, if_false, if_true]

end Sys2Proof.Machine.Laws

open Sys2Proof Sys2Proof.Machine Sys2Proof.Machine.Laws

/-- Settles O54: the fetch of a decoded pattern, then what each agent's turn does with it. -/
theorem stepRuns : Obligations.StepRuns := by
  unfold Obligations.StepRuns
  refine ⟨fun s t h g i => ⟨fetch_half, fetch_wide⟩, fun s c k n pfx len rlx i pred rest h => ?_, fun s r c k n a rest h hk => ?_,
    fun s h i rest hh hr hs hp he hst hstop hf => ?_, fun s c q r i rest hh hr hs hp hq hsave hd => ?_,
    fun s d n c w i rest hh hr hs hp hps hc hst hfz ha hw hd => ?_, fun s i rest hh hr hs hp hi => ?_⟩
  · exact fun hf => ⟨fun hs hp hi => step_single h hf hs hp hi, fun hs hk => step_leader h hf hs hk⟩
  · exact fun hl ht ha hp hi hs hr => step_trailer h hk hl ht ha hp hi hs hr
  · let z : State := { s with sched := rest }
    exact (step_sched hh hr hs).trans ((turn_hart (s := z) h hp).trans (hartTurn_runs he hst (streamStop_none (s := s) rfl hstop) hf))
  · let z : State := { s with sched := rest }
    exact (step_sched hh hr hs).trans ((turn_mxu (s := z) c hp).trans (mxuTurn_runs hq hsave hd))
  · let z : State := { s with sched := rest }
    exact (step_sched hh hr hs).trans ((turn_halo (s := z) d n hp).trans (haloTurn_runs hps hc hst hfz ha hw hd))
  · exact (step_sched hh hr hs).trans (turn_event hp hi)

end

section
/-! Bytes and fields: what bytes read after a write (08 R169), and the fields of a record (16 R333) after one of them is set. -/

namespace Sys2Proof.Machine.Laws

/-! Memory after a write. -/

/-- Bytes written are what their keys read, and no other key reads otherwise than before. -/
theorem memGet_memWrite (m : List Host.Cell) (k j : Nat) (b : List Byte) :
    memGet (memWrite m k b) j = if k ≤ j ∧ j < k + b.length then b.getD (j - k) 0 else memGet m j := by
  induction b generalizing m k with
  | nil => rw [if_neg (by rw [List.length_nil]; omega)]; rfl
  | cons x t ih =>
    rw [memWrite, ih, memGet_memPut, List.length_cons]
    by_cases hj : j = k
    · subst hj
      rw [if_neg (by omega), if_pos rfl, if_pos (by omega), Nat.sub_self]
      rfl
    · by_cases hin : k + 1 ≤ j ∧ j < k + 1 + t.length
      · rw [if_pos hin, if_pos (by omega), show j - k = (j - (k + 1)) + 1 by omega, List.getD_cons_succ]
      · rw [if_neg hin, if_neg hj, if_neg (by omega)]

theorem memGet_memWrite_off {m : List Host.Cell} {k j : Nat} {b : List Byte} (h : j < k ∨ k + b.length ≤ j) :
    memGet (memWrite m k b) j = memGet m j := by
  rw [memGet_memWrite, if_neg (by omega)]

theorem memRead_congr {m m' : List Host.Cell} {k n : Nat} (h : ∀ j, k ≤ j → j < k + n → memGet m j = memGet m' j) :
    memRead m k n = memRead m' k n := by
  induction n generalizing k with
  | zero => rfl
  | succ n ih => rw [memRead, memRead, h k le_rfl (by omega), ih fun j h1 h2 => h j (by omega) (by omega)]

theorem memRead_memWrite_self (m : List Host.Cell) (k : Nat) (b : List Byte) : memRead (memWrite m k b) k b.length = b := by
  induction b generalizing m k with
  | nil => rfl
  | cons x t ih =>
    rw [List.length_cons, memRead, memGet_memWrite, if_pos (by simp)]
    rw [Nat.sub_self, List.getD_cons_zero, memWrite, ih]

theorem memRead_memWrite_off {m : List Host.Cell} {k j n : Nat} {b : List Byte} (h : j + n ≤ k ∨ k + b.length ≤ j) :
    memRead (memWrite m k b) j n = memRead m j n :=
  memRead_congr fun i h1 h2 => memGet_memWrite_off (by omega)

theorem rd_of_memWrite_off {u : State} {m : List Host.Cell} {k j n : Nat} {b : List Byte} (hu : u.mem = memWrite m k b)
    (h : j + n ≤ k ∨ k + b.length ≤ j) : u.rd j n = memRead m j n := by
  rw [State.rd, hu, memRead_memWrite_off h]

theorem rd_of_memWrite {u : State} {m : List Host.Cell} {k n : Nat} {b : List Byte} (hu : u.mem = memWrite m k b) (hn : b.length = n) :
    u.rd k n = b := by
  rw [State.rd, hu, ← hn, memRead_memWrite_self]

theorem memWrite_append (m : List Host.Cell) (k : Nat) (a b : List Byte) :
    memWrite m k (a ++ b) = memWrite (memWrite m k a) (k + a.length) b := by
  induction a generalizing m k with
  | nil => rfl
  | cons x t ih => rw [List.cons_append, memWrite, ih, memWrite, List.length_cons, Nat.add_right_comm, Nat.add_assoc]

theorem length_memRead (m : List Host.Cell) (k n : Nat) : (memRead m k n).length = n := by
  induction n generalizing k with
  | zero => rfl
  | succ n ih => rw [memRead, List.length_cons, ih]

theorem length_rd (s : State) (k n : Nat) : (s.rd k n).length = n := length_memRead _ _ _

/-! Writes at the controller, with no page in migration. -/

/-- The parts of a write, made in order, are the write. -/
theorem wordParts_writes (m : List Host.Cell) (k : Nat) (b : List Byte) (n : Nat) (h : b.length ≤ n) :
    (wordParts k b n).foldl (fun m p => memWrite m p.1 p.2) m = memWrite m k b := by
  induction n generalizing m k b with
  | zero => rw [List.eq_nil_of_length_eq_zero (Nat.le_zero.mp h)]; rfl
  | succ n ih =>
    rw [wordParts]
    split
    · rename_i he
      rw [List.isEmpty_iff.mp he]; rfl
    · rename_i he
      have hpos : 0 < b.length := List.length_pos_iff.mpr fun e => he (by simp [e])
      rw [List.foldl_cons, ih _ _ _ (by rw [List.length_drop]; omega)]
      conv => rhs; rw [← List.take_append_drop (8 - k % 8) b, memWrite_append]
      by_cases hb : 8 - k % 8 ≤ b.length
      · rw [List.length_take, min_eq_left hb]
      · rw [List.drop_eq_nil_of_le (by omega)]; rfl

theorem setPz_eq (s : State) (w : Nat) (b : Bool) : ∃ p, s.setPz w b = { s with poison := p } := by
  unfold State.setPz
  split
  · exact ⟨s.poison, rfl⟩
  · exact ⟨_, rfl⟩

theorem dual_plain {s : State} (pa : Nat) (h : s.migs = []) : s.dual pa = [pa] := by simp [State.dual, h]

/-- A write at the controller writes its bytes, and changes poison marks. -/
theorem hbmWrite1_eq (s : State) (pa : Nat) (b : List Byte) (mark : Bool) (h : s.migs = []) :
    ∃ p, s.hbmWrite1 pa b mark = { s with mem := memWrite s.mem pa b, poison := p } := by
  rw [State.hbmWrite1, dual_plain pa h, List.foldl_cons, List.foldl_nil]
  dsimp only
  split
  · exact setPz_eq (s.wr pa b) _ _
  · split
    · exact setPz_eq (s.wr pa b) _ _
    · exact ⟨s.poison, rfl⟩

theorem hbmWrite_eq (s : State) (pa : Nat) (b : List Byte) (marks : List Bool) (h : s.migs = []) :
    ∃ p, s.hbmWrite pa b marks = { s with mem := memWrite s.mem pa b, poison := p } := by
  have hf (l : List ((Nat × List Byte) × Nat)) : ∀ u : State, u.migs = [] →
      ∃ p, l.foldl (fun s p => s.hbmWrite1 p.1.1 p.1.2 (marks.getD p.2 false)) u =
        { u with mem := (l.map (·.1)).foldl (fun m p => memWrite m p.1 p.2) u.mem, poison := p } := by
    induction l with
    | nil => exact fun u _ => ⟨u.poison, rfl⟩
    | cons x t ih =>
      intro u hu
      obtain ⟨p, hp⟩ := hbmWrite1_eq u x.1.1 x.1.2 (marks.getD x.2 false) hu
      rw [List.foldl_cons, hp]
      exact ih _ hu
  obtain ⟨p, hp⟩ := hf (wordParts pa b b.length).zipIdx s h
  refine ⟨p, hp.trans ?_⟩
  rw [List.zipIdx_map_fst, wordParts_writes _ _ _ _ le_rfl]

/-! Numbers and their bytes. -/

theorem length_leBytes (n v : Nat) : (leBytes n v).length = n := by
  induction n generalizing v with
  | zero => rfl
  | succ n ih => rw [leBytes, List.length_cons, ih]

theorem leNat_leBytes (n v : Nat) : leNat (leBytes n v) = v % 256 ^ n := by
  induction n generalizing v with
  | zero => rw [pow_zero, Nat.mod_one]; rfl
  | succ n ih => rw [leBytes, leNat, ih, BitVec.toNat_ofNat, pow_succ' 256 n, Nat.mod_mul]

theorem leNat_cons_mod (b : Byte) (n : Nat) : (b.toNat + 256 * n) % 256 = b.toNat := by have := b.isLt; omega
theorem leNat_cons_div (b : Byte) (n : Nat) : (b.toNat + 256 * n) / 256 = n := by have := b.isLt; omega

theorem leNat_take (l : List Byte) (n : Nat) : leNat (l.take n) = leNat l % 256 ^ n := by
  induction l generalizing n with
  | nil => simp [leNat]
  | cons b t ih =>
    cases n with
    | zero => simp [leNat, Nat.mod_one]
    | succ n => rw [List.take_succ_cons, leNat, leNat, ih, pow_succ', Nat.mod_mul, leNat_cons_mod, leNat_cons_div]

theorem leNat_drop (l : List Byte) (n : Nat) : leNat (l.drop n) = leNat l / 256 ^ n := by
  induction l generalizing n with
  | nil => simp [leNat]
  | cons b t ih =>
    cases n with
    | zero => simp
    | succ n => rw [List.drop_succ_cons, leNat, ih, pow_succ', ← Nat.div_div_eq_div_mul, leNat_cons_div]

theorem pow_bytes (n : Nat) : 256 ^ n = 2 ^ (8 * n) := by rw [pow_mul]; rfl

/-! Fields of a number. -/

/-- A field looks at the bits below its end only. -/
theorem fld_mod {v lo w n : Nat} (h : lo + w ≤ n) : fld (v % 2 ^ n) lo w = fld v lo w := by
  rw [fld, fld, ← Nat.mod_mul_right_div_self, ← Nat.mod_mul_right_div_self, ← pow_add, Nat.mod_mod_of_dvd _ (pow_dvd_pow 2 h)]

/-- A field looks at the bits from its start only. -/
theorem fld_div {v lo w n : Nat} (h : n ≤ lo) : fld (v / 2 ^ n) (lo - n) w = fld v lo w := by
  rw [fld, fld, Nat.div_div_eq_div_mul, ← pow_add, Nat.add_sub_cancel' h]

theorem setFld_parts (v lo w x : Nat) : setFld v lo w x = v % 2 ^ lo + 2 ^ lo * (x % 2 ^ w + 2 ^ w * (v / 2 ^ (lo + w))) := by
  have h1 := Nat.div_add_mod v (2 ^ lo)
  have h2 := Nat.div_add_mod (v / 2 ^ lo) (2 ^ w)
  rw [Nat.div_div_eq_div_mul, ← pow_add] at h2
  rw [setFld, fld]
  generalize v / 2 ^ lo % 2 ^ w = f, v / 2 ^ (lo + w) = d, v % 2 ^ lo = l, x % 2 ^ w = y at *
  rw [← h2] at h1
  rw [← h1, show 2 ^ lo * (2 ^ w * d + f) + l = 2 ^ lo * 2 ^ w * d + l + f * 2 ^ lo by ring, Nat.add_sub_cancel]
  ring

theorem setFld_mod (v lo w x : Nat) : setFld v lo w x % 2 ^ lo = v % 2 ^ lo := by
  rw [setFld_parts, Nat.add_mul_mod_self_left, Nat.mod_mod]

theorem setFld_div (v lo w x : Nat) : setFld v lo w x / 2 ^ (lo + w) = v / 2 ^ (lo + w) := by
  rw [setFld_parts, pow_add, ← Nat.div_div_eq_div_mul, Nat.add_mul_div_left _ _ (by positivity), Nat.div_eq_of_lt (Nat.mod_lt _ (by positivity)),
    Nat.zero_add, Nat.add_mul_div_left _ _ (by positivity), Nat.div_eq_of_lt (Nat.mod_lt _ (by positivity)), Nat.zero_add]

theorem fld_setFld_self (v lo w x : Nat) : fld (setFld v lo w x) lo w = x % 2 ^ w := by
  rw [fld, setFld_parts, Nat.add_mul_div_left _ _ (by positivity), Nat.div_eq_of_lt (Nat.mod_lt _ (by positivity)), Nat.zero_add,
    Nat.add_mul_mod_self_left, Nat.mod_mod]

theorem fld_setFld_other {v lo w x lo' w' : Nat} (h : lo' + w' ≤ lo ∨ lo + w ≤ lo') : fld (setFld v lo w x) lo' w' = fld v lo' w' := by
  rcases h with h | h
  · rw [← fld_mod h, setFld_mod, fld_mod h]
  · rw [← fld_div h, setFld_div, fld_div h]

/-! Fields of a record. -/

theorem length_rset (b : List Byte) (lo w x : Nat) : (rset b lo w x).length = 64 := length_leBytes _ _

theorem rfld_rset_self {b : List Byte} {lo w : Nat} (x : Nat) (h : lo + w ≤ 512) : rfld (rset b lo w x) lo w = x % 2 ^ w := by
  rw [rfld, rset, leNat_leBytes, pow_bytes, fld_mod h, fld_setFld_self]

theorem rfld_rset_other {b : List Byte} {lo w lo' w' : Nat} (x : Nat) (h : lo' + w' ≤ lo ∨ lo + w ≤ lo') (h' : lo' + w' ≤ 512) :
    rfld (rset b lo w x) lo' w' = rfld b lo' w' := by
  rw [rfld, rset, leNat_leBytes, pow_bytes, fld_mod h', fld_setFld_other h]
  rfl

/-- A field is the low part of a wider one. -/
theorem rfld_narrow {b : List Byte} {lo w w' : Nat} (h : w' ≤ w) : rfld b lo w' = rfld b lo w % 2 ^ w' := by
  rw [rfld, rfld, fld, fld, Nat.mod_mod_of_dvd _ (pow_dvd_pow 2 h)]

/-- A field in bytes before those overwritten. -/
theorem rfld_patch_low {l b : List Byte} {off lo w : Nat} (h : lo + w ≤ 8 * off) (hl : off ≤ l.length) : rfld (patch l off b) lo w = rfld l lo w := by
  have ht : (patch l off b).take off = l.take off := by
    rw [patch, List.append_assoc, List.take_append_of_le_length (by simp; omega), List.take_take, min_self]
  rw [rfld, rfld, ← fld_mod h, ← fld_mod (v := leNat l) h, ← pow_bytes, ← leNat_take, ← leNat_take, ht]

/-- A field in bytes behind those overwritten. -/
theorem rfld_patch_high {l b : List Byte} {off lo w : Nat} (h : 8 * (off + b.length) ≤ lo) (hl : off + b.length ≤ l.length) :
    rfld (patch l off b) lo w = rfld l lo w := by
  have ht : (patch l off b).drop (off + b.length) = l.drop (off + b.length) := by
    rw [patch, List.drop_append_of_le_length (by simp; omega), List.drop_eq_nil_of_le (by simp), List.nil_append]
  rw [rfld, rfld, ← fld_div h, ← fld_div (v := leNat l) h, ← pow_bytes, ← leNat_drop, ← leNat_drop, ht]

/-- A field in a byte that is overwritten. -/
theorem rfld_patch_byte {l : List Byte} {off r w : Nat} (y : Byte) (hr : r + w ≤ 8) (hl : off ≤ l.length) :
    rfld (patch l off [y]) (8 * off + r) w = fld y.toNat r w := by
  have ht : (patch l off [y]).drop off = y :: l.drop (off + 1) := by
    rw [patch, List.append_assoc, List.drop_append_of_le_length (by simp; omega), List.drop_eq_nil_of_le (by simp)]
    rfl
  rw [rfld, ← fld_div (n := 8 * off) (by omega), ← pow_bytes, ← leNat_drop, ht, leNat, Nat.add_sub_cancel_left, ← fld_mod hr,
    show 2 ^ 8 = 256 from rfl, leNat_cons_mod]

end Sys2Proof.Machine.Laws
end

section
/-! Proofs about eviction, its write-back, and waking (04 R63 to R66; 10 R213; 16 R334). -/

namespace Sys2Proof.Machine.Laws

/-! What the shared operations of the device leave as it is. -/

/-- The trailer's mirror changes cores only, and not the leader's context. -/
theorem pairSync_eq (s : State) (t : ThreadId) (xd pd hd : List Nat) :
    ∃ cores, s.pairSync t xd pd hd = { s with cores := cores } ∧ (s.pairSync t xd pd hd).ctx t = s.ctx t := by
  unfold State.pairSync
  split
  · exact ⟨s.cores, rfl, rfl⟩
  · rename_i u hu
    rw [trailer_eq_some hu]
    exact ⟨_, rfl, ctx_setCtx_thread (c := t.core) (j := t.ctx) (by omega) _⟩

/-- Leaving the sampler's queue changes cores and the threads to present. -/
theorem sampLeave_eq (s : State) (t : ThreadId) : ∃ cores resume, s.sampLeave t = { s with cores := cores, resume := resume } := by
  unfold State.sampLeave
  split
  · exact ⟨s.cores, s.resume, rfl⟩
  · dsimp only
    split
    · exact ⟨_, s.resume, rfl⟩
    · split
      · split
        · exact ⟨_, _, rfl⟩
        · exact ⟨_, s.resume, rfl⟩
      · exact ⟨_, s.resume, rfl⟩

/-- A thread that waits in RECV has no request at a bank or a partition to withdraw. -/
theorem withdraw_recv {s : State} {t : ThreadId} {h : Held} {ep : Nat} (hh : (s.ctx t).held = some h) (hc : h.cause = .recv ep) :
    ∃ cores dies resume, s.withdraw t = { s with cores := cores, dies := dies, resume := resume } := by
  simp only [State.withdraw, hh, hc]
  obtain ⟨cores, resume, he⟩ := sampLeave_eq (s.updCore t.core fun k =>
    { k with vuWait := k.vuWait.erase t.ctx, mxWait := k.mxWait.erase t.ctx, tagWait := k.tagWait.erase t.ctx }) t
  rw [he]
  exact ⟨_, _, _, rfl⟩

/-! EVICTION. -/

/-- The retry limit of a context has passed at a cycle, since another. -/
def EvictionDue (c : Ctx) (now since : Nat) : Prop := c.retry ≠ 0 ∧ max 64 c.retry.toNat < now - since

theorem retryLimit_due {c : Ctx} {now since : Nat} :
    (c.retryLimit.filter fun n => decide (n < now - since)).isSome = true ↔ EvictionDue c now since := by
  unfold Ctx.retryLimit EvictionDue
  split
  · simp_all
  · simp_all [Option.isSome_filter]

theorem execEviction_unheld {s : State} {t : ThreadId} (h : (s.ctx t).held = none) : execEviction t s = .next s := by
  simp only [execEviction, h]

theorem execEviction_early {s : State} {t : ThreadId} {h : Held} (hh : (s.ctx t).held = some h) (hp : s.pressed (s.launchOf t) = false)
    (hd : ¬EvictionDue (s.ctx t) (s.cycleOf t) h.retryAt) : execEviction t s = .next s := by
  rw [← retryLimit_due, Bool.not_eq_true] at hd
  simp only [execEviction, hh, hd, hp, Bool.or_self, Bool.false_eq_true, if_false]

theorem execEviction_due {s u : State} {t : ThreadId} {h : Held} (hh : (s.ctx t).held = some h)
    (hd : EvictionDue (s.ctx t) (s.cycleOf t) h.retryAt) (he : s.tryEvict t = some u) : execEviction t s = u.out := by
  rw [← retryLimit_due] at hd
  simp only [execEviction, hh, hd, he, Bool.true_or, if_true]

/-- The record of a thread at its eviction, with frame 0, that waits at no bank. -/
def evictedSpill (s : State) (t : ThreadId) : Spill :=
  { addr := (s.ctx t).recaddr, serial := (s.ctx t).serial, ctx := s.ctx t, thread := t, out := .again, cir := 0, paddr := 0, late := [],
    frame := 0, recorded := true, written := false, woken := false }

/-- The eviction of a thread with frame 0, that waits at no bank, before its trailer follows. -/
def evictAlone (s : State) (t : ThreadId) : State :=
  let u := ((s.withdraw t).updLaunch (s.launchOf t).serial fun l => { l with frames := 0 :: l.frames }).updCtx t fun c =>
    { c with st := .evicting, held := none, pend := [] }
  { u with spills := u.spills ++ [evictedSpill s t] }

/-- The state after the eviction. -/
def evictTo (s : State) (t : ThreadId) : State := (evictAlone s t).pairSync t [] [] []

/-- A thread parked in RECV is evicted where frame 0 is free and the pages of frame and record are there. -/
theorem tryEvict_recv {s : State} {t : ThreadId} {h : Held} {ep : Nat} (hh : (s.ctx t).held = some h) (hc : h.cause = .recv ep)
    (hst : (s.ctx t).st = .parked) (hp : (s.ctx t).pend = []) (hr : t ∉ s.resume) (hw : s.wakeMet t (.recv ep) = false)
    (hl : (s.launchOf t).isPair = false) (hf : (s.launchOf t).frames = []) (hn : 0 < (s.launchOf t).spilln)
    (hfk : (s.devLoc (s.launchOf t) t.die (s.launchOf t).spillbase 512 .engWrite).key.isSome = true)
    (hrk : (s.devLoc (s.launchOf t) t.die (s.ctx t).recaddr 64 .engWrite).key.isSome = true) : s.tryEvict t = some (evictTo s t) := by
  obtain ⟨fk, hfk⟩ := Option.isSome_iff_exists.mp hfk
  obtain ⟨rk, hrk⟩ := Option.isSome_iff_exists.mp hrk
  have hz : (s.launchOf t).spillbase + w64 (512 * 0) = (s.launchOf t).spillbase := by simp
  have ha : s.awake t h = false := by simp [State.awake, hc, hw, hr]
  have hb : h.cause.blocking = true := by rw [hc]; rfl
  have hnw : h.cause.word = none := by rw [hc]; rfl
  have hfind : ((List.range 1).find? fun n => !List.contains ([] : List Nat) n) = some 0 := rfl
  simp only [State.tryEvict, drain_nil s t hp, hh, hst, hb, ha, hl, hnw, hf, hfind, hz, hfk, hrk, Nat.not_le.mpr hn, List.length_nil, Nat.zero_add,
    Option.any_none, Option.isSome_none, Bool.not_true, Bool.not_false, Bool.false_eq_true, ne_eq, not_true, false_and, or_self, if_false]
  rfl

theorem evictAlone_frame (s : State) (t : ThreadId) : (evictAlone s t).mem = (s.withdraw t).mem ∧ (evictAlone s t).hole = (s.withdraw t).hole ∧
    (evictAlone s t).spills = (s.withdraw t).spills ++ [evictedSpill s t] := by
  simp only [evictAlone, updCtx_mem, updLaunch_mem, updCtx_hole, updLaunch_hole, updCtx_spills, updLaunch_spills, and_self]

theorem evictTo_facts {s : State} {t : ThreadId} {h : Held} {ep : Nat} (hh : (s.ctx t).held = some h) (hc : h.cause = .recv ep) :
    (evictTo s t).mem = s.mem ∧ (evictTo s t).hole = s.hole ∧ (evictTo s t).spills = s.spills ++ [evictedSpill s t] ∧
      ((evictTo s t).ctx t).st = .evicting := by
  obtain ⟨cores, dies, resume, hw⟩ := withdraw_recv hh hc
  obtain ⟨cores', he, hctx⟩ := pairSync_eq (evictAlone s t) t [] [] []
  have hst : ((evictAlone s t).ctx t).st = .evicting :=
    congrArg Ctx.st (ctx_updCtx _ t fun c => { c with st := .evicting, held := none, pend := [] })
  obtain ⟨hm, hh, hs⟩ := evictAlone_frame s t
  rw [hw] at hm hh hs
  refine ⟨?_, ?_, ?_, (congrArg Ctx.st hctx).trans hst⟩ <;> rw [evictTo, he]
  · exact hm
  · exact hh
  · exact hs

/-! EVICTION_WRITEBACK: the record as it is written. -/

/-- A record `r` is `b` with SPILL set and the frame address `f` in its payload (16 R334). -/
structure SpilledRec (b r : List Byte) (f : Word) : Prop where
  length : r.length = 64
  spill : recSpill r = true
  frame : recPayload r 0 = f
  key : recKey r = recKey b
  prio : recPrio r = recPrio b

theorem spilledRec_bindRec {b r : List Byte} {f : Word} (h : SpilledRec b r f) (n : Nat) : SpilledRec b (bindRec r n) f := by
  have ho {lo w : Nat} (h1 : lo + w ≤ 144 ∨ 158 ≤ lo) (h2 : lo + w ≤ 512) : rfld (bindRec r n) lo w = rfld r lo w := by
    rw [bindRec, rfld_rset_other _ (by omega) h2, rfld_rset_other _ (by omega) h2]
  obtain ⟨-, hs, hf, hk, hp⟩ := h
  refine ⟨length_rset .., ?_, ?_, ?_, ?_⟩
  · rw [recSpill, ho (by omega) (by omega)]; exact hs
  · rw [recPayload, ho (by omega) (by omega)]; exact hf
  · rw [recKey, ho (by omega) (by omega)]; exact hk
  · rw [recPrio, ho (by omega) (by omega)]; exact hp

/-- The three fields that the write-back sets. -/
theorem spilledRec_rset (b : List Byte) (wait : Nat) (f : Word) (link : Nat) :
    SpilledRec b (rset (rset (rset b 159 1 1) 57 1 wait) 256 256 (f.toNat + link * 2 ^ 64)) f := by
  have ho {lo w : Nat} (h1 : lo + w ≤ 57 ∨ (58 ≤ lo ∧ lo + w ≤ 159)) :
      rfld (rset (rset (rset b 159 1 1) 57 1 wait) 256 256 (f.toNat + link * 2 ^ 64)) lo w = rfld b lo w := by
    rw [rfld_rset_other _ (by omega) (by omega), rfld_rset_other _ (by omega) (by omega), rfld_rset_other _ (by omega) (by omega)]
  refine ⟨length_rset .., ?_, ?_, ho (by omega), ?_⟩
  · rw [recSpill, rfld_rset_other _ (by omega) (by omega), rfld_rset_other _ (by omega) (by omega), rfld_rset_self _ (by omega)]
    rfl
  · rw [recPayload, rfld_narrow (w := 256) (by omega), rfld_rset_self _ (by omega),
      Nat.mod_mod_of_dvd _ (pow_dvd_pow 2 (by decide)), Nat.add_mul_mod_self_right, Nat.mod_eq_of_lt f.isLt, w64, BitVec.ofNat_toNat, BitVec.setWidth_eq]
  · rw [recPrio, ho (by omega)]
    rfl

/-- Affinity binds the record to its core, or leaves it. -/
theorem bindFor_eq (s : State) (t : ThreadId) (b : List Byte) :
    ∃ β, (s.bindFor t b).1 = { s with bound286 := β } ∧ ((s.bindFor t b).2 = b ∨ (s.bindFor t b).2 = bindRec b t.idx) := by
  simp only [State.bindFor]
  split
  · exact ⟨s.bound286, rfl, .inl rfl⟩
  · refine ⟨_, rfl, ?_⟩
    dsimp only
    split
    · exact .inr rfl
    · exact .inl rfl

theorem spilledRec_bind (s : State) (x : Spill) (f : Word) (b : List Byte) : ∃ wait, s.spilledRec x f b =
    s.bindFor x.thread (rset (rset (rset b 159 1 1) 57 1 wait) 256 256 (f.toNat + (s.linkAfter x).toNat * 2 ^ 64)) := by
  unfold State.spilledRec
  exact ⟨_, rfl⟩

theorem spilledRec_eq (s : State) (x : Spill) (f : Word) (b : List Byte) :
    ∃ β, (s.spilledRec x f b).1 = { s with bound286 := β } ∧ SpilledRec b (s.spilledRec x f b).2 f := by
  obtain ⟨wait, hw⟩ := spilledRec_bind s x f b
  have hr := spilledRec_rset b wait f (s.linkAfter x).toNat
  rw [hw]
  obtain ⟨β, h1, h2⟩ := bindFor_eq s x.thread (rset (rset (rset b 159 1 1) 57 1 wait) 256 256 (f.toNat + (s.linkAfter x).toNat * 2 ^ 64))
  refine ⟨β, h1, ?_⟩
  rcases h2 with h2 | h2 <;> rw [h2]
  · exact hr
  · exact spilledRec_bindRec hr _

/-- The bytes of a thread's state in its spill frame (10 R213). -/
theorem length_toBytes (c : Ctx) (st now : Nat) (wait : Word) : (c.toBytes st now wait).length = 512 := by
  unfold Ctx.toBytes
  simp only [List.length_append, List.length_flatMap, length_leBytes, List.length_map, List.length_range, List.map_const',
    List.sum_replicate, smul_eq_mul]

/-! EVICTION_WRITEBACK: the steps of the write. -/

/-- The bytes that the write-back stores in the frame of an evicted thread. -/
def frameBytes (s : State) (t : ThreadId) (x : Spill) : List Byte :=
  ({ x.ctx with cir := x.ctx.cir ||| x.cir }).toBytes 3 (State.cycleOf { s with freeCnt := s.freeCnt + 1 } t) (Config.waitWord s.freeCnt)

theorem frameBytes_eq (s : State) (t : ThreadId) (x : Spill) : frameBytes s t x =
    ({ x.ctx with cir := x.ctx.cir ||| x.cir }).toBytes 3 (s.cycleOf t) (Config.waitWord s.freeCnt) := rfl

theorem length_frameBytes (s : State) (t : ThreadId) (x : Spill) : (frameBytes s t x).length = 512 := length_toBytes ..

/-- The state with the frame written at key `fk`. -/
def frameWritten (s : State) (t : ThreadId) (x : Spill) (fk : Nat) : State :=
  State.hbmWrite { s with freeCnt := s.freeCnt + 1 } fk (frameBytes s t x) []

/-- A state in which a record `b` is written at key `rk` as that of an evicted thread. -/
def recordSpilled (s : State) (x : Spill) (fa : Word) (b : List Byte) (rk : Nat) : State :=
  (s.spilledRec x fa b).1.writeRec rk (s.spilledRec x fa b).2

/-- The state with frame and record written and the context FREE. -/
def writtenBack (s : State) (t : ThreadId) (x : Spill) (fa : Word) (fk rk : Nat) : State :=
  ((recordSpilled ((frameWritten s t x fk).setCtx t { x.ctx with st := .evicting }) x fa ((frameWritten s t x fk).rd rk 64) rk).updSpill
    x.addr x.serial fun y => { y with written := true, recorded := true }).updCtx t Ctx.toFree

/-- The trailer of a pair becomes FREE with its leader. -/
def trailerFreed (s : State) (t : ThreadId) : State := match s.trailer t with | some u => s.updCtx u Ctx.toFree | none => s

theorem trailerFreed_frame (s : State) (t : ThreadId) :
    (trailerFreed s t).mem = s.mem ∧ (trailerFreed s t).dies = s.dies ∧ (trailerFreed s t).ctx t = s.ctx t := by
  unfold trailerFreed
  split
  · rename_i u hu
    rw [trailer_eq_some hu]
    exact ⟨updCtx_mem .., updCtx_dies .., ctx_updCtx_thread (c := t.core) (j := t.ctx) (by omega) _⟩
  · exact ⟨rfl, rfl, rfl⟩

theorem execEvictionWriteback_nothing {s : State} {t : ThreadId} (h : ∀ y ∈ s.spills, y.thread = t → y.written = true) :
    execEvictionWriteback t s = .next s := by
  have hf : (s.spills.find? fun x => x.thread == t && !x.written) = none := by
    simpa using h
  simp only [execEvictionWriteback, hf]

theorem execEvictionWriteback_writes {s : State} {t : ThreadId} {x : Spill} {fk rk : Nat} (hs : s.spills = [x]) (ht : x.thread = t)
    (hw : x.written = false) (hwo : x.woken = false) (hr : x.recorded = true)
    (hfk : (s.devLoc (s.launch x.serial) t.die ((s.launch x.serial).spillbase + w64 (512 * x.frame)) 512 .engWrite).key = some fk)
    (hrk : (s.devLoc (s.launch x.serial) t.die x.addr 64 .engWrite).key = some rk) : execEvictionWriteback t s =
      .next (trailerFreed (writtenBack s t x ((s.launch x.serial).spillbase + w64 (512 * x.frame)) fk rk) t) := by
  have hf : (s.spills.find? fun x => x.thread == t && !x.written) = some x := by
    rw [hs]
    simp [ht, hw]
  have ho : s.offBank x rk = s := by
    unfold State.offBank
    split
    · exact if_pos (.inl hr)
    · rfl
  simp only [execEvictionWriteback, hf, hfk, hrk, ho, hwo, Bool.false_eq_true, if_false]
  rfl

/-- The record's write changes its 64 bytes of memory, and neither partitions nor cores. -/
theorem recordSpilled_eq (s : State) (x : Spill) (fa : Word) (b : List Byte) (rk : Nat) (hm : s.migs = []) : ∃ r p β, SpilledRec b r fa ∧
    recordSpilled s x fa b rk = { s with mem := memWrite s.mem rk r, poison := p, bound286 := β } := by
  obtain ⟨β, h1, h2⟩ := spilledRec_eq s x fa b
  obtain ⟨p, hp⟩ := hbmWrite_eq { s with bound286 := β } rk (s.spilledRec x fa b).2 (State.marksOf { s with bound286 := β } rk 64) hm
  refine ⟨_, p, β, h2, ?_⟩
  rw [recordSpilled, State.writeRec, h1]
  exact hp

theorem frameWritten_eq (s : State) (t : ThreadId) (x : Spill) (fk : Nat) (hm : s.migs = []) : ∃ p, frameWritten s t x fk =
    { s with freeCnt := s.freeCnt + 1, mem := memWrite s.mem fk (frameBytes s t x), poison := p } :=
  hbmWrite_eq { s with freeCnt := s.freeCnt + 1 } fk (frameBytes s t x) [] hm

/-- What the write-back leaves: the frame and the record, and nothing else in memory; no partition changes. -/
theorem writtenBack_facts {s : State} (t : ThreadId) (x : Spill) (fa : Word) {fk rk : Nat} (hm : s.migs = []) (hd : fk + 512 ≤ rk ∨ rk + 64 ≤ fk) :
    ∃ r, SpilledRec (recAt s rk) r fa ∧ (writtenBack s t x fa fk rk).mem = memWrite (memWrite s.mem fk (frameBytes s t x)) rk r ∧
      (writtenBack s t x fa fk rk).dies = s.dies ∧ ((writtenBack s t x fa fk rk).ctx t).st = .free := by
  obtain ⟨p, hf⟩ := frameWritten_eq s t x fk hm
  have hrd : (frameWritten s t x fk).rd rk 64 = recAt s rk :=
    rd_of_memWrite_off (k := fk) (b := frameBytes s t x) (by rw [hf]) (by rw [length_frameBytes]; omega)
  obtain ⟨r, q, β, hr, he⟩ := recordSpilled_eq ((frameWritten s t x fk).setCtx t { x.ctx with st := .evicting }) x fa (recAt s rk) rk
    (by rw [setCtx_migs, hf, hm])
  rw [writtenBack, hrd, he]
  refine ⟨r, hr, ?_, ?_, ?_⟩
  · simp only [updCtx_mem, State.updSpill, setCtx_mem, hf]
  · simp only [updCtx_dies, State.updSpill, setCtx_dies, hf]
  · rw [ctx_updCtx]
    rfl

/-- The same for the state that the write-back ends in. -/
theorem writtenBack_final {s : State} (t : ThreadId) (x : Spill) (fa : Word) {fk rk : Nat} (hm : s.migs = []) (hd : fk + 512 ≤ rk ∨ rk + 64 ≤ fk) :
    let u := trailerFreed (writtenBack s t x fa fk rk) t
    (u.ctx t).st = .free ∧ u.rd fk 512 = frameBytes s t x ∧ SpilledRec (recAt s rk) (recAt u rk) fa ∧ u.dies = s.dies ∧
      ∀ j, (j < fk ∨ fk + 512 ≤ j) → (j < rk ∨ rk + 64 ≤ j) → memGet u.mem j = memGet s.mem j := by
  intro u
  obtain ⟨r, hr, hmem, hdies, hfree⟩ := writtenBack_facts t x fa hm hd
  obtain ⟨hum, hud, hctx⟩ := trailerFreed_frame (writtenBack s t x fa fk rk) t
  rw [hmem] at hum
  rw [hdies] at hud
  have hf := length_frameBytes s t x
  have hlen := hr.length
  have hrec : recAt u rk = r := rd_of_memWrite hum hlen
  have hfr : u.rd fk 512 = frameBytes s t x := by
    rw [rd_of_memWrite_off hum (by omega), ← hf, memRead_memWrite_self]
  refine ⟨(congrArg Ctx.st hctx).trans hfree, hfr, hrec ▸ hr, hud, fun j h1 h2 => ?_⟩
  rw [hum, memGet_memWrite_off (by omega), memGet_memWrite_off (by omega)]

/-! WAKE. -/

theorem length_patch (l b : List Byte) (off : Nat) (h : off + b.length ≤ l.length) : (patch l off b).length = l.length := by
  simp only [patch, List.length_append, List.length_take, List.length_drop]
  omega

theorem fld_clearWaitBit : ∀ y : Byte, fld (y &&& 0xFD).toNat 1 1 = 0 := by decide

/-- WAIT is clear, and a field of the record that is neither in WAIT's byte nor in the wait-link is as before. -/
structure WaitCleared (b r : List Byte) : Prop where
  length : r.length = 64
  wait : recWait r = false
  rest : ∀ lo w, (64 ≤ lo ∧ lo + w ≤ 320 ∨ lo + w ≤ 56 ∨ 384 ≤ lo) → rfld r lo w = rfld b lo w

theorem clearWait_clears {b : List Byte} (h : b.length = 64) : WaitCleared b (clearWait b) := by
  have h1 : (patch b 7 [b.getD 7 0 &&& 0xFD]).length = 64 := (length_patch _ _ _ (by simp [h])).trans h
  have h2 : (leBytes 8 0).length = 8 := length_leBytes 8 0
  refine ⟨(length_patch _ _ _ (by omega)).trans h1, ?_, fun lo w hlw => ?_⟩
  · rw [recWait, clearWait, rfld_patch_low (by omega) (by omega), show 57 = 8 * 7 + 1 from rfl,
      rfld_patch_byte _ (by omega) (by omega), fld_clearWaitBit]
    rfl
  · have hc : lo + w ≤ 320 ∨ 384 ≤ lo := by omega
    have h7 : rfld (patch b 7 [b.getD 7 0 &&& 0xFD]) lo w = rfld b lo w := by
      by_cases hlo : lo + w ≤ 56
      · exact rfld_patch_low (by omega) (by omega)
      · exact rfld_patch_high (by simp; omega) (by simp [h])
    rcases hc with hc | hc
    · rw [clearWait, rfld_patch_low (by omega) (by omega), h7]
    · rw [clearWait, rfld_patch_high (by omega) (by omega), h7]

/-- A record of no hot core stays where it is bound. -/
theorem thermalMove_cold {s : State} (h : ∀ c, (s.cluster c).hot = false) (die tier : Nat) (serial addr : Word) (b : List Byte) (spilled : Bool)
    (frame : Option Nat) : s.thermalMove die tier serial addr b spilled frame = (s, b) := by
  simp only [State.thermalMove, h, Bool.not_false, Bool.true_or, if_true]

/-- The device's post of a record, with no hot core and no page in migration: it clears WAIT in memory and in the post, and changes no other
byte. -/
theorem postKey_posts {s : State} (h : ∀ c, (s.cluster c).hot = false) (hm : s.migs = []) (die tier key : Nat) (addr serial : Word) (src : Nat) :
    let u := s.postKey die tier key addr serial src
    OnlyAt s u key 64 ∧ (u.part die tier).transit = (s.part die tier).transit ++
      [{ addr := addr, serial := serial, bytes := clearWait (s.rd key 64), newLive := false, src := src }] := by
  obtain ⟨p, hp⟩ := hbmWrite_eq s key (clearWait (s.rd key 64)) (s.marksOf key 64) hm
  have hu : s.postKey die tier key addr serial src = State.post { s with mem := memWrite s.mem key (clearWait (s.rd key 64)), poison := p } die tier
      { addr := addr, serial := serial, bytes := clearWait (s.rd key 64), newLive := false, src := src } := by
    rw [State.postKey]
    dsimp only
    split
    · rw [thermalMove_cold h, hp]
    · rw [hp]
  have hlen := (clearWait_clears (length_rd s key 64)).length
  rw [hu]
  refine ⟨fun j hj => ?_, ?_⟩
  · rw [State.post, updPart_mem]
    exact memGet_memWrite_off (by omega)
  · rw [State.post, part_updPart]
    rfl

theorem execWake_held {s : State} {t : ThreadId} {h : Held} (hh : (s.ctx t).held = some h) (hp : (s.ctx t).parked = true)
    (hw : s.wakeMet t h.cause = true) (hr : t ∉ s.resume) : execWake t s = .next { s with resume := s.resume ++ [t] } := by
  simp [execWake, hh, hp, hw, hr]

theorem execWake_nothing {s : State} {t : ThreadId} (hh : (s.ctx t).held = none) (hs : s.spills = []) : execWake t s = .next s := by
  simp only [execWake, hh, hs, List.find?_nil, Bool.false_eq_true, if_false]

theorem spillMet_recv {s : State} {x : Spill} {h : Held} {ep : Nat} (hh : x.ctx.held = some h) (hc : h.cause = .recv ep) (hwo : x.woken = false)
    (hm : s.wakeMet x.thread (.recv ep) = true) : s.spillMet x = true := by
  simp only [State.spillMet, hh, Option.map_some, hc, hwo, hm, Bool.not_false, Bool.and_self]

theorem execWake_spill {s : State} {t : ThreadId} {x : Spill} (hh : (s.ctx t).held = none) (hs : s.spills = [x]) (ht : x.thread = t)
    (hm : s.spillMet x = true) (hps : s.dev.pscur ≠ 3) : execWake t s = .next (s.wakeSpill x) := by
  have hu : s.hbmUp = true := by simpa [State.hbmUp] using hps
  have hf : (s.spills.find? fun x => x.thread == t && s.spillMet x && s.hbmUp) = some x := by
    rw [hs]
    simp [ht, hm, hu]
  simp only [execWake, hh, hf, Bool.false_eq_true, if_false]

/-- An evicted record that is written is posted when its wake event comes. -/
theorem wakeSpill_recv {s : State} {x : Spill} {h : Held} {ep k : Nat} (hh : x.ctx.held = some h) (hc : h.cause = .recv ep) (hw : x.written = true)
    (hk : (s.devLoc (s.launch x.serial) x.thread.die x.addr 64 .engWrite).key = some k) : s.wakeSpill x =
      State.postKey (s.updSpill x.addr x.serial fun y => { y with woken := true, out := x.out }) x.thread.die x.thread.tier k x.addr x.serial
        (threadSrc x.thread) := by
  have hk' : (State.devLoc (s.updSpill x.addr x.serial fun y => { y with woken := true, out := x.out }) (s.launch x.serial) x.thread.die x.addr 64
      .engWrite).key = some k := hk
  have hl : State.launch (s.updSpill x.addr x.serial fun y => { y with woken := true, out := x.out }) x.serial = s.launch x.serial := rfl
  simp only [State.wakeSpill, hh, hc, hw, hl, hk', Bool.not_true, Bool.false_eq_true, if_false]

end Sys2Proof.Machine.Laws

open Sys2Proof Sys2Proof.Machine Sys2Proof.Machine.Laws

/-- Settles O42: the eviction takes frame 0; the write-back writes the frame's bytes and the record's, which do not overlap; a wake presents the held
instruction again, or posts the record with WAIT clear. -/
theorem evictionAndWaking : Obligations.EvictionAndWaking := by
  unfold Obligations.EvictionAndWaking
  refine ⟨fun s t h ep hhole hpr => ⟨execEviction_unheld, fun hh hd => execEviction_early hh hpr hd,
      fun hh hd hst hc hp hr hw hl hf hn hfk hrk => ?_⟩,
    fun s t x fk rk => ⟨execEvictionWriteback_nothing, fun hs ht hw hwo hr hm _ hfk hrk hd => ?_⟩,
    fun s t h x ep k => ⟨execWake_held, execWake_nothing, fun hh hs ht hw hwo hc hm hps hmig hcold hk => ?_⟩⟩
  · obtain ⟨hmem, hho, hsp, hev⟩ := evictTo_facts hh hc
    refine ⟨evictTo s t, evictedSpill s t, ?_, fun j => by rw [hmem], hev, hsp, rfl, rfl, rfl, rfl, rfl⟩
    refine (execEviction_due hh hd (tryEvict_recv hh hc hst hp hr hw hl hf hn hfk hrk)).trans ?_
    rw [State.out, hho, hhole]
  · obtain ⟨hfree, hfr, hr', hd', hoff⟩ := writtenBack_final t x ((s.launch x.serial).spillbase + w64 (512 * x.frame)) hm hd
    refine ⟨_, Config.waitWord s.freeCnt, execEvictionWriteback_writes hs ht hw hwo hr hfk hrk, hfree, hfr.trans (frameBytes_eq s t x), hr'.spill,
      hr'.frame, hr'.key, hr'.prio, ?_, hoff⟩
    rw [State.part, State.part, State.die, State.die, hd']
  · subst ht
    obtain ⟨y, hy, hyc⟩ := Option.map_eq_some_iff.mp hc
    obtain ⟨hoff, htr⟩ := postKey_posts (s := s.updSpill x.addr x.serial fun y => { y with woken := true, out := x.out }) hcold hmig
      x.thread.die x.thread.tier k x.addr x.serial (threadSrc x.thread)
    obtain ⟨-, hwait, hrest⟩ := clearWait_clears (length_rd s k 64)
    refine ⟨_, _, (execWake_spill hh hs rfl (spillMet_recv hy hyc hwo hm) hps).trans (congrArg _ (wakeSpill_recv hy hyc hw hk)),
      hoff, htr, rfl, rfl, rfl, hwait, ?_, ?_⟩
    · exact congrArg (· == 1) (hrest 159 1 (by omega))
    · exact congrArg w64 (hrest 256 64 (by omega))

end

section
/-! Proofs that decoding and encoding agree (05 R88 to R103; 12 R256 to R260; 13 R296; 20 R408).

An encoding is a constant plus its fields at places that do not overlap. So the bits that a decoder reads of it are those of the constant, or
one field (`slice_add_low` and its neighbours); and a word is put together again from the bits that a decoder reads of it (`cast_toNat_fb`). -/

namespace Sys2Proof.Machine.Laws

/-! The bits `w / D % M` of a sum, and of a field in it. -/

/-- A summand above the bits that are read. -/
theorem slice_add_high {a b K D M : Nat} (h : K % (D * M) = 0) : (a + b * K) / D % M = a / D % M := by
  obtain ⟨t, rfl⟩ := Nat.dvd_of_mod_eq_zero h
  rcases Nat.eq_zero_or_pos D with rfl | hD
  · simp only [Nat.div_zero]
  · rw [show b * (D * M * t) = D * (M * (b * t)) by ring, Nat.add_mul_div_left _ _ hD, Nat.add_mul_mod_self_left]

theorem mod_add_high {a b K M : Nat} (h : K % M = 0) : (a + b * K) % M = a % M := by
  simpa only [Nat.div_one] using slice_add_high (a := a) (b := b) (D := 1) (by rwa [Nat.one_mul])

/-- A field below the bits that are read, where no other summand has a bit. -/
theorem slice_add_low {n a K D M : Nat} {x : BitVec n} (h : D % (K * 2 ^ n) = 0) (h0 : a / K % 2 ^ n = 0) :
    (a + x.toNat * K) / D % M = a / D % M := by
  obtain ⟨t, rfl⟩ := Nat.dvd_of_mod_eq_zero h
  obtain ⟨q, hq⟩ := Nat.dvd_of_mod_eq_zero h0
  rcases Nat.eq_zero_or_pos K with rfl | hK
  · simp only [Nat.mul_zero, Nat.add_zero]
  · have hpow : 0 < 2 ^ n := Nat.two_pow_pos n
    simp only [← Nat.div_div_eq_div_mul, Nat.add_mul_div_right _ _ hK, hq, Nat.mul_add_div hpow, Nat.mul_div_cancel_left _ hpow,
      Nat.div_eq_of_lt x.isLt, Nat.add_zero]

theorem slice_add_lowest {n a D M : Nat} {x : BitVec n} (h : D % 2 ^ n = 0) (h0 : a % 2 ^ n = 0) : (a + x.toNat) / D % M = a / D % M := by
  simpa only [Nat.mul_one] using slice_add_low (x := x) (K := 1) (M := M) (by rwa [Nat.one_mul]) (by rwa [Nat.div_one])

/-- A field itself. -/
theorem slice_add_self {n a K M : Nat} {x : BitVec n} (hK : 0 < K) (hM : M = 2 ^ n) (h0 : a / K % 2 ^ n = 0) :
    (a + x.toNat * K) / K % M = x.toNat := by
  rw [hM, Nat.add_mul_div_right _ _ hK, Nat.add_mod, h0, Nat.zero_add, Nat.mod_mod, Nat.mod_eq_of_lt x.isLt]

theorem mod_add_self {n a M : Nat} {x : BitVec n} (hM : M = 2 ^ n) (h0 : a % 2 ^ n = 0) : (a + x.toNat) % M = x.toNat := by
  simpa only [Nat.mul_one, Nat.div_one] using slice_add_self (x := x) (K := 1) Nat.one_pos hM (by rwa [Nat.div_one])

theorem fb_eq_ofNat_slice {n : Nat} (w lo : Nat) : (fb w lo : BitVec n) = BitVec.ofNat n (w / 2 ^ lo % 2 ^ n) := by
  rw [fb, ← BitVec.toNat_inj, BitVec.toNat_ofNat, BitVec.toNat_ofNat, Nat.mod_mod]

/-! What is encoded decodes to itself. -/

/-- Decoding the encoding of a well-formed instruction gives it back. -/
def RoundTrip (i : Instr) : Prop := i.wf = true → ∀ p, encode i = some p → decodeTableWord p.1 p.2 = some i

theorem roundTrip_none {i : Instr} (h : encode i = none) : RoundTrip i := fun _ p hp => by rw [h] at hp; cases hp

theorem roundTrip_of {i : Instr} {n w : Nat} (he : encode i = some (n, w)) (hd : i.wf = true → decodeTableWord n w = some i) : RoundTrip i :=
  fun hwf p hp => by rw [he] at hp; cases hp; exact hd hwf

/-- A word of the core: each selector of the decoders reads the constant of the encoding, and each field the operand that stands there. The
hypotheses but for the encoding are closed by that computation, which is one and the same for every instruction. -/
theorem roundTrip_wide {i : Instr} {w : Nat} (he : encode i = some (32, w)) (hb : w / 2147483648 % 2 = 1 := by omega)
    (hd : i.wf = true → decodeWide w = .ok i := by
      intro hwf
      simp only [decodeWide, decAlu, decShi, decBf, decMov, decPl, decQw, decFe, decAmo, decBankop, decBar, decHnd, decCh, decWait, decCpy,
        decCpys, decCpyg, decPfetch, decRstore, decStrm, decLens, decHalo, decVmem, decVfp, decVint, decVlane, decVscl, decSamp, decSpec,
        decCond, decCtrl, decSys, decSusp, checked, zf, fb_eq_ofNat_slice, slice_add_high, mod_add_high, slice_add_low, slice_add_lowest,
        slice_add_self, mod_add_self, BitVec.ofNat_toNat, BitVec.setWidth_eq, Nat.reducePow, Nat.reduceMul, Nat.reduceDiv, Nat.reduceMod,
        Nat.reduceLT, Nat.div_one, beq_self_eq_true, Bool.and_self, if_true, ne_eq, not_true_eq_false, if_false, hwf]) : RoundTrip i :=
  roundTrip_of he fun hwf => by simp only [decodeTableWord, hb, hd hwf, Nat.reduceEqDiff, if_true, if_false]

/-- Majors 0x00 to 0x0F, 0x18 and 0x19: arithmetic, moves, predicates, branches and compares. -/
theorem scalar_roundTrip :
    (∀ d a i, RoundTrip (.addi d a i)) ∧ (∀ d a i, RoundTrip (.andi d a i)) ∧ (∀ d a b s, RoundTrip (.adda d a b s)) ∧
    (∀ d a i, RoundTrip (.ori d a i)) ∧ (∀ d a i, RoundTrip (.xori d a i)) ∧ (∀ d k, RoundTrip (.ldk d k)) ∧
    (∀ d a b n p, RoundTrip (.sel d a b n p)) ∧ (∀ o, RoundTrip (.br o)) ∧ (∀ n p o, RoundTrip (.brp n p o)) ∧ (∀ d o, RoundTrip (.jal d o)) ∧
    (∀ d a, RoundTrip (.jr d a)) ∧ (∀ p c a b, RoundTrip (.cmp p c a b)) ∧ (∀ p c a i, RoundTrip (.cmpi p c a i)) ∧
    (∀ d a b, RoundTrip (.add d a b)) ∧ (∀ d a b, RoundTrip (.sub d a b)) ∧ (∀ d a b, RoundTrip (.and d a b)) ∧ (∀ d a b, RoundTrip (.or d a b)) ∧
    (∀ d a b, RoundTrip (.xor d a b)) ∧ (∀ d a b, RoundTrip (.sll d a b)) ∧ (∀ d a b, RoundTrip (.srl d a b)) ∧ (∀ d a b, RoundTrip (.sra d a b)) ∧
    (∀ d a b, RoundTrip (.min d a b)) ∧ (∀ d a b, RoundTrip (.max d a b)) ∧ (∀ d a b, RoundTrip (.minu d a b)) ∧ (∀ d a b, RoundTrip (.maxu d a b)) ∧
    (∀ d a, RoundTrip (.clz d a)) ∧ (∀ d a, RoundTrip (.ctz d a)) ∧ (∀ d a, RoundTrip (.popc d a)) ∧ (∀ d a b, RoundTrip (.mul d a b)) ∧
    (∀ d a b, RoundTrip (.mulh d a b)) ∧ (∀ d a b, RoundTrip (.mulhu d a b)) ∧ (∀ d a b, RoundTrip (.div d a b)) ∧
    (∀ d a b, RoundTrip (.divu d a b)) ∧ (∀ d a b, RoundTrip (.rem d a b)) ∧ (∀ d a b, RoundTrip (.remu d a b)) ∧
    (∀ d a s, RoundTrip (.slli d a s)) ∧ (∀ d a s, RoundTrip (.srli d a s)) ∧ (∀ d a s, RoundTrip (.srai d a s)) ∧
    (∀ d a x l w, RoundTrip (.bext d a x l w)) ∧ (∀ d a l w, RoundTrip (.bins d a l w)) ∧ (∀ d a, RoundTrip (.move d a)) ∧
    (∀ e a, RoundTrip (.lde e a)) ∧ (∀ d e, RoundTrip (.moveXE d e)) ∧ (∀ d a b n m, RoundTrip (.pand d a b n m)) ∧
    (∀ d a b n m, RoundTrip (.por d a b n m)) ∧ (∀ d a, RoundTrip (.pnot d a)) ∧ (∀ d a n, RoundTrip (.pmov d a n)) := by
  and_intros
  all_goals
    intros
    exact roundTrip_wide rfl

/-- Majors 0x10 to 0x17: loads, stores, full/empty forms, atomics, BANKOP and FENCE. -/
theorem memory_roundTrip :
    (∀ t b w o s f, RoundTrip (.ld t b w o s f)) ∧ (∀ t b w o s f, RoundTrip (.st t b w o s f)) ∧ (∀ p b f, RoundTrip (.feq p b f)) ∧
    (∀ s, RoundTrip (.fence s)) ∧ (∀ q b o s f, RoundTrip (.ldq q b o s f)) ∧ (∀ q b o s f, RoundTrip (.stq q b o s f)) ∧
    (∀ t b o s f, RoundTrip (.ldfKeep t b o s f)) ∧ (∀ t b o s f, RoundTrip (.ldfTake t b o s f)) ∧ (∀ t b o s f, RoundTrip (.stf t b o s f)) ∧
    (∀ b f, RoundTrip (.few b f)) ∧ (∀ d a b w o s, RoundTrip (.amoadd d a b w o s)) ∧ (∀ d a b u w o s, RoundTrip (.amomin d a b u w o s)) ∧
    (∀ d a b u w o s, RoundTrip (.amomax d a b u w o s)) ∧ (∀ d a b w o s, RoundTrip (.amoand d a b w o s)) ∧
    (∀ d a b w o s, RoundTrip (.amoor d a b w o s)) ∧ (∀ d a b w o s, RoundTrip (.amoxor d a b w o s)) ∧
    (∀ d a b w o s, RoundTrip (.amoswp d a b w o s)) ∧ (∀ d a b w o s, RoundTrip (.amocas d a b w o s)) ∧
    (∀ q a c n, RoundTrip (.bankopAdd q a c n)) ∧ (∀ q a c n, RoundTrip (.bankopMax q a c n)) ∧ (∀ q a c n, RoundTrip (.bankopMin q a c n)) ∧
    (∀ q a c n, RoundTrip (.bankopAxpy q a c n)) := by
  and_intros
  all_goals
    intros
    exact roundTrip_wide rfl

/-- Majors 0x20 to 0x27: barriers, handles, channels and waits. -/
theorem sync_roundTrip :
    (∀ a b, RoundTrip (.barinit a b)) ∧ (∀ a, RoundTrip (.barArrive a)) ∧ (∀ a, RoundTrip (.barWait a)) ∧ (∀ p h, RoundTrip (.htest p h)) ∧
    (∀ h, RoundTrip (.hcancel h)) ∧ (∀ d h, RoundTrip (.movhHH d h)) ∧ RoundTrip .ffdone ∧ (∀ d a, RoundTrip (.movhHX d a)) ∧
    (∀ d h, RoundTrip (.movhXH d h)) ∧ (∀ s c, RoundTrip (.send s c)) ∧ (∀ d c, RoundTrip (.recv d c)) ∧ (∀ o c, RoundTrip (.sendt o c)) ∧
    (∀ o c, RoundTrip (.recvt o c)) ∧ (∀ s c, RoundTrip (.chset s c)) ∧ (∀ c, RoundTrip (.chreset c)) ∧ (∀ s, RoundTrip (.msgbind s)) ∧
    (∀ m, RoundTrip (.waitall m)) ∧ (∀ m, RoundTrip (.waitany m)) := by
  and_intros
  all_goals
    intros
    exact roundTrip_wide rfl

/-- Majors 0x28 to 0x2F: copies, streams, lenses and Halo. -/
theorem engine_roundTrip :
    (∀ h d s l, RoundTrip (.cpy h d s l)) ∧ (∀ h d s l, RoundTrip (.cpyT8 h d s l)) ∧ (∀ h d s l, RoundTrip (.cpyT16 h d s l)) ∧
    (∀ h d s l, RoundTrip (.cpys h d s l)) ∧ (∀ h d b c w, RoundTrip (.cpyg h d b c w)) ∧ (∀ a l, RoundTrip (.pfetch a l)) ∧
    (∀ d s l, RoundTrip (.rstore d s l)) ∧ (∀ v a, RoundTrip (.strmBind v a)) ∧ (∀ v, RoundTrip (.strmEnd v)) ∧
    (∀ h d s z, RoundTrip (.restrictWsum h d s z)) ∧ (∀ h d s z, RoundTrip (.restrictMax h d s z)) ∧ (∀ h d s z, RoundTrip (.restrictMin h d s z)) ∧
    (∀ h d s z, RoundTrip (.restrictGather h d s z)) ∧ (∀ h d s z, RoundTrip (.prolongInterp h d s z)) ∧
    (∀ h d s z, RoundTrip (.prolongBcast h d s z)) ∧ (∀ h d s z, RoundTrip (.prolongScatter h d s z)) ∧ (∀ h i s l, RoundTrip (.lwload h i s l)) ∧
    (∀ i v, RoundTrip (.lcfg i v)) ∧ (∀ d, RoundTrip (.lstat d)) ∧ RoundTrip .lwait ∧ (∀ h a b, RoundTrip (.haloRun h a b)) ∧
    (∀ h d, RoundTrip (.haloStat h d)) := by
  and_intros
  all_goals
    intros
    exact roundTrip_wide rfl

/-- Majors 0x30 to 0x32: vector memory forms, floating-point and integer lanes. -/
theorem vector_roundTrip :
    (∀ v a f m e, RoundTrip (.vld v a f m e)) ∧ (∀ v a m e, RoundTrip (.vst v a m e)) ∧ (∀ v a b f m e, RoundTrip (.vlds v a b f m e)) ∧
    (∀ v a i f m e, RoundTrip (.vldx v a i f m e)) ∧ (∀ v a i m e, RoundTrip (.vstx v a i m e)) ∧ (∀ d a b m e, RoundTrip (.vadd d a b m e)) ∧
    (∀ d a b m e, RoundTrip (.vsub d a b m e)) ∧ (∀ d a b m e, RoundTrip (.vmul d a b m e)) ∧ (∀ d a b c m e, RoundTrip (.vfma d a b c m e)) ∧
    (∀ d a b c m e, RoundTrip (.vfms d a b c m e)) ∧ (∀ d a b m e, RoundTrip (.vmin d a b m e)) ∧ (∀ d a b m e, RoundTrip (.vmax d a b m e)) ∧
    (∀ d a m e, RoundTrip (.vabs d a m e)) ∧ (∀ d a m e, RoundTrip (.vneg d a m e)) ∧ (∀ d a m e, RoundTrip (.vrcp d a m e)) ∧
    (∀ d a m e, RoundTrip (.vrsq d a m e)) ∧ (∀ d a m e, RoundTrip (.vexp2 d a m e)) ∧ (∀ d a m e, RoundTrip (.vlog2 d a m e)) ∧
    (∀ d a m e, RoundTrip (.vtanh d a m e)) ∧ (∀ d a b m e, RoundTrip (.vand d a b m e)) ∧ (∀ d a b m e, RoundTrip (.vor d a b m e)) ∧
    (∀ d a b m e, RoundTrip (.vxor d a b m e)) ∧ (∀ d a b m e, RoundTrip (.vshl d a b m e)) ∧ (∀ d a b m e, RoundTrip (.vshr d a b m e)) ∧
    (∀ d a b m e, RoundTrip (.viadd d a b m e)) ∧ (∀ d a b m e, RoundTrip (.vimul d a b m e)) ∧ (∀ d a b m, RoundTrip (.vsel d a b m)) ∧
    (∀ k a b m e, RoundTrip (.vcmpEq k a b m e)) ∧ (∀ k a b m e, RoundTrip (.vcmpNe k a b m e)) ∧ (∀ k a b m e, RoundTrip (.vcmpLt k a b m e)) ∧
    (∀ k a b m e, RoundTrip (.vcmpLtu k a b m e)) ∧ (∀ k a b m e, RoundTrip (.vcmpGe k a b m e)) ∧ (∀ k a b m e, RoundTrip (.vcmpGeu k a b m e)) := by
  and_intros
  all_goals
    intros
    exact roundTrip_wide rfl

/-- Majors 0x33 and 0x34: reductions, permutations, masks and scalar operands. -/
theorem lane_roundTrip :
    (∀ d a o m e z, RoundTrip (.vred d a o m e z)) ∧ (∀ d a o m e z, RoundTrip (.vscan d a o m e z)) ∧
    (∀ d a b m e z, RoundTrip (.vperm d a b m e z)) ∧ (∀ d a b c m e z, RoundTrip (.vsort d a b c m e z)) ∧
    (∀ d a n m e, RoundTrip (.vcvt d a n m e)) ∧ (∀ d a n m e, RoundTrip (.vpack d a n m e)) ∧ (∀ d a n m e, RoundTrip (.vunpack d a n m e)) ∧
    (∀ d a b m e, RoundTrip (.mand d a b m e)) ∧ (∀ d a b m e, RoundTrip (.mor d a b m e)) ∧ (∀ d a m e, RoundTrip (.mnot d a m e)) ∧
    (∀ d a m e, RoundTrip (.vbcast d a m e)) ∧ (∀ v d b, RoundTrip (.vmovx v d b)) ∧ (∀ d a x m e, RoundTrip (.vrot d a x m e)) ∧
    (∀ d a x m e, RoundTrip (.vscale d a x m e)) ∧ (∀ d n, RoundTrip (.vsetf d n)) ∧ RoundTrip .vfence := by
  and_intros
  all_goals
    intros
    exact roundTrip_wide rfl

/-- Majors 0x38 to 0x3A: sampler, speculation and Condenser. -/
theorem sampler_roundTrip :
    (∀ a b, RoundTrip (.rngkey a b)) ∧ (∀ d a b, RoundTrip (.rnggen d a b)) ∧ (∀ a b, RoundTrip (.stemp a b)) ∧ (∀ d a b, RoundTrip (.stopk d a b)) ∧
    (∀ d a b, RoundTrip (.stopp d a b)) ∧ (∀ d a b, RoundTrip (.smerge d a b)) ∧ (∀ d a b, RoundTrip (.sdraw d a b)) ∧
    (∀ d a b, RoundTrip (.specOpen d a b)) ∧ (∀ d a b, RoundTrip (.specAppend d a b)) ∧ (∀ d a b, RoundTrip (.specVerify d a b)) ∧
    (∀ d a, RoundTrip (.specCommit d a)) ∧ (∀ d a, RoundTrip (.specAbort d a)) ∧ (∀ a, RoundTrip (.post a)) ∧ (∀ p a, RoundTrip (.postTry p a)) ∧
    (∀ d a, RoundTrip (.take d a)) ∧ (∀ d a, RoundTrip (.launch d a)) ∧ (∀ p a, RoundTrip (.launchTry p a)) ∧ (∀ a b, RoundTrip (.setpred a b)) ∧
    (∀ d a b, RoundTrip (.addsucc d a b)) ∧ (∀ d a, RoundTrip (.evict d a)) := by
  and_intros
  all_goals
    intros
    exact roundTrip_wide rfl

/-- Majors 0x1F and 0x3C to 0x3F: control registers, system, suspension and hints. -/
theorem control_roundTrip :
    (∀ h, RoundTrip (.nop h)) ∧ (∀ h, RoundTrip (.hint h)) ∧ (∀ d c, RoundTrip (.getc d c)) ∧ (∀ a c, RoundTrip (.setc a c)) ∧
    (∀ c, RoundTrip (.trap c)) ∧ RoundTrip .tret ∧ (∀ c, RoundTrip (.brk c)) ∧ (∀ d, RoundTrip (.chkerr d)) ∧ (∀ a, RoundTrip (.gstop a)) ∧
    (∀ a, RoundTrip (.stepctl a)) ∧ RoundTrip .suspend ∧ RoundTrip .yield ∧ RoundTrip .retire := by
  and_intros
  all_goals
    intros
    exact roundTrip_wide rfl

/-- A halfword of the core (05 R97). -/
theorem roundTrip_half {i : Instr} {w : Nat} (he : encode i = some (16, w))
    (hd : decodeHalf w = .ok (.instr i) := by
      simp only [decodeHalf, half, zf, fb_eq_ofNat_slice, slice_add_high, mod_add_high, slice_add_low, slice_add_lowest, slice_add_self,
        mod_add_self, BitVec.ofNat_toNat, BitVec.setWidth_eq, Nat.reducePow, Nat.reduceMul, Nat.reduceDiv, Nat.reduceMod, Nat.reduceLT,
        Nat.div_one, beq_self_eq_true, if_true]) : RoundTrip i :=
  roundTrip_of he fun _ => by simp only [decodeTableWord, hd, if_true]

theorem compact_roundTrip :
    (∀ h, RoundTrip (.cHint h)) ∧ (∀ d s, RoundTrip (.cAdd d s)) ∧ (∀ d i, RoundTrip (.cAddi d i)) ∧ (∀ d s, RoundTrip (.cMove d s)) ∧
    (∀ t b o, RoundTrip (.cLd t b o)) ∧ (∀ t b o, RoundTrip (.cSt t b o)) ∧ (∀ o, RoundTrip (.cBr o)) ∧ (∀ n p o, RoundTrip (.cBrp n p o)) := by
  and_intros
  all_goals
    intros
    exact roundTrip_half rfl

/-- SQ.PUSH is told from the other stream instructions by its opcode in bits 6:0; bits 14:7 are then fixed too. -/
theorem mod_32768_eq_sqPush {w : Nat} : w % 32768 = 4107 ↔ w % 128 = 11 ∧ w / 128 % 256 = 32 := by omega

/-- A word of a hart, whose bit 31 is clear (13 R296). -/
theorem roundTrip_hart {i : Instr} {w : Nat} (he : encode i = some (32, w)) (hb : w / 2147483648 % 2 = 0 := by omega)
    (hd : decodeHart w = i := by
      simp only [decodeHart, mod_32768_eq_sqPush, fb_eq_ofNat_slice, slice_add_high, mod_add_high, slice_add_low, slice_add_self,
        BitVec.ofNat_toNat, BitVec.setWidth_eq, Nat.reducePow, Nat.reduceMul, Nat.reduceDiv, Nat.reduceMod, Nat.reduceLT, Nat.reduceEqDiff,
        and_self, true_and, false_and, and_true, and_false, if_true, if_false]) : RoundTrip i :=
  roundTrip_of he fun _ => by simp only [decodeTableWord, hb, hd, Nat.reduceEqDiff, if_false, zero_ne_one]

theorem hart_roundTrip :
    (∀ s d, RoundTrip (.sbNext s d)) ∧ (∀ t s, RoundTrip (.sqPush t s)) ∧ (∀ t s d, RoundTrip (.sqPop t s d)) ∧
    (∀ s d, RoundTrip (.bqWait s d)) ∧ RoundTrip .ecall := by
  and_intros
  all_goals
    intros
    exact roundTrip_hart rfl

/-- Commands, chunk instructions and events have no word of a core or of a hart. -/
theorem roundTrip (i : Instr) : RoundTrip i := by
  cases i
  any_goals exact roundTrip_none rfl
  all_goals simp only [scalar_roundTrip, memory_roundTrip, sync_roundTrip, engine_roundTrip, vector_roundTrip, lane_roundTrip,
    sampler_roundTrip, control_roundTrip, compact_roundTrip, hart_roundTrip]

/-! A word that decodes is the encoding of what it decodes to. -/

theorem zf_iff {w lo n : Nat} : zf w lo n = true ↔ w / 2 ^ lo = 2 ^ n * (w / 2 ^ (lo + n)) := by
  rw [pow_add, ← Nat.div_div_eq_div_mul, zf, beq_iff_eq]
  exact ⟨fun h => (Nat.mul_div_cancel' (Nat.dvd_of_mod_eq_zero h)).symm, fun h => by rw [h, Nat.mul_mod_right]⟩

/-- A field in terms of the word without the bits below the field, and without those of the field too: at its place in a sum of adjacent fields,
all but the outermost of these terms cancel. -/
theorem cast_toNat_fb {n : Nat} (w lo : Nat) :
    ((fb w lo : BitVec n).toNat : ℤ) = ((w / 2 ^ lo : ℕ) : ℤ) - 2 ^ n * ((w / 2 ^ (lo + n) : ℕ) : ℤ) := by
  have h := Nat.mod_add_div (w / 2 ^ lo) (2 ^ n)
  rw [fb, BitVec.toNat_ofNat, pow_add, ← Nat.div_div_eq_div_mul, eq_sub_iff_add_eq]
  exact_mod_cast h

/-- What the word `w` of a core decodes to, where it decodes, is well formed, and its encoding is `w`. -/
def DecodesExactly (w : Nat) (r : Except Reject Instr) : Prop :=
  2 ^ 31 ≤ w → w < 2 ^ 32 → ∀ i, r = .ok i → i.wf = true ∧ encode i = some (32, w)

theorem error_exact {w : Nat} {e : Reject} : DecodesExactly w (.error e) := fun _ _ _ h => by cases h

/-- A row of a decoder: the fields that it reads, its zero bits, its major and its sub-opcode make up the whole word. -/
theorem checked_exact {w v : Nat} {fixed : Bool} {j : Instr} (he : encode j = some (32, v))
    (hv : 2 ^ 31 ≤ w → w < 2 ^ 32 → fixed = true → v = w := by
      intro hlo hhi hf
      simp only [Bool.and_eq_true, zf_iff, beq_iff_eq] at hf
      zify [cast_toNat_fb]
      omega) : DecodesExactly w (checked fixed j) := by
  intro hlo hhi i h
  rw [checked] at h
  split at h
  next hc =>
    obtain ⟨hf, hw⟩ := Bool.and_eq_true_iff.mp hc
    cases h
    exact ⟨hw, hv hlo hhi hf ▸ he⟩
  next => cases h

/-- The decoders of majors 0x00 to 0x16. -/
theorem scalar_exact {w : Nat} :
    (w / 33554432 % 64 = 0 → DecodesExactly w (decAlu w)) ∧ (w / 33554432 % 64 = 6 → DecodesExactly w (decShi w)) ∧
    (w / 33554432 % 64 = 7 → DecodesExactly w (decBf w)) ∧ (w / 33554432 % 64 = 9 → DecodesExactly w (decMov w)) ∧
    (w / 33554432 % 64 = 11 → DecodesExactly w (decPl w)) ∧ (w / 33554432 % 64 = 18 → DecodesExactly w (decQw w)) ∧
    (w / 33554432 % 64 = 19 → DecodesExactly w (decFe w)) ∧ (w / 33554432 % 64 = 21 → DecodesExactly w (decAmo w)) ∧
    (w / 33554432 % 64 = 22 → DecodesExactly w (decBankop w)) := by
  and_intros
  all_goals
    intro hm
    simp only [decAlu, decShi, decBf, decMov, decPl, decQw, decFe, decAmo, decBankop]
    split
    any_goals exact error_exact
    all_goals exact checked_exact rfl

/-- The decoders of majors 0x20 to 0x2F but for STRM and CPYG, which test an operand or a sub-opcode on their own. -/
theorem engine_exact {w : Nat} :
    (w / 33554432 % 64 = 32 → DecodesExactly w (decBar w)) ∧ (w / 33554432 % 64 = 33 → DecodesExactly w (decHnd w)) ∧
    (w / 33554432 % 64 = 36 → DecodesExactly w (decCh w)) ∧ (w / 33554432 % 64 = 39 → DecodesExactly w (decWait w)) ∧
    (w / 33554432 % 64 = 40 → DecodesExactly w (decCpy w)) ∧ (w / 33554432 % 64 = 41 → DecodesExactly w (decCpys w)) ∧
    (w / 33554432 % 64 = 43 → DecodesExactly w (decPfetch w)) ∧ (w / 33554432 % 64 = 44 → DecodesExactly w (decRstore w)) ∧
    (w / 33554432 % 64 = 46 → DecodesExactly w (decLens w)) ∧ (w / 33554432 % 64 = 47 → DecodesExactly w (decHalo w)) := by
  and_intros
  all_goals
    intro hm
    simp only [decBar, decHnd, decCh, decWait, decCpy, decCpys, decPfetch, decRstore, decLens, decHalo]
    split
    any_goals exact error_exact
    all_goals exact checked_exact rfl

/-- The decoders of majors 0x30 to 0x3D. -/
theorem vector_exact {w : Nat} :
    (w / 33554432 % 64 = 48 → DecodesExactly w (decVmem w)) ∧ (w / 33554432 % 64 = 49 → DecodesExactly w (decVfp w)) ∧
    (w / 33554432 % 64 = 50 → DecodesExactly w (decVint w)) ∧ (w / 33554432 % 64 = 51 → DecodesExactly w (decVlane w)) ∧
    (w / 33554432 % 64 = 52 → DecodesExactly w (decVscl w)) ∧ (w / 33554432 % 64 = 56 → DecodesExactly w (decSamp w)) ∧
    (w / 33554432 % 64 = 57 → DecodesExactly w (decSpec w)) ∧ (w / 33554432 % 64 = 58 → DecodesExactly w (decCond w)) ∧
    (w / 33554432 % 64 = 60 → DecodesExactly w (decCtrl w)) ∧ (w / 33554432 % 64 = 61 → DecodesExactly w (decSys w)) := by
  and_intros
  all_goals
    intro hm
    simp only [decVmem, decVfp, decVint, decVlane, decVscl, decSamp, decSpec, decCond, decCtrl, decSys]
    split
    any_goals exact error_exact
    all_goals exact checked_exact rfl

theorem decStrm_exact {w : Nat} (hm : w / 33554432 % 64 = 45) : DecodesExactly w (decStrm w) := by
  rw [decStrm]
  split
  case h_3 => exact error_exact
  all_goals
    split
    · exact error_exact
    · exact checked_exact rfl

theorem decCpyg_exact {w : Nat} (hm : w / 33554432 % 64 = 42) : DecodesExactly w (decCpyg w) := by
  rw [decCpyg]
  split
  · exact error_exact
  · exact checked_exact rfl

/-- A form that is accepted whatever its fields hold. -/
theorem ok_exact {w v : Nat} {j : Instr} (hw : j.wf = true) (he : encode j = some (32, v)) (hv : 2 ^ 31 ≤ w → w < 2 ^ 32 → v = w) :
    DecodesExactly w (.ok j) := fun hlo hhi i h => by cases h; exact ⟨hw, hv hlo hhi ▸ he⟩

theorem decSusp_exact {w : Nat} (hm : w / 33554432 % 64 = 62) : DecodesExactly w (decSusp w) := by
  rw [decSusp]
  split
  next hz =>
    rw [zf_iff] at hz
    split
    case h_4 => exact error_exact
    all_goals exact ok_exact rfl rfl (by omega)
  next => exact error_exact

theorem hint_exact {w : Nat} (hm : w / 33554432 % 64 = 31) : DecodesExactly w (.ok (.hint (fb w 0))) :=
  ok_exact rfl rfl fun _ _ => by zify [cast_toNat_fb]; omega

theorem nop_exact {w : Nat} (hm : w / 33554432 % 64 = 63) : DecodesExactly w (.ok (.nop (fb w 0))) :=
  ok_exact rfl rfl fun _ _ => by zify [cast_toNat_fb]; omega

/-- The rows of the majors without a sub-opcode stand in `decodeWide` itself. -/
theorem decodeWide_exact (w : Nat) : DecodesExactly w (decodeWide w) := by
  rw [decodeWide]
  split
  any_goals exact checked_exact rfl
  all_goals simp only [scalar_exact, engine_exact, decStrm_exact, decCpyg_exact, vector_exact, decSusp_exact, hint_exact, nop_exact, error_exact, *]

theorem half_exact {w v : Nat} {fixed : Bool} {i j : Instr} (h : half fixed (.instr j) = .ok (.instr i)) (hw : j.wf = true)
    (he : encode j = some (16, v)) (hv : fixed = true → v = w) : i.wf = true ∧ encode i = some (16, w) := by
  rw [half] at h
  split at h
  next hf =>
    cases h
    exact ⟨hw, hv hf ▸ he⟩
  next => cases h

theorem decodeHalf_exact {w : Nat} {i : Instr} (hw : w < 2 ^ 15) (h : decodeHalf w = .ok (.instr i)) : i.wf = true ∧ encode i = some (16, w) := by
  rw [decodeHalf] at h
  split at h
  case h_9 | h_10 =>
    rw [half] at h
    split at h <;> cases h
  case h_11 => cases h
  all_goals
    refine half_exact h rfl rfl fun hf => ?_
    simp only [zf_iff] at hf
    zify [cast_toNat_fb]
    omega

/-! Matrix commands. -/

theorem b2n_eq_toNat_ofBool (b : Bool) : b2n b = (BitVec.ofBool b).toNat := by cases b <;> rfl

theorem toNat_ofBool_beq_one (b : Bool) : ((BitVec.ofBool b).toNat == 1) = b := by cases b <;> rfl

/-- A power that `simp` does not evaluate (the place of the last field of MMA.S). -/
theorem two_pow_272 : 2 ^ 272 = 2 ^ 136 * 2 ^ 136 := by rw [← pow_add]

/-- The fields of a matrix command's record are read where they are written. -/
theorem fieldsMxu_of_encodeMxu {i : Instr} {v : Nat} (h : encodeMxu i = some v) : fieldsMxu v = some i := by
  cases i
  case mnop | mma | mmaS | mloada | mrot | mrotLd | maccLd | maccSt | mcfg | mchk | mzero | mfence | mtag =>
    cases h
    simp (disch := omega) only [fieldsMxu, two_pow_272, b2n_eq_toNat_ofBool, fb_eq_ofNat_slice, slice_add_high, mod_add_high, slice_add_self,
      toNat_ofBool_beq_one, BitVec.ofNat_toNat, BitVec.setWidth_eq, Nat.reducePow, Nat.reduceMul, Nat.reduceAdd, Nat.reduceDiv, Nat.reduceMod,
      Nat.reduceBEq, Bool.false_eq_true, if_true, if_false]
  all_goals cases h

theorem decodeMxu_of_encodeMxu {i : Instr} {v : Nat} (h : encodeMxu i = some v) (hu : usedMxu i = true) : decodeMxu v = .ok i := by
  simp only [decodeMxu, fieldsMxu_of_encodeMxu h, h, hu, beq_self_eq_true, Bool.and_self, if_true]

/-! Chunk instructions. -/

/-- The fields of a chunk instruction are read where they are written. -/
theorem fieldsHalo_of_encodeHalo {i : Instr} {v : Nat} (h : encodeHalo i = some v) : fieldsHalo v = some i := by
  cases i
  case hSend | hRecv | hReduce | hCopy | hWait | hSignal | hLoop | hEnd =>
    cases h
    simp (disch := omega) only [fieldsHalo, b2n_eq_toNat_ofBool, fb_eq_ofNat_slice, slice_add_low, slice_add_lowest, slice_add_self, mod_add_self,
      toNat_ofBool_beq_one, BitVec.truncate_eq_setWidth, BitVec.toNat_setWidth_of_le, BitVec.ofNat_toNat, BitVec.setWidth_eq, Nat.reducePow,
      Nat.reduceMul, add_zero, Nat.div_one, Nat.reduceDiv, Nat.reduceMod]
  all_goals cases h

theorem decodeHalo_of_encodeHalo {i : Instr} {v : Nat} (h : encodeHalo i = some v) (hok : chunkOk i = true) : decodeHalo v = .ok i := by
  simp only [decodeHalo, fieldsHalo_of_encodeHalo h, h, hok, beq_self_eq_true, Bool.and_self, if_true]

end Sys2Proof.Machine.Laws
end

section
open Sys2Proof Sys2Proof.Machine Sys2Proof.Machine.Laws

/-- Settles O53: the round trip of every instruction, and the exactness of the decoders of words and halfwords. -/
theorem encodeDecode : Obligations.EncodeDecode := by
  unfold Obligations.EncodeDecode
  exact ⟨fun i p hw he => roundTrip i hw p he, fun _ _ => decodeMxu_of_encodeMxu, fun _ _ => decodeHalo_of_encodeHalo,
    fun w i hlo hhi h => decodeWide_exact w hlo hhi i h, fun _ _ => decodeHalf_exact⟩

/-- Settles O52: the words are the encodings of well-formed instructions. -/
theorem decodeWords : Obligations.DecodeWords := by
  unfold Obligations.DecodeWords
  have hw : ∀ x ∈ sampleWords, x.2.2.wf = true ∧ encode x.2.2 = some (x.1, x.2.1) := by decide
  exact fun x hx => roundTrip x.2.2 (hw x hx).1 (x.1, x.2.1) (hw x hx).2

end

section
/-! Proofs about the values of the integer instructions (06 R114 to R120): what each function of the model is on natural numbers and integers. -/

namespace Sys2Proof.Machine.Laws

/-! Words and the numbers they stand for. -/

theorem eq_w64 {v : Word} {n : Nat} (h : v.toNat = n) : v = w64 n := by simp [← h]

theorem eq_w64_mod {v : Word} {n : Nat} (h : v.toNat = n % 2 ^ 64) : v = w64 n := BitVec.eq_of_toNat_eq (h.trans (BitVec.toNat_ofNat ..).symm)

theorem eq_ofInt {v : Word} {z : Int} (h : v.toInt = z) : v = BitVec.ofInt 64 z := by rw [← h, BitVec.ofInt_toInt]

/-- An instruction's field as a signed number (05 R92). -/
theorem toInt_eq_signedField {n : Nat} (v : BitVec (n + 1)) : v.toInt = signedField (n + 1) v.toNat := by
  rw [BitVec.toInt_eq_toNat_cond, signedField, Nat.add_sub_cancel, pow_succ']
  simp only [Nat.mul_lt_mul_left (show 0 < 2 by decide)]
  split <;> push_cast <;> ring_nf

theorem sx_eq {n : Nat} (v : BitVec (n + 1)) : sx v = BitVec.ofInt 64 (signedField (n + 1) v.toNat) := by
  rw [← toInt_eq_signedField]
  rfl

/-! Two operands (R114, R115). -/

theorem add_eq_w64 (x y : Word) : x + y = w64 (x.toNat + y.toNat) := eq_w64_mod (BitVec.toNat_add ..)
theorem sub_eq_w64 (x y : Word) : x - y = w64 (x.toNat + (2 ^ 64 - y.toNat)) := eq_w64_mod (by rw [BitVec.toNat_sub, Nat.add_comm])
theorem and_eq_w64 (x y : Word) : x &&& y = w64 (x.toNat &&& y.toNat) := eq_w64 (BitVec.toNat_and ..)
theorem or_eq_w64 (x y : Word) : x ||| y = w64 (x.toNat ||| y.toNat) := eq_w64 (BitVec.toNat_or ..)
theorem xor_eq_w64 (x y : Word) : x ^^^ y = w64 (x.toNat ^^^ y.toNat) := eq_w64 (BitVec.toNat_xor ..)
theorem mul_eq_w64 (x y : Word) : x * y = w64 (x.toNat * y.toNat) := eq_w64_mod (BitVec.toNat_mul ..)

theorem shl_eq (x y : Word) : shl x y = w64 (x.toNat * 2 ^ (y.toNat % 64)) :=
  eq_w64_mod (by rw [shl, BitVec.toNat_shiftLeft, Nat.shiftLeft_eq])

theorem shr_eq (x y : Word) : shr x y = w64 (x.toNat / 2 ^ (y.toNat % 64)) :=
  eq_w64 (by rw [shr, BitVec.toNat_ushiftRight, Nat.shiftRight_eq_div_pow])

theorem sar_eq (x y : Word) : sar x y = BitVec.ofInt 64 (x.toInt / 2 ^ (y.toNat % 64)) :=
  eq_ofInt (by rw [sar, BitVec.toInt_sshiftRight, Int.shiftRight_eq_div_pow]; norm_cast)

theorem minS_eq (x y : Word) : minS x y = BitVec.ofInt 64 (min x.toInt y.toInt) := eq_ofInt (by rw [minS]; split <;> omega)
theorem maxS_eq (x y : Word) : maxS x y = BitVec.ofInt 64 (max x.toInt y.toInt) := eq_ofInt (by rw [maxS]; split <;> omega)
theorem minU_eq (x y : Word) : minU x y = w64 (min x.toNat y.toNat) := eq_w64 (by rw [minU]; split <;> omega)
theorem maxU_eq (x y : Word) : maxU x y = w64 (max x.toNat y.toNat) := eq_w64 (by rw [maxU]; split <;> omega)

/-- −2^63 / −1 wraps. -/
theorem divS_eq (x y : Word) : divS x y = if y = 0 then 0xFFFFFFFFFFFFFFFF
    else if x = 0x8000000000000000 ∧ y = 0xFFFFFFFFFFFFFFFF then 0x8000000000000000 else BitVec.ofInt 64 (x.toInt.tdiv y.toInt) := by
  rw [divS]
  by_cases h : x = 0x8000000000000000 ∧ y = 0xFFFFFFFFFFFFFFFF
  · obtain ⟨rfl, rfl⟩ := h
    decide
  · rw [if_neg h]
    rfl

theorem divU_eq (x y : Word) : divU x y = if y = 0 then 0xFFFFFFFFFFFFFFFF else w64 (x.toNat / y.toNat) := rfl

theorem remS_eq (x y : Word) : remS x y = if y = 0 then x
    else if x = 0x8000000000000000 ∧ y = 0xFFFFFFFFFFFFFFFF then 0 else BitVec.ofInt 64 (x.toInt - x.toInt.tdiv y.toInt * y.toInt) := by
  rw [remS]
  by_cases h : x = 0x8000000000000000 ∧ y = 0xFFFFFFFFFFFFFFFF
  · obtain ⟨rfl, rfl⟩ := h
    decide
  · rw [if_neg h, Int.tmod_def, Int.mul_comm]

theorem remU_eq (x y : Word) : remU x y = if y = 0 then x else w64 (x.toNat - x.toNat / y.toNat * y.toNat) := by
  rw [remU, Nat.mod_eq_sub_div_mul]

/-- A scaled address (R120). -/
theorem adda_eq_w64 (x y : Word) (k : Nat) : x + (y <<< k) = w64 (x.toNat + y.toNat * 2 ^ k) :=
  eq_w64_mod (by rw [BitVec.toNat_add, BitVec.toNat_shiftLeft, Nat.shiftLeft_eq, Nat.add_mod_mod])

/-! An immediate operand (R117, R118). -/

theorem add_sx_eq {n : Nat} (x : Word) (v : BitVec (n + 1)) : x + sx v = BitVec.ofInt 64 (x.toInt + signedField (n + 1) v.toNat) := by
  rw [sx_eq, BitVec.ofInt_add, BitVec.ofInt_toInt]

/-- The amount of an immediate shift is below 64. -/
theorem shift_amount (h : BitVec 6) : (w64 h.toNat).toNat % 64 = h.toNat := by
  rw [BitVec.toNat_ofNat]
  omega

theorem shl_amount_eq (x : Word) (h : BitVec 6) : shl x (w64 h.toNat) = w64 (x.toNat * 2 ^ h.toNat) := by rw [shl_eq, shift_amount]
theorem shr_amount_eq (x : Word) (h : BitVec 6) : shr x (w64 h.toNat) = w64 (x.toNat / 2 ^ h.toNat) := by rw [shr_eq, shift_amount]
theorem sar_amount_eq (x : Word) (h : BitVec 6) : sar x (w64 h.toNat) = BitVec.ofInt 64 (x.toInt / 2 ^ h.toNat) := by rw [sar_eq, shift_amount]

/-! Bits of a word. -/

theorem bit_eq_testBit (v : BitVec n) (i : Nat) : bit v i = v.toNat.testBit i := rfl

theorem bit_zero_eq (v : BitVec n) : bit v 0 = decide (v.toNat % 2 = 1) := Nat.testBit_zero ..

theorem bit_w64 {m i : Nat} (h : i < 64) : bit (w64 m) i = m.testBit i := by
  simp only [BitVec.getLsbD_ofNat, h, decide_true, Bool.true_and]

/-- The first index below `n` at which `p` holds, or `n`. -/
theorem first_in_range (p : Nat → Bool) (n : Nat) {k : Nat} (hk : ((List.range n).find? p).getD n = k) :
    k ≤ n ∧ (∀ i < k, p i = false) ∧ (k < n → p k = true) := by
  cases hf : (List.range n).find? p with
  | none =>
    rw [hf] at hk
    obtain rfl : n = k := hk
    exact ⟨le_rfl, fun i hi => by simpa using List.find?_eq_none.mp hf i (List.mem_range.mpr hi), fun h => absurd h (lt_irrefl _)⟩
  | some j =>
    rw [hf] at hk
    obtain rfl : j = k := hk
    obtain ⟨hp, hm, hlt⟩ := List.find?_range_eq_some.mp hf
    exact ⟨(List.mem_range.mp hm).le, fun i hi => by simpa using hlt i hi, fun _ => hp⟩

/-- CLZ counts the 0 bits above the highest 1 bit (R116). -/
theorem countLead_spec (x : Word) : ∃ n, countLead x = w64 n ∧ n ≤ 64 ∧ x.toNat < 2 ^ (64 - n) ∧ (n < 64 → 2 ^ (63 - n) ≤ x.toNat) := by
  obtain ⟨hle, hlt, heq⟩ := first_in_range (fun i => bit x (63 - i)) 64 rfl
  refine ⟨_, rfl, hle, Nat.lt_pow_two_of_testBit _ fun i hi => ?_, fun h => Nat.ge_two_pow_of_testBit (heq h)⟩
  by_cases h : i < 64
  · have := hlt (63 - i) (by omega)
    rwa [show 63 - (63 - i) = i by omega] at this
  · exact BitVec.getLsbD_of_ge x i (by omega)

/-- CTZ counts the 0 bits below the lowest 1 bit. -/
theorem countTrail_spec (x : Word) : ∃ n, countTrail x = w64 n ∧ n ≤ 64 ∧ x.toNat % 2 ^ n = 0 ∧ (n < 64 → x.toNat / 2 ^ n % 2 = 1) := by
  obtain ⟨hle, hlt, heq⟩ := first_in_range (fun i => bit x i) 64 rfl
  refine ⟨_, rfl, hle, Nat.eq_of_testBit_eq fun i => ?_, fun h => ?_⟩
  · rw [Nat.testBit_mod_two_pow, Nat.zero_testBit]
    by_cases h : i < ((List.range 64).find? fun i => bit x i).getD 64
    · rw [← bit_eq_testBit, hlt i h, Bool.and_false]
    · simp [h]
  · simpa [bit_eq_testBit, Nat.testBit_eq_decide_div_mod_eq] using heq h

/-- POPC counts the 1 bits. -/
theorem countOnes_eq (x : Word) : countOnes x = w64 ((List.range 64).map fun i => x.toNat / 2 ^ i % 2).sum := by
  have hcount (l : List Nat) : (l.filter fun i => bit x i).length = (l.map fun i => x.toNat / 2 ^ i % 2).sum := by
    induction l with
    | nil => rfl
    | cons i t ih =>
      have hb : bit x i = decide (x.toNat / 2 ^ i % 2 = 1) := Nat.testBit_eq_decide_div_mod_eq
      rw [List.filter_cons, List.map_cons, List.sum_cons, hb]
      by_cases h : x.toNat / 2 ^ i % 2 = 1
      · simp [h, ih, Nat.add_comm]
      · simp [ih, show x.toNat / 2 ^ i % 2 = 0 by omega]
  rw [countOnes, hcount]

/-- BEXT zero-extends or sign-extends the field (R119). -/
theorem bitField_eq (x : Word) (sgn : Bool) (l w : Nat) :
    bitField x sgn l w = if sgn then ((x >>> l).setWidth (w + 1)).signExtend 64 else ((x >>> l).setWidth (w + 1)).setWidth 64 := by
  generalize hf : (x >>> l).setWidth (w + 1) = f
  have hn : x.toNat / 2 ^ l % 2 ^ (w + 1) = f.toNat := by
    rw [← hf, BitVec.toNat_setWidth, BitVec.toNat_ushiftRight, Nat.shiftRight_eq_div_pow]
  have hm : (f.toNat / 2 ^ w % 2 == 1) = f.msb := by
    rw [BitVec.msb_eq_getLsbD_last, Nat.add_sub_cancel, BitVec.getLsbD, Nat.testBit_eq_decide_div_mod_eq]
    rfl
  simp only [bitField, hn, hm, BitVec.signExtend, BitVec.toInt_eq_msb_cond]
  cases sgn <;> cases f.msb <;> simp

theorem bit_bitField {x : Word} (sgn : Bool) {l w i : Nat} (hi : i < 64) :
    bit (bitField x sgn l w) i = if i ≤ w then bit x (l + i) else sgn && bit x (l + w) := by
  rw [bitField_eq]
  cases sgn
  · simp only [Bool.false_eq_true, if_false, BitVec.getLsbD_setWidth, BitVec.getLsbD_ushiftRight, hi, Nat.lt_succ_iff]
    by_cases hw : i ≤ w <;> simp [hw]
  · simp only [if_true, BitVec.getLsbD_signExtend, BitVec.msb_eq_getLsbD_last, BitVec.getLsbD_setWidth, BitVec.getLsbD_ushiftRight, hi,
      Nat.lt_succ_iff]
    by_cases hw : i ≤ w <;> simp [hw]

/-- BINS writes the low bits of the source inside the field, and keeps the others. -/
theorem bit_bitInsert {old x : Word} {l w i : Nat} (hi : i < 64) :
    bit (bitInsert old x l w) i = if l ≤ i ∧ i ≤ l + w then bit x (i - l) else bit old i := by
  have hm : bit (w64 ((2 ^ (w + 1) - 1) * 2 ^ l)) i = decide (l ≤ i ∧ i ≤ l + w) := by
    rw [bit_w64 hi, Nat.testBit_mul_two_pow, Nat.testBit_two_pow_sub_one, Bool.eq_iff_iff]
    simp
    omega
  by_cases h : l ≤ i ∧ i ≤ l + w
  · simp only [bitInsert, BitVec.getLsbD_or, BitVec.getLsbD_and, BitVec.getLsbD_not, BitVec.getLsbD_shiftLeft, hm, h, hi]
    simp [h]
  · simp only [bitInsert, BitVec.getLsbD_or, BitVec.getLsbD_and, BitVec.getLsbD_not, BitVec.getLsbD_shiftLeft, hm, h, hi]
    simp

end Sys2Proof.Machine.Laws
end

section
/-! Proofs about the scalar instructions (06 R114 to R127, R132, R133): what each form writes, and that it leaves everything else as it is. -/

namespace Sys2Proof.Machine.Laws

/-! The executing thread and its registers. -/

@[simp] theorem x_consumeAt (c : Ctx) (m : Bool) (a : Word) (r : Nat) : (c.consumeAt m a).x r = c.x r := by unfold Ctx.consumeAt; split <;> rfl
@[simp] theorem xp_consumeAt (c : Ctx) (m : Bool) (a : Word) (r : Nat) : (c.consumeAt m a).xp r = c.xp r := by
  unfold Ctx.consumeAt; split <;> rfl
@[simp] theorem next_pc (c : Ctx) (n : Nat) : (c.next n).pc = c.pc + w64 (c.pfx + n) := rfl
@[simp] theorem e_next (c : Ctx) (n r : Nat) : (c.next n).e r = c.e r := rfl
@[simp] theorem ep_next (c : Ctx) (n r : Nat) : (c.next n).ep r = c.ep r := rfl
@[simp] theorem e_consume (c : Ctx) (m : Bool) (r : Nat) : (c.consume m).e r = c.e r := by unfold Ctx.consume; split <;> rfl
@[simp] theorem ep_consume (c : Ctx) (m : Bool) (r : Nat) : (c.consume m).ep r = c.ep r := by unfold Ctx.consume; split <;> rfl
@[simp] theorem at_consume (c : Ctx) (m : Bool) : (c.consume m).at_ = c.at_ := by unfold Ctx.consume; split <;> rfl

theorem ep_setE (c : Ctx) (d r : Nat) (v : Word) (m : Bool) (hd : d < 8) : (c.setE d v m).ep r = if r = d then m else c.ep r :=
  bit_setBit _ _ _ _ hd

/-- An update of the executing thread looks at its context only. -/
theorem updMe_congr {s : State} {f g : Ctx → Ctx} (h : f s.me = g s.me) : s.updMe f = s.updMe g := congrArg (s.setCtx s.cur) h

/-- Every core after one is updated. -/
theorem core_updCore_of (s : State) (c b : CoreId) (f : Core → Core) :
    (s.updCore c f).core b = if coreKey b = coreKey c then f (s.core b) else s.core b := by
  rw [State.updCore, State.setCore, State.core, mget_mset]
  split
  · rename_i e
    rw [State.core, State.core, e]
  · rfl

/-- An update of a core that keeps its contexts keeps every thread. -/
theorem ctx_updCore {s : State} {c : CoreId} {f : Core → Core} (h : ∀ k, (f k).ctxs = k.ctxs) (u : ThreadId) :
    (s.updCore c f).ctx u = s.ctx u := by
  rw [State.ctx, core_updCore_of]
  split
  · rw [Core.ctx, h]
    rfl
  · rfl

/-- An update of the executing thread keeps every other thread. -/
theorem sameOthers_updMe (s : State) (f : Ctx → Ctx) : SameOthers s (s.updMe f) := by
  intro u hu
  rw [State.updMe, State.updCtx, State.setCtx, State.ctx, core_updCore_of]
  split
  · rename_i e
    rw [Core.ctx, Core.setCtx, mget_mset_ne _ _ _ (hu.resolve_left (absurd e))]
    rfl
  · rfl

/-! Results into an x register. -/

/-- The form of one source, with its function named as the statements name it. -/
theorem alu1_writes_of {g f : Word → Word} (h : ∀ x, g x = f x) (s : State) (d a : BitVec 5) (n : Nat) :
    ∃ t, s.alu1 d.toNat a.toNat g n = .next t ∧ WritesX s t d.toNat (f (s.me.x a.toNat)) (s.me.xp a.toNat) n :=
  funext h ▸ alu1_writes s d a g n

/-- The form of two sources. -/
theorem alu2_writes_of {g f : Word → Word → Word} (h : ∀ x y, g x y = f x y) (s : State) (d a b : BitVec 5) (n : Nat) :
    ∃ t, s.alu2 d.toNat a.toNat b.toNat g n = .next t ∧
      WritesX s t d.toNat (f (s.me.x a.toNat) (s.me.x b.toNat)) (s.me.xp a.toNat || s.me.xp b.toNat) n :=
  funext₂ h ▸ alu2_writes s d a b g n

/-- The three-register arithmetic forms (R114, R115). -/
theorem aluForm_writes {i : Instr} {d a b : Nat} {f : Word → Word → Word} (s : State) (h : aluForm i = some (d, a, b, f)) :
    ∃ t, exec i s = .next t ∧ WritesX s t d (f (s.me.x a) (s.me.x b)) (s.me.xp a || s.me.xp b) 4 := by
  cases i
  case add => cases h; exact alu2_writes_of add_eq_w64 ..
  case sub => cases h; exact alu2_writes_of sub_eq_w64 ..
  case and => cases h; exact alu2_writes_of and_eq_w64 ..
  case or => cases h; exact alu2_writes_of or_eq_w64 ..
  case xor => cases h; exact alu2_writes_of xor_eq_w64 ..
  case sll => cases h; exact alu2_writes_of shl_eq ..
  case srl => cases h; exact alu2_writes_of shr_eq ..
  case sra => cases h; exact alu2_writes_of sar_eq ..
  case min => cases h; exact alu2_writes_of minS_eq ..
  case max => cases h; exact alu2_writes_of maxS_eq ..
  case minu => cases h; exact alu2_writes_of minU_eq ..
  case maxu => cases h; exact alu2_writes_of maxU_eq ..
  case mul => cases h; exact alu2_writes_of mul_eq_w64 ..
  case mulh => cases h; exact alu2_writes ..
  case mulhu => cases h; exact alu2_writes ..
  case div => cases h; exact alu2_writes_of divS_eq ..
  case divu => cases h; exact alu2_writes_of divU_eq ..
  case rem => cases h; exact alu2_writes_of remS_eq ..
  case remu => cases h; exact alu2_writes_of remU_eq ..
  all_goals cases h

/-- The immediate forms (R117, R118, R133). -/
theorem immForm_writes {i : Instr} {d a n : Nat} {f : Word → Word} (s : State) (h : immForm i = some (d, a, f, n)) :
    ∃ t, exec i s = .next t ∧ WritesX s t d (f (s.me.x a)) (s.me.xp a) n := by
  cases i
  case addi k => cases h; exact alu1_writes_of (fun x => add_sx_eq x k) ..
  case andi k => cases h; exact alu1_writes_of (fun x => congrArg (x &&& ·) (sx_eq k)) ..
  case ori k => cases h; exact alu1_writes_of (fun x => congrArg (x ||| ·) (sx_eq k)) ..
  case xori k => cases h; exact alu1_writes_of (fun x => congrArg (x ^^^ ·) (sx_eq k)) ..
  case slli k => cases h; exact alu1_writes_of (fun x => shl_amount_eq x k) ..
  case srli k => cases h; exact alu1_writes_of (fun x => shr_amount_eq x k) ..
  case srai k => cases h; exact alu1_writes_of (fun x => sar_amount_eq x k) ..
  case cAddi k => cases h; exact alu1_writes_of (fun x => add_sx_eq x k) ..
  all_goals cases h

/-- BEXT, BINS and ADDA (R119, R120). -/
theorem fields_write (d a b : BitVec 5) (x : BitVec 1) (l w : BitVec 6) (k : BitVec 3) (s : State) :
    (∃ t v, exec (.bext d a x l w) s = .next t ∧ WritesX s t d.toNat v (s.me.xp a.toNat) 4 ∧
      ∀ i, i < 64 → bit v i = (if i ≤ w.toNat then bit (s.me.x a.toNat) (l.toNat + i)
        else x == 1 && bit (s.me.x a.toNat) (l.toNat + w.toNat))) ∧
    (∃ t v, exec (.bins d a l w) s = .next t ∧ WritesX s t d.toNat v (s.me.xp d.toNat || s.me.xp a.toNat) 4 ∧
      ∀ i, i < 64 → bit v i = (if l.toNat ≤ i ∧ i ≤ l.toNat + w.toNat then bit (s.me.x a.toNat) (i - l.toNat)
        else bit (s.me.x d.toNat) i)) ∧
    ∃ t, exec (.adda d a b k) s = .next t ∧
      WritesX s t d.toNat (w64 ((s.me.x a.toNat).toNat + (s.me.x b.toNat).toNat * 2 ^ k.toNat)) (s.me.xp a.toNat || s.me.xp b.toNat) 4 := by
  obtain ⟨t, ht, hw⟩ := alu1_writes s d a (fun v => bitField v (x == 1) l.toNat w.toNat) 4
  obtain ⟨u, hu, hv⟩ := alu2_writes s d d a (fun old v => bitInsert old v l.toNat w.toNat) 4
  exact ⟨⟨t, _, ht, hw, fun _ hi => bit_bitField _ hi⟩, ⟨u, _, hu, hv, fun _ hi => bit_bitInsert hi⟩, alu2_writes_of (adda_eq_w64 · · _) ..⟩

/-! Moves and constants (R121 to R124). -/

/-- A word of a live bank that has no error reads as it is, and the bank is left as it is (08 R178). -/
theorem bankRead_sound {s : State} {w : Nat} (hc : mget 0 s.badWords w = 0) (hr : bankKey w ∉ s.dev.retired) : s.bankRead w = (s, false) := by
  unfold State.bankRead
  split
  · rfl
  · simp [hr, State.directRead, State.condition, hc]

/-- A reply that does not come later. -/
theorem replied_now {s : State} {i : Instr} {b : Bool} {f : State → Res} (h : s.me.slow = false) : s.replied i b f = f s := by
  simp [State.replied, h]

theorem exec_ldk (d : BitVec 5) (k : BitVec 8) (s : State) : exec (.ldk d k) s = execLdk d k s := rfl

/-- LDK whose copy fails its parity writes the store's word into the copy, and into xd (R123; log 32). -/
theorem ldk_parity {s : State} {k : BitVec 8} {w : Nat} (d : BitVec 5) (hw : keyLs s.cur.core (8 * k.toNat) / 8 = w)
    (hbad : (s.core s.cur.core).cwBad.contains k.toNat = true) (hc : mget 0 s.badWords w = 0) (hr : bankKey w ∉ s.dev.retired)
    (hslow : s.me.slow = false) :
    ∃ f : Core → Core, (∀ x, (f x).ctxs = x.ctxs) ∧ exec (.ldk d k) s = .next ((s.updCore s.cur.core f).updMe fun c =>
      ((c.consumeAt (s.pz w) (w64 (0x7F * 2 ^ 56 + 8 * k.toNat))).setX d.toNat (w64 (leNat (s.rd (8 * w) 8))) (s.pz w)).next 4) := by
  rw [exec_ldk]
  simp only [execLdk, hbad, if_true, replied_now hslow, hw, bankRead_sound hc hr, Bool.false_eq_true, if_false]
  exact ⟨_, fun x => by split <;> rfl, rfl⟩

/-- It gives that word, with its mark. -/
theorem ldk_reads_store {s : State} {k : BitVec 8} (d : BitVec 5) (hbad : (s.core s.cur.core).cwBad.contains k.toNat = true) :
    let w := 2 ^ 57 + coreKey s.cur.core * 2 ^ 18 + k.toNat
    mget 0 s.badWords w = 0 → bankKey w ∉ s.dev.retired → s.me.slow = false →
      ∃ t, exec (.ldk d k) s = .next t ∧ SameMem s t ∧ XWrite s.me t.me d.toNat (w64 (leNat (s.rd (8 * w) 8))) (s.pz w) ∧
        t.me.pc = s.me.pc + w64 (s.me.pfx + 4) := by
  intro w hc hr hslow
  obtain ⟨f, hf, he⟩ := ldk_parity (w := w) d (by simp only [keyLs, w]; omega) hbad hc hr hslow
  have hme : (s.updCore s.cur.core f).me = s.me := ctx_updCore hf _
  refine ⟨_, he, fun _ => by simp, fun r _ => ?_, ?_⟩
  · simp only [me_updMe, hme, x_next, xp_next, x_setX, xp_setX _ _ _ _ _ d.isLt, x_consumeAt, xp_consumeAt]
    simp
  · simp only [me_updMe, hme, next_pc, setX_pc, setX_pfx, consumeAt_pc, consumeAt_pfx]

/-- LDE writes one e register and its mark (R122). -/
theorem lde_writes (e : BitVec 3) (a : BitVec 5) (s : State) :
    ∃ t, exec (.lde e a) s = .next t ∧ OnlyMe s t ∧ SameMem s t ∧
      (∀ r, r < 8 → t.me.e r = (if r = e.toNat then s.me.x a.toNat else s.me.e r) ∧
        t.me.ep r = (if r = e.toNat then s.me.xp a.toNat else s.me.ep r)) ∧
      t.me = { s.me with es := t.me.es, em := t.me.em, cir := if s.me.xp a.toNat then s.me.cir ||| 1 else s.me.cir
                         pc := s.me.pc + w64 (s.me.pfx + 4), pfx := 0, rlx := false, held := none } := by
  refine ⟨_, rfl, onlyMe_updMe .., sameMem_updMe _ _, fun r _ => ?_, ?_⟩
  · simp only [me_updMe, e_next, ep_next, e_setE, ep_setE _ _ _ _ _ e.isLt, e_consume, ep_consume, and_self]
  · rw [me_updMe]
    cases s.me.xp a.toNat <;> simp [Ctx.next, Ctx.setE, Ctx.consume]

/-! Predicates (R125, R126). -/

theorem cc_cases : ∀ cc : BitVec 3, cc = 0 ∨ cc = 1 ∨ cc = 2 ∨ cc = 3 ∨ cc = 4 ∨ cc = 5 ∨ cc = 6 ∨ cc = 7 := by decide

/-- Each condition code compares as the rule says; equality of words is equality of their numbers. -/
theorem condition_eq (cc : BitVec 3) (x y : Word) : condition cc x y = ccHolds cc x y := by
  have heq : decide (x = y) = decide (x.toNat = y.toNat) := decide_eq_decide.mpr BitVec.toNat_inj.symm
  have hne : (!decide (x = y)) = decide (x.toNat ≠ y.toNat) := by rw [heq, decide_not]
  rcases cc_cases cc with rfl | rfl | rfl | rfl | rfl | rfl | rfl | rfl
  · exact heq
  · exact hne
  all_goals rfl

theorem toP_writes_of {s : State} {v w : Bool} (h : v = w) (d : BitVec 3) (m : Bool) (n : Nat) :
    ∃ t, s.toP d.toNat v m n = .next t ∧ WritesP s t d.toNat w m n := h ▸ toP_writes s d v m n

/-- The predicate forms. -/
theorem predForm_writes {i : Instr} {d : Nat} {v m : Bool} {s : State} (h : predForm i s.me = some (d, v, m)) :
    ∃ t, exec i s = .next t ∧ WritesP s t d v m 4 := by
  cases i
  case pand => cases h; exact toP_writes ..
  case por => cases h; exact toP_writes ..
  case pnot => cases h; exact toP_writes ..
  case pmov => cases h; exact toP_writes ..
  case cmp => cases h; exact toP_writes_of (condition_eq ..) ..
  case cmpi k => cases h; exact toP_writes_of (by rw [condition_eq, sx_eq]) ..
  all_goals cases h

/-! Branches, links and hints (R127, R132, R133). -/

/-- An update that is a branch to `a`. -/
theorem goes_of {s : State} {f : Ctx → Ctx} {a : Word} {m : Bool} (h : f s.me = (s.me.consume m).goto a) : GoesTo s (s.updMe f) a m :=
  updMe_congr (g := fun c => (c.consume m).goto a) h ▸ goto_goes s a m

/-- The next instruction is a branch target like any other. -/
theorem next_eq_goto (c : Ctx) (n : Nat) : c.next n = c.goto (c.at_ + w64 n) := by
  rw [Ctx.next, Ctx.goto, Ctx.at_, w64, BitVec.ofNat_add, BitVec.add_assoc]

/-- Where a branch goes: its own first halfword and twice its field (05 R103). -/
theorem target_eq {n : Nat} (c : Ctx) (o : BitVec (n + 1)) :
    c.target o = c.pc + w64 c.pfx + BitVec.ofInt 64 (2 * signedField (n + 1) o.toNat) := by
  rw [Ctx.target, offset2, sx_eq, BitVec.ofInt_mul]
  rfl

/-- A conditional branch goes to its target or on to the next instruction. -/
theorem branch_goes {s : State} {b : Bool} {a : Word} (m : Bool) (n : Nat) {f : Ctx → Ctx}
    (h : f s.me = if b then (s.me.consume m).goto a else (s.me.consume m).next n) :
    GoesTo s (s.updMe f) (if b then a else s.me.at_ + w64 n) m := by
  apply goes_of
  cases b
  · simpa [next_eq_goto] using h
  · simpa using h

/-- A jump with a link writes xd and the pc, and nothing else. -/
theorem link_writes (s : State) {d : Nat} (hd : d < 32) (v a : Word) (m : Bool) {t : State}
    (ht : t = s.updMe fun c => ((c.consume m).setX d v m).goto a) :
    OnlyMe s t ∧ SameMem s t ∧ XWrite s.me t.me d v m ∧
      t.me = { s.me with xs := t.me.xs, xm := t.me.xm, cir := if m then s.me.cir ||| 1 else s.me.cir
                         pc := a, pfx := 0, rlx := false, held := none } := by
  subst ht
  refine ⟨onlyMe_updMe .., sameMem_updMe _ _, fun r _ => ?_, ?_⟩
  · simp only [me_updMe, x_goto, xp_goto, x_setX, xp_setX _ _ _ _ _ hd, x_consume, xp_consume]
    simp
  · simp only [me_updMe]
    cases m <;> by_cases h : d = 0 <;> simp [Ctx.goto, Ctx.setX, Ctx.consume, h]

end Sys2Proof.Machine.Laws
end

section
open Sys2Proof Sys2Proof.Machine Sys2Proof.Machine.Laws

/-- Settles O1: each form is one of the operand forms, with the function that the rules give. -/
theorem arithmeticResults : Obligations.ArithmeticResults := by
  unfold Obligations.ArithmeticResults
  refine ⟨⟨fun i d a b f s h => aluForm_writes s h, fun i d a f n s h => immForm_writes s h⟩, fun d a b x l w k s => ?_,
    fun d a b e p n k s => ?_⟩
  · obtain ⟨nl, hl, lead⟩ := countLead_spec (s.me.x a.toNat)
    obtain ⟨nt, ht, trail⟩ := countTrail_spec (s.me.x a.toNat)
    obtain ⟨tl, el, wl⟩ := alu1_writes s d a countLead 4
    obtain ⟨tt, et, wt⟩ := alu1_writes s d a countTrail 4
    obtain ⟨tp, ep, wp⟩ := alu1_writes_of countOnes_eq s d a 4
    exact ⟨⟨tl, nl, el, hl ▸ wl, lead⟩, ⟨tt, nt, et, ht ▸ wt, trail⟩, ⟨tp, _, ep, wp, rfl⟩, fun _ => fields_write d a b x l w k s⟩
  · refine ⟨alu1_writes s d a id 4, toX_writes .., toX_writes .., alu2_writes s d d a (· + ·) 2, alu1_writes s d a id 2, fun hk => ?_,
      ldk_reads_store d, lde_writes e a s⟩
    have he : exec (.ldk d k) s = s.toX d.toNat ((s.core s.cur.core).window s.me.serial k.toNat) false 4 := if_neg (by rw [hk]; decide)
    exact he ▸ toX_writes ..

/-- Settles O2: a predicate form writes one predicate; every branch and hint is a jump, and a link writes one x register besides. -/
theorem predicatesAndBranches : Obligations.PredicatesAndBranches := by
  unfold Obligations.PredicatesAndBranches
  refine ⟨fun i d v m s h => predForm_writes h, fun o25 o21 o20 o11 o7 n p d a h k s => ?_⟩
  intro A at_ taken
  refine ⟨⟨_, rfl, goes_of (next_eq_goto _ 4)⟩, ⟨_, rfl, goes_of (next_eq_goto _ 4)⟩, ⟨_, rfl, goes_of (next_eq_goto _ 2)⟩,
    ⟨_, rfl, goes_of (congrArg _ (target_eq ..))⟩, ⟨_, rfl, goes_of (congrArg _ (target_eq ..))⟩, ⟨_, rfl, ?_⟩, ⟨_, rfl, ?_⟩,
    ⟨_, rfl, ?_⟩, fun heven => ⟨_, ?_, link_writes s d.isLt _ _ _ rfl⟩⟩
  · exact branch_goes _ 4 (congrArg (if taken then Ctx.goto _ · else _) (target_eq ..))
  · exact branch_goes _ 2 (congrArg (if taken then Ctx.goto _ · else _) (target_eq ..))
  · exact link_writes s d.isLt _ _ false (updMe_congr (congrArg _ (target_eq ..)))
  · exact if_neg (by rw [bit_zero_eq, heven]; decide)

end

section
/-! Proofs about GETC and SETC (04 R72, R73; 06 R129, R130; 10 R202, R203, R219 to R221). -/

namespace Sys2Proof.Machine.Laws

theorem exec_getc (d : BitVec 5) (c : BitVec 10) (s : State) : exec (.getc d c) s = execGetc d c s := rfl
theorem exec_setc (a : BitVec 5) (c : BitVec 10) (s : State) : exec (.setc a c) s = execSetc a c s := rfl

/-! Control indices. -/

/-- The indices that SETC may write are those of the table without a read-only mark. -/
theorem ctrlAccess_eq_some_false (n : Nat) : ctrlAccess n = some false ↔ ctrlWritable n = true := by
  simp only [ctrlWritable, List.contains_eq_mem, List.mem_cons, List.not_mem_nil, or_false, decide_eq_true_eq]
  unfold ctrlAccess
  split_ifs <;> simp only [Option.some.injEq, Bool.true_eq_false, false_iff, true_iff] <;> omega

/-- The indices that GETC may read are those of the table. -/
theorem ctrlAccess_isNone (n : Nat) : (ctrlAccess n).isNone = !ctrlAssigned n := by
  rw [Bool.eq_iff_iff]
  simp only [ctrlAssigned, Bool.not_eq_true', ← Bool.not_eq_true, Bool.or_eq_true, Bool.and_eq_true, decide_eq_true_eq, beq_iff_eq]
  unfold ctrlAccess
  split_ifs <;> simp only [Option.isNone_some, Option.isNone_none, Bool.false_eq_true, false_iff, true_iff] <;> omega

/-- A thread that has privilege where the index asks for it passes the check (04 R73). -/
theorem privileged_enough {s : State} {n : Nat} (h : 0x100 ≤ n → s.privileged s.cur = true) : ¬(0x100 ≤ n ∧ (!s.privileged s.cur) = true) := by
  rintro ⟨hn, hp⟩
  rw [h hn] at hp
  cases hp

/-! GETC. -/

theorem getc_unassigned {s : State} {c : BitVec 10} (d : BitVec 5) (h : ctrlAssigned c.toNat = false) :
    exec (.getc d c) s = .next (s.trap 9 6 0) :=
  if_pos (by rw [ctrlAccess_isNone, h]; rfl)

theorem getc_unprivileged {s : State} {c : BitVec 10} (d : BitVec 5) (h : ctrlAssigned c.toNat = true) (hc : 0x100 ≤ c.toNat)
    (hp : s.privileged s.cur = false) : exec (.getc d c) s = .next (s.trap 6 4 0) := by
  simp [exec_getc, execGetc, ctrlAccess_isNone, h, hc, hp]

/-- Outside pairs nothing mirrors a thread. -/
theorem pairSync_single {s : State} {t : ThreadId} (h : s.trailer t = none) (xd pd hd : List Nat) : s.pairSync t xd pd hd = s := by
  rw [State.pairSync, h]

/-- GETC gives the register's value in its issue cycle, which the step has read ahead or which is read now (R130). -/
theorem getc_writes {s : State} {c : BitVec 10} (d : BitVec 5) (h : ctrlAssigned c.toNat = true)
    (hp : 0x100 ≤ c.toNat → s.privileged s.cur = true) (ht : s.trailer s.cur = none)
    (hg : ∀ w, s.me.got = some w → w = s.ctrl s.cur c.toNat) :
    ∃ t, exec (.getc d c) s = .next t ∧ WritesX s t d.toNat (s.ctrl s.cur c.toNat) false 4 := by
  have hgot : s.me.got.getD (s.ctrl s.cur c.toNat) = s.ctrl s.cur c.toNat := by
    cases e : s.me.got with
    | none => rfl
    | some w => exact hg w e
  refine ⟨_, ?_, writesX_upd s d.toNat d.isLt _ false 4⟩
  rw [exec_getc, execGetc, if_neg (by rw [ctrlAccess_isNone, h]; decide), if_neg (privileged_enough hp), pairSync_single ?_]
  · exact congrArg _ (updMe_congr (by rw [hgot]; rfl))
  · rw [trailer_updMe (by rw [next_serial, setX_serial]), ht]

/-- A bit of a word that is built bit by bit. -/
theorem bit_foldl_setBit (p : Nat → Bool) (n m k : Nat) (hn : n ≤ m) :
    bit ((List.range n).foldl (fun v i => setBit v i (p i)) (0 : BitVec m)) k = (decide (k < n) && p k) := by
  induction n with
  | zero => simp
  | succ n ih =>
    rw [List.range_succ, List.foldl_append, List.foldl_cons, List.foldl_nil, bit_setBit _ _ _ _ hn, ih (by omega)]
    by_cases h : k = n
    · simp [h]
    · simp [h, show k < n + 1 ↔ k < n by omega]

theorem zeroExtend_eq (v : BitVec n) : v.zeroExtend 64 = w64 v.toNat := (BitVec.ofNat_toNat ..).symm

/-- What a control register reads, by the table of the statements. -/
theorem ctrl_of_mem {s : State} {n : Nat} {w : Word} (h : (n, w) ∈ ctrlWords s) : w = s.ctrl s.cur n := by
  suffices h : ∀ p ∈ ctrlWords s, p.2 = s.ctrl s.cur p.1 from h _ ‹_›
  have zext {m : Nat} (v : BitVec m) : w64 v.toNat = v.zeroExtend 64 := (zeroExtend_eq v).symm
  have tmode (b : Bool) : (if b then 1 else 0) = w64 (b2n b) := by cases b <;> rfl
  have dbg : (if s.dev.dbg = 0 then 0 else w64 (s.core s.cur.core).dbgctl.toNat) = (s.dbgctl s.cur.core).zeroExtend 64 := by
    rw [State.dbgctl]
    split
    · rfl
    · exact zext _
  simp only [ctrlWords, List.forall_mem_append, List.forall_mem_cons, List.not_mem_nil, false_implies, implies_true, and_true, and_assoc]
  exact ⟨rfl, rfl, rfl, rfl, rfl, zext _, zext _, rfl, rfl, rfl, rfl, rfl, zext _, zext _, rfl, rfl, rfl, rfl, tmode _, rfl, rfl, rfl, rfl, rfl,
    rfl, dbg⟩

/-- MSGRDY has a bit for each context with a message ready (07 R158). -/
theorem bit_ctrl_msgrdy (s : State) (k : Nat) :
    bit (s.ctrl s.cur 0x00C) k = (decide (k < 16) && ((s.core s.cur.core).msgrdy k (s.cycleOf s.cur) != 0)) := by
  rw [← bit_foldl_setBit (fun i => (s.core s.cur.core).msgrdy i (s.cycleOf s.cur) != 0) 16 64 k (by decide)]
  unfold State.ctrl
  rfl

/-- FMT0 to FMT15 (12 R258). -/
theorem ctrl_fmt {s : State} {n : Nat} (h1 : 0x10 ≤ n) (h2 : n ≤ 0x1F) :
    s.ctrl s.cur n = w64 (mget 0 (s.core s.cur.core).fmt (n - 0x10)).toNat := by
  rw [← zeroExtend_eq]
  unfold State.ctrl
  split
  case h_28 => rfl
  all_goals omega

/-! SETC. -/

theorem setc_unwritable {s : State} {c : BitVec 10} (a : BitVec 5) (h : ctrlWritable c.toNat = false) :
    exec (.setc a c) s = .next (s.trap 9 6 0) :=
  if_pos (by rw [Ne, ctrlAccess_eq_some_false, h]; decide)

theorem setc_unprivileged {s : State} {c : BitVec 10} (a : BitVec 5) (h : ctrlWritable c.toNat = true) (hc : 0x100 ≤ c.toNat)
    (hp : s.privileged s.cur = false) : exec (.setc a c) s = .next (s.trap 6 4 0) := by
  simp [exec_setc, execSetc, (ctrlAccess_eq_some_false _).mpr h, hc, hp]

/-- The write of SETC is one of the thread's registers, or DBGCTL. -/
theorem setCtrl_eq {n : Nat} (h : ctrlWritable n = true) (s : State) (v : Word) : s.setCtrl s.cur n v =
    if n = 0x118 then s.setDbgctl s.cur.core fun _ => BitVec.ofNat 4 v.toNat else s.updMe (setcCtx n v) := by
  simp only [ctrlWritable, List.contains_eq_mem, List.mem_cons, List.not_mem_nil, or_false, decide_eq_true_eq] at h
  rcases h with rfl | rfl | rfl | rfl | rfl | rfl | rfl | rfl | rfl
  case inr.inl => simp only [State.setCtrl, bit_zero_eq, decide_eq_true_eq]; rfl
  all_goals rfl

/-- SETC of a register that the thread may write. -/
theorem setc_eq {s : State} {c : BitVec 10} (a : BitVec 5) (h : ctrlWritable c.toNat = true)
    (hp : 0x100 ≤ c.toNat → s.privileged s.cur = true) : exec (.setc a c) s =
    .next (((s.updMe fun x => (x.consume (x.xp a.toNat)).next 4).setCtrl s.cur c.toNat (s.me.x a.toNat)).pairSync s.cur [] [] []) := by
  rw [exec_setc, execSetc, if_neg (not_not.mpr ((ctrlAccess_eq_some_false _).mpr h)), if_neg (privileged_enough hp)]

/-- A write of DBGCTL: nothing at debug level Locked; else the register, and HOLD 0 lets go the launches held for the core. -/
theorem setDbgctl_eq (s : State) (c : CoreId) (f : BitVec 4 → BitVec 4) : s.setDbgctl c f = if s.dev.dbg = 0 then s else
    { s.updCore c fun k => { k with dbgctl := f k.dbgctl } with
      launches := if bit (f (s.core c).dbgctl) 2 = false then heldFree s c else s.launches } := by
  unfold State.setDbgctl
  split
  · rfl
  · simp only [core_updCore]
    cases bit (f (s.core c).dbgctl) 2 <;> rfl

theorem setDbgctl_cur (s : State) (c : CoreId) (f : BitVec 4 → BitVec 4) : (s.setDbgctl c f).cur = s.cur := by
  rw [setDbgctl_eq]; split <;> rfl

theorem setDbgctl_mem (s : State) (c : CoreId) (f : BitVec 4 → BitVec 4) : (s.setDbgctl c f).mem = s.mem := by
  rw [setDbgctl_eq]; split <;> rfl

theorem setDbgctl_launches (s : State) (c : CoreId) (f : BitVec 4 → BitVec 4) : (s.setDbgctl c f).launches =
    if s.dev.dbg ≠ 0 ∧ bit (f (s.core c).dbgctl) 2 = false then heldFree s c else s.launches := by
  rw [setDbgctl_eq, ite_and, ite_not]
  split <;> rfl

theorem ctx_setDbgctl (s : State) (c : CoreId) (f : BitVec 4 → BitVec 4) (u : ThreadId) : (s.setDbgctl c f).ctx u = s.ctx u := by
  rw [setDbgctl_eq]
  split
  · rfl
  · exact ctx_updCore (f := fun k => { k with dbgctl := f k.dbgctl }) (fun _ => rfl) u

theorem dbgctl_setDbgctl (s : State) (c : CoreId) (f : BitVec 4 → BitVec 4) :
    ((s.setDbgctl c f).core c).dbgctl = if s.dev.dbg = 0 then (s.core c).dbgctl else f (s.core c).dbgctl := by
  rw [setDbgctl_eq]
  split
  · rfl
  · exact congrArg Core.dbgctl (core_updCore s c fun k => { k with dbgctl := f k.dbgctl })

/-- A launch that is let go is a pair's as before. -/
theorem isPair_heldFree (s : State) (c : CoreId) (r : Word) :
    (State.launch { s with launches := heldFree s c } r).isPair = (s.launch r).isPair := by
  have hserial : ((fun l : Launch => l.serial == r) ∘ fun l : Launch => if l.hold = some (coreKey c) then { l with hold := none } else l) =
      fun l => l.serial == r := by
    funext l
    simp only [Function.comp]
    split <;> rfl
  simp only [State.launch, heldFree, List.find?_map, hserial]
  cases s.launches.find? fun l => l.serial == r with
  | none => rfl
  | some l =>
    simp only [Option.map_some]
    split <;> rfl

/-- The trailer of a thread rests on its launch's PAIR. -/
theorem trailer_congr {s t : State} {u : ThreadId} (hc : (t.ctx u).serial = (s.ctx u).serial)
    (hl : (t.launch (s.ctx u).serial).isPair = (s.launch (s.ctx u).serial).isPair) : t.trailer u = s.trailer u := by
  rw [State.trailer, State.trailer, State.launchOf, State.launchOf, hc, hl]

theorem trailer_setDbgctl (s : State) (c : CoreId) (f : BitVec 4 → BitVec 4) (u : ThreadId) : (s.setDbgctl c f).trailer u = s.trailer u := by
  refine trailer_congr (by rw [ctx_setDbgctl]) ?_
  rw [setDbgctl_eq]
  split
  · rfl
  · cases bit (f (s.core c).dbgctl) 2
    · exact isPair_heldFree s c _
    · rfl

theorem setcCtx_serial (n : Nat) (v : Word) (c : Ctx) : (setcCtx n v c).serial = c.serial := by unfold setcCtx; split <;> rfl

/-- An update of the executing thread keeps what its core holds besides its contexts. -/
theorem dbgctl_updMe (s : State) (f : Ctx → Ctx) : ((s.updMe f).core s.cur.core).dbgctl = (s.core s.cur.core).dbgctl :=
  (congrArg Core.dbgctl (core_updCore s s.cur.core fun k => k.setCtx s.cur.ctx (f s.me))).trans rfl

/-- What SETC writes, and what it leaves unchanged. -/
theorem setCtrl_spec {n : Nat} (h : ctrlWritable n = true) (s : State) (v : Word) {t : State} (ht : t = s.setCtrl s.cur n v) :
    SameMem s t ∧ SameOthers s t ∧
      t.launches = (if n = 0x118 ∧ s.dev.dbg ≠ 0 ∧ bit v 2 = false then heldFree s s.cur.core else s.launches) ∧
      t.me = setcCtx n v s.me ∧
      (t.core s.cur.core).dbgctl = (if n = 0x118 ∧ s.dev.dbg ≠ 0 then BitVec.ofNat 4 v.toNat else (s.core s.cur.core).dbgctl) ∧
      t.trailer s.cur = s.trailer s.cur := by
  rw [setCtrl_eq h] at ht
  subst ht
  by_cases hn : n = 0x118
  · have bit2 : bit (BitVec.ofNat 4 v.toNat) 2 = bit v 2 := by simp
    rw [if_pos hn]
    refine ⟨fun _ => by rw [setDbgctl_mem], fun u _ => ctx_setDbgctl .., ?_, ?_, ?_, trailer_setDbgctl ..⟩
    · simp only [setDbgctl_launches, hn, true_and, bit2]
    · rw [State.me, ctx_setDbgctl, setDbgctl_cur, hn]
      rfl
    · simp only [dbgctl_setDbgctl, hn, true_and, ne_eq, ite_not]
  · rw [if_neg hn]
    refine ⟨sameMem_updMe _ _, sameOthers_updMe _ _, ?_, me_updMe .., ?_, trailer_updMe (setcCtx_serial ..)⟩
    · simp only [hn, false_and, if_false]
      rfl
    · simp only [hn, false_and, if_false]
      exact dbgctl_updMe ..

theorem consume_next_eq (c : Ctx) (m : Bool) (n : Nat) : (c.consume m).next n =
    { c with cir := if m then c.cir ||| 1 else c.cir, pc := c.pc + w64 (c.pfx + n), pfx := 0, rlx := false, held := none } := by
  cases m <;> rfl

/-- SETC of a register that the thread may write, outside pairs. -/
theorem setc_writes {s : State} {c : BitVec 10} (a : BitVec 5) (h : ctrlWritable c.toNat = true)
    (hp : 0x100 ≤ c.toNat → s.privileged s.cur = true) (ht : s.trailer s.cur = none) :
    ∃ t, exec (.setc a c) s = .next t ∧ SameMem s t ∧ SameOthers s t ∧
      t.launches = (if c.toNat = 0x118 ∧ s.dev.dbg ≠ 0 ∧ bit (s.me.x a.toNat) 2 = false then heldFree s s.cur.core else s.launches) ∧
      t.me = setcCtx c.toNat (s.me.x a.toNat) { s.me with
        cir := if s.me.xp a.toNat then s.me.cir ||| 1 else s.me.cir
        pc := s.me.pc + w64 (s.me.pfx + 4), pfx := 0, rlx := false, held := none } ∧
      (t.core s.cur.core).dbgctl = (if c.toNat = 0x118 ∧ s.dev.dbg ≠ 0 then BitVec.ofNat 4 (s.me.x a.toNat).toNat
        else (s.core s.cur.core).dbgctl) := by
  generalize hu : (s.updMe fun x => (x.consume (x.xp a.toNat)).next 4) = u
  have hcur : u.cur = s.cur := by rw [← hu]; rfl
  obtain ⟨hmem, hothers, hlaunches, hme, hdbg, htr⟩ := setCtrl_spec h u (s.me.x a.toNat) rfl
  rw [hcur] at hmem hothers hlaunches hme hdbg htr
  rw [setc_eq a h hp, hu, pairSync_single ?_]
  · refine ⟨_, rfl, ?_⟩
    subst hu
    rw [me_updMe, consume_next_eq] at hme
    rw [dbgctl_updMe] at hdbg
    exact ⟨hmem, fun v hv => (hothers v hv).trans (sameOthers_updMe s _ v hv), hlaunches, hme, hdbg⟩
  · rw [htr, ← hu, trailer_updMe (by rw [next_serial, consume_serial]), ht]

end Sys2Proof.Machine.Laws
end

section
open Sys2Proof Sys2Proof.Machine Sys2Proof.Machine.Laws

/-- Settles O6: the checks of the index and of privilege, then the read or the write of the register in the cycle of the issue. -/
theorem controlRegisters : Obligations.ControlRegisters := by
  unfold Obligations.ControlRegisters
  refine ⟨fun s d c => ⟨getc_unassigned d, getc_unprivileged d, fun h hp ht hg => ?_⟩,
    fun s a c => ⟨setc_unwritable a, setc_unprivileged a, setc_writes a⟩⟩
  obtain ⟨t, he, hw⟩ := getc_writes d h hp ht hg
  exact ⟨t, _, he, hw, fun w hm => (ctrl_of_mem hm).symm, fun hc k _ => hc ▸ bit_ctrl_msgrdy s k, fun h1 h2 => ctrl_fmt h1 h2⟩

end

section
/-! Counterexamples to the statements about stores, atomics and barriers (07 R135, R148, R163): states that the statements' words do not mean, but that
their hypotheses allow. -/

namespace Sys2Proof.Machine.Laws

/-- A launch on core 0.0.0 with 64 KiB of its store and 4 KiB of Nimbus from offset 0, and no trap handler. -/
def plainLaunch : Launch :=
  { fetchLaunch with record := List.replicate 40 0 ++ leBytes 8 (2 ^ 40 + 64 * 2 ^ 20) ++ List.replicate 8 0 ++ leBytes 8 fetchRoot ++ List.replicate 64 0 }

/-- A core whose context 0 runs that launch with an address in x5. -/
def plainCore (a : Nat) : Core := { Core.reset with ctxs := [(0, { Ctx.reset with st := .ready, serial := 1, xs := [(5, w64 a)] })] }

/-- The thread 0.0.0.0 at an instruction, with an address in x5. -/
def plainState (a : Nat) : State := { State.reset with launches := [plainLaunch], cores := [(0, plainCore a)], mem := fetchMem [] [] }

theorem quiet_of_fields {s : State} (h : s.me.pend = [] ∧ s.me.weak = false ∧ s.me.slow = false ∧ s.me.rlx = false ∧
    s.trailer s.cur = none ∧ s.hole = none) : Quiet s := by
  obtain ⟨h1, h2, h3, h4, h5, h6⟩ := h
  exact ⟨h1, h2, h3, h4, h5, h6⟩

/-- A cluster cache that lists line 2^24 twice. -/
def doubledCache : State :=
  { plainState 0 with clusters := [(0, { Cluster.reset with lines := [(2 ^ 24, CLine.empty), (2 ^ 24, { CLine.empty with owner := 1 })] })] }

/-- What a cluster's cache holds at a line, where a result goes on. -/
def lineAfter (r : Res) (cl n : Nat) : CLine := match r with | .next t => mget CLine.empty (t.cluster cl).lines n | _ => .empty

theorem doubledCache_release : lineAfter (exec (.st 3 0 3 2 2 0) doubledCache) 0 (2 ^ 24) = { CLine.empty with owner := 1 } := by decide

/-- The cores that a state lists, where a result goes on. -/
def coresAfter (r : Res) : List Nat := match r with | .next t => t.cores.map (·.1) | _ => []

/-- The thread's core is listed behind one of a higher number; x5 names the first word of Nimbus. -/
def unsortedCores : State :=
  { plainState 0 with launches := [{ plainLaunch with lsbase := [] }], cores := [(5, Core.reset), (0, plainCore (0x7E * 2 ^ 56))] }

theorem unsortedCores_barinit : coresAfter (exec (.barinit 5 0) unsortedCores) = [5, 0] := by decide +kernel

theorem unsortedCores_written : coresAfter (.next ((unsortedCores.setCtx unsortedCores.cur unsortedCores.me).trap 9 7 0)) = [0, 5, 0] := by decide +kernel

theorem unsortedCores_word : AtWord unsortedCores (unsortedCores.me.x 5) .store (2 ^ 58) :=
  ⟨quiet_of_fields (by decide), by decide, by decide⟩

end Sys2Proof.Machine.Laws
end

section
open Sys2Proof Sys2Proof.Machine Sys2Proof.Machine.Laws

/-- Refutes O10: where a cluster's cache lists a line twice, which no step brings about but no hypothesis excludes, a release store drops the first
entry only, and the cache still holds the line. -/
theorem not_storeResults : ¬ Obligations.StoreResults := by
  unfold Obligations.StoreResults
  rintro ⟨h, -⟩
  obtain ⟨t, he, -, -, -, -, hl, -⟩ := h (.st 3 0 3 2 2 0) _ doubledCache 0x40000000 rfl (quiet_of_fields (by decide)) rfl (by decide) (by decide) (by decide)
  have hd := doubledCache_release
  rw [he] at hd
  have hn := (hl (2 ^ 24)).trans (if_pos (by decide))
  exact absurd (hd.symm.trans hn) (by decide)

/-- Refutes O13: `q < 32 → … ↔ …` reads as `(q < 32 → …) ↔ …`, so that the statement wants register 32, which does not exist, to be marked. -/
theorem not_atomics : ¬ Obligations.Atomics := by
  unfold Obligations.Atomics
  rintro ⟨h, -⟩
  obtain ⟨t, -, -, -, -, hm, -⟩ := h (.amoadd 3 5 6 0 0 0) _ (plainState (0x7F * 2 ^ 56 + 0x10800)) (2 ^ 60 + 0x10800) rfl (quiet_of_fields (by decide))
    (by decide) (by decide) (by unfold soundLoc; decide) (by unfold calmWord; decide)
  have h32 := (hm 32).mp fun hlt => absurd hlt (by decide)
  exact absurd h32.2 (by decide)

/-- Refutes O16: where the map of cores is out of order, which no step brings about but no hypothesis excludes, the state that differs from the
executing thread's in nothing lists one core more, and BARINIT's trap, which ends the launch, is not that state's. -/
theorem not_barriers : ¬ Obligations.Barriers := by
  unfold Obligations.Barriers
  rintro ⟨h, -⟩
  obtain ⟨hi, -⟩ := h unsortedCores 5 0 (2 ^ 58) 0 0 0 0 (by unfold barrierIs; decide)
  obtain ⟨u, he, hu, hme⟩ := hi unsortedCores_word (.inl (by decide))
  rw [OnlyMe, hme] at hu
  subst hu
  have hb := unsortedCores_barinit
  rw [he, unsortedCores_written] at hb
  exact absurd hb (by decide)

end

section
/-! Rules for what every form of a thread does at its end: it parks, or goes on with its context updated (04 R62, R64; 07 R136, R137). -/

namespace Sys2Proof.Machine.Laws

/-! Parking. -/

/-- What `park` makes of the executing context: the instruction held for its cause, with counts and geometry that are of the first park. -/
theorem park_me (s : State) (i : Instr) (c : Cause) : ∃ n a l p f, s.park i c = (s.updMe f).pairSync s.cur [] [] [] ∧ f s.me =
    { s.me.setWait .parked with
      held := some { instr := i, cause := c, since := n, retryAt := a, snap := p, pfx := s.me.pfx, rlx := s.me.rlx, left := l, fetch := false } } := by
  unfold State.park
  cases hh : s.me.held with
  | none => exact ⟨s.cycleOf s.cur, s.cycleOf s.cur, none, s.snap, _, rfl, by simp only [hh]⟩
  | some h =>
    by_cases hc : h.cause = c
    · exact ⟨h.since, h.retryAt, h.left, s.snap, _, rfl, by simp only [hh, hc, if_true]⟩
    · exact ⟨s.cycleOf s.cur, s.cycleOf s.cur, none, s.snap, _, rfl, by simp only [hh, hc, if_false]⟩

/-- Another core and another context are as before an update of the executing one. -/
theorem trailer_updMe_single {s : State} {f : Ctx → Ctx} (h : (f s.me).serial = s.me.serial) (ht : s.trailer s.cur = none) :
    (s.updMe f).trailer (s.updMe f).cur = none := (trailer_updMe h).trans ht

/-- The context of a single thread updated, and mirrored by no trailer. -/
theorem pairSync_updMe {s : State} {f : Ctx → Ctx} (h : (f s.me).serial = s.me.serial) (ht : s.trailer s.cur = none) (xd pd hd : List Nat) :
    (s.updMe f).pairSync s.cur xd pd hd = s.updMe f := pairSync_single (trailer_updMe_single h ht) xd pd hd

theorem park_single {s : State} (i : Instr) (c : Cause) (ht : s.trailer s.cur = none) : ∃ n a l p f, s.park i c = s.updMe f ∧ f s.me =
    { s.me.setWait .parked with
      held := some { instr := i, cause := c, since := n, retryAt := a, snap := p, pfx := s.me.pfx, rlx := s.me.rlx, left := l, fetch := false } } := by
  obtain ⟨n, a, l, p, f, he, hf⟩ := park_me s i c
  exact ⟨n, a, l, p, f, he.trans (pairSync_updMe (by rw [hf]; exact setWait_serial ..) ht _ _ _), hf⟩

/-- A thread that is no half of a pair parks. -/
theorem park_parks {s : State} (i : Instr) (c : Cause) (ht : s.trailer s.cur = none) : Parks s (s.park i c) i c := by
  obtain ⟨n, a, l, p, f, he, hf⟩ := park_single i c ht
  rw [he]
  exact ⟨⟨n, a, l, p, by rw [me_updMe, hf]⟩, sameMem_updMe s f, sameOthers_updMe s f, rfl⟩

/-! Going on. -/

/-- A form that only moves the pc on. -/
theorem next_goes (s : State) (n : Nat) : GoesTo s (s.updMe fun c => c.next n) (s.me.pc + w64 (s.me.pfx + n)) false := goes_of rfl

theorem next_goes_single {s : State} (n : Nat) (ht : s.trailer s.cur = none) :
    GoesTo s ((s.updMe fun c => c.next n).pairSync s.cur [] [] []) (s.me.pc + w64 (s.me.pfx + n)) false :=
  (pairSync_updMe (f := fun c => c.next n) (next_serial ..) ht ..).symm ▸ next_goes s n

theorem sameX_of {s t : State} (hx : t.me.xs = s.me.xs) (hm : t.me.xm = s.me.xm) : SameX s t := fun r => ⟨x_congr hx r, xp_congr hm r⟩

end Sys2Proof.Machine.Laws
end

section
/-! Proofs about handles and the waits on them (04 R71; 07 R166, R167; 13 R277). -/

namespace Sys2Proof.Machine.Laws

theorem exec_htest (p : BitVec 3) (h : BitVec 4) (s : State) : exec (.htest p h) s = execHtest p h s := rfl
theorem exec_hcancel (h : BitVec 4) (s : State) : exec (.hcancel h) s = execHcancel h s := rfl
theorem exec_ffdone (s : State) : exec .ffdone s = execFfdone s := rfl
theorem exec_waitall (m : BitVec 16) (s : State) : exec (.waitall m) s = execWaitall m s := rfl
theorem exec_waitany (m : BitVec 16) (s : State) : exec (.waitany m) s = execWaitany m s := rfl

/-! Whether a handle's operation is done. -/

/-- The fields of a handle (04 R71): generation, engine and tag. -/
theorem handle_gen (h : BitVec 32) : bits h 31 16 = h.toNat / 65536 := Nat.mod_eq_of_lt (by have := h.isLt; omega)
theorem handle_tag (h : BitVec 32) : bits h 5 0 = h.toNat % 64 := by rw [bits, pow_zero, Nat.div_one]; rfl
theorem handle_eng (h : BitVec 32) : bits h 9 8 = h.toNat / 256 % 4 := rfl

theorem handleDone_eq (s : State) (h : BitVec 32) : s.handleDone s.cur h = handleOver s h := by
  have he : h.toNat / 256 % 4 < 4 := Nat.mod_lt _ (by decide)
  unfold State.handleDone State.tagOf handleOver
  rw [handle_gen, handle_tag, handle_eng]
  generalize h.toNat / 256 % 4 = e at he
  match e, he with
  | 0, _ => rfl
  | 1, _ => rfl
  | 2, _ => rfl
  | 3, _ => rfl

/-! HTEST and MOVH. -/

theorem htest_writes {s : State} (p : BitVec 3) (h : BitVec 4) (ht : s.trailer s.cur = none) :
    ∃ t, exec (.htest p h) s = .next t ∧ WritesP s t p.toNat (handleOver s (s.me.h h.toNat)) false 4 := by
  have hser : (((s.me.consume false).setP p.toNat (handleOver s (s.me.h h.toNat)) false).next 4).serial = s.me.serial := by
    rw [next_serial, setP_serial, consume_serial]
  rw [exec_htest, execHtest, State.toP, handleDone_eq]
  exact ⟨_, rfl, (pairSync_updMe (f := fun c => ((c.consume false).setP p.toNat _ false).next 4) hser ht ..).symm ▸ writesP_upd s _ (by omega) ..⟩

/-- The values that MOVH hd, xa refuses are those that name no tag (07 R166). -/
theorem movhHX_refuses (v : Word) : (bits v 63 32 ≠ 0 ∨ bits v 15 10 ≠ 0 ∨ bits v 7 6 ≠ 0 ∨ (bits v 9 8 = 2 ∧ 8 ≤ bits v 5 0) ∨
    (bits v 9 8 = 3 ∧ 16 ≤ bits v 5 0)) ↔ (2 ^ 32 ≤ v.toNat ∨ v.toNat / 2 ^ 10 % 64 ≠ 0 ∨ v.toNat / 64 % 4 ≠ 0 ∨
      (v.toNat / 256 % 4 = 2 ∧ 8 ≤ v.toNat % 64) ∨ (v.toNat / 256 % 4 = 3 ∧ 16 ≤ v.toNat % 64)) := by
  have hlt := v.isLt
  have hhigh : v.toNat / 2 ^ 32 % 2 ^ (63 + 1 - 32) ≠ 0 ↔ 2 ^ 32 ≤ v.toNat := by omega
  simp only [bits, pow_zero, Nat.div_one]
  exact or_congr hhigh Iff.rfl

theorem movhHX_takes {s : State} (d : BitVec 4) (a : BitVec 5) {t : State}
    (ht : t = s.updMe fun c => ((c.consume (c.xp a.toNat)).setH d.toNat ((s.me.x a.toNat).truncate 32)).next 4) :
    OnlyMe s t ∧ SameMem s t ∧ t.me = { s.me with
      hs := mset s.me.hs d.toNat (BitVec.ofNat 32 (s.me.x a.toNat).toNat), cir := if s.me.xp a.toNat then s.me.cir ||| 1 else s.me.cir
      pc := s.me.pc + w64 (s.me.pfx + 4), pfx := 0, rlx := false, held := none } := by
  subst ht
  refine ⟨onlyMe_updMe .., sameMem_updMe s _, ?_⟩
  rw [me_updMe]
  cases s.me.xp a.toNat <;> rfl

/-! HCANCEL. -/

/-- An entry of a map whose entries are rewritten, each with its key. -/
theorem mget_map {α : Type} (d : α) (m : SMap α) (f : Nat → α → α) (k : Nat) (hd : f k d = d) :
    mget d (m.map fun x => (x.1, f x.1 x.2)) k = f k (mget d m k) := by
  induction m with
  | nil => exact hd.symm
  | cons x t ih =>
    obtain ⟨a, v⟩ := x
    simp only [List.map_cons, mget]
    split
    · next ha => rw [ha]
    · exact ih

theorem mget_mem_or {α : Type} (d : α) (m : SMap α) (k : Nat) : (k, mget d m k) ∈ m ∨ mget d m k = d := by
  induction m with
  | nil => exact .inr rfl
  | cons x t ih =>
    obtain ⟨a, v⟩ := x
    simp only [mget]
    split
    · next ha => exact .inl (ha ▸ List.mem_cons_self ..)
    · exact ih.imp_left (List.mem_cons_of_mem _)

/-- Does an operation on core `k` bear tag `n` of core `c` (22 R434)? -/
def copyNamed (c : CoreId) (n k : Nat) (o : CopyOp) : Bool := (k == coreKey c && o.tag == n) || o.redirect.contains (c, n)

/-- The operations of core `k` of a map after those named have changed. -/
def copiesUpdated (c : CoreId) (n : Nat) (f : CopyOp → CopyOp) (k : Nat) (x : Core) : Core :=
  { x with copies := x.copies.map fun o => if copyNamed c n k o then f o else o }

theorem copiesUpdated_none {c : CoreId} {n : Nat} {f : CopyOp → CopyOp} {k : Nat} {x : Core} (h : x.copies.any (copyNamed c n k) = false) :
    copiesUpdated c n f k x = x := by
  have hm : x.copies.map (fun o => if copyNamed c n k o then f o else o) = x.copies := by
    rw [List.any_eq_false] at h
    exact (List.map_congr_left fun o ho => if_neg (h o ho)).trans (List.map_id _)
  rw [copiesUpdated, hm]

theorem updCopies_eq (s : State) (c : CoreId) (n : Nat) (f : CopyOp → CopyOp) : s.updCopies c n f =
    if (s.cores.any fun k => k.2.copies.any (copyNamed c n k.1)) = true then { s with cores := s.cores.map fun k => (k.1, copiesUpdated c n f k.1 k.2) }
    else s := rfl

/-- Every core after the copies of a tag have changed. -/
theorem core_updCopies (s : State) (c b : CoreId) (n : Nat) (f : CopyOp → CopyOp) :
    (s.updCopies c n f).core b = copiesUpdated c n f (coreKey b) (s.core b) := by
  have hd : copiesUpdated c n f (coreKey b) Core.reset = Core.reset := rfl
  rw [updCopies_eq]
  split
  · exact mget_map Core.reset s.cores (copiesUpdated c n f) (coreKey b) hd
  · next hno =>
    symm
    rcases mget_mem_or Core.reset s.cores (coreKey b) with hm | hm
    · refine copiesUpdated_none ?_
      simp only [Bool.not_eq_true, List.any_eq_false] at hno
      exact List.any_eq_false.mpr fun o ho => Bool.eq_false_iff.mp (hno _ hm o ho)
    · rw [State.core, hm, hd]

theorem updCopies_frame (s : State) (c : CoreId) (n : Nat) (f : CopyOp → CopyOp) :
    (s.updCopies c n f).mem = s.mem ∧ (s.updCopies c n f).cur = s.cur ∧ (s.updCopies c n f).me = s.me := by
  have hc : (s.updCopies c n f).cur = s.cur := by rw [updCopies_eq]; split <;> rfl
  refine ⟨by rw [updCopies_eq]; split <;> rfl, hc, ?_⟩
  rw [State.me, hc, State.ctx, core_updCopies]
  rfl

theorem hcancel_done {s : State} {h : BitVec 4} (hd : handleOver s (s.me.h h.toNat) = true) :
    exec (.hcancel h) s = .next (s.updMe fun c => c.next 4) := by
  rw [← handleDone_eq] at hd
  simp only [exec_hcancel, execHcancel, hd, if_true]

theorem hcancel_copy {s : State} {h : BitVec 4} (hd : handleOver s (s.me.h h.toNat) = false) (he : (s.me.h h.toNat).toNat / 256 % 4 = 1) :
    exec (.hcancel h) s =
      .next ((s.updCopies s.cur.core ((s.me.h h.toNat).toNat % 64) fun o => { o with cancel := true }).updMe fun c => c.next 4) := by
  rw [← handleDone_eq] at hd
  rw [exec_hcancel, execHcancel]
  simp only [hd, handle_eng, he, handle_tag, Bool.false_eq_true, if_false]

theorem core_copies_updMe (s : State) (f : Ctx → Ctx) : ((s.updMe f).core s.cur.core).copies = (s.core s.cur.core).copies := by
  rw [State.updMe, State.updCtx, State.setCtx, core_updCore]
  rfl

/-- HCANCEL of a running copy flags it, wherever a move of its record has taken it (07 R166; 22 R434). -/
theorem hcancel_flags {s : State} {h : BitVec 4} (hd : handleOver s (s.me.h h.toNat) = false) (he : (s.me.h h.toNat).toNat / 256 % 4 = 1) :
    let n := (s.me.h h.toNat).toNat % 64
    ∃ t, exec (.hcancel h) s = .next t ∧ SameMem s t ∧ SameX s t ∧ t.me.pc = s.me.pc + w64 (s.me.pfx + 4) ∧
      (t.core s.cur.core).copies = (s.core s.cur.core).copies.map fun o =>
        if o.tag = n ∨ (s.cur.core, n) ∈ o.redirect then { o with cancel := true } else o := by
  intro n
  refine ⟨_, hcancel_copy hd he, ?_⟩
  generalize hu : s.updCopies s.cur.core n (fun o => { o with cancel := true }) = u
  obtain ⟨hmem, hcur, hme⟩ : u.mem = s.mem ∧ u.cur = s.cur ∧ u.me = s.me := hu ▸ updCopies_frame ..
  refine ⟨fun k => by rw [updMe_mem, hmem], sameX_of (by rw [me_updMe, hme]; rfl) (by rw [me_updMe, hme]; rfl), by rw [me_updMe, hme]; rfl, ?_⟩
  rw [← hcur, core_copies_updMe, hcur, ← hu, core_updCopies]
  refine List.map_congr_left fun o _ => ?_
  simp only [copyNamed, beq_self_eq_true, Bool.true_and, Bool.or_eq_true, beq_iff_eq, List.contains_iff_mem]

/-! Waits. -/

theorem waitMet_all (s : State) (m : BitVec 16) :
    s.waitMet s.cur m false = true ↔ ∀ n, n < 16 → bit m n = true → handleOver s (s.me.h n) = true := by
  simp only [State.waitMet, Bool.false_eq_true, if_false, maskHandles, List.all_eq_true, List.mem_filter, List.mem_range, handleDone_eq, and_imp,
    State.me]

/-- A class is bound to the executing context. -/
def ClassMine (s : State) (c : ClassB) : Prop := c.bound = true ∧ c.binding.toNat / 16 % 16 = s.cur.ctx

theorem hasClass_iff (s : State) : (s.core s.cur.core).hasClass s.cur.ctx = true ↔ ∃ n, n < 16 ∧ ClassMine s ((s.core s.cur.core).cls n) := by
  simp only [Core.hasClass, List.any_eq_true, List.mem_range, Bool.and_eq_true, beq_iff_eq]
  rfl

theorem hasMsg_iff (s : State) : (s.core s.cur.core).hasMsg s.cur.ctx = true ↔
    ∃ n, n < 16 ∧ ClassMine s ((s.core s.cur.core).cls n) ∧ 0 < ((s.core s.cur.core).cls n).msgs := by
  simp only [Core.hasMsg, List.any_eq_true, List.mem_range, Bool.and_eq_true, beq_iff_eq, decide_eq_true_eq]
  rfl

theorem waitMet_any (s : State) (m : BitVec 16) : s.waitMet s.cur m true = true ↔
    (∃ n, n < 16 ∧ bit m n = true ∧ handleOver s (s.me.h n) = true) ∨
      (∃ n, n < 16 ∧ ClassMine s ((s.core s.cur.core).cls n) ∧ 0 < ((s.core s.cur.core).cls n).msgs) ∨
      m = 0 ∧ ∀ n, n < 16 → ¬ClassMine s ((s.core s.cur.core).cls n) := by
  have hc : (!(s.core s.cur.core).hasClass s.cur.ctx) = true ↔ ∀ n, n < 16 → ¬ClassMine s ((s.core s.cur.core).cls n) := by
    rw [Bool.not_eq_true', ← Bool.not_eq_true, hasClass_iff]
    push Not
    rfl
  simp only [State.waitMet, if_true, maskHandles, Bool.or_eq_true, Bool.and_eq_true, List.any_eq_true, List.mem_filter, List.mem_range, handleDone_eq,
    hasMsg_iff, hc, beq_iff_eq, or_assoc, and_assoc, State.me]

/-- A wait whose condition holds goes on, and any other parks. -/
theorem waitall_goes {s : State} {m : BitVec 16} (ht : s.trailer s.cur = none) (h : s.waitMet s.cur m false = true) :
    ∃ t, exec (.waitall m) s = .next t ∧ GoesTo s t (s.me.pc + w64 (s.me.pfx + 4)) false :=
  ⟨_, (exec_waitall m s).trans (if_pos h), next_goes_single 4 ht⟩
theorem waitall_parks {s : State} {m : BitVec 16} (ht : s.trailer s.cur = none) (h : ¬s.waitMet s.cur m false = true) :
    ∃ t, exec (.waitall m) s = .next t ∧ Parks s t (.waitall m) (.handles m false) :=
  ⟨_, (exec_waitall m s).trans (if_neg h), park_parks _ _ ht⟩
theorem waitany_goes {s : State} {m : BitVec 16} (ht : s.trailer s.cur = none) (h : s.waitMet s.cur m true = true) :
    ∃ t, exec (.waitany m) s = .next t ∧ GoesTo s t (s.me.pc + w64 (s.me.pfx + 4)) false :=
  ⟨_, (exec_waitany m s).trans (if_pos h), next_goes_single 4 ht⟩
theorem waitany_parks {s : State} {m : BitVec 16} (ht : s.trailer s.cur = none) (h : ¬s.waitMet s.cur m true = true) :
    ∃ t, exec (.waitany m) s = .next t ∧ Parks s t (.waitany m) (.handles m true) :=
  ⟨_, (exec_waitany m s).trans (if_neg h), park_parks _ _ ht⟩

end Sys2Proof.Machine.Laws
end

section
open Sys2Proof Sys2Proof.Machine Sys2Proof.Machine.Laws

/-- Settles O17: each form by the fields of its handle, and each wait by its condition. -/
theorem handlesAndWaits : Obligations.HandlesAndWaits := by
  unfold Obligations.HandlesAndWaits
  refine ⟨fun s p h d x a ht => ?_, fun s m ht => ?_⟩
  · intro v bad hv
    refine ⟨htest_writes p h ht, zeroExtend_eq hv ▸ toX_writes s x (hv.zeroExtend 64) false 4, ⟨_, rfl, onlyMe_updMe .., sameMem_updMe s _, me_updMe ..⟩,
      fun hb => if_pos ((movhHX_refuses _).mpr hb), fun hb => ⟨_, if_neg fun hr => hb ((movhHX_refuses _).mp hr), movhHX_takes d a rfl⟩,
      fun hd => ⟨_, hcancel_done hd, next_goes s 4⟩, hcancel_flags, fun hr => ⟨_, if_pos hr, park_parks _ _ ht⟩, fun h0 hr => ?_, fun h0 hr => ?_⟩
    · simp [exec_ffdone, execFfdone, h0, hr]
    · exact ⟨_, by simp [exec_ffdone, execFfdone, h0, hr], next_goes_single 4 ht⟩
  · exact ⟨fun h => waitall_goes ht ((waitMet_all s m).mpr h), fun h => waitall_parks ht fun hw => h ((waitMet_all s m).mp hw),
      fun h => waitany_goes ht ((waitMet_any s m).mpr h), fun h => waitany_parks ht fun hw => h ((waitMet_any s m).mp hw)⟩

end

section
/-! Rules about what an instruction changes beside its own context: the tables of its core and the network (07 R153 to R158), and reads of banks that
have no error (08 R178). -/

namespace Sys2Proof.Machine.Laws

/-! What leaves the executing context, memory and the launches as they were. -/

/-- `t` differs from `s` neither in memory, nor in which thread runs, nor in that thread's context, nor in the launches. -/
structure Aside (s t : State) : Prop where
  mem : t.mem = s.mem
  cur : t.cur = s.cur
  launches : t.launches = s.launches
  me : t.me = s.me

theorem Aside.refl (s : State) : Aside s s := ⟨rfl, rfl, rfl, rfl⟩
theorem Aside.trans {s t u : State} (h : Aside s t) (k : Aside t u) : Aside s u :=
  ⟨k.mem.trans h.mem, k.cur.trans h.cur, k.launches.trans h.launches, k.me.trans h.me⟩

theorem aside_updCore (s : State) (c : CoreId) {f : Core → Core} (h : ∀ k, (f k).ctxs = k.ctxs) : Aside s (s.updCore c f) :=
  ⟨rfl, rfl, rfl, ctx_updCore h _⟩
theorem aside_updEp (s : State) (c : CoreId) (n : Nat) (f : Ep → Ep) : Aside s (s.updEp c n f) := aside_updCore s c fun _ => rfl
theorem aside_updCls (s : State) (c : CoreId) (n : Nat) (f : ClassB → ClassB) : Aside s (s.updCls c n f) := aside_updCore s c fun _ => rfl
theorem aside_net (s : State) (l : List Msg) : Aside s { s with net := l } := ⟨rfl, rfl, rfl, rfl⟩

/-- The thread's own part of an instruction that has changed tables: no trailer mirrors it. -/
theorem Aside.pairSync {s u : State} (h : Aside s u) {f : Ctx → Ctx} (hf : (f u.me).serial = u.me.serial) (ht : s.trailer s.cur = none)
    (xd pd hd : List Nat) : (u.updMe f).pairSync s.cur xd pd hd = u.updMe f := by
  have hm : u.ctx s.cur = s.ctx s.cur := (congrArg u.ctx h.cur).symm.trans h.me
  have hu : u.trailer u.cur = s.trailer s.cur := by
    rw [h.cur]
    refine trailer_congr (congrArg Ctx.serial hm) ?_
    simp only [State.launch, h.launches]
  rw [← h.cur]
  exact pairSync_updMe hf (hu.trans ht) xd pd hd

theorem Aside.me_updMe {s u : State} (h : Aside s u) (f : Ctx → Ctx) : (u.updMe f).me = f s.me := by rw [Laws.me_updMe, h.me]
theorem Aside.sameMem {s u : State} (h : Aside s u) (f : Ctx → Ctx) : SameMem s (u.updMe f) := fun k => by rw [updMe_mem, h.mem]

/-- The x registers are as before where the thread's own part writes none. -/
theorem Aside.sameX {s u : State} (h : Aside s u) {f : Ctx → Ctx} (hx : ∀ r, (f s.me).x r = s.me.x r ∧ (f s.me).xp r = s.me.xp r) :
    SameX s (u.updMe f) := fun r => by rw [h.me_updMe f]; exact hx r

theorem pc_consume (c : Ctx) (m : Bool) : (c.consume m).pc = c.pc := by cases m <;> rfl
theorem pfx_consume (c : Ctx) (m : Bool) : (c.consume m).pfx = c.pfx := by cases m <;> rfl
theorem cir_consume (c : Ctx) (m : Bool) : (c.consume m).cir = if m then c.cir ||| 1 else c.cir := by cases m <;> rfl
theorem consume_next_x (c : Ctx) (m : Bool) (n r : Nat) : ((c.consume m).next n).x r = c.x r ∧ ((c.consume m).next n).xp r = c.xp r :=
  ⟨by rw [x_next, x_consume], by rw [xp_next, xp_consume]⟩
theorem consume_next_pc (c : Ctx) (m : Bool) (n : Nat) : ((c.consume m).next n).pc = c.pc + w64 (c.pfx + n) := by
  rw [Ctx.next, pc_consume, pfx_consume]

/-! Entries of the tables of endpoints and classes. -/

theorem ep_updEp (s : State) (c d : CoreId) (n m : Nat) (f : Ep → Ep) :
    ((s.updEp c n f).core d).ep m = if coreKey d = coreKey c ∧ m = n then f ((s.core d).ep m) else (s.core d).ep m := by
  rw [State.updEp, core_updCore_of]
  by_cases hd : coreKey d = coreKey c
  · by_cases hm : m = n
    · subst hm; simp [hd, Core.ep, mget_mset]
    · simp [hd, hm, Core.ep, mget_mset]
  · simp [hd]
theorem ep_updEp_self (s : State) (c : CoreId) (n : Nat) (f : Ep → Ep) : ((s.updEp c n f).core c).ep n = f ((s.core c).ep n) := by
  rw [ep_updEp, if_pos ⟨rfl, rfl⟩]
theorem ep_updEp_ne {s : State} {c d : CoreId} {n m : Nat} {f : Ep → Ep} (h : coreKey d ≠ coreKey c ∨ m ≠ n) :
    ((s.updEp c n f).core d).ep m = (s.core d).ep m := by
  rw [ep_updEp, if_neg]
  rintro ⟨hd, hm⟩
  exact h.elim (· hd) (· hm)

theorem ep_updCore {s : State} {c d : CoreId} {f : Core → Core} (h : ∀ k, (f k).eps = k.eps) (m : Nat) :
    ((s.updCore c f).core d).ep m = (s.core d).ep m := by
  rw [core_updCore_of]
  split
  · rw [Core.ep, h]; rfl
  · rfl
theorem ep_updMe (s : State) (f : Ctx → Ctx) (d : CoreId) (m : Nat) : ((s.updMe f).core d).ep m = (s.core d).ep m :=
  ep_updCore (f := fun k => k.setCtx s.cur.ctx (f s.me)) (fun _ => rfl) m

theorem cls_updCls_self (s : State) (c : CoreId) (n : Nat) (f : ClassB → ClassB) : ((s.updCls c n f).core c).cls n = f ((s.core c).cls n) := by
  rw [State.updCls, core_updCore, Core.cls, mget_mset_self]
theorem cls_updMe (s : State) (f : Ctx → Ctx) (d : CoreId) (m : Nat) : ((s.updMe f).core d).cls m = (s.core d).cls m := by
  rw [State.updMe, State.updCtx, State.setCtx, core_updCore_of]
  split <;> rfl

/-- A core's number names it. -/
theorem coreKey_coreOf (d : Nat) : coreKey (coreOf d) = d := by
  simp only [coreKey, coreOf]
  omega

/-- The entry just written is found. -/
theorem mfind_mset_self {α : Type} (m : SMap α) (k : Nat) (v : α) : mfind (mset m k v) k = some v := by
  induction m with
  | nil => simp [mset, mfind]
  | cons x t ih =>
    obtain ⟨a, w⟩ := x
    simp only [mset]
    split
    · simp [mfind]
    · split
      · simp [mfind]
      · next hne => simp [mfind, hne, ih]

/-! Reads of words that have no error. -/

theorem bankReads_sound {s : State} {l : List Nat} (h : ∀ w ∈ l, mget 0 s.badWords w = 0 ∧ bankKey w ∉ s.dev.retired) : s.bankReads l = (s, []) := by
  induction l with
  | nil => rfl
  | cons w t ih =>
    obtain ⟨hc, hr⟩ := h w (List.mem_cons_self ..)
    simp only [State.bankReads, bankRead_sound hc hr, ih fun x hx => h x (List.mem_cons_of_mem _ hx), Bool.false_eq_true, if_false]

/-- A load of banked words that have no error gives their bytes and marks, and changes nothing. -/
theorem loadLoc_bank {s : State} {k n : Nat} (h : ∀ w ∈ wordsOf k n, mget 0 s.badWords w = 0 ∧ bankKey w ∉ s.dev.retired) (t : ThreadId) (a : Word)
    (q : Option Nat) : s.loadLoc t (.bank k) a n q = (s, s.rd k n, s.marksOf k n) := by
  simp only [State.loadLoc, bankReads_sound h, List.foldl_nil]

/-- An aligned word is one word. -/
theorem wordsOf_word {k : Nat} (h : k % 8 = 0) : wordsOf k 8 = [k / 8] := by
  have hn : (k + 8 + 7) / 8 - k / 8 = 1 := by omega
  rw [wordsOf, hn]
  rfl
theorem marksOf_word {k : Nat} (h : k % 8 = 0) (s : State) : s.marksOf k 8 = [s.pz (k / 8)] := by
  have hn : (k + 8 + 7) / 8 - k / 8 = 1 := by omega
  rw [State.marksOf, hn]
  rfl

/-- An aligned word in a bank with no error, as it stands in a ring. -/
theorem ringRead_sound {s : State} {t : ThreadId} {base pos : Nat} (hk : keyLs t.core (base + 8 * pos) % 8 = 0)
    (hc : mget 0 s.badWords (keyLs t.core (base + 8 * pos) / 8) = 0) (hr : bankKey (keyLs t.core (base + 8 * pos) / 8) ∉ s.dev.retired) :
    s.ringRead t base pos = (s, memWord s (keyLs t.core (base + 8 * pos) / 8), s.pz (keyLs t.core (base + 8 * pos) / 8)) := by
  have hw : ∀ w ∈ wordsOf (keyLs t.core (base + 8 * pos)) 8, mget 0 s.badWords w = 0 ∧ bankKey w ∉ s.dev.retired := by
    rw [wordsOf_word hk]
    exact fun w hw => List.mem_singleton.mp hw ▸ ⟨hc, hr⟩
  have h8 : 8 * (keyLs t.core (base + 8 * pos) / 8) = keyLs t.core (base + 8 * pos) := by omega
  rw [State.ringRead]
  simp only [loadLoc_bank hw, marksOf_word hk, memWord, h8, List.any_cons, List.any_nil, Bool.or_false, id]

end Sys2Proof.Machine.Laws
end

section
/-! Proofs about channels: SEND and RECV on core-local and remote ones (07 R155, R156). -/

namespace Sys2Proof.Machine.Laws

theorem exec_send (a : BitVec 5) (c : BitVec 4) (s : State) : exec (.send a c) s = execSend a c s := rfl
theorem exec_recv (d : BitVec 5) (c : BitVec 4) (s : State) : exec (.recv d c) s = execRecv d c s := rfl

/-! The endpoint of an operation (R153). -/

theorem endpoint_unbound {s : State} {c : BitVec 4} (h : mfind s.me.cs c.toNat = none) (cls rx : Bool) (f : Nat → Ep → Res) :
    s.endpoint c cls rx f = .next (s.trap 10 1 0) := by
  simp only [State.endpoint, h]
theorem endpoint_other {s : State} {c : BitVec 4} {n : Nat} {cls rx : Bool} (h : mfind s.me.cs c.toNat = some n)
    (hw : ((s.core s.cur.core).ep n).isCls ≠ cls ∨ ((s.core s.cur.core).ep n).rx ≠ rx) (f : Nat → Ep → Res) :
    s.endpoint c cls rx f = .next (s.trap 10 1 0) := by
  simp only [State.endpoint, h]
  exact if_pos (by simpa only [Bool.or_eq_true, bne_iff_ne] using hw)
theorem endpoint_has {s : State} {c : BitVec 4} {n : Nat} {cls rx : Bool} (h : HasEnd s c n cls rx) (f : Nat → Ep → Res) :
    s.endpoint c cls rx f = f n ((s.core s.cur.core).ep n) := by
  obtain ⟨hn, hc, hx, ⟨hb, hr⟩, -⟩ := h
  simp [State.endpoint, hn, hc, hx, hb, hr]

theorem serial_consume_next (c : Ctx) (m : Bool) (n : Nat) : ((c.consume m).next n).serial = c.serial := by rw [next_serial, consume_serial]

/-- The thread goes on with its source consumed, mirrored by no trailer. -/
theorem Aside.consumed {s u : State} (h : Aside s u) (m : Bool) (ht : s.trailer s.cur = none) :
    (u.updMe fun x => (x.consume m).next 4).pairSync s.cur [] [] [] = u.updMe fun x => (x.consume m).next 4 :=
  h.pairSync (f := fun x => (x.consume m).next 4) (serial_consume_next ..) ht ..

/-! SEND. -/

theorem send_parks {s : State} {r : BitVec 5} {c : BitVec 4} {n : Nat} (h : HasEnd s c n false false)
    (hc : s.canSend ((s.core s.cur.core).ep n) = false) : ∃ t, exec (.send r c) s = .next t ∧ Parks s t (.send r c) (.send n) := by
  refine ⟨_, ?_, park_parks (.send r c) (.send n) h.single⟩
  rw [exec_send, execSend, endpoint_has h]
  simp only [hc, Bool.not_false, if_true]

/-- The sending core and the network after a SEND of a marked word on a remote channel. -/
def sentRemote (s : State) (n : Nat) (g : Msg) : State :=
  { (s.updEp s.cur.core n fun e => { e with free := e.free - 2, sent := e.sent + 2, seq := e.seq + 1 }).updCore s.cur.core
      fun k => k.countSent s.me.serial with net := s.net ++ [g] }

/-- The message of a SEND on a remote channel (R156). -/
def sendMsg (s : State) (n d m : Nat) (w : Word × Bool) : Msg :=
  { dst := coreOf d, src := s.cur.core, srcCtx := s.cur.ctx, cls := false, target := m, srcEp := n, seq := ((s.core s.cur.core).ep n).seq.toNat
    words := [w], serial := s.me.serial, srcOrder := ((s.core s.cur.core).ep n).order, since := none, tmo := s.me.chtmo.toNat }

theorem aside_sentRemote (s : State) (n : Nat) (g : Msg) : Aside s (sentRemote s n g) :=
  ((aside_updEp s s.cur.core n _).trans (aside_updCore _ s.cur.core (f := fun k => k.countSent s.me.serial) fun _ => rfl)).trans (aside_net _ _)

theorem ep_sentRemote (s : State) (n : Nat) (g : Msg) : ((sentRemote s n g).core s.cur.core).ep n =
    { (s.core s.cur.core).ep n with
      free := ((s.core s.cur.core).ep n).free - 2, sent := ((s.core s.cur.core).ep n).sent + 2, seq := ((s.core s.cur.core).ep n).seq + 1 } := by
  refine (ep_updCore (f := fun k => k.countSent s.me.serial) (fun _ => rfl) n).trans ?_
  rw [ep_updEp_self]

theorem send_remote {s : State} {r : BitVec 5} {c : BitVec 4} {n d m : Nat} (h : HasEnd s c n false false)
    (hr : ((s.core s.cur.core).ep n).rem = true) (hm : ((s.core s.cur.core).ep n).met = true)
    (hp : ((s.core s.cur.core).ep n).peer = some (d, m)) (hf : 2 ≤ ((s.core s.cur.core).ep n).free) :
    exec (.send r c) s = .next ((sentRemote s n (sendMsg s n d m (s.me.x r.toNat, s.me.xp r.toNat))).updMe
      fun x => (x.consume (s.me.xp r.toNat)).next 4) := by
  have hc : s.canSend ((s.core s.cur.core).ep n) = true := by simp [State.canSend, hm, hr, hf]
  rw [exec_send, execSend, endpoint_has h]
  simp only [hc, hp, hr, Bool.not_true, Bool.false_eq_true, if_false, if_true]
  exact congrArg _ ((aside_sentRemote s n (sendMsg s n d m (s.me.x r.toNat, s.me.xp r.toNat))).consumed _ h.single)

theorem send_local {s : State} {r : BitVec 5} {c : BitVec 4} {n d m : Nat} (h : HasEnd s c n false false)
    (hr : ((s.core s.cur.core).ep n).rem = false) (hm : ((s.core s.cur.core).ep n).met = true)
    (hp : ((s.core s.cur.core).ep n).peer = some (d, m)) (hf : ((s.core (coreOf d)).ep m).words.length < 4) :
    exec (.send r c) s = .next ((s.updEp (coreOf d) m fun e => { e with words := e.words ++ [(s.me.x r.toNat, s.me.xp r.toNat)] }).updMe
      fun x => (x.consume (s.me.xp r.toNat)).next 4) := by
  have hc : s.canSend ((s.core s.cur.core).ep n) = true := by simp [State.canSend, hm, hr, hp, hf]
  rw [exec_send, execSend, endpoint_has h]
  simp only [hc, hp, hr, Bool.not_true, Bool.false_eq_true, if_false]
  exact congrArg _ ((aside_updEp ..).consumed _ h.single)

/-! RECV. -/

theorem recv_parks {s : State} {r : BitVec 5} {c : BitVec 4} {n : Nat} (h : HasEnd s c n false true)
    (hc : ((s.core s.cur.core).ep n).canRecv = false) : ∃ t, exec (.recv r c) s = .next t ∧ Parks s t (.recv r c) (.recv n) := by
  refine ⟨_, ?_, park_parks (.recv r c) (.recv n) h.single⟩
  rw [exec_recv, execRecv, endpoint_has h]
  simp only [hc, Bool.not_false, if_true]

/-- A receiving end that still holds words is paired with nothing. -/
theorem pairEp_waits {s : State} {c : CoreId} {n : Nat} (h : ((s.core c).ep n).unpaired = false) : s.pairEp c n = s := by
  have hno : ((s.core (((s.core c).ep n).peerCore c)).eps.filter fun x => ((s.core c).ep n).matches_ c x.2 (((s.core c).ep n).peerCore c)) = [] := by
    simp [Ep.matches_, h]
  simp only [State.pairEp, hno, oldestEp]

theorem serial_received_next (c : Ctx) (d : Nat) (v : Word) (p : Bool) (n : Nat) : ((c.received d v p).next n).serial = c.serial := by
  rw [next_serial, Ctx.received, setX_serial]
  split <;> rfl

theorem Aside.received {s u : State} (h : Aside s u) (d : Nat) (v : Word) (p : Bool) (ht : s.trailer s.cur = none) :
    (u.updMe fun x => (x.received d v p).next 4).pairSync s.cur [d] [] [] = u.updMe fun x => (x.received d v p).next 4 :=
  h.pairSync (f := fun x => (x.received d v p).next 4) (serial_received_next ..) ht ..

/-- What the thread holds after it has received a word. -/
theorem received_next (c : Ctx) (d : BitVec 5) (v : Word) (p : Bool) : XWrite c ((c.received d.toNat v p).next 4) d.toNat v p ∧
    ((c.received d.toNat v p).next 4).pc = c.pc + w64 (c.pfx + 4) ∧
      ((c.received d.toNat v p).next 4).cir = if p then c.cir ||| 0x11 else c.cir := by
  have hfields : ∀ x : Ctx, (x.setX d.toNat v p).pc = x.pc ∧ (x.setX d.toNat v p).pfx = x.pfx ∧ (x.setX d.toNat v p).cir = x.cir := by
    intro x
    unfold Ctx.setX
    split <;> exact ⟨rfl, rfl, rfl⟩
  refine ⟨fun r _ => ?_, ?_, ?_⟩
  · rw [x_next, xp_next, Ctx.received, x_setX, xp_setX _ _ _ _ _ d.isLt]
    cases p <;> exact ⟨rfl, rfl⟩
  · rw [Ctx.next, Ctx.received, (hfields _).1, (hfields _).2.1]
    cases p <;> rfl
  · rw [Ctx.next, Ctx.received, (hfields _).2.2]
    cases p <;> rfl

theorem recv_local {s : State} {r : BitVec 5} {c : BitVec 4} {n : Nat} {v : Word} {p : Bool} {l : List (Word × Bool)} (h : HasEnd s c n false true)
    (hr : ((s.core s.cur.core).ep n).rem = false) (hm : ((s.core s.cur.core).ep n).met = true)
    (hw : ((s.core s.cur.core).ep n).words = (v, p) :: l) (hl : ((s.core s.cur.core).ep n).peer = none → l ≠ []) :
    exec (.recv r c) s = .next ((s.updEp s.cur.core n fun e => { e with words := e.words.drop 1 }).updMe
      fun x => (x.received r.toNat v p).next 4) := by
  have hc : ((s.core s.cur.core).ep n).canRecv = true := by simp [Ep.canRecv, hm, hr, hw]
  have hpair : (if ((s.core s.cur.core).ep n).peer.isNone then (s.updEp s.cur.core n fun e => { e with words := e.words.drop 1 }).pairEp s.cur.core n
      else s.updEp s.cur.core n fun e => { e with words := e.words.drop 1 }) = s.updEp s.cur.core n fun e => { e with words := e.words.drop 1 } := by
    split
    · next hnone =>
      refine pairEp_waits ?_
      have hx : Ep.rx { (s.core s.cur.core).ep n with words := l } = true := h.rx
      rw [ep_updEp_self, hw, List.drop_one, List.tail_cons]
      simp [Ep.unpaired, hx, hl (Option.isNone_iff_eq_none.mp hnone)]
    · rfl
  rw [exec_recv, execRecv, endpoint_has h]
  simp only [hc, hr, hw, Bool.not_true, Bool.false_eq_true, if_false, List.headD_cons, hpair]
  exact congrArg _ ((aside_updEp ..).received _ _ _ h.single)

/-- The two ends after a RECV on a remote channel: the message's words are free again at the sender. -/
def receivedRemote (s : State) (n d m : Nat) : State :=
  (s.updEp s.cur.core n fun e => { e with rpos := (((s.core s.cur.core).ep n).rpos + 2) % ((s.core s.cur.core).ep n).rwords, consumed := e.consumed + 2 }).updEp
    (coreOf d) m fun e => { e with free := e.free + 2 }

theorem aside_receivedRemote (s : State) (n d m : Nat) : Aside s (receivedRemote s n d m) := (aside_updEp ..).trans (aside_updEp ..)

theorem recv_remote {s : State} {r : BitVec 5} {c : BitVec 4} {n d m : Nat} (h : HasEnd s c n false true)
    (hr : ((s.core s.cur.core).ep n).rem = true) (hm : ((s.core s.cur.core).ep n).met = true)
    (hne : ((s.core s.cur.core).ep n).received ≠ ((s.core s.cur.core).ep n).consumed) (hp : ((s.core s.cur.core).ep n).peer = some (d, m)) {key : Nat}
    (hkey : keyLs s.cur.core
      (((s.core s.cur.core).ep n).rbase + 8 * ((((s.core s.cur.core).ep n).rpos + 1) % ((s.core s.cur.core).ep n).rwords)) = key)
    (h8 : key % 8 = 0) (hb : mget 0 s.badWords (key / 8) = 0) (ht : bankKey (key / 8) ∉ s.dev.retired) :
    exec (.recv r c) s = .next ((receivedRemote s n d m).updMe fun x => (x.received r.toNat (memWord s (key / 8)) (s.pz (key / 8))).next 4) := by
  subst hkey
  have hc : ((s.core s.cur.core).ep n).canRecv = true := by simp [Ep.canRecv, hm, hr, hne]
  rw [exec_recv, execRecv, endpoint_has h]
  simp only [hc, hr, hp, Bool.not_true, Bool.false_eq_true, if_false, if_true, ringRead_sound h8 hb ht]
  exact congrArg _ ((aside_receivedRemote s n d m).received _ _ _ h.single)

end Sys2Proof.Machine.Laws
end

section
open Sys2Proof Sys2Proof.Machine Sys2Proof.Machine.Laws

/-- Settles O18: each operation by its endpoint, and by the words or slots of its channel. -/
theorem channels : Obligations.Channels := by
  unfold Obligations.Channels
  refine ⟨fun s r c n d m => ?_, fun s r c n d m => ?_⟩
  · intro e f w
    refine ⟨fun h => ⟨by rw [exec_send, execSend, endpoint_unbound h], by rw [exec_recv, execRecv, endpoint_unbound h]⟩, fun h hw => ?_, fun h hw => ?_, fun h hr hm hp hf => ?_, fun h hr hno => send_parks h ?_,
      fun v p l h hr hm hw hl => ?_, fun h hr hw => recv_parks h ?_⟩
    · rw [exec_send, execSend, endpoint_other h (by simpa using hw)]
    · rw [exec_recv, execRecv, endpoint_other h (by simpa using hw)]
    · have ha := aside_updEp s (coreOf d) m fun e => { e with words := e.words ++ [w] }
      refine ⟨_, send_local h hr hm hp hf, ha.sameMem _, ha.sameX fun r => consume_next_x .., ?_, rfl, ?_, ?_⟩
      · rw [ha.me_updMe, consume_next_pc]
      · rw [ep_updMe, ep_updEp_self]
      · rw [ha.me_updMe, Ctx.next, cir_consume]
    · rcases hno with hmet | ⟨hp, hf⟩
      · show s.canSend e = false
        simp [State.canSend, hmet]
      · show s.canSend e = false
        simpa [State.canSend, hr, hp] using fun _ => hf
    · have ha := aside_updEp s s.cur.core n fun e => { e with words := e.words.drop 1 }
      obtain ⟨hx, hpc, hcir⟩ := received_next s.me r v p
      refine ⟨_, recv_local h hr hm hw hl, ha.sameMem _, ?_, ?_, ?_, ?_⟩
      · rw [ha.me_updMe]; exact hx
      · rw [ha.me_updMe]; exact hpc
      · rw [ep_updMe, ep_updEp_self, hw]; rfl
      · rw [ha.me_updMe]; exact hcir
    · simp [Ep.canRecv, e, hr, hw]
  · intro e w key
    refine ⟨fun h hr hm hp hf => ?_, fun h hr hf => send_parks h ?_, fun h hr hm hne hp hpeer h8 hb ht => ?_, fun h hr heq => recv_parks h ?_⟩
    · have ha := aside_sentRemote s n (sendMsg s n d m w)
      refine ⟨_, sendMsg s n d m w, send_remote h hr hm hp hf, ha.sameMem _, ha.sameX fun r => consume_next_x .., ?_, rfl,
        ⟨rfl, rfl, rfl, rfl, rfl⟩, ?_⟩
      · rw [ha.me_updMe, consume_next_pc]
      · rw [ep_updMe, ep_sentRemote]
    · simp [State.canSend, e, hr, Nat.not_le.mpr hf]
    · have ha := aside_receivedRemote s n d m
      obtain ⟨hx, hpc, -⟩ := received_next s.me r (memWord s (key / 8)) (s.pz (key / 8))
      have hend : coreKey s.cur.core ≠ coreKey (coreOf d) ∨ n ≠ m := by
        rw [coreKey_coreOf]
        exact hpeer.imp Ne.symm Ne.symm
      refine ⟨_, recv_remote h hr hm hne hp rfl h8 hb ht, ha.sameMem _, ?_, ?_, ?_, ?_⟩
      · rw [ha.me_updMe]; exact hpc
      · rw [ha.me_updMe]; exact hx
      · rw [ep_updMe, receivedRemote, ep_updEp_ne hend, ep_updEp_self]
      · rw [ep_updMe, receivedRemote, ep_updEp_self, ep_updEp_ne (hend.imp Ne.symm Ne.symm)]
    · simp [Ep.canRecv, e, hr, heq]

end

section
/-! Proofs about message classes and the binding of endpoints and classes (07 R154, R158, R160). -/

namespace Sys2Proof.Machine.Laws

theorem exec_sendt (o : BitVec 2) (c : BitVec 4) (s : State) : exec (.sendt o c) s = execSendt o c s := rfl
theorem exec_recvt (o : BitVec 2) (c : BitVec 4) (s : State) : exec (.recvt o c) s = execRecvt o c s := rfl
theorem exec_chset (a : BitVec 5) (c : BitVec 4) (s : State) : exec (.chset a c) s = execChset a c s := rfl
theorem exec_chreset (c : BitVec 4) (s : State) : exec (.chreset c) s = execChreset c s := rfl
theorem exec_msgbind (a : BitVec 5) (s : State) : exec (.msgbind a) s = execMsgbind a s := rfl

/-! SENDT. -/

/-- The words of an octet and their marks. -/
def octetWords (c : Ctx) (o : BitVec 2) : List (Word × Bool) := (List.range 8).map fun j => (c.x (octet o + j), c.xp (octet o + j))

/-- The message of a SENDT (R158). -/
def classMsg (s : State) (n : Nat) (ws : List (Word × Bool)) : Msg :=
  { dst := ((s.core s.cur.core).ep n).peerCore s.cur.core, src := s.cur.core, srcCtx := s.cur.ctx, cls := true
    target := ((s.core s.cur.core).ep n).peerNum, srcEp := n, seq := 0, words := ws, serial := s.me.serial
    srcOrder := ((s.core s.cur.core).ep n).order, since := none, tmo := s.me.chtmo.toNat }

/-- The sending core and the network after a SENDT. -/
def sentClass (s : State) (g : Msg) : State := { s.updCore s.cur.core fun k => k.countSent s.me.serial with net := s.net ++ [g] }

theorem aside_sentClass (s : State) (g : Msg) : Aside s (sentClass s g) :=
  (aside_updCore s s.cur.core (f := fun k => k.countSent s.me.serial) fun _ => rfl).trans (aside_net _ _)

theorem sendt_sends {s : State} {o : BitVec 2} {c : BitVec 4} {n : Nat} (h : HasEnd s c n true false) :
    exec (.sendt o c) s = .next ((sentClass s (classMsg s n (octetWords s.me o))).updMe
      fun x => (x.consume ((octetWords s.me o).any (·.2))).next 4) := by
  rw [exec_sendt, execSendt, endpoint_has h]
  exact congrArg _ ((aside_sentClass s (classMsg s n (octetWords s.me o))).consumed _ h.single)

/-! RECVT. -/

/-- The word and the mark at a key of memory. -/
def markedWord (s : State) (k : Nat) : Word × Bool := (memWord s (k / 8), s.pz (k / 8))

/-- Consecutive words of a ring, in banks with no error. -/
theorem ringReads_sound {s : State} {t : ThreadId} {base words : Nat} (n : Nat) : ∀ pos : Nat,
    (∀ j, j < n → keyLs t.core (base + 8 * ((pos + j) % words)) % 8 = 0 ∧
      mget 0 s.badWords (keyLs t.core (base + 8 * ((pos + j) % words)) / 8) = 0 ∧
      bankKey (keyLs t.core (base + 8 * ((pos + j) % words)) / 8) ∉ s.dev.retired) →
    s.ringReads t base words pos n = (s, (List.range n).map fun j => markedWord s (keyLs t.core (base + 8 * ((pos + j) % words)))) := by
  induction n with
  | zero => exact fun _ _ => rfl
  | succ n ih =>
    intro pos h
    obtain ⟨h8, hb, hr⟩ := h 0 (Nat.succ_pos _)
    have hrest := ih (pos + 1) fun j hj => by
      rw [Nat.add_right_comm, Nat.add_assoc]
      exact h (j + 1) (Nat.succ_lt_succ hj)
    simp only [State.ringReads, ringRead_sound (pos := pos % words) h8 hb hr, hrest, List.range_succ_eq_map, List.map_cons, List.map_map]
    refine congrArg _ (congrArg _ (List.map_congr_left fun j _ => ?_))
    simp only [Function.comp_apply, Nat.succ_eq_add_one, Nat.add_comm 1 j, Nat.add_assoc]

/-- Words received into consecutive registers from `d + i`. -/
def receivedAll (c : Ctx) (d i : Nat) (l : List (Word × Bool)) : Ctx := (l.zipIdx i).foldl (fun x p => x.received (d + p.2) p.1.1 p.1.2) c

theorem receivedAll_cons (c : Ctx) (d i : Nat) (w : Word × Bool) (l : List (Word × Bool)) :
    receivedAll c d i (w :: l) = receivedAll (c.received (d + i) w.1 w.2) d (i + 1) l := by
  rw [receivedAll, List.zipIdx_cons, List.foldl_cons]
  rfl

theorem x_received (c : Ctx) (d r : Nat) (v : Word) (p : Bool) : (c.received d v p).x r = if r = 0 then 0 else if r = d then v else c.x r := by
  rw [Ctx.received, x_setX]
  cases p <;> rfl
theorem xp_received {d : Nat} (c : Ctx) (r : Nat) (v : Word) (p : Bool) (hd : d < 32) :
    (c.received d v p).xp r = if r = 0 then false else if r = d then p else c.xp r := by
  rw [Ctx.received, xp_setX _ _ _ _ _ hd]
  cases p <;> rfl

/-- Receiving words changes, beside the registers, CIR alone. -/
theorem receivedAll_pc (l : List (Word × Bool)) : ∀ (c : Ctx) (d i : Nat),
    (receivedAll c d i l).pc = c.pc ∧ (receivedAll c d i l).pfx = c.pfx ∧ (receivedAll c d i l).serial = c.serial := by
  induction l with
  | nil => exact fun _ _ _ => ⟨rfl, rfl, rfl⟩
  | cons w l ih =>
    intro c d i
    have hone : (c.received (d + i) w.1 w.2).pc = c.pc ∧ (c.received (d + i) w.1 w.2).pfx = c.pfx ∧
        (c.received (d + i) w.1 w.2).serial = c.serial := by
      unfold Ctx.received Ctx.setX
      split <;> split <;> exact ⟨rfl, rfl, rfl⟩
    obtain ⟨hpc, hpfx, hser⟩ := hone
    rw [receivedAll_cons, ← hpc, ← hpfx, ← hser]
    exact ih ..

theorem receivedAll_outside (l : List (Word × Bool)) : ∀ (c : Ctx) (d i r : Nat), d + i + l.length ≤ 32 → r < d + i ∨ d + i + l.length ≤ r →
    (receivedAll c d i l).x r = c.x r ∧ (receivedAll c d i l).xp r = c.xp r := by
  induction l with
  | nil => exact fun _ _ _ _ _ _ => ⟨rfl, rfl⟩
  | cons w l ih =>
    intro c d i r hlen hr
    simp only [List.length_cons] at hlen hr
    have hne : r ≠ d + i := by omega
    obtain ⟨hx, hp⟩ := ih (c.received (d + i) w.1 w.2) d (i + 1) r (by omega) (by omega)
    rw [receivedAll_cons, hx, hp, x_received, xp_received _ _ _ _ (by omega), if_neg hne, if_neg hne]
    by_cases h0 : r = 0
    · simp [h0]
    · simp [h0]

theorem receivedAll_inside (l : List (Word × Bool)) : ∀ (c : Ctx) (d i j : Nat) (w : Word × Bool), d + i + l.length ≤ 32 → l[j]? = some w →
    d + i + j ≠ 0 → (receivedAll c d i l).x (d + i + j) = w.1 ∧ (receivedAll c d i l).xp (d + i + j) = w.2 := by
  induction l with
  | nil => intro c d i j w _ h; simp at h
  | cons v l ih =>
    intro c d i j w hlen hw h0
    simp only [List.length_cons] at hlen
    rw [receivedAll_cons]
    cases j with
    | zero =>
      have hv : v = w := by simpa using hw
      obtain ⟨hx, hp⟩ := receivedAll_outside l (c.received (d + i) v.1 v.2) d (i + 1) (d + i + 0) (by omega) (by omega)
      rw [hx, hp, x_received, xp_received _ _ _ _ (by omega), if_neg h0, if_neg h0, ← hv]
      simp
    | succ j =>
      have h := ih (c.received (d + i) v.1 v.2) d (i + 1) j w (by omega) (by simpa using hw) (by omega)
      rwa [show d + (i + 1) + j = d + i + (j + 1) by omega] at h

/-- RECVT's check of its class: bound, and to the executing context. -/
theorem notMine_iff (s : State) (b : ClassB) : (!b.bound || b.ctx != s.cur.ctx) = true ↔ ¬ClassMine s b := by
  have hx : b.binding.toNat / 16 % 16 = b.ctx := rfl
  rw [ClassMine, hx]
  cases b.bound <;> simp

theorem recvt_other {s : State} {o : BitVec 2} {c : BitVec 4} {n : Nat} (h : HasEnd s c n true true)
    (hm : ¬ClassMine s ((s.core s.cur.core).cls ((s.core s.cur.core).ep n).peerNum)) : exec (.recvt o c) s = .next (s.trap 10 1 0) := by
  rw [exec_recvt, execRecvt, endpoint_has h]
  exact if_pos ((notMine_iff ..).mpr hm)

theorem mine_checks {s : State} {b : ClassB} (h : ClassMine s b) : (!b.bound || b.ctx != s.cur.ctx) = false :=
  Bool.eq_false_iff.mpr fun hb => (notMine_iff ..).mp hb h

theorem recvt_parks {s : State} {o : BitVec 2} {c : BitVec 4} {n : Nat} (h : HasEnd s c n true true)
    (hm : ClassMine s ((s.core s.cur.core).cls ((s.core s.cur.core).ep n).peerNum))
    (h0 : ((s.core s.cur.core).cls ((s.core s.cur.core).ep n).peerNum).msgs = 0) :
    ∃ t, exec (.recvt o c) s = .next t ∧ Parks s t (.recvt o c) (.recvt ((s.core s.cur.core).ep n).peerNum) := by
  refine ⟨_, ?_, park_parks _ _ h.single⟩
  rw [exec_recvt, execRecvt, endpoint_has h]
  simp only [mine_checks hm, h0, Bool.false_eq_true, if_false, if_true]

/-- A class after its oldest message has been taken. -/
def takenCls (q : Nat) (b : ClassB) : ClassB := { b with rpos := q, msgs := b.msgs - 1 }

/-- The eight words of the oldest message of a class. -/
def classWords (s : State) (b : ClassB) : List (Word × Bool) :=
  (List.range 8).map fun j => markedWord s (keyLs s.cur.core (b.rbase + 8 * ((b.rpos + 1 + j) % b.rwords)))

theorem recvt_takes {s : State} {o : BitVec 2} {c : BitVec 4} {n : Nat} (h : HasEnd s c n true true) {b : ClassB}
    (hb : (s.core s.cur.core).cls ((s.core s.cur.core).ep n).peerNum = b) (hm : ClassMine s b) (h0 : 0 < b.msgs)
    (hs : ∀ j, j < 8 → keyLs s.cur.core (b.rbase + 8 * ((b.rpos + 1 + j) % b.rwords)) % 8 = 0 ∧
      mget 0 s.badWords (keyLs s.cur.core (b.rbase + 8 * ((b.rpos + 1 + j) % b.rwords)) / 8) = 0 ∧
      bankKey (keyLs s.cur.core (b.rbase + 8 * ((b.rpos + 1 + j) % b.rwords)) / 8) ∉ s.dev.retired) :
    exec (.recvt o c) s = .next ((s.updCls s.cur.core ((s.core s.cur.core).ep n).peerNum (takenCls ((b.rpos + 9) % b.rwords))).updMe
      fun x => (receivedAll x (octet o) 0 (classWords s b)).next 4) := by
  subst hb
  rw [exec_recvt, execRecvt, endpoint_has h]
  simp only [mine_checks hm, Nat.ne_of_gt h0, ringReads_sound 8 _ hs, Bool.false_eq_true, if_false]
  exact congrArg _ ((aside_updCls ..).pairSync (f := fun x => (receivedAll x (octet o) 0 (classWords s _)).next 4)
    (by rw [next_serial, (receivedAll_pc ..).2.2]) h.single ..)

/-! Binding and meeting. -/

/-- A new end of the thread in entry `n` (R154). -/
def boundEp (s : State) (v : Word) : Ep := { Ep.reset with desc := v, bound := true, order := s.nextOrder, serial := s.me.serial, ctx := s.cur.ctx }

/-- An end keeps its descriptor, its binding and its context, as ends do that meet. -/
structure SameEnd (e f : Ep) : Prop where
  desc : f.desc = e.desc
  bound : f.bound = e.bound
  ctx : f.ctx = e.ctx

theorem SameEnd.refl (e : Ep) : SameEnd e e := ⟨rfl, rfl, rfl⟩

theorem meetEnds_same (x r : Ep) : SameEnd x (meetEnds x r).1 ∧ SameEnd r (meetEnds x r).2 := by
  unfold meetEnds
  extract_lets kept start
  split <;> exact ⟨⟨rfl, rfl, rfl⟩, ⟨rfl, rfl, rfl⟩⟩

/-- One end written over another that keeps what it is. -/
theorem sameEnd_updEp {s : State} {c : CoreId} {n : Nat} {f : Ep → Ep} (h : SameEnd ((s.core c).ep n) (f ((s.core c).ep n))) (d : CoreId) (m : Nat) :
    SameEnd ((s.core d).ep m) (((s.updEp c n f).core d).ep m) := by
  rw [ep_updEp]
  split
  · next hdm =>
    obtain ⟨hd, rfl⟩ := hdm
    have hc : (s.core d) = s.core c := by rw [State.core, State.core, hd]
    rw [hc]
    exact h
  · exact .refl _

/-- What pairing ends leaves as it was. -/
structure Paired (s t : State) : Prop where
  aside : Aside s t
  ends : ∀ d m, SameEnd ((s.core d).ep m) ((t.core d).ep m)

theorem SameEnd.trans {a b c : Ep} (h : SameEnd a b) (k : SameEnd b c) : SameEnd a c :=
  ⟨k.desc.trans h.desc, k.bound.trans h.bound, k.ctx.trans h.ctx⟩

/-- Both ends written anew, each with what it is. -/
theorem ends_paired {s : State} {c d : CoreId} {n m : Nat} {x r : Ep} (hx : SameEnd ((s.core c).ep n) x) (hr : SameEnd ((s.core d).ep m) r) :
    Paired s ((s.updEp c n fun _ => x).updEp d m fun _ => r) := by
  refine ⟨(aside_updEp ..).trans (aside_updEp ..), fun b k => ?_⟩
  have hone := sameEnd_updEp (s := s) (c := c) (n := n) (f := fun _ => x) hx
  have hd := hone d m
  exact (hone b k).trans (sameEnd_updEp ⟨hr.desc.trans hd.desc.symm, hr.bound.trans hd.bound.symm, hr.ctx.trans hd.ctx.symm⟩ b k)

theorem meetRx_paired (s : State) (c : CoreId) (n : Nat) (d : CoreId) (m : Nat) : Paired s (s.meetRx c n d m) := by
  obtain ⟨hx, hr⟩ := meetEnds_same ((s.core c).ep n) ((s.core d).ep m)
  have hu := ends_paired (x := { (meetEnds ((s.core c).ep n) ((s.core d).ep m)).1 with peer := some (coreKey d, m) })
    (r := { (meetEnds ((s.core c).ep n) ((s.core d).ep m)).2 with peer := some (coreKey c, n) }) ⟨hx.desc, hx.bound, hx.ctx⟩ ⟨hr.desc, hr.bound, hr.ctx⟩
  exact ⟨hu.aside.trans (aside_net _ _), hu.ends⟩

theorem pairEp_paired (s : State) (c : CoreId) (n : Nat) : Paired s (s.pairEp c n) := by
  unfold State.pairEp
  extract_lets e d
  split
  · unfold State.meet
    split <;> exact meetRx_paired ..
  · exact ⟨.refl s, fun _ _ => .refl _⟩

theorem chset_bound {s : State} {a : BitVec 5} {c : BitVec 4} (h : (mfind s.me.cs c.toNat).isSome = true) :
    exec (.chset a c) s = .next (s.trap 10 1 0) := by
  simp only [exec_chset, execChset, h, if_true]

theorem chset_invalid {s : State} {a : BitVec 5} {c : BitVec 4} (h : mfind s.me.cs c.toNat = none) (hd : s.descOk s.cur (s.me.x a.toNat) = false) :
    exec (.chset a c) s = .next (s.trap 6 8 0) := by
  simp only [exec_chset, execChset, h, hd, Option.isSome_none, Bool.false_eq_true, if_false, Bool.not_false, if_true]

/-- The tables after CHSET has taken entry `n`: a core-local end meets its partner at once. -/
def chsetTables (s : State) (n : Nat) (v : Word) : State :=
  let u := s.fresh.2.updEp s.cur.core n fun _ => boundEp s v
  if bit v 5 || bit v 6 then u else u.pairEp s.cur.core n

theorem chsetTables_paired (s : State) (n : Nat) (v : Word) : Paired (s.fresh.2.updEp s.cur.core n fun _ => boundEp s v) (chsetTables s n v) := by
  unfold chsetTables
  extract_lets u
  split
  · exact ⟨.refl u, fun _ _ => .refl _⟩
  · exact pairEp_paired ..

theorem aside_chsetTables (s : State) (n : Nat) (v : Word) : Aside s (chsetTables s n v) :=
  (show Aside s s.fresh.2 from ⟨rfl, rfl, rfl, rfl⟩).trans ((aside_updEp ..).trans (chsetTables_paired s n v).aside)

/-- The lowest free entry of the table. -/
theorem lowest_free {k : Core} {n : Nat} (hn : n < 32) (hb : (k.ep n).bound = false) (hl : ∀ m, m < n → (k.ep m).bound = true) :
    ((List.range 32).find? fun n => !(k.ep n).bound) = some n := by
  rw [List.find?_range_eq_some]
  exact ⟨by simp [hb], List.mem_range.mpr hn, fun m hm => by simp [hl m hm]⟩

/-- The thread's endpoint is bound to an entry, and it goes on. -/
def takeEnd (k n a : Nat) (c : Ctx) : Ctx := { (c.consume (c.xp a)).next 4 with cs := mset c.cs k n }

theorem takeEnd_fields (k n a : Nat) (c : Ctx) : (takeEnd k n a c).serial = c.serial ∧ (takeEnd k n a c).pc = c.pc + w64 (c.pfx + 4) ∧
    (∀ r, (takeEnd k n a c).x r = c.x r ∧ (takeEnd k n a c).xp r = c.xp r) ∧ mfind (takeEnd k n a c).cs k = some n :=
  ⟨serial_consume_next c _ 4, consume_next_pc c _ 4, consume_next_x c _ 4, mfind_mset_self ..⟩

theorem chset_takes {s : State} {a : BitVec 5} {c : BitVec 4} {n : Nat} (ht : s.trailer s.cur = none) (h : mfind s.me.cs c.toNat = none)
    (hd : s.descOk s.cur (s.me.x a.toNat) = true) (hn : n < 32) (hb : ((s.core s.cur.core).ep n).bound = false)
    (hl : ∀ m, m < n → ((s.core s.cur.core).ep m).bound = true) :
    exec (.chset a c) s = .next ((chsetTables s n (s.me.x a.toNat)).updMe (takeEnd c.toNat n a.toNat)) := by
  rw [exec_chset, execChset]
  simp only [h, hd, lowest_free hn hb hl, Option.isSome_none, Bool.false_eq_true, if_false, Bool.not_true]
  exact congrArg _ ((aside_chsetTables s n (s.me.x a.toNat)).pairSync (f := takeEnd c.toNat n a.toNat) (takeEnd_fields ..).1 ht [] [] [])

theorem chreset_unbound {s : State} {c : BitVec 4} (ht : s.trailer s.cur = none) (h : mfind s.me.cs c.toNat = none) :
    ∃ t, exec (.chreset c) s = .next t ∧ GoesTo s t (s.me.pc + w64 (s.me.pfx + 4)) false := by
  refine ⟨_, ?_, next_goes_single 4 ht⟩
  simp only [exec_chreset, execChreset, h]

theorem aside_unbindEp (s : State) (c : CoreId) (n : Nat) : Aside s (s.unbindEp c n) := by
  have hone (l : List Msg) : Aside s { s.updEp c n fun _ => .reset with net := l } := (aside_updEp ..).trans (aside_net ..)
  unfold State.unbindEp
  extract_lets e mine u
  split
  · exact hone _
  · exact (hone _).trans ((aside_updEp ..).trans (aside_net ..))

/-- The end of a channel whose peer has been unbound (R160). -/
def resynced (f : Ep) : Ep :=
  { f with met := false, resync := true, broken := 0, returned := false, free := 0, sent := 0, consumed := 0, received := 0
           rpos := 0, wpos := 0, words := [], ring := 0, seq := 0, peer := none }

theorem unbindEp_cores {s : State} {c : CoreId} {n d m : Nat} (hp : ((s.core c).ep n).peer = some (d, m)) :
    (s.unbindEp c n).cores = ((s.updEp c n fun _ => .reset).updEp (coreOf d) m resynced).cores := by
  simp only [State.unbindEp, hp]
  rfl

/-- The two ends of a channel after one has been unbound. -/
theorem unbindEp_ends {s : State} {c : CoreId} {n d m : Nat} (hp : ((s.core c).ep n).peer = some (d, m)) (hne : d ≠ coreKey c ∨ m ≠ n) :
    ((s.unbindEp c n).core c).ep n = .reset ∧
      ((s.unbindEp c n).core (coreOf d)).ep m = resynced (((s.updEp c n fun _ => .reset).core (coreOf d)).ep m) := by
  have hend : coreKey c ≠ coreKey (coreOf d) ∨ n ≠ m := by
    rw [coreKey_coreOf]
    exact hne.imp Ne.symm Ne.symm
  have hcore (b : CoreId) : (s.unbindEp c n).core b = ((s.updEp c n fun _ => .reset).updEp (coreOf d) m resynced).core b := by
    rw [State.core, State.core, unbindEp_cores hp]
  rw [hcore, hcore, ep_updEp_self, ep_updEp_ne hend, ep_updEp_self]
  exact ⟨rfl, rfl⟩

/-- The thread's endpoint is unbound, and it goes on. -/
def dropEnd (k : Nat) (c : Ctx) : Ctx := { c with cs := merase c.cs k }.next 4

theorem chreset_frees {s : State} {c : BitVec 4} {n : Nat} (ht : s.trailer s.cur = none) (h : mfind s.me.cs c.toNat = some n) :
    exec (.chreset c) s = .next ((s.unbindEp s.cur.core n).updMe (dropEnd c.toNat)) := by
  have hser (x : Ctx) : (dropEnd c.toNat x).serial = x.serial := rfl
  rw [exec_chreset, execChreset]
  simp only [h, updMe_updMe]
  exact congrArg _ ((aside_unbindEp s s.cur.core n).pairSync (f := dropEnd c.toNat) (hser _) ht [] [] [])

/-! MSGBIND. -/

/-- MSGBIND's last step on the tables that it has changed. -/
theorem msgbind_goes {s u : State} (a : BitVec 5) (ha : Aside s u) (ht : s.trailer s.cur = none) :
    (u.updMe fun x => (x.consume (x.xp a.toNat)).next 4).pairSync s.cur [] [] [] = u.updMe fun x => (x.consume (x.xp a.toNat)).next 4 :=
  ha.pairSync (f := fun x => (x.consume (x.xp a.toNat)).next 4) (serial_consume_next ..) ht ..

/-- A class of the thread as MSGBIND binds it anew. -/
def boundCls (s : State) (v : Word) : ClassB := { ClassB.reset with bound := true, binding := v, serial := s.me.serial }

theorem msgbind_unbinds {s : State} {a : BitVec 5} (ht : s.trailer s.cur = none) (h : bit (s.me.x a.toNat) 8 = true) :
    exec (.msgbind a) s = .next ((s.updCls s.cur.core ((s.me.x a.toNat).toNat % 16) fun b => { b with bound := false }).updMe
      fun x => (x.consume (x.xp a.toNat)).next 4) := by
  have hk : bits (s.me.x a.toNat) 3 0 = (s.me.x a.toNat).toNat % 16 := by rw [bits, pow_zero, Nat.div_one]; rfl
  rw [exec_msgbind, execMsgbind]
  simp only [h, if_true, hk]
  exact congrArg _ (msgbind_goes a (aside_updCls ..) ht)

theorem msgbind_binds {s : State} {a : BitVec 5} {v : Word} (hv : s.me.x a.toNat = v) (ht : s.trailer s.cur = none) (h47 : v.toNat / 2 ^ 47 % 2 = 0)
    (h9 : v.toNat / 2 ^ 9 % 2 ^ 23 = 0) (h8 : bit v 8 = false) (hb : ((s.core s.cur.core).cls (v.toNat % 16)).bound = false)
    (hne : ((s.core s.cur.core).cls (v.toNat % 16)).binding.toNat / 2 ^ 32 ≠ v.toNat / 2 ^ 32)
    (hr : s.ringOk s.me.serial s.cur.core (v.toNat / 2 ^ 48) (v.toNat / 2 ^ 32 % 2 ^ 15 * 64) = true) :
    exec (.msgbind a) s = .next ((s.updCls s.cur.core (v.toNat % 16) fun _ => boundCls s v).updMe fun x => (x.consume (x.xp a.toNat)).next 4) := by
  have hk : bits v 3 0 = v.toNat % 16 := by rw [bits, pow_zero, Nat.div_one]; rfl
  have hhi (w : Word) : bits w 63 32 = w.toNat / 2 ^ 32 := Nat.mod_eq_of_lt (by have := w.isLt; omega)
  have hsize : bits v 63 48 = v.toNat / 2 ^ 48 := Nat.mod_eq_of_lt (by have := v.isLt; omega)
  have hzero : ¬(bits v 47 47 ≠ 0 ∨ bits v 31 9 ≠ 0) := not_or.mpr ⟨not_not.mpr h47, not_not.mpr h9⟩
  have hring : s.ringOk s.me.serial s.cur.core (bits v 63 48) (bits v 46 32 * 64) = true := hsize ▸ hr
  rw [exec_msgbind, execMsgbind]
  simp only [hv, hk, h8, hzero, hb, hring, hhi, beq_eq_false_iff_ne.mpr hne, Bool.false_eq_true, if_false, Bool.false_and, Bool.not_true]
  exact congrArg _ (msgbind_goes a (aside_updCls s s.cur.core (v.toNat % 16) fun _ => boundCls s v) ht)

end Sys2Proof.Machine.Laws
end

section
open Sys2Proof Sys2Proof.Machine Sys2Proof.Machine.Laws

/-- Settles O19: the class operations by the class of their endpoint, and each form of binding by what its operand names. -/
theorem classesAndBinding : Obligations.ClassesAndBinding := by
  unfold Obligations.ClassesAndBinding
  refine ⟨fun s o c n => ?_, fun s a c n ht => ?_⟩
  · intro e b mine key
    have hoct : octet o = 8 * o.toNat := Nat.mul_comm ..
    refine ⟨fun h => ?_, recvt_other, recvt_parks, fun h hm h0 hs => ?_⟩
    · have ha := aside_sentClass s (classMsg s n (octetWords s.me o))
      refine ⟨_, _, sendt_sends h, ha.sameMem _, ha.sameX fun r => consume_next_x .., ?_, rfl, rfl, rfl, rfl, ?_⟩
      · rw [ha.me_updMe, consume_next_pc]
      · rw [← hoct]; rfl
    · have ha := aside_updCls s s.cur.core e.peerNum (takenCls ((b.rpos + 9) % b.rwords))
      have hlen : (classWords s b).length = 8 := by rw [classWords, List.length_map, List.length_range]
      have ho := o.isLt
      obtain ⟨hpc, hpfx, -⟩ := receivedAll_pc (classWords s b) s.me (octet o) 0
      refine ⟨_, recvt_takes h rfl hm h0 hs, ha.sameMem _, ?_, fun j hj hj0 => ?_, fun r hr hout => ?_, ?_, ?_⟩
      · rw [ha.me_updMe, Ctx.next, hpc, hpfx]
      · have hw : (classWords s b)[j]? = some (markedWord s (key j)) := by
          rw [classWords, List.getElem?_map, List.getElem?_range hj]
          rfl
        rw [ha.me_updMe, x_next, xp_next, ← hoct]
        have hin := receivedAll_inside (classWords s b) s.me (octet o) 0 j _ (by omega) hw (by omega)
        rwa [Nat.add_zero] at hin
      · rw [ha.me_updMe, x_next, xp_next]
        exact receivedAll_outside (classWords s b) s.me (octet o) 0 r (by omega) (by omega)
      · rw [cls_updMe, cls_updCls_self]; rfl
      · rw [cls_updMe, cls_updCls_self]; rfl
  · intro v k b
    refine ⟨chset_bound, chset_invalid, fun h hd hn hb hl => ?_, chreset_unbound ht, fun d m h hp hne => ?_, fun h8 => ?_,
      fun h47 h9 h8 hb hne hr => ?_⟩
    · have ha := aside_chsetTables s n v
      have hend := (chsetTables_paired s n v).ends s.cur.core n
      rw [ep_updEp_self] at hend
      obtain ⟨-, hpc, hx, hcs⟩ := takeEnd_fields c.toNat n a.toNat s.me
      refine ⟨_, chset_takes ht h hd hn hb hl, ha.sameMem _, ha.sameX hx, ?_, ?_, ?_, ?_, ?_, fun hfar => ?_⟩
      · rw [ha.me_updMe, hpc]
      · rw [ha.me_updMe, hcs]
      · rw [ep_updMe]; exact hend.desc
      · rw [ep_updMe]; exact hend.bound
      · rw [ep_updMe]; exact hend.ctx
      · rw [ep_updMe, show s.me.x a.toNat = v from rfl, chsetTables, if_pos (by simpa using hfar), ep_updEp_self]
        rfl
    · have ha := aside_unbindEp s s.cur.core n
      have hkeep (r : Nat) : (dropEnd c.toNat s.me).x r = s.me.x r ∧ (dropEnd c.toNat s.me).xp r = s.me.xp r := ⟨rfl, rfl⟩
      obtain ⟨hn, hm⟩ := unbindEp_ends hp hne
      refine ⟨_, chreset_frees ht h, ha.sameMem _, ha.sameX hkeep, ?_, ?_, ?_, ?_⟩
      · rw [ha.me_updMe, dropEnd, Ctx.next]
      · rw [ep_updMe, hn, Ep.reset]
      · rw [ep_updMe, hm, resynced]
      · rw [ep_updMe, hm, resynced]
    · have ha := aside_updCls s s.cur.core (v.toNat % 16) fun b => { b with bound := false }
      refine ⟨_, msgbind_unbinds ht h8, ha.sameMem _, ha.sameX fun r => consume_next_x .., ?_, ?_⟩
      · rw [ha.me_updMe, consume_next_pc]
      · rw [cls_updMe, cls_updCls_self]
    · have ha := aside_updCls s s.cur.core (v.toNat % 16) fun _ => boundCls s v
      refine ⟨_, msgbind_binds rfl ht h47 h9 h8 hb hne hr, ha.sameMem _, ha.sameX fun r => consume_next_x .., ?_, ?_, ?_, ?_⟩
      · rw [ha.me_updMe, consume_next_pc]
      · rw [cls_updMe, cls_updCls_self]; rfl
      · rw [cls_updMe, cls_updCls_self]; rfl
      · rw [cls_updMe, cls_updCls_self]; rfl

end

section
/-! Rules about the memory side: what reads, writes and write-backs leave of the threads, and where an address leads (07 R134; 08 R170, R184, R191). -/

namespace Sys2Proof.Machine.Laws

/-! What the memory side leaves as it was. -/

/-- `t` differs from `s` neither in its cores, nor in which thread runs, nor in its banks' repair, nor in what a pair's trailer is. -/
structure Side (s t : State) : Prop where
  cores : t.cores = s.cores
  cur : t.cur = s.cur
  dev : t.dev = s.dev
  hole : t.hole = s.hole
  clocks : t.clocks = s.clocks
  trailer : ∀ u, t.trailer u = s.trailer u

theorem Side.refl (s : State) : Side s s := ⟨rfl, rfl, rfl, rfl, rfl, fun _ => rfl⟩
theorem Side.trans {s t u : State} (h : Side s t) (k : Side t u) : Side s u :=
  ⟨k.cores.trans h.cores, k.cur.trans h.cur, k.dev.trans h.dev, k.hole.trans h.hole, k.clocks.trans h.clocks,
    fun x => (k.trailer x).trans (h.trailer x)⟩

theorem Side.ctx {s t : State} (h : Side s t) (u : ThreadId) : t.ctx u = s.ctx u := by rw [State.ctx, State.ctx, State.core, State.core, h.cores]
theorem Side.me {s t : State} (h : Side s t) : t.me = s.me := by rw [State.me, State.me, h.cur, h.ctx]

/-- Where the launches are as before, so is what a trailer is. -/
theorem side_of {s t : State} (h : t.cores = s.cores ∧ t.cur = s.cur ∧ t.dev = s.dev ∧ t.hole = s.hole ∧ t.clocks = s.clocks)
    (hl : t.launches = s.launches) : Side s t := by
  obtain ⟨hcores, hcur, hdev, hhole, hclocks⟩ := h
  refine ⟨hcores, hcur, hdev, hhole, hclocks, fun u => trailer_congr ?_ ?_⟩
  · rw [State.ctx, State.ctx, State.core, State.core, hcores]
  · simp only [State.launch, hl]

theorem side_setFe (s : State) (w : Nat) (x : FeWord) : Side s (s.setFe w x) := side_of ⟨rfl, rfl, rfl, rfl, rfl⟩ rfl

/-- Nor in the full/empty states of its words. -/
structure CacheSide (s t : State) : Prop extends Side s t where
  fe : t.fe = s.fe

theorem CacheSide.refl (s : State) : CacheSide s s := ⟨.refl s, rfl⟩
theorem CacheSide.trans {s t u : State} (h : CacheSide s t) (k : CacheSide t u) : CacheSide s u := ⟨h.toSide.trans k.toSide, k.fe.trans h.fe⟩
theorem CacheSide.feAt {s t : State} (h : CacheSide s t) (w : Nat) : t.feAt w = s.feAt w := by rw [State.feAt, State.feAt, h.fe]

theorem side_wr (s : State) (k : Nat) (b : List Byte) : CacheSide s (s.wr k b) := ⟨side_of ⟨rfl, rfl, rfl, rfl, rfl⟩ rfl, rfl⟩
theorem side_setPz (s : State) (w : Nat) (b : Bool) : CacheSide s (s.setPz w b) := by
  refine ⟨side_of ⟨?_, ?_, ?_, ?_, ?_⟩ ?_, ?_⟩ <;> simp
theorem side_setCondition (s : State) (w n : Nat) : CacheSide s (s.setCondition w n) := ⟨side_of ⟨rfl, rfl, rfl, rfl, rfl⟩ rfl, rfl⟩
theorem side_rowWritten (s : State) (w : Nat) : CacheSide s (s.rowWritten w) := by
  refine ⟨side_of ⟨?_, ?_, ?_, ?_, ?_⟩ ?_, ?_⟩ <;> simp
theorem side_updCluster (s : State) (n : Nat) (f : Cluster → Cluster) : CacheSide s (s.updCluster n f) := ⟨side_of ⟨rfl, rfl, rfl, rfl, rfl⟩ rfl, rfl⟩
theorem side_migsOver (s : State) : CacheSide s s.migsOver := by
  refine ⟨side_of ⟨?_, ?_, ?_, ?_, ?_⟩ ?_, ?_⟩ <;> simp
theorem side_draw (s : State) : CacheSide s s.draw.2 := ⟨side_of ⟨rfl, rfl, rfl, rfl, rfl⟩ rfl, rfl⟩

/-- A report changes what a launch has reported alone. -/
theorem isPair_report (s : State) (serial : Word) (r : Report) (x : Word) : ((s.report serial r).launch x).isPair = (s.launch x).isPair := by
  have hone (l : Launch) : (if l.serial = serial then l.report r else l).serial = l.serial ∧
      (if l.serial = serial then l.report r else l).isPair = l.isPair := by
    unfold Launch.report
    split
    · extract_lets l'
      split
      · exact ⟨rfl, rfl⟩
      · split <;> exact ⟨rfl, rfl⟩
    · exact ⟨rfl, rfl⟩
  have hserial : ((fun l : Launch => l.serial == x) ∘ fun l => if l.serial = serial then l.report r else l) = fun l => l.serial == x := by
    funext l
    simp only [Function.comp, (hone l).1]
  simp only [State.launch, State.report, State.updLaunch, List.find?_map, hserial]
  cases s.launches.find? fun l => l.serial == x with
  | none => rfl
  | some l => exact (hone l).2

theorem side_report (s : State) (serial : Word) (r : Report) : CacheSide s (s.report serial r) :=
  ⟨⟨rfl, rfl, rfl, rfl, rfl, fun _ => trailer_congr rfl (isPair_report ..)⟩, rfl⟩

theorem side_foldl {α : Type} {f : State → α → State} (h : ∀ s a, CacheSide s (f s a)) (l : List α) : ∀ s, CacheSide s (l.foldl f s) := by
  induction l with
  | nil => exact CacheSide.refl
  | cons a l ih => exact fun s => (h s a).trans (ih _)

theorem side_ite {s t u : State} {p : Prop} [Decidable p] (ht : CacheSide s t) (hu : CacheSide s u) : CacheSide s (if p then t else u) := by
  split
  · exact ht
  · exact hu

/-! Write-backs and what an acquire drops (08 R184, R191). -/

theorem side_writeBack (s : State) (cl line : Nat) : CacheSide s (s.writeBack cl line) := by
  unfold State.writeBack
  extract_lets l lost r w
  refine side_ite (.refl s) (side_ite ?_ ?_)
  · exact (side_foldl (fun s x => side_report s x _) _ s).trans ((side_updCluster ..).trans (side_migsOver _))
  · refine (side_foldl (fun s i => side_ite ?_ (.refl s)) _ s).trans ((side_updCluster ..).trans (side_migsOver _))
    extract_lets u
    have hu : CacheSide s u := side_foldl (fun s a => side_wr ..) _ s
    exact side_ite (side_ite (hu.trans (side_foldl (fun s a => side_setPz ..) _ u))
      (side_ite (hu.trans (side_foldl (fun s a => side_setPz ..) _ u)) hu)) hu

theorem side_writeBackAll (s : State) (cl : Nat) : CacheSide s (s.writeBackAll cl) := side_foldl (fun s n => side_writeBack s cl n) _ s
theorem side_flushLine (s : State) (cl line : Nat) : CacheSide s (s.flushLine cl line) := (side_writeBack ..).trans (side_updCluster ..)
theorem side_dropClean (s : State) (cl : Nat) : CacheSide s (s.dropClean cl) := side_updCluster ..

/-- What a release, if any, has done (07 R136). -/
theorem side_afterRelease (s : State) (q : Option Nat) : CacheSide s (afterRelease s q) := side_ite (side_writeBackAll ..) (.refl s)
theorem release_eq (s : State) (q : Option Nat) : (match q with | some k => s.release s.cur k | none => s) = afterRelease s q := by
  cases q <;> rfl

/-- The state after the acquire, if any, of an access. -/
def afterAcquire (s : State) (q : Option Nat) : State := if wide (q.getD 0) then s.dropClean (clusterOf s.cur.core) else s

theorem acquire_eq (s : State) (q : Option Nat) : (match q with | some k => s.acquire s.cur k | none => s) = afterAcquire s q := by
  cases q <;> rfl
theorem side_afterAcquire (s : State) (q : Option Nat) : CacheSide s (afterAcquire s q) := side_ite (side_dropClean ..) (.refl s)
theorem afterAcquire_mem (s : State) (q : Option Nat) : (afterAcquire s q).mem = s.mem := by unfold afterAcquire; split <;> rfl

/-! Full/empty states (07 R144, R145). -/

theorem feAt_setFe (s : State) (w v : Nat) (x : FeWord) : (s.setFe w x).feAt v = if v = w then x else s.feAt v := mget_mset ..

/-- A change of a word's state on which nobody waits serves nobody. -/
theorem settleWord_none {s : State} {w : Nat} {mf me : Bool} (hp : (s.feAt w).parked = []) (hr : mf = true → (s.feAt w).readers = [])
    (hw : me = true → (s.feAt w).writers = []) : s.settleWord w mf me = s := by
  have hrd : (if mf then (s.feAt w).readers else []) = [] := by cases mf <;> simp_all
  have hwr : (if me then (s.feAt w).writers else []) = [] := by cases me <;> simp_all
  simp [State.settleWord, hp, State.serve, hrd, hwr]

/-- `t` differs from `s` in the state of word `w` alone, which is now `x`, and in what its row's parity is (07 R144; 08 R177). -/
structure FeSet (s t : State) (w : Nat) (x : FeWord) : Prop where
  side : Side s t
  mem : t.mem = s.mem
  poison : t.poison = s.poison
  at_ : t.feAt w = x
  others : ∀ v, v ≠ w → t.feAt v = s.feAt v

theorem feSet_setFe (s : State) (w : Nat) (x : FeWord) : FeSet s (s.setFe w x) w x :=
  ⟨side_setFe .., rfl, rfl, (feAt_setFe ..).trans (if_pos rfl), fun _ hv => (feAt_setFe ..).trans (if_neg hv)⟩
theorem FeSet.after {s t u : State} {w : Nat} {x : FeWord} (h : CacheSide s t) (hm : t.mem = s.mem ∧ t.poison = s.poison) (k : FeSet t u w x) :
    FeSet s u w x :=
  ⟨h.toSide.trans k.side, k.mem.trans hm.1, k.poison.trans hm.2, k.at_, fun v hv => (k.others v hv).trans (h.feAt v)⟩

theorem feWord_same {x : FeWord} {full lost : Bool} (hf : x.full = full) (hl : x.lost = lost) : x = { x with full := full, lost := lost } := by
  subst hf hl
  rfl

theorem setEmpty_free {s : State} {w : Nat} (hp : (s.feAt w).parked = []) (hw : (s.feAt w).writers = []) :
    FeSet s (s.setEmpty w) w { s.feAt w with full := false, lost := false } := by
  have hrow : CacheSide s (s.rowWritten w) := side_rowWritten s w
  have hm : (s.rowWritten w).mem = s.mem ∧ (s.rowWritten w).poison = s.poison := ⟨rowWritten_mem .., rowWritten_poison ..⟩
  unfold State.setEmpty
  extract_lets f u
  split
  · next hno =>
    obtain ⟨hf, hl⟩ := hno
    exact .after hrow hm ⟨.refl u, rfl, rfl, (hrow.feAt w).trans (feWord_same (by simpa using hf) (by simpa using hl)), fun _ _ => rfl⟩
  · have hset := feSet_setFe u w { f with full := false, lost := false }
    rw [settleWord_none (mf := false) (by rw [hset.at_]; exact hp) (fun h => Bool.noConfusion h) fun _ => by rw [hset.at_]; exact hw]
    exact .after hrow hm hset

theorem setFull_free {s : State} {w : Nat} (hb : isBanked w = true) (hc : isWindowWord w = false) (hp : (s.feAt w).parked = [])
    (hr : (s.feAt w).readers = []) : FeSet s (s.setFull w) w { s.feAt w with full := true, lost := false } := by
  have hbank : ¬(!isBanked w || isWindowWord w) = true := by simp [hb, hc]
  unfold State.setFull
  rw [if_neg hbank]
  extract_lets f
  split
  · next hno =>
    obtain ⟨hf, hl⟩ := hno
    exact ⟨.refl s, rfl, rfl, feWord_same hf (by simpa using hl), fun _ _ => rfl⟩
  · have hset := feSet_setFe s w { f with full := true, lost := false }
    rw [settleWord_none (me := false) (by rw [hset.at_]; exact hp) (fun _ => by rw [hset.at_]; exact hr) fun h => Bool.noConfusion h]
    exact hset

/-! Where an address leads (R134). -/

/-- A page leads to no bank. -/
theorem leafLoc_noBank (s : State) (d e va sz q : Nat) (k : Acc1) : (leafLoc s d e va sz k).noPeer ≠ .bank q := by
  unfold leafLoc
  extract_lets kind r w ok pa
  repeat' split
  all_goals exact Loc.noConfusion

theorem walk_noBank (s : State) (d root va q : Nat) (k : Acc1) : (s.walk d root va k).noPeer ≠ .bank q := by
  unfold State.walk
  split
  · exact leafLoc_noBank _ _ _ _ _ _ _
  · split
    · exact Loc.noConfusion
    · exact Loc.noConfusion
    · exact Loc.noConfusion
    · exact leafLoc_noBank _ _ _ _ _ _ _

/-- An access that reaches a bank is aligned, and is not in region 0x00. -/
theorem checkAcc_bank {s : State} {t : ThreadId} {a : Word} {n al : Nat} {k : Acc1} {q : Nat} (h : s.checkAcc t a n al k = .bank q) :
    a.toNat % al = 0 ∧ a.toNat / 2 ^ 56 ≠ 0 := by
  unfold State.checkAcc at h
  split at h
  · cases h
  · next hal =>
    refine ⟨not_not.mp hal, fun h0 => ?_⟩
    simp only [State.locate, h0] at h
    split at h
    · cases h
    · exact walk_noBank _ _ _ _ _ _ h

/-- What an access that reaches a bank goes on with. -/
theorem access_bank {s : State} {i : Instr} {a : Word} {n al : Nat} {k : Acc1} {q : Nat} (h : s.checkAcc s.cur a n al k = .bank q) (f : Loc → Res) :
    s.access i a n al k f = f (.bank q) := by
  simp only [State.access, h]

end Sys2Proof.Machine.Laws
end

section
/-! Proofs about the full/empty forms (07 R142 to R147), with the rule of a write at a bank (08 R177). -/

namespace Sys2Proof.Machine.Laws

theorem exec_ldfKeep (t b : BitVec 5) (o : BitVec 2) (sc : BitVec 3) (f : BitVec 8) (s : State) :
    exec (.ldfKeep t b o sc f) s = execLdfKeep t b o sc f s := rfl
theorem exec_ldfTake (t b : BitVec 5) (o : BitVec 2) (sc : BitVec 3) (f : BitVec 8) (s : State) :
    exec (.ldfTake t b o sc f) s = execLdfTake t b o sc f s := rfl
theorem exec_stf (t b : BitVec 5) (o : BitVec 2) (sc : BitVec 3) (f : BitVec 8) (s : State) : exec (.stf t b o sc f) s = execStf t b o sc f s := rfl
theorem exec_few (b : BitVec 5) (f : BitVec 8) (s : State) : exec (.few b f) s = execFew b f s := rfl
theorem exec_feq (p : BitVec 3) (b : BitVec 5) (f : BitVec 8) (s : State) : exec (.feq p b f) s = execFeq p b f s := rfl

/-! A write at a bank. -/

theorem pz_setPz (s : State) (w v : Nat) (b : Bool) : (s.setPz w b).pz v = if v = w then b else s.pz v := by
  unfold State.setPz State.pz
  split
  · next h =>
    split
    · next hv => rw [hv, h]
    · rfl
  · exact mget_mset ..

theorem mget_merase_ne {α : Type} (d : α) (m : SMap α) {j k : Nat} (h : j ≠ k) : mget d (merase m k) j = mget d m j := by
  induction m with
  | nil => rfl
  | cons x t ih =>
    obtain ⟨a, v⟩ := x
    by_cases ha : a = k
    · simp only [merase, mget, if_pos ha, if_neg (show ¬a = j from fun hj => h (hj.symm.trans ha))]
    · simp only [merase, mget, if_neg ha, ih]

/-- No word that has no error has one after `t`. -/
def KeepsSound (s t : State) : Prop := ∀ w, mget 0 s.badWords w = 0 → mget 0 t.badWords w = 0

theorem KeepsSound.trans {s t u : State} (h : KeepsSound s t) (k : KeepsSound t u) : KeepsSound s u := fun w hw => k w (h w hw)
theorem keepsSound_of {s t : State} (h : t.badWords = s.badWords) : KeepsSound s t := fun _ hw => h ▸ hw

/-- The error of a word is over once it has been written. -/
theorem keepsSound_cleared {s : State} {p : Prop} [Decidable p] {v : Nat} (h : p → s.condition v ≠ 0) :
    KeepsSound s (if p then s.setCondition v 0 else s) := by
  intro w hw
  split
  · next hp =>
    have hne : w ≠ v := fun he => h hp (he ▸ hw)
    exact (mget_merase_ne 0 s.badWords hne).trans hw
  · exact hw

theorem keepsSound_rowWritten (s : State) (w : Nat) : KeepsSound s (s.rowWritten w) := by
  have hmark (u : State) : (u.markStale w).badWords = u.badWords := by
    unfold State.markStale
    split
    · rfl
    · split <;> rfl
  exact (keepsSound_cleared (v := parityKey w) id).trans (keepsSound_of (hmark _))

/-- `t` is `s` after bytes have been written inside word `k / 8` of a bank that takes writes (07 R134, R147; 08 R177). -/
structure BankWritten (s t : State) (k : Nat) (b : List Byte) (mark : Bool) : Prop where
  side : CacheSide s t
  mem : t.mem = memWrite s.mem k b
  pz : ∀ w, t.pz w = if w = k / 8 then (if mark then true else if b.length = 8 then false else s.pz w) else s.pz w
  sound : KeepsSound s t

theorem bankWrite_takes {s : State} {k : Nat} (b : List Byte) (mark : Bool) (h : s.bankTakes (k / 8) = true) :
    ∃ t, s.bankWrite k b mark = some t ∧ BankWritten s t k b mark := by
  unfold State.bankWrite
  extract_lets w s1 s2 s3
  have h2 : CacheSide s1 s2 ∧ s2.mem = s1.mem ∧
      ∀ x, s2.pz x = if x = k / 8 then (if mark then true else if b.length = 8 then false else s.pz x) else s.pz x := by
    rcases Bool.eq_false_or_eq_true mark with hm | hm
    · refine ⟨side_ite (side_setPz ..) (side_ite (side_setPz ..) (.refl _)), ?_, fun x => ?_⟩
      · simp only [s2, hm, if_true, setPz_mem]
      · simp only [s2, hm, if_true, pz_setPz]
        rfl
    · by_cases h8 : b.length = 8
      · refine ⟨side_ite (side_setPz ..) (side_ite (side_setPz ..) (.refl _)), ?_, fun x => ?_⟩
        · simp only [s2, hm, h8, Bool.false_eq_true, if_false, if_true, setPz_mem]
        · simp only [s2, hm, h8, Bool.false_eq_true, if_false, if_true, pz_setPz]
          rfl
      · refine ⟨side_ite (side_setPz ..) (side_ite (side_setPz ..) (.refl _)), ?_, fun x => ?_⟩
        · simp only [s2, hm, h8, Bool.false_eq_true, if_false]
        · simp only [s2, hm, h8, Bool.false_eq_true, if_false, ite_self]
          rfl
  obtain ⟨hside, hmem, hpz⟩ := h2
  have h3 : CacheSide s2 s3 ∧ s3.mem = s2.mem ∧ s3.poison = s2.poison := by
    refine ⟨side_ite (side_setCondition ..) (.refl _), ?_, ?_⟩
    · simp only [s3]; split <;> rfl
    · simp only [s3]; split <;> rfl
  obtain ⟨hside3, hmem3, hpoison3⟩ := h3
  have hbad : s2.badWords = s.badWords := by
    simp only [s2]
    split
    · exact setPz_badWords ..
    · split
      · exact setPz_badWords ..
      · rfl
  have hsound : KeepsSound s2 s3 := keepsSound_cleared And.right
  refine ⟨_, if_pos h, ((side_wr ..).trans (hside.trans hside3)).trans (side_rowWritten ..), ?_, fun x => ?_,
    (keepsSound_of hbad).trans (hsound.trans (keepsSound_rowWritten _ _))⟩
  · rw [rowWritten_mem, hmem3, hmem]
    rfl
  · rw [State.pz, rowWritten_poison, hpoison3]
    exact hpz x

theorem bankTakes_side {s t : State} (h : Side s t) (w : Nat) : t.bankTakes w = s.bankTakes w := by
  simp only [State.bankTakes, State.groupRetired, h.dev]
  rfl

/-- A whole word written, whatever its state. -/
theorem putWord_takes {s : State} {w : Nat} (v : Word) (mark : Bool) (serial a : Word) (h : s.bankTakes w = true) :
    BankWritten s (s.putWord w v mark serial a) (8 * w) (leBytes 8 v.toNat) mark := by
  have hw : 8 * w / 8 = w := by omega
  obtain ⟨t, ht, hwr⟩ := bankWrite_takes (k := 8 * w) (leBytes 8 v.toNat) mark (by rw [hw]; exact h)
  rw [State.putWord, ht]
  exact hwr

theorem memWord_of_write {s t : State} {w : Nat} {v : Word} (h : t.mem = memWrite s.mem (8 * w) (leBytes 8 v.toNat)) : memWord t w = v := by
  rw [memWord, rd_of_memWrite h (length_leBytes ..), leNat_leBytes]
  exact BitVec.eq_of_toNat_eq (by have := v.isLt; rw [BitVec.toNat_ofNat]; omega)

/-! The forms at their word. -/

theorem offAddr_eq (c : Ctx) (b : BitVec 5) (f : BitVec 8) : c.addr b f 8 = offAddr c b f := by
  rw [Ctx.addr, offAddr, sx_eq, BitVec.ofInt_mul]
  rfl

/-- A form that reaches a banked word goes on at it. -/
theorem bankForm_at {s : State} {a : Word} {w : Nat} (i : Instr) (write : Bool) (h : AtWord s a (if write then .store else .load) w)
    (f : State → Nat → Res) : s.bankForm i a write f = f s w := by
  obtain ⟨⟨hpend, -, -, -, -, hwhole⟩, hloc, -⟩ := h
  obtain ⟨hal, hreg⟩ := checkAcc_bank hloc
  have hw : 8 * w / 8 = w := by omega
  simp only [State.bankForm, hal, hreg, access_bank hloc, State.ordered, afterIf_nil _ _ _ _ hwhole hpend, hw, ne_eq, not_true_eq_false, if_false]

theorem feRead_at {s : State} {a : Word} {k : Acc1} {w : Nat} (h : AtWord s a k w) : s.feRead w a = (s, s.rd (8 * w) 8, [s.pz w]) := by
  have h8 : 8 * w % 8 = 0 := by omega
  have hw : 8 * w / 8 = w := by omega
  rw [State.feRead, loadLoc_bank, marksOf_word h8, hw]
  rw [wordsOf_word h8, hw]
  exact fun x hx => List.mem_singleton.mp hx ▸ h.sound

/-! LDF. -/

/-- The context of a thread to which an LDF has given the value of its word. -/
def ldfCtx (x : Form) (v : Word) (m : Bool) (now : Nat) (c : Ctx) : Ctx :=
  ((((c.consume x.base).setX x.rt v (m || x.base)).consumeAt m x.addr).wake now).next x.len

theorem ldfCtx_serial (x : Form) (v : Word) (m : Bool) (now : Nat) (c : Ctx) : (ldfCtx x v m now c).serial = c.serial := by
  rw [ldfCtx, next_serial, wake_serial, consumeAt_serial, setX_serial, consume_serial]

/-- The state after an LDF has taken the value of word `w`. -/
def ldfDone (s : State) (w : Nat) (x : Form) : State :=
  afterAcquire (s.updMe (ldfCtx x (memWord s w) (s.pz w) (s.cycleOf s.cur))) x.sc

/-- A context of a thread updated, and mirrored by no trailer, where the memory side has changed since. -/
theorem Side.pairSync {s u : State} (h : Side s u) (ht : s.trailer s.cur = none) (xd pd hd : List Nat) : u.pairSync s.cur xd pd hd = u :=
  pairSync_single ((h.trailer _).trans ht) xd pd hd

theorem trailer_updMe_none {s : State} {f : Ctx → Ctx} (hf : (f s.me).serial = s.me.serial) (ht : s.trailer s.cur = none) :
    (s.updMe f).trailer (s.updMe f).cur = none := trailer_updMe_single hf ht

theorem side_ldfDone (s : State) (w : Nat) (x : Form) :
    CacheSide (s.updMe (ldfCtx x (memWord s w) (s.pz w) (s.cycleOf s.cur))) (ldfDone s w x) := side_afterAcquire ..

theorem finishLoad_word {s : State} {i : Instr} {x : Form} (w : Nat) (hx : Instr.form i s.me = x) (hn : x.n = 8) (ht : s.trailer s.cur = none) :
    s.finishLoad s.cur i (s.rd (8 * w) 8) [s.pz w] = ldfDone s w x := by
  have hser := ldfCtx_serial x (memWord s w) (s.pz w) (s.cycleOf s.cur) s.me
  have hmark : [s.pz w].getD 0 false = s.pz w := rfl
  subst hx
  unfold State.finishLoad
  simp only [Ctx.loadRegs, show s.ctx s.cur = s.me from rfl, hn, hmark, show (8 : Nat) ≠ 64 by decide, if_false]
  refine Eq.trans ?_ ((side_ldfDone s w (Instr.form i s.me)).toSide.pairSync (trailer_updMe_none hser ht) ((List.range 1).map ((Instr.form i s.me).rt + ·)) [] [])
  refine congrArg (fun t : State => t.pairSync s.cur ((List.range 1).map ((Instr.form i s.me).rt + ·)) [] []) ?_
  exact acquire_eq (s.updMe (ldfCtx (Instr.form i s.me) (memWord s w) (s.pz w) (s.cycleOf s.cur))) (Instr.form i s.me).sc

theorem ldfDone_fe (s : State) (w : Nat) (x : Form) : (ldfDone s w x).fe = s.fe := (side_ldfDone s w x).fe
theorem ldfDone_mem (s : State) (w : Nat) (x : Form) : (ldfDone s w x).mem = s.mem := afterAcquire_mem ..
theorem ldfDone_others (s : State) (w : Nat) (x : Form) : SameOthers s (ldfDone s w x) :=
  fun u hu => ((side_ldfDone s w x).ctx u).trans (sameOthers_updMe s _ u hu)
theorem ldfDone_me (s : State) (w : Nat) (x : Form) : (ldfDone s w x).me = ldfCtx x (memWord s w) (s.pz w) (s.cycleOf s.cur) s.me :=
  (side_ldfDone s w x).me.trans (me_updMe ..)

/-- A loaded word, its mark, and what the marks do to CIR and PADDR (07 R134; 10 R218). -/
theorem loadCtx_eq (c : Ctx) (base m : Bool) (d : Nat) (v a : Word) :
    let e := ((c.consume base).setX d v (m || base)).consumeAt m a
    e = { c with xs := e.xs, xm := e.xm, paddr := if m = true ∧ c.paddr = 0 then a else c.paddr
                 cir := if base || m then c.cir ||| 1 else c.cir } := by
  intro e
  have hor (x : BitVec 8) : x ||| 1#8 ||| 1#8 = x ||| 1#8 := by rw [BitVec.or_assoc, BitVec.or_self]
  by_cases hd : d = 0 <;> cases base <;> cases m <;> simp [e, Ctx.setX, hd, Ctx.consume, Ctx.consumeAt, hor]

theorem wake_regs (c : Ctx) (n : Nat) (xs : SMap Word) (xm : BitVec 32) (paddr : Word) (cir : BitVec 8) :
    { c with xs := xs, xm := xm, paddr := paddr, cir := cir }.wake n = { c.wake n with xs := xs, xm := xm, paddr := paddr, cir := cir } := by
  unfold Ctx.wake Ctx.setWait
  split <;> rfl

/-- The thread's part of an LDF, as the statements write it. -/
theorem ldfTakes_of {s t : State} {w : Nat} {x : Form} (hrt : x.rt < 32) (hlen : x.len = 4)
    (ht : t.me = ldfCtx x (memWord s w) (s.pz w) (s.cycleOf s.cur) s.me) : LdfTakes s t x.rt w x.addr x.base := by
  refine ⟨fun r _ => ?_, ?_⟩
  · have hx (c : Ctx) (n : Nat) : (c.wake n).x r = c.x r := x_congr (wake_xs ..) r
    have hp (c : Ctx) (n : Nat) : (c.wake n).xp r = c.xp r := xp_congr (wake_xm ..) r
    rw [ht, ldfCtx, x_next, xp_next, hx, hp, x_consumeAt, xp_consumeAt, x_setX, xp_setX _ _ _ _ _ hrt, x_consume, xp_consume]
    exact ⟨rfl, rfl⟩
  · have hpc (c : Ctx) (n : Nat) : (c.wake n).pc = c.pc ∧ (c.wake n).pfx = c.pfx := ⟨wake_pc .., wake_pfx ..⟩
    rw [ht, ldfCtx, loadCtx_eq, wake_regs, hlen, Ctx.next, (hpc _ _).1, (hpc _ _).2]

end Sys2Proof.Machine.Laws
end

section
/-! LDF, FEQ, STF and FEW by the state of their word (07 R144, R147). -/

namespace Sys2Proof.Machine.Laws

/-! LDF. -/

/-- The form of an LDF. -/
def ldfForm (s : State) (t b : BitVec 5) (o : BitVec 2) (sc : BitVec 3) (f : BitVec 8) : Form :=
  ⟨t.toNat, 8, scopeOf o sc, s.me.xp b.toNat, offAddr s.me b f, 4⟩

theorem form_ldfKeep (s : State) (t b : BitVec 5) (o : BitVec 2) (sc : BitVec 3) (f : BitVec 8) :
    Instr.form (.ldfKeep t b o sc f) s.me = ldfForm s t b o sc f := by
  rw [ldfForm, ← offAddr_eq]
  rfl
theorem form_ldfTake (s : State) (t b : BitVec 5) (o : BitVec 2) (sc : BitVec 3) (f : BitVec 8) :
    Instr.form (.ldfTake t b o sc f) s.me = ldfForm s t b o sc f := by
  rw [ldfForm, ← offAddr_eq]
  rfl

theorem ldfDone_takes (s : State) (w : Nat) (t b : BitVec 5) (o : BitVec 2) (sc : BitVec 3) (f : BitVec 8) :
    LdfTakes s (ldfDone s w (ldfForm s t b o sc f)) t.toNat w (offAddr s.me b f) (s.me.xp b.toNat) :=
  ldfTakes_of (x := ldfForm s t b o sc f) t.isLt rfl (ldfDone_me ..)

/-- A request that its word's state does not satisfy parks at the bank. -/
theorem parkFe_parks {s : State} (i : Instr) (w : Nat) (write take : Bool) (ht : s.trailer s.cur = none) :
    Parks s (s.parkFe i w write take) i (.fe w write take) ∧ s.cur ∈ ((s.parkFe i w write take).feAt w).parked := by
  unfold State.parkFe
  extract_lets f u
  have hu : CacheSide { s with fe := u.fe } u := ⟨side_of ⟨rfl, rfl, rfl, rfl, rfl⟩ rfl, rfl⟩
  have hme : u.me = s.me := hu.me
  have hpark := park_parks (s := u) i (.fe w write take) ht
  obtain ⟨⟨n, a, l, p, hp⟩, hmem, hothers, hlaunches⟩ := hpark
  refine ⟨⟨⟨n, a, l, p, hp.trans (by rw [hme])⟩, hmem, hothers, hlaunches⟩, ?_⟩
  have hfe : ((u.park i (.fe w write take)).feAt w).parked = if f.parked.contains s.cur then f.parked else f.parked ++ [s.cur] := by
    obtain ⟨_, _, _, _, g, he, -⟩ := park_single (s := u) i (.fe w write take) ht
    rw [he]
    exact congrArg FeWord.parked ((feAt_setFe ..).trans (if_pos rfl))
  rw [hfe]
  split
  · next hc => exact List.contains_iff_mem.mp hc
  · exact List.mem_append_right _ (List.mem_singleton.mpr rfl)

/-- What an LDF.keep that completes does. -/
theorem ldfKeep_takes {s : State} {t b : BitVec 5} {o : BitVec 2} {sc : BitVec 3} {f : BitVec 8} {w : Nat}
    (h : AtWord s (offAddr s.me b f) .load w) (hf : (isWindowWord w || (s.feAt w).full || (s.feAt w).lost) = true) :
    exec (.ldfKeep t b o sc f) s = .next (ldfDone s w (ldfForm s t b o sc f)) := by
  rw [exec_ldfKeep, execLdfKeep]
  simp only [offAddr_eq, bankForm_at (.ldfKeep t b o sc f) false h, feRead_at h, hf, if_true,
    finishLoad_word w (form_ldfKeep s t b o sc f) rfl h.quiet.single]

theorem ldfKeep_parks {s : State} {t b : BitVec 5} {o : BitVec 2} {sc : BitVec 3} {f : BitVec 8} {w : Nat}
    (h : AtWord s (offAddr s.me b f) .load w) (hf : (isWindowWord w || (s.feAt w).full || (s.feAt w).lost) = false) :
    ∃ u, exec (.ldfKeep t b o sc f) s = .next u ∧ Parks s u (.ldfKeep t b o sc f) (.fe w false false) ∧ s.cur ∈ (u.feAt w).parked := by
  refine ⟨_, ?_, parkFe_parks _ w false false h.quiet.single⟩
  rw [exec_ldfKeep, execLdfKeep]
  simp only [offAddr_eq, bankForm_at (.ldfKeep t b o sc f) false h, feRead_at h, hf, Bool.false_eq_true, if_false]

theorem ldfTake_lost {s : State} {t b : BitVec 5} {o : BitVec 2} {sc : BitVec 3} {f : BitVec 8} {w : Nat}
    (h : AtWord s (offAddr s.me b f) .store w) (hl : (s.feAt w).lost = true) :
    exec (.ldfTake t b o sc f) s = .next (ldfDone s w (ldfForm s t b o sc f)) := by
  rw [exec_ldfTake, execLdfTake]
  simp only [offAddr_eq, bankForm_at (.ldfTake t b o sc f) true h, feRead_at h, hl, if_true,
    finishLoad_word w (form_ldfTake s t b o sc f) rfl h.quiet.single]

theorem ldfTake_empties {s : State} {t b : BitVec 5} {o : BitVec 2} {sc : BitVec 3} {f : BitVec 8} {w : Nat}
    (h : AtWord s (offAddr s.me b f) .store w) (hf : (s.feAt w).full = true) (hl : (s.feAt w).lost = false) :
    exec (.ldfTake t b o sc f) s = .next ((ldfDone s w (ldfForm s t b o sc f)).setEmpty w) := by
  rw [exec_ldfTake, execLdfTake]
  simp only [offAddr_eq, bankForm_at (.ldfTake t b o sc f) true h, feRead_at h, hl, hf, Bool.false_eq_true, if_false, if_true,
    finishLoad_word w (form_ldfTake s t b o sc f) rfl h.quiet.single]

theorem ldfTake_parks {s : State} {t b : BitVec 5} {o : BitVec 2} {sc : BitVec 3} {f : BitVec 8} {w : Nat}
    (h : AtWord s (offAddr s.me b f) .store w) (hf : (s.feAt w).full = false) (hl : (s.feAt w).lost = false) :
    ∃ u, exec (.ldfTake t b o sc f) s = .next u ∧ Parks s u (.ldfTake t b o sc f) (.fe w false true) ∧ s.cur ∈ (u.feAt w).parked := by
  refine ⟨_, ?_, parkFe_parks _ w false true h.quiet.single⟩
  rw [exec_ldfTake, execLdfTake]
  simp only [offAddr_eq, bankForm_at (.ldfTake t b o sc f) true h, feRead_at h, hl, hf, Bool.false_eq_true, if_false]

/-- A word that a completed LDF.take has emptied, where nobody waits for it. -/
theorem ldfDone_setEmpty {s : State} {w : Nat} (x : Form) (hl : (s.feAt w).lost = false) (hp : (s.feAt w).parked = [])
    (hw : (s.feAt w).writers = []) :
    FeSet (ldfDone s w x) ((ldfDone s w x).setEmpty w) w { s.feAt w with full := false } := by
  have hfe (v : Nat) : (ldfDone s w x).feAt v = s.feAt v := by rw [State.feAt, State.feAt, ldfDone_fe]
  have h := setEmpty_free (s := ldfDone s w x) (w := w) (by rw [hfe]; exact hp) (by rw [hfe]; exact hw)
  have hsame (x : FeWord) (hx : x.lost = false) : { x with full := false, lost := false } = { x with full := false } := by rw [← hx]
  rw [hfe] at h
  exact hsame (s.feAt w) hl ▸ h

/-! FEQ. -/

/-- The thread after FEQ has read a word's state (R144). -/
def feqCtx (p : BitVec 3) (base lost v : Bool) (a : Word) (c : Ctx) : Ctx :=
  (((c.consume base).consumeAt lost a).setP p.toNat v base).next 4

theorem feq_reads {s : State} {p : BitVec 3} {b : BitVec 5} {f : BitVec 8} {w : Nat} (h : AtWord s (offAddr s.me b f) .load w) :
    exec (.feq p b f) s = .next (s.updMe (feqCtx p (s.me.xp b.toNat) (s.feAt w).lost
      (isWindowWord w || (s.feAt w).full || (s.feAt w).lost) (offAddr s.me b f))) := by
  rw [exec_feq, execFeq]
  simp only [offAddr_eq, bankForm_at (.feq p b f) false h, feRead_at h]
  refine congrArg _ (pairSync_updMe (f := feqCtx p _ _ _ _) ?_ h.quiet.single ..)
  rw [feqCtx, next_serial, setP_serial, consumeAt_serial, consume_serial]

theorem feqCtx_fields (p : BitVec 3) (base lost v : Bool) (a : Word) (c : Ctx) :
    (∀ r, (feqCtx p base lost v a c).p r = if r = 0 then true else if r = p.toNat then v else c.p r) ∧
    (∀ r, (feqCtx p base lost v a c).x r = c.x r ∧ (feqCtx p base lost v a c).xp r = c.xp r) ∧
    (feqCtx p base lost v a c).cir = (if base || lost then c.cir ||| 1 else c.cir) ∧
    (feqCtx p base lost v a c).pc = c.pc + w64 (c.pfx + 4) := by
  have hps : ((c.consume base).consumeAt lost a).ps = c.ps := by rw [consumeAt_ps, consume_ps]
  have hset (x : Ctx) : (x.setP p.toNat v base).xs = x.xs ∧ (x.setP p.toNat v base).xm = x.xm ∧ (x.setP p.toNat v base).cir = x.cir ∧
      (x.setP p.toNat v base).pc = x.pc ∧ (x.setP p.toNat v base).pfx = x.pfx := by
    unfold Ctx.setP
    split <;> exact ⟨rfl, rfl, rfl, rfl, rfl⟩
  obtain ⟨hxs, hxm, hcir, hpc, hpfx⟩ := hset ((c.consume base).consumeAt lost a)
  have hor : c.cir ||| 1#8 ||| 1#8 = c.cir ||| 1#8 := by rw [BitVec.or_assoc, BitVec.or_self]
  refine ⟨fun r => ?_, fun r => ⟨?_, ?_⟩, ?_, ?_⟩
  · rw [feqCtx, p_next, p_setP _ _ _ _ _ p.isLt, p_congr hps]
  · rw [feqCtx, x_next, x_congr hxs, x_consumeAt, x_consume]
  · rw [feqCtx, xp_next, xp_congr hxm, xp_consumeAt, xp_consume]
  · rw [feqCtx, next_cir, hcir]
    cases base <;> cases lost <;> simp [Ctx.consume, Ctx.consumeAt, hor]
  · rw [feqCtx, Ctx.next, hpc, hpfx, consumeAt_pc, consumeAt_pfx, pc_consume, pfx_consume]

/-! STF and FEW. -/

/-- CIR of a store of a register whose mark, or its base's, is `m` (R134). -/
theorem stored_next (c : Ctx) (src base : Bool) : (c.stored base [src || base]).next 4 =
    { c with cir := if src || base then c.cir ||| 5 else c.cir, pc := c.pc + w64 (c.pfx + 4), pfx := 0, rlx := false, held := none } := by
  cases src <;> cases base <;> rfl

/-- The state in which an STF has written its word. -/
def stfWritten (s : State) (t b : BitVec 5) (o : BitVec 2) (sc : BitVec 3) (w : Nat) (a : Word) : State :=
  (afterRelease s (scopeOf o sc)).putWord w (s.me.x t.toNat) (s.me.xp t.toNat || s.me.xp b.toNat) s.me.serial a

theorem stfWritten_writes {s : State} (t b : BitVec 5) (o : BitVec 2) (sc : BitVec 3) {w : Nat} (a : Word) (hb : s.bankTakes w = true) :
    BankWritten (afterRelease s (scopeOf o sc)) (stfWritten s t b o sc w a) (8 * w) (leBytes 8 (s.me.x t.toNat).toNat)
      (s.me.xp t.toNat || s.me.xp b.toNat) :=
  putWord_takes _ _ _ _ ((bankTakes_side (side_afterRelease ..).toSide w).trans hb)

/-- The thread's part of an STF. -/
def stfCtx (t b : BitVec 5) (s : State) (c : Ctx) : Ctx := (c.stored (s.me.xp b.toNat) [c.xp t.toNat || s.me.xp b.toNat]).next 4

/-- The end of an STF, of a word that `u` has written. -/
def stfEnd (t b : BitVec 5) (s u : State) (w : Nat) : Res :=
  .next (((u.updMe (stfCtx t b s)).pairSync (u.updMe (stfCtx t b s)).cur [] [] []).setFull w)

theorem stf_go {s : State} {t b : BitVec 5} {o : BitVec 2} {sc : BitVec 3} {f : BitVec 8} {w : Nat} (h : AtWord s (offAddr s.me b f) .store w)
    (hb : s.bankTakes w = true) : exec (.stf t b o sc f) s =
      if (s.feAt w).full = true ∧ (s.feAt w).lost = false then .next (s.parkFe (.stf t b o sc f) w true false)
      else .next (((stfWritten s t b o sc w (offAddr s.me b f)).updMe (stfCtx t b s)).setFull w) := by
  have hq := h.quiet
  have hside : Side s (stfWritten s t b o sc w (offAddr s.me b f)) :=
    (side_afterRelease s (scopeOf o sc)).toSide.trans (stfWritten_writes t b o sc (offAddr s.me b f) hb).side.toSide
  have hser : (stfCtx t b s (stfWritten s t b o sc w (offAddr s.me b f)).me).serial = (stfWritten s t b o sc w (offAddr s.me b f)).me.serial := by
    rw [stfCtx, stored_next]
  have htr : (stfWritten s t b o sc w (offAddr s.me b f)).trailer (stfWritten s t b o sc w (offAddr s.me b f)).cur = none := by
    rw [hside.cur, hside.trailer]
    exact hq.single
  rw [exec_stf, execStf]
  simp only [offAddr_eq, bankForm_at (.stf t b o sc f) true h, State.afterOwn, afterIf_nil _ _ _ _ hq.whole hq.pend, ite_self, hb, Bool.and_eq_true,
    Bool.not_eq_true', if_true]
  refine if_congr (by rw [true_and]) rfl ?_
  refine (congrArg (fun r : State => stfEnd t b s
    (r.putWord w (s.me.x t.toNat) (s.me.xp t.toNat || s.me.xp b.toNat) s.me.serial (offAddr s.me b f)) w) (release_eq s (scopeOf o sc))).trans ?_
  exact congrArg (fun u : State => (Host.Outcome.next (u.setFull w) : Res)) (pairSync_updMe (f := stfCtx t b s) hser htr [] [] [])

theorem few_empties {s : State} {b : BitVec 5} {f : BitVec 8} {w : Nat} (h : AtWord s (offAddr s.me b f) .store w) (hb : s.bankTakes w = true) :
    exec (.few b f) s = .next ((s.updMe fun c => (c.consume (s.me.xp b.toNat)).next 4).setEmpty w) := by
  rw [exec_few, execFew]
  simp only [offAddr_eq, bankForm_at (.few b f) true h, hb, if_true]
  exact congrArg (fun u : State => (Host.Outcome.next (u.setEmpty w) : Res))
    (pairSync_updMe (f := fun c => (c.consume (s.me.xp b.toNat)).next 4) (serial_consume_next _ _ 4) h.quiet.single [] [] [])

end Sys2Proof.Machine.Laws
end

section
open Sys2Proof Sys2Proof.Machine Sys2Proof.Machine.Laws

/-- Settles O12: each form by the state of its word, with nobody waiting there where it changes. -/
theorem fullEmptyForms : Obligations.FullEmptyForms := by
  unfold Obligations.FullEmptyForms
  refine ⟨fun s t b p o sc f w => ?_, fun s t b o sc f w => ?_⟩
  · intro a base x
    have hdone := ldfDone_takes s w t b o sc f
    have hmem : SameMem s (ldfDone s w (ldfForm s t b o sc f)) := fun k => by rw [ldfDone_mem]
    refine ⟨fun h hf => ⟨_, ldfKeep_takes h hf, hdone, hmem, ldfDone_others _ _ _, ldfDone_fe ..⟩, ldfKeep_parks, fun h hf hl hp hw => ?_,
      fun h hl => ⟨_, ldfTake_lost h hl, hdone, hmem, ldfDone_others _ _ _, ldfDone_fe ..⟩, ldfTake_parks, fun h => ?_⟩
    · have hset := ldfDone_setEmpty (ldfForm s t b o sc f) hl hp hw
      refine ⟨_, ldfTake_empties h hf hl, ?_, fun k => ?_, fun u hu => ?_, hset.at_, fun v hv => ?_⟩
      · exact ldfTakes_of (x := ldfForm s t b o sc f) t.isLt rfl (hset.side.me.trans (ldfDone_me ..))
      · rw [hset.mem, ldfDone_mem]
      · rw [hset.side.ctx]
        exact ldfDone_others _ _ _ u hu
      · rw [hset.others v hv, State.feAt, ldfDone_fe, State.feAt]
    · obtain ⟨hp, hx, hcir, hpc⟩ := feqCtx_fields p base x.lost (isWindowWord w || x.full || x.lost) a s.me
      refine ⟨_, feq_reads h, sameMem_updMe _ _, sameOthers_updMe _ _, rfl, fun r _ => ?_, fun r => ?_, ?_, ?_⟩
      · rw [me_updMe]; exact hp r
      · rw [me_updMe]; exact hx r
      · rw [me_updMe]; exact hcir
      · rw [me_updMe]; exact hpc
  · intro a base x h hbank hwin hb
    refine ⟨fun hno hp hr => ?_, fun hf hl => ?_, fun hp hw => ?_⟩
    · have hwr := stfWritten_writes t b o sc a hb
      have hside := (side_afterRelease s (scopeOf o sc)).trans hwr.side
      have hfe (v : Nat) : ((stfWritten s t b o sc w a).updMe (stfCtx t b s)).feAt v = s.feAt v := hside.feAt v
      have hset := setFull_free (s := (stfWritten s t b o sc w a).updMe (stfCtx t b s)) hbank hwin (by rw [hfe]; exact hp) (by rw [hfe]; exact hr)
      rw [hfe] at hset
      have hgo : ¬((s.feAt w).full = true ∧ (s.feAt w).lost = false) := fun hfl =>
        hno.elim (fun he => Bool.noConfusion (hfl.1.symm.trans he)) fun he => Bool.noConfusion (hfl.2.symm.trans he)
      have hw8 : 8 * w / 8 = w := by omega
      refine ⟨_, (stf_go h hb).trans (if_neg hgo), ?_, ?_, fun u hu => ?_, fun k hk => ?_, hset.at_, fun v hv => (hset.others v hv).trans (hfe v), ?_⟩
      · exact memWord_of_write (s := afterRelease s (scopeOf o sc)) (hset.mem.trans hwr.mem)
      · rw [State.pz, hset.poison]
        refine (hwr.pz w).trans ?_
        rw [hw8, length_leBytes, if_pos rfl, if_pos rfl]
        cases (s.me.xp t.toNat || s.me.xp b.toNat) <;> simp
      · rw [hset.side.ctx, sameOthers_updMe _ _ u (by rw [hside.cur]; exact hu), hside.ctx]
      · rw [hset.mem, updMe_mem, hwr.mem, memGet_memWrite_off (by rw [length_leBytes]; exact hk)]
        rfl
      · rw [hset.side.me, me_updMe, hside.me, stfCtx, stored_next]
    · exact ⟨_, (stf_go h hb).trans (if_pos ⟨hf, hl⟩), parkFe_parks _ w true false h.quiet.single⟩
    · have hfe (v : Nat) : (s.updMe fun c => (c.consume base).next 4).feAt v = s.feAt v := rfl
      have hset := setEmpty_free (s := s.updMe fun c => (c.consume base).next 4) (w := w) (by rw [hfe]; exact hp) (by rw [hfe]; exact hw)
      refine ⟨_, few_empties h hb, fun k => ?_, fun u hu => ?_, hset.at_, hset.others, ?_⟩
      · rw [hset.mem, updMe_mem]
      · rw [hset.side.ctx, sameOthers_updMe s _ u hu]
      · rw [hset.side.me, me_updMe]
        cases base <;> rfl

end

section
/-! Proofs about BANKOP (07 R150), with the rule of a store inside one calm word. -/

namespace Sys2Proof.Machine.Laws

/-- A store inside a word on which nothing waits changes that word alone. -/
theorem bankStore_calm {s : State} {k : Nat} (serial : Word) (b : List Byte) (mark : Bool) (a : Word) (h : calmWord s (k / 8)) :
    BankWritten s (s.bankStore serial k b mark a) k b mark := by
  obtain ⟨hb, hl, hbars, hpark⟩ := h
  obtain ⟨t, ht, hw⟩ := bankWrite_takes b mark hb
  have hfe : t.feAt (k / 8) = s.feAt (k / 8) := hw.side.feAt _
  have hrel : t.releaseBarrier (k / 8) = t := by simp [State.releaseBarrier, hfe, hbars, hpark]
  have heq : s.bankStore serial k b mark a = t := by simp [State.bankStore, ht, hfe, hl, hrel]
  rw [heq]
  exact hw

theorem calmWord_of {s t : State} (h : CacheSide s t) {w : Nat} (hc : calmWord s w) : calmWord t w := by
  rw [calmWord, bankTakes_side h.toSide, h.feAt]
  exact hc

/-! Element operations (R41, R150). -/

/-- The number that a 32-bit element is. -/
def elemInt (sg : Bool) (x : Nat) : Int := if sg then signedField 32 x else x

theorem decode_int (sg : Bool) {x : Nat} (hx : x < 2 ^ 32) :
    ∃ neg m, (Fmt.int sg 32).decode x = .fin neg m 0 ∧ signed neg m = elemInt sg x := by
  have hmod : x % 2 ^ 32 = x := Nat.mod_eq_of_lt hx
  simp only [Fmt.decode, Fmt.int, if_true, hmod]
  cases sg with
  | false => exact ⟨false, x, rfl, rfl⟩
  | true =>
    by_cases hneg : x < 2 ^ 31
    · refine ⟨false, x, by simp [show x < 2147483648 from hneg], ?_⟩
      rw [elemInt, if_pos rfl, signedField, if_pos hneg]
      rfl
    · refine ⟨true, 2 ^ 32 - x, by simp [show 2147483648 ≤ x from not_lt.mp hneg], ?_⟩
      rw [elemInt, if_pos rfl, signedField, if_neg hneg, signed, if_pos rfl]
      omega

theorem decode_lt (sg : Bool) {x y : Nat} (hx : x < 2 ^ 32) (hy : y < 2 ^ 32) :
    ((Fmt.int sg 32).decode x).lt ((Fmt.int sg 32).decode y) = decide (elemInt sg x < elemInt sg y) := by
  obtain ⟨n1, m1, h1, e1⟩ := decode_int sg hx
  obtain ⟨n2, m2, h2, e2⟩ := decode_int sg hy
  simp only [h1, h2, Val.lt, min_self, sub_self, Int.toNat_zero, pow_zero, mul_one, e1, e2]

/-- The larger and the smaller element, in the order of the class. -/
theorem bankElem_max (sg : Bool) (e : Nat) {y s : Nat} (hy : y < 2 ^ 32) (hs : s < 2 ^ 32) :
    elemInt sg (bankElem (.int sg 32) 1 e y s) = max (elemInt sg y) (elemInt sg s) := by
  have h : bankElem (.int sg 32) 1 e y s = if ((Fmt.int sg 32).decode y).lt ((Fmt.int sg 32).decode s) then s else y := rfl
  rw [h, decode_lt sg hy hs]
  by_cases hlt : elemInt sg y < elemInt sg s
  · rw [if_pos (decide_eq_true hlt), max_eq_right hlt.le]
  · rw [if_neg (by simpa using hlt), max_eq_left (not_lt.mp hlt)]
theorem bankElem_min (sg : Bool) (e : Nat) {y s : Nat} (hy : y < 2 ^ 32) (hs : s < 2 ^ 32) :
    elemInt sg (bankElem (.int sg 32) 2 e y s) = min (elemInt sg y) (elemInt sg s) := by
  have h : bankElem (.int sg 32) 2 e y s = if ((Fmt.int sg 32).decode s).lt ((Fmt.int sg 32).decode y) then s else y := rfl
  rw [h, decode_lt sg hs hy]
  by_cases hlt : elemInt sg s < elemInt sg y
  · rw [if_pos (decide_eq_true hlt), min_eq_right hlt.le]
  · rw [if_neg (by simpa using hlt), min_eq_left (not_lt.mp hlt)]

/-! The words of the block, one after another. -/

/-- A BANKOP's fixed parts: the thread's context at its start, the block's address and key, the octet, the operation and its format. -/
structure BankOp where
  c : Ctx
  t : ThreadId
  a : Word
  k : Nat
  o : Nat
  op : Nat
  f : Fmt
  base : Bool

/-- The new value of word `j` of the block, from its old one. -/
def BankOp.val (x : BankOp) (j : Nat) (y : Word) : Word := bankWord x.f x.op (x.c.e 0).toNat y (x.c.x (x.o + j))

/-- One word of the block. -/
def BankOp.step (x : BankOp) (s : State) (j : Nat) : State :=
  let at_ := x.a + w64 (8 * j)
  let r := s.loadLoc x.t (.bank (x.k + 8 * j)) at_ 8 none
  if r.2.2.any id then r.1.updMe fun c => c.consumeAt true at_
  else
    let m := x.base || x.c.xp (x.o + j)
    (r.1.bankStore x.c.serial (x.k + 8 * j) (leBytes 8 (x.val j (w64 (leNat r.2.1))).toNat) m at_).updMe fun c => c.stored x.base [m]

/-- After `j` words of a block of `n` (R150): those hold their results, and nothing else has changed but CIR and PADDR of the thread. -/
structure Opped (x : BankOp) (s t : State) (j : Nat) : Prop where
  cur : t.cur = s.cur
  whole : t.hole = s.hole
  single : t.trailer s.cur = s.trailer s.cur
  fe : t.fe = s.fe
  takes : ∀ w, t.bankTakes w = s.bankTakes w
  retired : t.dev.retired = s.dev.retired
  others : SameOthers s t
  me : t.me = { s.me with cir := t.me.cir, paddr := t.me.paddr }
  sound : KeepsSound s t
  mem : ∀ i, i < x.k ∨ x.k + 8 * j ≤ i → memGet t.mem i = memGet s.mem i
  pz : ∀ i, j ≤ i → t.pz (x.k / 8 + i) = s.pz (x.k / 8 + i)
  words : ∀ i, i < j → memWord t (x.k / 8 + i) =
    if s.pz (x.k / 8 + i) then memWord s (x.k / 8 + i) else x.val i (memWord s (x.k / 8 + i))

theorem Opped.start (x : BankOp) (s : State) : Opped x s s 0 :=
  ⟨rfl, rfl, rfl, rfl, fun _ => rfl, rfl, fun _ _ => rfl, rfl, fun _ h => h, fun _ _ => rfl, fun _ _ => rfl, fun _ h => absurd h (by omega)⟩

/-- A word reads as before where its bytes do. -/
theorem memWord_congr {s t : State} {w : Nat} (h : ∀ i, 8 * w ≤ i → i < 8 * w + 8 → memGet t.mem i = memGet s.mem i) : memWord t w = memWord s w := by
  rw [memWord, memWord, State.rd, State.rd, memRead_congr h]

/-- A thread's CIR and PADDR are marked, and nothing else is changed. -/
theorem Opped.marked {x : BankOp} {s t : State} {j : Nat} (h : Opped x s t j) {f : Ctx → Ctx}
    (hf : f t.me = { t.me with cir := (f t.me).cir, paddr := (f t.me).paddr }) : Opped x s (t.updMe f) j := by
  have hser : (f t.me).serial = t.me.serial := by rw [hf]
  refine ⟨h.cur, h.whole, ?_, h.fe, h.takes, h.retired, fun u hu => ?_, ?_, h.sound, h.mem, h.pz, h.words⟩
  · rw [← h.cur, trailer_updMe hser, h.cur, h.single]
  · rw [sameOthers_updMe t f u (by rw [h.cur]; exact hu), h.others u hu]
  · rw [me_updMe, hf, h.me]

variable {x : BankOp} {s t : State} {j : Nat}

/-- A poisoned word of the block stays as it is. -/
theorem Opped.skip (h : Opped x s t j) (h8 : x.k % 8 = 0) (hp : s.pz (x.k / 8 + j) = true) : Opped x s t (j + 1) where
  cur := h.cur
  whole := h.whole
  single := h.single
  fe := h.fe
  takes := h.takes
  retired := h.retired
  others := h.others
  me := h.me
  sound := h.sound
  mem := fun i hi => h.mem i (by omega)
  pz := fun i hi => h.pz i (by omega)
  words := fun i hi => by
    rcases Nat.lt_succ_iff_lt_or_eq.mp hi with hlt | rfl
    · exact h.words i hlt
    · rw [if_pos hp]
      exact memWord_congr fun b h1 h2 => h.mem b (by omega)

/-- A sound word of the block takes its result. -/
theorem Opped.write (h : Opped x s t j) (h8 : x.k % 8 = 0) (hp : s.pz (x.k / 8 + j) = false) {u : State} {m : Bool}
    (hu : BankWritten t u (x.k + 8 * j) (leBytes 8 (x.val j (memWord s (x.k / 8 + j))).toNat) m) : Opped x s u (j + 1) where
  cur := hu.side.cur.trans h.cur
  whole := hu.side.hole.trans h.whole
  single := (hu.side.trailer _).trans h.single
  fe := hu.side.fe.trans h.fe
  takes := fun w => (bankTakes_side hu.side.toSide w).trans (h.takes w)
  retired := (congrArg (·.retired) hu.side.dev).trans h.retired
  others := fun v hv => (hu.side.ctx v).trans (h.others v hv)
  me := by rw [hu.side.me]; exact h.me
  sound := h.sound.trans hu.sound
  mem := fun i hi => by
    rw [hu.mem, memGet_memWrite_off (by rw [length_leBytes]; omega)]
    exact h.mem i (by omega)
  pz := fun i hi => by
    rw [hu.pz, if_neg (by omega)]
    exact h.pz i (by omega)
  words := fun i hi => by
    rcases Nat.lt_succ_iff_lt_or_eq.mp hi with hlt | rfl
    · rw [← h.words i hlt]
      refine memWord_congr fun b h1 h2 => ?_
      rw [hu.mem, memGet_memWrite_off (by rw [length_leBytes]; omega)]
    · rw [if_neg (by rw [hp]; exact Bool.false_ne_true)]
      refine memWord_of_write (s := t) ?_
      rw [hu.mem, show 8 * (x.k / 8 + i) = x.k + 8 * i by omega]

theorem Opped.step (h : Opped x s t j) (h8 : x.k % 8 = 0)
    (hs : mget 0 s.badWords (x.k / 8 + j) = 0 ∧ bankKey (x.k / 8 + j) ∉ s.dev.retired) (hc : calmWord s (x.k / 8 + j)) :
    Opped x s (x.step t j) (j + 1) := by
  have hk8 : (x.k + 8 * j) % 8 = 0 := by omega
  have hkw : (x.k + 8 * j) / 8 = x.k / 8 + j := by omega
  have hload : t.loadLoc x.t (.bank (x.k + 8 * j)) (x.a + w64 (8 * j)) 8 none = (t, t.rd (x.k + 8 * j) 8, [s.pz (x.k / 8 + j)]) := by
    rw [loadLoc_bank, marksOf_word hk8, hkw, h.pz j le_rfl]
    rw [wordsOf_word hk8, hkw]
    exact fun w hw => List.mem_singleton.mp hw ▸ ⟨h.sound _ hs.1, by rw [h.retired]; exact hs.2⟩
  have hold : w64 (leNat (t.rd (x.k + 8 * j) 8)) = memWord s (x.k / 8 + j) := by
    rw [← memWord_congr (t := t) (s := s) fun b h1 h2 => h.mem b (by omega), memWord, show 8 * (x.k / 8 + j) = x.k + 8 * j by omega]
  unfold BankOp.step
  simp only [hload, hold, List.any_cons, List.any_nil, Bool.or_false, id]
  cases hp : s.pz (x.k / 8 + j) with
  | true => exact (h.skip h8 hp).marked rfl
  | false =>
    have hcalm : calmWord t ((x.k + 8 * j) / 8) := by
      rw [hkw, calmWord, h.takes, State.feAt, h.fe]
      exact hc
    refine (h.write h8 hp (bankStore_calm _ _ _ _ hcalm)).marked ?_
    cases hm : (x.base || x.c.xp (x.o + j)) <;> cases hb : x.base <;> rfl

/-- The words of an aligned block. -/
theorem mem_wordsOf_block {k n j : Nat} (h8 : k % 8 = 0) (hj : j < n) : k / 8 + j ∈ wordsOf k (8 * n) := by
  rw [wordsOf, List.mem_map]
  exact ⟨j, List.mem_range.mpr (by omega), rfl⟩

/-- All the words of the block. -/
theorem opped_block (x : BankOp) {s : State} (h8 : x.k % 8 = 0) (n : Nat)
    (hs : ∀ w ∈ wordsOf x.k (8 * n), mget 0 s.badWords w = 0 ∧ bankKey w ∉ s.dev.retired) (hc : ∀ w ∈ wordsOf x.k (8 * n), calmWord s w) :
    ∀ j, j ≤ n → Opped x s ((List.range j).foldl x.step s) j := by
  intro j
  induction j with
  | zero => exact fun _ => .start x s
  | succ j ih =>
    intro hj
    have hw := mem_wordsOf_block h8 (show j < n by omega)
    rw [List.range_succ, List.foldl_append]
    exact (ih (by omega)).step h8 (hs _ hw) (hc _ hw)

/-- A BANKOP in one of its four forms. -/
theorem exec_bankop {i : Instr} {op o ra cls n : Nat} (h : bankForm i = some (op, o, ra, cls, n)) (s : State) :
    ∃ (q : BitVec 2) (a : BitVec 5) (c : BitVec 4) (m : BitVec 3), exec i s = s.bankop i op q a c m ∧ octet q = o ∧ a.toNat = ra ∧ c.toNat = cls ∧
      m.toNat + 1 = n := by
  unfold bankForm at h
  split at h
  case h_5 => cases h
  all_goals
    next q a c m =>
      cases h
      exact ⟨q, a, c, m, rfl, Nat.mul_comm .., rfl, rfl, rfl⟩

section
variable {i : Instr} {op : Nat} {q : BitVec 2} {a : BitVec 5} {c : BitVec 4} {m : BitVec 3}

theorem bankop_misaligned (h : (s.me.x a.toNat).toNat % 8 ≠ 0 ∨ 64 < (s.me.x a.toNat).toNat % 64 + 8 * (m.toNat + 1)) :
    s.bankop i op q a c m = .next (s.trap 8 1 (s.me.x a.toNat)) := if_pos h

theorem bankop_outside (h8 : (s.me.x a.toNat).toNat % 8 = 0) (h64 : (s.me.x a.toNat).toNat % 64 + 8 * (m.toNat + 1) ≤ 64)
    (hr : (s.me.x a.toNat).toNat / 2 ^ 56 ≠ 0x7E) : s.bankop i op q a c m = .next (s.trap 6 1 (s.me.x a.toNat)) := by
  have hal : ¬((s.me.x a.toNat).toNat % 8 ≠ 0 ∨ 64 < (s.me.x a.toNat).toNat % 64 + 8 * (m.toNat + 1)) := by omega
  simp only [State.bankop, hal, hr, if_false, ne_eq, not_false_eq_true, if_true]

/-- The parts of a BANKOP at a block. -/
def bankOpAt (s : State) (op : Nat) (q : BitVec 2) (a : BitVec 5) (f : Fmt) (k : Nat) : BankOp :=
  ⟨s.me, s.cur, s.me.x a.toNat, k, octet q, op, f, s.me.xp a.toNat || (op == 3 && s.me.ep 0)⟩

theorem bankop_block {f : Fmt} {k : Nat} (h8 : (s.me.x a.toNat).toNat % 8 = 0) (h64 : (s.me.x a.toNat).toNat % 64 + 8 * (m.toNat + 1) ≤ 64)
    (hr : (s.me.x a.toNat).toNat / 2 ^ 56 = 0x7E) (hq : Quiet s) (hf : Fmt.ofClass c.toNat = some f)
    (hk : s.checkAcc s.cur (s.me.x a.toNat) (8 * (m.toNat + 1)) 8 .store = .bank k) :
    s.bankop i op q a c m = .next
      ((((List.range (m.toNat + 1)).foldl (bankOpAt s op q a f k).step s).updMe fun c => c.next 4).pairSync s.cur [] [] []) := by
  have hal : ¬((s.me.x a.toNat).toNat % 8 ≠ 0 ∨ 64 < (s.me.x a.toNat).toNat % 64 + 8 * (m.toNat + 1)) := by omega
  simp only [State.bankop, hal, hr, if_false, ne_eq, not_true_eq_false, access_bank hk, hf, State.ordered, afterIf_nil _ _ _ _ hq.whole hq.pend]
  rfl
end

/-- What a BANKOP at a sound and calm block does. -/
theorem bankop_opped {i : Instr} {op : Nat} {q : BitVec 2} {a : BitVec 5} {c : BitVec 4} {m : BitVec 3} {f : Fmt} {k : Nat}
    (h8 : (s.me.x a.toNat).toNat % 8 = 0) (h64 : (s.me.x a.toNat).toNat % 64 + 8 * (m.toNat + 1) ≤ 64)
    (hr : (s.me.x a.toNat).toNat / 2 ^ 56 = 0x7E) (hq : Quiet s) (hf : Fmt.ofClass c.toNat = some f)
    (hk : s.checkAcc s.cur (s.me.x a.toNat) (8 * (m.toNat + 1)) 8 .store = .bank k) (hk8 : k % 8 = 0)
    (hs : ∀ w ∈ wordsOf k (8 * (m.toNat + 1)), mget 0 s.badWords w = 0 ∧ bankKey w ∉ s.dev.retired)
    (hc : ∀ w ∈ wordsOf k (8 * (m.toNat + 1)), calmWord s w) :
    ∃ u, Opped (bankOpAt s op q a f k) s u (m.toNat + 1) ∧ s.bankop i op q a c m = .next (u.updMe fun c => c.next 4) := by
  have hop := opped_block (bankOpAt s op q a f k) hk8 (m.toNat + 1) hs hc (m.toNat + 1) le_rfl
  refine ⟨_, hop, (bankop_block h8 h64 hr hq hf hk).trans (congrArg _ ?_)⟩
  rw [← hop.cur]
  exact pairSync_updMe (f := fun c => c.next 4) rfl (by rw [hop.cur, hop.single]; exact hq.single) [] [] []

end Sys2Proof.Machine.Laws
end

section
open Sys2Proof Sys2Proof.Machine Sys2Proof.Machine.Laws

/-- Settles O14: the elements by the numbers they are, and the block word by word. -/
theorem bankopResults : Obligations.BankopResults := by
  unfold Obligations.BankopResults
  refine ⟨fun e y s he hy hs => ⟨⟨rfl, rfl⟩, ⟨?_, ?_⟩, bankElem_max true e hy hs, bankElem_min true e hy hs, rfl, rfl⟩,
    fun i op o ra cls n fm s k hi hfm => ?_⟩
  · exact Int.ofNat.inj ((bankElem_max false e hy hs).trans (Nat.cast_max ..).symm)
  · exact Int.ofNat.inj ((bankElem_min false e hy hs).trans (Nat.cast_min ..).symm)
  · intro a
    obtain ⟨q, ra, c, m, he, rfl, rfl, rfl, rfl⟩ := exec_bankop hi s
    rw [he]
    refine ⟨bankop_misaligned, bankop_outside, fun h8 h64 hr hq hk hk8 hs hc => ?_⟩
    obtain ⟨u, hu, hx⟩ := bankop_opped (i := i) (op := op) (q := q) h8 h64 hr hq hfm hk hk8 hs hc
    refine ⟨_, hx, fun v hv => ?_, hu.fe, sameX_of ?_ ?_, ?_, fun b hb => hu.mem b hb, fun j hj => hu.words j hj⟩
    · rw [sameOthers_updMe u _ v (by rw [hu.cur]; exact hv), hu.others v hv]
    · rw [me_updMe, hu.me]; rfl
    · rw [me_updMe, hu.me]; rfl
    · rw [me_updMe, hu.me]; rfl

end

section
/-! Rules about loads and stores: the parts of each form, and where an access stops or is held (07 R134 to R140). -/

namespace Sys2Proof.Machine.Laws

/-! The address region of MMIO (R141). -/

theorem checkAcc_mmio {s : State} {t : ThreadId} {a : Word} {al : Nat} (n : Nat) (k : Acc1) (hr : a.toNat / 2 ^ 56 = 0x7D) (hal : a.toNat % al = 0) :
    ∃ o, s.checkAcc t a n al k = .mmio o := by
  refine ⟨fld a.toNat 0 56, ?_⟩
  simp only [State.checkAcc, hal, ne_eq, not_true_eq_false, if_false, State.locate, hr]
  rfl

theorem mmioForm_false {s : State} {a : Word} {al n : Nat} {k : Acc1} {o : BitVec 2}
    (h : s.me.rlx = true ∨ ∀ p, s.checkAcc s.cur a n al k ≠ .mmio p) : s.mmioForm a al o = false := by
  refine Bool.eq_false_iff.mpr fun hm => ?_
  simp only [State.mmioForm, Bool.and_eq_true, beq_iff_eq, Bool.not_eq_true', decide_eq_true_eq] at hm
  obtain ⟨⟨⟨hr, -⟩, hrlx⟩, hal⟩ := hm
  obtain ⟨p, hp⟩ := checkAcc_mmio (s := s) (t := s.cur) n k hr hal
  exact h.elim (fun ht => Bool.noConfusion (hrlx.symm.trans ht)) fun hno => hno p hp

/-- Of the widths, the doubleword alone reaches a register of region 0x7D. -/
theorem mmioWidth_false {s : State} {a : Word} {k : Acc1} {w o : BitVec 2}
    (h : s.me.rlx = true ∨ ∀ p, s.checkAcc s.cur a (2 ^ w.toNat) (2 ^ w.toNat) k ≠ .mmio p) : (s.mmioForm a 8 o && w == 3) = false := by
  by_cases h3 : w = 3
  · subst h3
    rw [show s.mmioForm a 8 o = false from mmioForm_false (n := 8) (al := 8) (k := k) h, Bool.false_and]
  · rw [beq_false_of_ne h3, Bool.and_false]

/-! The forms. -/

theorem scaled_addr (c : Ctx) (b : BitVec 5) (f : BitVec 8) (n : Nat) :
    c.addr b f n = c.x b.toNat + BitVec.ofInt 64 (signedField 8 f.toNat * n) := by
  rw [Ctx.addr, sx_eq, BitVec.ofInt_mul, BitVec.ofInt_natCast]
theorem width_addr (c : Ctx) (b : BitVec 5) (w : BitVec 2) (f : BitVec 8) :
    c.addr b f (widthOf w) = c.x b.toNat + BitVec.ofInt 64 (signedField 8 f.toNat * 2 ^ w.toNat) := by
  rw [scaled_addr, widthOf, Nat.cast_pow, Nat.cast_ofNat]
theorem compact_addr (c : Ctx) (b o : BitVec 3) : c.addrC b o = c.x (8 + b.toNat) + BitVec.ofInt 64 (signedField 3 o.toNat * 8) := by
  rw [Ctx.addrC, sx_eq, BitVec.ofInt_mul]
  rfl

theorem exec_ld (t b : BitVec 5) (w o : BitVec 2) (sc : BitVec 3) (f : BitVec 8) (s : State) : exec (.ld t b w o sc f) s = execLd t b w o sc f s := rfl
theorem exec_ldq (q : BitVec 2) (b : BitVec 5) (o : BitVec 2) (sc : BitVec 3) (f : BitVec 8) (s : State) :
    exec (.ldq q b o sc f) s = execLdq q b o sc f s := rfl
theorem exec_cLd (t : BitVec 5) (b o : BitVec 3) (s : State) : exec (.cLd t b o) s = execCLd t b o s := rfl
theorem exec_st (t b : BitVec 5) (w o : BitVec 2) (sc : BitVec 3) (f : BitVec 8) (s : State) : exec (.st t b w o sc f) s = execSt t b w o sc f s := rfl
theorem exec_stq (q : BitVec 2) (b : BitVec 5) (o : BitVec 2) (sc : BitVec 3) (f : BitVec 8) (s : State) :
    exec (.stq q b o sc f) s = execStq q b o sc f s := rfl
theorem exec_cSt (t : BitVec 5) (b o : BitVec 3) (s : State) : exec (.cSt t b o) s = execCSt t b o s := rfl

/-- A load in one of its forms, outside region 0x7D. -/
theorem exec_load {i : Instr} {s : State} {f : LoadForm} (h : loadForm i s.me = some f)
    (hm : s.me.rlx = true ∨ ∀ p, s.checkAcc s.cur f.addr f.n f.n .load ≠ .mmio p) :
    exec i s = s.loadInto i f.rt (s.me.xp f.rb) f.addr f.n f.acq f.len := by
  unfold loadForm at h
  split at h
  · next t b w o sc g =>
    cases h
    have hw := mmioWidth_false (o := o) hm
    rw [exec_ld, execLd]
    simp only [width_addr, hw, Bool.false_eq_true, if_false]
    rfl
  · next q b o sc g =>
    cases h
    rw [exec_ldq, execLdq, scaled_addr, octet, Nat.mul_comm]
    rfl
  · next t b o =>
    cases h
    have hf := mmioForm_false (al := 8) (n := 8) (k := .load) (o := 0) hm
    rw [exec_cLd, execCLd]
    simp only [compact_addr, hf, Bool.false_eq_true, if_false]
  · cases h

/-- A store in one of its forms, outside region 0x7D. -/
theorem exec_store {i : Instr} {s : State} {f : StoreForm} (h : storeForm i s.me = some f)
    (hm : s.me.rlx = true ∨ ∀ p, s.checkAcc s.cur f.addr f.data.length f.data.length .store ≠ .mmio p) :
    exec i s = s.storeFrom i f.base f.addr f.data f.marks f.rel f.len := by
  unfold storeForm at h
  split at h
  · next t b w o sc g =>
    cases h
    have hlen : (leBytes (2 ^ w.toNat) (s.me.x t.toNat).toNat).length = 2 ^ w.toNat := length_leBytes ..
    have hw := mmioWidth_false (o := o) (by rwa [hlen] at hm)
    rw [exec_st, execSt]
    simp only [width_addr, hw, Bool.false_eq_true, if_false]
    rfl
  · next q b o sc g =>
    cases h
    have hf : s.mmioForm (s.me.x b.toNat + BitVec.ofInt 64 (signedField 8 g.toNat * 64)) 64 o = false := by
      refine mmioForm_false (n := 64) (al := 64) (k := .store) (o := o) (hm.imp_right fun hno p => ?_)
      have := hno p
      simpa [List.length_flatMap, length_leBytes] using this
    rw [exec_stq, execStq]
    simp only [scaled_addr, Nat.cast_ofNat, hf, Bool.false_eq_true, if_false, Ctx.octetBytes, Ctx.octetMarks, octet, List.map_map, Nat.mul_comm q.toNat 8]
    rfl
  · next t b o =>
    cases h
    have hf := mmioForm_false (al := 8) (n := 8) (k := .store) (o := 0) hm
    rw [exec_cSt, execCSt]
    simp only [compact_addr, hf, Bool.false_eq_true, if_false]
  · cases h

end Sys2Proof.Machine.Laws
end

section
/-! Where loads and stores stop, and accesses in flight (07 R134, R137 to R139; 04 R62). -/

namespace Sys2Proof.Machine.Laws

theorem access_trap {s : State} {a : Word} {n al c d : Nat} {k : Acc1} (i : Instr) (h : s.checkAcc s.cur a n al k = .trap c d) (f : Loc → Res) :
    s.access i a n al k f = .next (s.trap c d a) := by
  simp only [State.access, h]
theorem access_xfault {s : State} {a : Word} {n al : Nat} {k : Acc1} (i : Instr) (h : s.checkAcc s.cur a n al k = .xfault) (f : Loc → Res) :
    s.access i a n al k f = .next (s.parkX i a k) := by
  simp only [State.access, h]
/-- An access that reaches memory goes on at its location. -/
theorem access_key {s : State} {a : Word} {n al : Nat} {k : Acc1} {loc : Loc} (i : Instr) (h : s.checkAcc s.cur a n al k = loc)
    (hk : loc.key.isSome = true) (f : Loc → Res) : s.access i a n al k f = f loc := by
  cases loc with
  | hbm pa => simp only [State.access, h]
  | hostMem q => simp only [State.access, h]
  | bank q => simp only [State.access, h]
  | peer _ _ _ => cases hk
  | mmio _ => cases hk
  | trap _ _ => cases hk
  | xfault => cases hk
  | hole _ => cases hk

theorem isRelaxed_plain {s : State} (h : s.me.rlx = false) (n : Nat) : s.isRelaxed n = false := by simp [State.isRelaxed, h]

/-! A translation fault (R139; 08 R175). -/

theorem side_postFault (s : State) (unit : Nat) (serial : Word) (ctx kind cycle : Nat) (va : Word) :
    CacheSide s (s.postFault unit serial ctx kind cycle va) := by
  unfold State.postFault
  extract_lets g
  refine side_ite (.refl s) ?_
  unfold State.fqWrite
  extract_lets h n
  refine side_ite ⟨side_of ⟨rfl, rfl, rfl, rfl, rfl⟩ rfl, rfl⟩ ?_
  unfold State.msi
  exact ⟨side_of ⟨rfl, rfl, rfl, rfl, rfl⟩ rfl, rfl⟩

/-- The thread of a translation fault waits with its instruction held. -/
theorem parkX_holds {s : State} (i : Instr) (a : Word) (k : Acc1) (ht : s.trailer s.cur = none) :
    SameX s (s.parkX i a k) ∧ (s.parkX i a k).me.pc = s.me.pc ∧ ((s.parkX i a k).me.held.map fun h => (h.instr, h.cause)) = some (i, .xlate a) := by
  unfold State.parkX
  extract_lets t
  have hu := side_postFault s (faultUnit t.core) s.me.serial t.ctx k.code (s.cycleOf t) a
  generalize s.postFault (faultUnit t.core) s.me.serial t.ctx k.code (s.cycleOf t) a = u at hu
  obtain ⟨n, q, l, p, f, he, hf⟩ := park_single (s := u) i (.xlate a) (by rw [hu.cur, hu.trailer]; exact ht)
  have hwait (c : Ctx) : (c.setWait .parked).xs = c.xs ∧ (c.setWait .parked).xm = c.xm ∧ (c.setWait .parked).pc = c.pc := by
    unfold Ctx.setWait
    split <;> exact ⟨rfl, rfl, rfl⟩
  obtain ⟨hxs, hxm, hpc⟩ := hwait s.me
  rw [he]
  refine ⟨sameX_of ?_ ?_, ?_, ?_⟩
  · rw [me_updMe, hf, hu.me]; exact hxs
  · rw [me_updMe, hf, hu.me]; exact hxm
  · rw [me_updMe, hf, hu.me]; exact hpc
  · rw [me_updMe, hf]; rfl

/-! Loads and stores that stop. -/

section
variable {i : Instr} {s : State}

/-- What a load that is not relaxed does at its location. -/
def loadAt (i : Instr) (s : State) (f : LoadForm) (loc : Loc) : Res :=
  s.replied i (loc.farReply s.cur f.addr) fun u => u.ordered i loc.key f.addr f.n (loc.farReply s.cur f.addr) fun u =>
    let r := u.loadLoc s.cur loc f.addr f.n f.acq
    let u := r.1.updMe fun c => ((c.consume (s.me.xp f.rb)).loadRegs f.rt f.n r.2.1 r.2.2 (s.me.xp f.rb) f.addr).next f.len
    let u := match f.acq with | some sc => u.acquire s.cur sc | none => u
    (u.pairSync s.cur ((List.range (if f.n = 64 then 8 else 1)).map (f.rt + ·)) [] []).out

theorem load_plain {f : LoadForm} {loc : Loc} (hrlx : s.me.rlx = false) (h : loadForm i s.me = some f)
    (hl : s.checkAcc s.cur f.addr f.n f.n .load = loc) (hm : ∀ p, loc ≠ .mmio p) :
    exec i s = s.access i f.addr f.n f.n .load (loadAt i s f) := by
  rw [exec_load h (.inr fun p hp => hm p (hl.symm.trans hp)), State.loadInto]
  simp only [isRelaxed_plain hrlx, Bool.false_eq_true, if_false]
  rfl

theorem load_trap {f : LoadForm} {c d : Nat} (hrlx : s.me.rlx = false) (h : loadForm i s.me = some f)
    (hl : s.checkAcc s.cur f.addr f.n f.n .load = .trap c d) : exec i s = .next (s.trap c d f.addr) :=
  (load_plain hrlx h hl fun _ => Loc.noConfusion).trans (access_trap i hl _)

theorem load_xfault {f : LoadForm} (hrlx : s.me.rlx = false) (h : loadForm i s.me = some f)
    (hl : s.checkAcc s.cur f.addr f.n f.n .load = .xfault) : exec i s = .next (s.parkX i f.addr .load) :=
  (load_plain hrlx h hl fun _ => Loc.noConfusion).trans (access_xfault i hl _)

theorem key_notMmio {loc : Loc} (hk : loc.key.isSome = true) (p : Nat) : loc ≠ .mmio p := by
  rintro rfl
  cases hk

/-- A reply that comes later parks the thread. -/
theorem replied_later {b : Bool} {f : State → Res} (hs : s.me.slow = true) (hh : s.me.held = none) :
    s.replied i b f = .next (s.park i (.reply b)) := by
  simp [State.replied, hs, hh]

theorem load_slow {f : LoadForm} {loc : Loc} (hrlx : s.me.rlx = false) (hs : s.me.slow = true) (hh : s.me.held = none)
    (h : loadForm i s.me = some f) (hl : s.checkAcc s.cur f.addr f.n f.n .load = loc) (hk : loc.key.isSome = true) :
    exec i s = .next (s.park i (.reply (loc.farReply s.cur f.addr))) :=
  (load_plain hrlx h hl (key_notMmio hk)).trans ((access_key i hl hk _).trans (by unfold loadAt; exact replied_later hs hh))

/-- What a store that is not relaxed does at its location. -/
def storeAt (i : Instr) (s : State) (f : StoreForm) (loc : Loc) : Res :=
  let now (u : State) : Res :=
    ((((u.updMe fun c => c.stored f.base f.marks).storeLoc s.cur loc f.addr f.data f.marks f.rel).updMe fun c => c.next f.len).pairSync
      s.cur [] [] []).out
  let waits (u : State) : Res :=
    u.replied i false fun u => if f.rel.isSome then u.afterOwn i (.reply false) now else u.ordered i loc.key f.addr f.data.length false now
  match loc with
  | .hbm _ =>
      if s.me.rlx then waits s
      else
        let p : Pend := { load := false, relaxed := false, va := f.addr, len := f.data.length, dest := 0, data := f.data, marks := f.marks
                          key := loc.key, rel := f.rel, ord := 0 }
        let u := if s.me.weak then s else s.drainIf s.cur fun q => q.before p
        (match u.hole with
        | some x => .fault (.noMemory x)
        | none =>
            if u.me.weak || (u.me.pend.any fun q => q.before p) then (u.updMe fun c => c.stored f.base f.marks).launchAcc p f.len else now u)
  | _ => waits s

theorem store_plain {f : StoreForm} {loc : Loc} (hrlx : s.me.rlx = false) (h : storeForm i s.me = some f)
    (hl : s.checkAcc s.cur f.addr f.data.length f.data.length .store = loc) (hm : ∀ p, loc ≠ .mmio p) :
    exec i s = s.access i f.addr f.data.length f.data.length .store (storeAt i s f) := by
  rw [exec_store h (.inr fun p hp => hm p (hl.symm.trans hp)), State.storeFrom]
  simp only [isRelaxed_plain hrlx, Bool.false_eq_true, if_false]
  rfl

theorem store_trap {f : StoreForm} {c d : Nat} (hrlx : s.me.rlx = false) (h : storeForm i s.me = some f)
    (hl : s.checkAcc s.cur f.addr f.data.length f.data.length .store = .trap c d) : exec i s = .next (s.trap c d f.addr) :=
  (store_plain hrlx h hl fun _ => Loc.noConfusion).trans (access_trap i hl _)

theorem store_xfault {f : StoreForm} (hrlx : s.me.rlx = false) (h : storeForm i s.me = some f)
    (hl : s.checkAcc s.cur f.addr f.data.length f.data.length .store = .xfault) : exec i s = .next (s.parkX i f.addr .store) :=
  (store_plain hrlx h hl fun _ => Loc.noConfusion).trans (access_xfault i hl _)

theorem store_slow {f : StoreForm} {loc : Loc} (hrlx : s.me.rlx = false) (hs : s.me.slow = true) (hh : s.me.held = none)
    (h : storeForm i s.me = some f) (hl : s.checkAcc s.cur f.addr f.data.length f.data.length .store = loc) (hk : ∃ k, loc = .bank k ∨ loc = .hostMem k) :
    exec i s = .next (s.park i (.reply false)) := by
  obtain ⟨k, rfl | rfl⟩ := hk
  · exact (store_plain hrlx h hl fun _ => Loc.noConfusion).trans ((access_key i hl rfl _).trans (by unfold storeAt; exact replied_later hs hh))
  · exact (store_plain hrlx h hl fun _ => Loc.noConfusion).trans ((access_key i hl rfl _).trans (by unfold storeAt; exact replied_later hs hh))

/-! Accesses in flight. -/

/-- The thread goes on with an access in flight behind the others. -/
def flightCtx (g : Ctx → Ctx) (p : Pend) (n : Nat) (c : Ctx) : Ctx := { (g c).next n with pend := (g c).pend ++ [p] }

theorem launchAcc_eq (g : Ctx → Ctx) (p : Pend) (n : Nat) (hg : (g s.me).serial = s.me.serial) (ht : s.trailer s.cur = none) :
    (s.updMe g).launchAcc p n =
      .next (({ s with nextOrder := s.nextOrder + 1 } : State).updMe (flightCtx g { p with ord := s.nextOrder } n)) := by
  have hu : ((s.updMe g).fresh.2.updMe fun c => { c.next n with pend := c.pend ++ [{ p with ord := (s.updMe g).fresh.1 }] }) =
      ({ s with nextOrder := s.nextOrder + 1 } : State).updMe (flightCtx g { p with ord := s.nextOrder } n) :=
    updMe_updMe { s with nextOrder := s.nextOrder + 1 } g fun c => { c.next n with pend := c.pend ++ [{ p with ord := s.nextOrder }] }
  have htr : ({ s with nextOrder := s.nextOrder + 1 } : State).trailer s.cur = none := ht
  unfold State.launchAcc
  simp only [hu]
  exact congrArg _ (pairSync_updMe (s := { s with nextOrder := s.nextOrder + 1 }) (f := flightCtx g { p with ord := s.nextOrder } n) hg htr [] [] [])

theorem flightCtx_eq {g : Ctx → Ctx} {c : Ctx} {cir : BitVec 8} (hg : g c = { c with cir := cir }) (p : Pend) (n : Nat) :
    flightCtx g p n c = { c with pend := c.pend ++ [p], cir := cir, pc := c.pc + w64 (c.pfx + n), pfx := 0, rlx := false, held := none } := by
  rw [flightCtx, hg]
  rfl

theorem consume_eq (c : Ctx) (m : Bool) : c.consume m = { c with cir := if m then c.cir ||| 1 else c.cir } := by cases m <;> rfl

/-- The mark of a store's base is among those of its words. -/
theorem storeForm_base {f : StoreForm} {c : Ctx} (h : storeForm i c = some f) (hm : f.marks.any id = false) : f.base = false := by
  unfold storeForm at h
  split at h
  · cases h
    exact (Bool.or_eq_false_iff.mp (by simpa using hm)).2
  · cases h
    exact (Bool.or_eq_false_iff.mp (by simpa using List.any_eq_false.mp hm _ (List.mem_map.mpr ⟨0, by decide, rfl⟩))).2
  · cases h
    exact (Bool.or_eq_false_iff.mp (by simpa using hm)).2
  · cases h

theorem stored_eq {c : Ctx} {base : Bool} {marks : List Bool} (h : marks.any id = false → base = false) :
    c.stored base marks = { c with cir := if marks.any id then c.cir ||| 5 else c.cir } := by
  unfold Ctx.stored
  cases hm : marks.any id with
  | true => rfl
  | false => rw [h hm]; rfl

/-- A store in flight, and a relaxed load. -/
def storePend (f : StoreForm) (relaxed : Bool) (key : Option Nat) (ord : Nat) : Pend :=
  { load := false, relaxed := relaxed, va := f.addr, len := f.data.length, dest := 0, data := f.data, marks := f.marks, key := key, rel := f.rel, ord := ord }
def loadPend (s : State) (f : LoadForm) (key : Option Nat) (ord : Nat) : Pend :=
  { load := true, relaxed := true, va := f.addr, len := f.n, dest := f.rt, data := [], marks := [s.me.xp f.rb], key := key, rel := none, ord := ord }

/-- A posted store that stays in flight (R137). -/
theorem store_posted {f : StoreForm} {pa : Nat} (hrlx : s.me.rlx = false) (ht : s.trailer s.cur = none) (hh : s.hole = none)
    (hw : s.me.weak = true) (h : storeForm i s.me = some f) (hl : s.checkAcc s.cur f.addr f.data.length f.data.length .store = .hbm pa) :
    exec i s = .next (({ s with nextOrder := s.nextOrder + 1 } : State).updMe (flightCtx (fun c => c.stored f.base f.marks)
      (storePend f false (some pa) s.nextOrder) f.len)) := by
  have hser : (s.me.stored f.base f.marks).serial = s.me.serial := by rw [stored_eq (storeForm_base h)]
  have hgo : storeAt i s f (.hbm pa) = (s.updMe fun c => c.stored f.base f.marks).launchAcc (storePend f false (some pa) 0) f.len := by
    unfold storeAt
    simp only [hrlx, hw, hh, Bool.false_eq_true, if_false, if_true, Bool.true_or]
    rfl
  exact (store_plain hrlx h hl fun _ => Loc.noConfusion).trans
    ((access_key i hl rfl _).trans (hgo.trans (launchAcc_eq (fun c => c.stored f.base f.marks) _ _ hser ht)))

theorem isRelaxed_rlx (n : Nat) (hrlx : s.me.rlx = true) (h8 : s.me.relaxed < 8) (ht : s.trailer s.cur = none) : s.isRelaxed n = true := by
  simp [State.isRelaxed, hrlx, h8, ht]

/-- A relaxed access to memory that the schedule leaves in flight (R138). -/
theorem relaxedAcc_weak {p : Pend} {al n : Nat} {g : Ctx → Ctx} {loc : Loc} (hw : s.me.weak = true) (ht : s.trailer s.cur = none)
    (hg : (g s.me).serial = s.me.serial ∧ (g s.me).weak = s.me.weak)
    (hl : s.checkAcc s.cur p.va p.len al (if p.load then .load else .store) = loc) (hk : loc.key.isSome = true) :
    s.relaxedAcc p al n g =
      .next (({ s with nextOrder := s.nextOrder + 1 } : State).updMe (flightCtx g { p with key := loc.key, ord := s.nextOrder } n)) := by
  have hweak : (s.updMe g).me.weak = true := by rw [me_updMe, hg.2, hw]
  have hgo : s.relaxedAcc p al n g = (s.updMe g).launchAcc { p with key := loc.key } n := by
    unfold State.relaxedAcc
    simp only [hl]
    cases loc with
    | hbm pa => simp only [hweak, Bool.true_or, if_true]
    | hostMem q => simp only [hweak, Bool.true_or, if_true]
    | bank q => simp only [hweak, Bool.true_or, if_true]
    | peer _ _ _ => cases hk
    | mmio _ => cases hk
    | trap _ _ => cases hk
    | xfault => cases hk
    | hole _ => cases hk
  exact hgo.trans (launchAcc_eq g { p with key := loc.key } n hg.1 ht)

theorem load_relaxed {f : LoadForm} {loc : Loc} (hrlx : s.me.rlx = true) (hw : s.me.weak = true) (h8 : s.me.relaxed < 8) (ht : s.trailer s.cur = none)
    (h : loadForm i s.me = some f) (hl : s.checkAcc s.cur f.addr f.n f.n .load = loc) (hk : loc.key.isSome = true) :
    exec i s = .next (({ s with nextOrder := s.nextOrder + 1 } : State).updMe (flightCtx (fun c => c.consume (s.me.xp f.rb))
      (loadPend s f loc.key s.nextOrder) f.len)) := by
  rw [exec_load h (.inl hrlx), State.loadInto, if_pos (isRelaxed_rlx _ hrlx h8 ht)]
  exact relaxedAcc_weak hw ht ⟨consume_serial .., consume_weak ..⟩ hl hk

theorem store_relaxed {f : StoreForm} {loc : Loc} (hrlx : s.me.rlx = true) (hw : s.me.weak = true) (h8 : s.me.relaxed < 8)
    (ht : s.trailer s.cur = none) (h : storeForm i s.me = some f) (hl : s.checkAcc s.cur f.addr f.data.length f.data.length .store = loc)
    (hk : loc.key.isSome = true) :
    exec i s = .next (({ s with nextOrder := s.nextOrder + 1 } : State).updMe (flightCtx (fun c => c.stored f.base f.marks)
      (storePend f true loc.key s.nextOrder) f.len)) := by
  have hst := stored_eq (c := s.me) (storeForm_base h)
  rw [exec_store h (.inl hrlx), State.storeFrom]
  simp only [isRelaxed_rlx 0 hrlx h8 ht, if_true]
  exact relaxedAcc_weak hw ht ⟨by rw [hst], by rw [hst]⟩ hl hk

end

end Sys2Proof.Machine.Laws
end

section
open Sys2Proof Sys2Proof.Machine Sys2Proof.Machine.Laws

/-- Settles O11: what stops an access, what parks its thread, and what stays in flight. -/
theorem stopsAndRelaxed : Obligations.StopsAndRelaxed := by
  unfold Obligations.StopsAndRelaxed
  refine ⟨fun i s c d hq => ⟨fun f => load_trap hq.rlx, fun f => store_trap hq.rlx, fun f h hl => ?_, fun f h hl => ?_⟩,
    fun i s f loc hrlx hs hh ht h hl hk => ?_, fun i s f loc hrlx hh ht hhole h hl => ⟨fun hs hk => ?_, fun hw pa hpa => ?_⟩,
    fun i s loc hrlx hw h8 ht hk => ⟨fun f h _ hl => ?_, fun f h _ hl => ?_⟩⟩
  · exact ⟨_, load_xfault hq.rlx h hl, parkX_holds i f.addr .load hq.single⟩
  · exact ⟨_, store_xfault hq.rlx h hl, parkX_holds i f.addr .store hq.single⟩
  · refine ⟨_, _, load_slow hrlx hs hh h hl hk, park_parks i _ ht, ?_⟩
    cases loc with
    | bank k => simp [Loc.farReply]
    | hbm pa => simp [Loc.farReply]
    | hostMem k => simp [Loc.farReply]
    | _ => cases hk
  · exact ⟨_, store_slow hrlx hs hh h hl hk, park_parks i _ ht⟩
  · subst hpa
    refine ⟨_, storePend f false (some pa) s.nextOrder, store_posted hrlx ht hhole hw h hl, onlyMe_updMe .., sameMem_updMe _ _, rfl, rfl, rfl, rfl, rfl, rfl, ?_⟩
    rw [me_updMe]
    exact flightCtx_eq (stored_eq (storeForm_base h)) _ _
  · refine ⟨_, loadPend s f loc.key s.nextOrder, load_relaxed hrlx hw h8 ht h hl hk, onlyMe_updMe .., sameMem_updMe _ _, rfl, rfl, rfl, rfl, rfl, ?_⟩
    rw [me_updMe]
    exact flightCtx_eq (consume_eq ..) _ _
  · refine ⟨_, storePend f true loc.key s.nextOrder, store_relaxed hrlx hw h8 ht h hl hk, onlyMe_updMe .., sameMem_updMe _ _, rfl, rfl, rfl, rfl, rfl, ?_⟩
    rw [me_updMe]
    exact flightCtx_eq (stored_eq (storeForm_base h)) _ _

end

section
/-! Proofs about write-backs byte by byte, FENCE, and the register region 0x7D (07 R141, R151; 08 R184, R191). -/

namespace Sys2Proof.Machine.Laws

theorem exec_fence (sc : BitVec 3) (s : State) : exec (.fence sc) s = execFence sc s := rfl

/-! One line written back. -/

theorem foldl_keeps {α β : Type} (g : State → β) {f : State → α → State} (h : ∀ s a, g (f s a) = g s) (l : List α) :
    ∀ s, g (l.foldl f s) = g s := by
  induction l with
  | nil => exact fun _ => rfl
  | cons a l ih => exact fun s => (ih _).trans (h s a)

/-- One byte of a line written back; the last byte of each word settles its poison. -/
def wbByte (l : CLine) (line : Nat) (s : State) (i : Nat) : State :=
  if bit l.dirty i then
    let s := (s.dual (line * 64 + i)).foldl (fun s a => s.wr a [l.data.getD i 0]) s
    if i % 8 = 7 ∨ !(List.range (7 - i % 8)).any (fun j => bit l.dirty (i + 1 + j)) then
      if bit l.poison (i / 8) then (s.dual (line * 64 + i)).foldl (fun s a => s.setPz (a / 8) true) s
      else if fld l.dirty.toNat (8 * (i / 8)) 8 = 255 then (s.dual (line * 64 + i)).foldl (fun s a => s.setPz (a / 8) false) s
      else s
    else s
  else s

/-- A line whose dirty bytes have been sent, and one whose dirty bytes no route takes to their stack. -/
def sentLine (l : CLine) : CLine := { l with dirty := 0, writers := [] }
def lostLine (l : CLine) : CLine := { l with dirty := 0, writers := [], valid := l.valid &&& ~~~l.dirty }

/-- The report that a launch gets of lost bytes. -/
def lostReport (cl : Nat) (s : State) (serial : Word) : State :=
  s.report serial { cls := 12, detail := 2, engine := 10, ctx := 0x1F, unit := unitDie (cl / 64), addr := 0 }
def lostReports (s : State) (cl : Nat) (l : CLine) : State :=
  (((l.writers.filter fun w => w.mask &&& l.dirty != 0).map (·.serial)).eraseDups).foldl (lostReport cl) s

theorem writeBack_eq (s : State) (cl line : Nat) : s.writeBack cl line =
    if (mget .empty (s.cluster cl).lines line).dirty = 0 then s
    else if (!s.routed (cl / 64) (line * 64 / 2 ^ 36)) = true then
      ((lostReports s cl (mget .empty (s.cluster cl).lines line)).updCluster cl fun c =>
        { c with lines := mset c.lines line (lostLine (mget .empty (s.cluster cl).lines line)) }).migsOver
    else
      (((List.range 64).foldl (wbByte (mget .empty (s.cluster cl).lines line) line) s).updCluster cl fun c =>
        { c with lines := mset c.lines line (sentLine (mget .empty (s.cluster cl).lines line)) }).migsOver := rfl

theorem lostReports_keeps {β : Type} (g : State → β) (hr : ∀ s r x, g (s.report r x) = g s) (s : State) (cl : Nat) (l : CLine) :
    g (lostReports s cl l) = g s := foldl_keeps g (fun s r => hr s r _) _ s

theorem wbByte_keeps {β : Type} (g : State → β) (hw : ∀ s k b, g (s.wr k b) = g s) (hp : ∀ s w b, g (s.setPz w b) = g s) (l : CLine) (line : Nat)
    (s : State) (i : Nat) : g (wbByte l line s i) = g s := by
  unfold wbByte
  extract_lets u
  have hu : g u = g s := foldl_keeps g (fun s a => hw s a _) _ s
  split
  · split
    · split
      · exact (foldl_keeps g (fun s a => hp s _ _) _ u).trans hu
      · split
        · exact (foldl_keeps g (fun s a => hp s _ _) _ u).trans hu
        · exact hu
    · exact hu
  · rfl

theorem wbByte_clusters (l : CLine) (line : Nat) (s : State) (i : Nat) : (wbByte l line s i).clusters = s.clusters :=
  wbByte_keeps State.clusters (fun _ _ _ => rfl) (fun _ _ _ => setPz_clusters ..) l line s i
theorem wbByte_migs (l : CLine) (line : Nat) (s : State) (i : Nat) : (wbByte l line s i).migs = s.migs :=
  wbByte_keeps State.migs (fun _ _ _ => rfl) (fun _ _ _ => setPz_migs ..) l line s i

theorem wbByte_mem {l : CLine} {line : Nat} {s : State} {i : Nat} (hm : s.migs = []) :
    (wbByte l line s i).mem = if bit l.dirty i = true then memWrite s.mem (line * 64 + i) [l.data.getD i 0] else s.mem := by
  unfold wbByte
  split
  · rw [dual_plain _ hm, List.foldl_cons, List.foldl_nil]
    extract_lets u
    have hpz (b : Bool) : ((u.dual (line * 64 + i)).foldl (fun s a => s.setPz (a / 8) b) u).mem = u.mem :=
      foldl_keeps State.mem (fun s a => setPz_mem ..) _ u
    split
    · split
      · exact hpz true
      · split
        · exact hpz false
        · rfl
    · rfl
  · rfl

/-- The bytes of a line up to the `m`-th written back. -/
theorem wbBytes_mem (l : CLine) (line : Nat) {s : State} (hm : s.migs = []) (m : Nat) :
    ((List.range m).foldl (wbByte l line) s).migs = [] ∧ ∀ a, memGet ((List.range m).foldl (wbByte l line) s).mem a =
      if line * 64 ≤ a ∧ a < line * 64 + m ∧ bit l.dirty (a - line * 64) = true then l.data.getD (a - line * 64) 0 else memGet s.mem a := by
  induction m with
  | zero => exact ⟨hm, fun a => by rw [if_neg (by omega)]; rfl⟩
  | succ m ih =>
    obtain ⟨hmig, hmem⟩ := ih
    rw [List.range_succ, List.foldl_append, List.foldl_cons, List.foldl_nil]
    refine ⟨(wbByte_migs ..).trans hmig, fun a => ?_⟩
    rw [wbByte_mem hmig]
    by_cases ha : a = line * 64 + m
    · subst ha
      by_cases hd : bit l.dirty m = true
      · rw [if_pos hd, memGet_memWrite, if_pos (by simp), if_pos (by simpa using hd)]
        simp
      · rw [if_neg hd, hmem, if_neg (by omega), if_neg (by simpa using hd)]
    · have hout : memGet (if bit l.dirty m = true then memWrite ((List.range m).foldl (wbByte l line) s).mem (line * 64 + m) [l.data.getD m 0]
          else ((List.range m).foldl (wbByte l line) s).mem) a = memGet ((List.range m).foldl (wbByte l line) s).mem a := by
        split
        · exact memGet_memWrite_off (by rw [List.length_singleton]; omega)
        · rfl
      rw [hout, hmem]
      refine if_congr (and_congr_right fun _ => and_congr_left fun _ => ?_) rfl rfl
      omega

theorem cluster_migsOver (s : State) (n : Nat) : s.migsOver.cluster n = s.cluster n := by rw [State.cluster, migsOver_clusters, State.cluster]

/-- The lines of a cluster after one of them has been written back: that one is clean. -/
theorem writeBack_lines (s : State) (cl line : Nat) :
    ∃ x : CLine, x.dirty = 0 ∧ x.data = (mget .empty (s.cluster cl).lines line).data ∧ ((s.writeBack cl line).cluster cl).lines =
      if (mget .empty (s.cluster cl).lines line).dirty = 0 then (s.cluster cl).lines else mset (s.cluster cl).lines line x := by
  rw [writeBack_eq]
  split
  · exact ⟨{ mget .empty (s.cluster cl).lines line with dirty := 0 }, rfl, rfl, rfl⟩
  · split
    · refine ⟨lostLine (mget .empty (s.cluster cl).lines line), rfl, rfl, ?_⟩
      rw [cluster_migsOver, cluster_updCluster, State.cluster, lostReports_keeps State.clusters fun _ _ _ => rfl]
      rfl
    · refine ⟨sentLine (mget .empty (s.cluster cl).lines line), rfl, rfl, ?_⟩
      rw [cluster_migsOver, cluster_updCluster, State.cluster, foldl_keeps State.clusters (wbByte_clusters _ line)]
      rfl

theorem migsOver_none {s : State} (h : s.migs = []) : s.migsOver = s := by simp [State.migsOver, h]

theorem migsOver_updCluster {u : State} {n : Nat} {f : Cluster → Cluster} (h : u.migs = []) : (u.updCluster n f).migsOver = u.updCluster n f :=
  migsOver_none h

/-- Memory after one line has been written back, with no page in migration: its dirty bytes, where a route takes them to their stack. -/
theorem writeBack_mem {s : State} {cl line : Nat} (hm : s.migs = []) :
    (s.writeBack cl line).migs = [] ∧ ∀ a, memGet (s.writeBack cl line).mem a =
      if s.routed (cl / 64) (line * 64 / 2 ^ 36) = true ∧ line * 64 ≤ a ∧ a < line * 64 + 64 ∧
        bit (mget .empty (s.cluster cl).lines line).dirty (a - line * 64) = true
      then (mget .empty (s.cluster cl).lines line).data.getD (a - line * 64) 0 else memGet s.mem a := by
  rw [writeBack_eq]
  split
  · next hd =>
    refine ⟨hm, fun a => (if_neg ?_).symm⟩
    rintro ⟨-, -, -, hb⟩
    rw [hd] at hb
    simp [bit] at hb
  · split
    · next hr =>
      have hlm : (lostReports s cl (mget .empty (s.cluster cl).lines line)).migs = [] :=
        (lostReports_keeps State.migs (fun _ _ _ => rfl) ..).trans hm
      have hlmem : (lostReports s cl (mget .empty (s.cluster cl).lines line)).mem = s.mem :=
        lostReports_keeps State.mem (fun _ _ _ => rfl) ..
      rw [migsOver_updCluster hlm]
      refine ⟨hlm, fun a => ?_⟩
      rw [if_neg (by rintro ⟨hroute, -⟩; rw [hroute] at hr; cases hr)]
      exact congrArg (memGet · a) hlmem
    · next hr =>
      obtain ⟨hbm, hbmem⟩ := wbBytes_mem (mget .empty (s.cluster cl).lines line) line hm 64
      have hroute : s.routed (cl / 64) (line * 64 / 2 ^ 36) = true := by simpa using hr
      rw [migsOver_updCluster hbm]
      refine ⟨hbm, fun a => (hbmem a).trans ?_⟩
      simp only [hroute, true_and]

/-! Several lines written back. -/

/-- A line of a cluster's cache. -/
def lineAt (s : State) (cl n : Nat) : CLine := mget .empty (s.cluster cl).lines n

theorem lineAt_writeBack (s : State) (cl line m : Nat) :
    (m = line → (lineAt (s.writeBack cl line) cl m).dirty = 0) ∧ (m ≠ line → lineAt (s.writeBack cl line) cl m = lineAt s cl m) := by
  obtain ⟨x, hx, -, hl⟩ := writeBack_lines s cl line
  rw [lineAt, hl, lineAt]
  refine ⟨?_, fun hne => ?_⟩
  · rintro rfl
    split
    · next hd => exact hd
    · rw [mget_mset_self, hx]
  · split
    · rfl
    · exact mget_mset_ne _ _ _ hne

/-- What a line's write-back leaves in memory at one of its bytes. -/
def backByte (s : State) (cl m j : Nat) : Byte :=
  if s.routed (cl / 64) (m * 64 / 2 ^ 36) = true ∧ bit (lineAt s cl m).dirty j = true then (lineAt s cl m).data.getD j 0
  else memGet s.mem (m * 64 + j)

theorem writeBack_byte {s : State} {cl line : Nat} (hm : s.migs = []) (m : Nat) {j : Nat} (hj : j < 64) :
    memGet (s.writeBack cl line).mem (m * 64 + j) = if m = line then backByte s cl m j else memGet s.mem (m * 64 + j) := by
  rw [(writeBack_mem hm).2]
  by_cases he : m = line
  · subst he
    have hin : m * 64 ≤ m * 64 + j ∧ m * 64 + j < m * 64 + 64 := by omega
    simp only [backByte, lineAt, if_true, Nat.add_sub_cancel_left, hin.1, hin.2, true_and]
    rfl
  · rw [if_neg (by omega), if_neg he]

theorem routed_side {s t : State} (h : Side s t) (a b : Nat) : t.routed a b = s.routed a b := by
  have hl (d k : Nat) : t.linkUp d k = s.linkUp d k := by rw [State.linkUp, State.linkUp, h.dev]
  have hr (n : Nat) : ∀ l, t.reach n l = s.reach n l := by
    induction n with
    | zero => exact fun _ => rfl
    | succ n ih => exact fun l => by simp only [State.reach, hl, ih]
  rw [State.routed, State.routed, hr]

/-- Lines of a list written back one after another. -/
theorem writeBacks (cl : Nat) (l : List Nat) : ∀ s : State, s.migs = [] →
    (∀ m, (m ∈ l → (lineAt (l.foldl (fun s n => s.writeBack cl n) s) cl m).dirty = 0) ∧
      (m ∉ l → lineAt (l.foldl (fun s n => s.writeBack cl n) s) cl m = lineAt s cl m)) ∧
    ∀ m j, j < 64 → memGet (l.foldl (fun s n => s.writeBack cl n) s).mem (m * 64 + j) =
      if m ∈ l then backByte s cl m j else memGet s.mem (m * 64 + j) := by
  induction l with
  | nil => exact fun s _ => ⟨fun m => ⟨fun h => absurd h List.not_mem_nil, fun _ => rfl⟩, fun m j _ => by rw [if_neg List.not_mem_nil]; rfl⟩
  | cons n l ih =>
    intro s hm
    obtain ⟨hline, hmem⟩ := ih (s.writeBack cl n) (writeBack_mem hm).1
    have hone := lineAt_writeBack s cl n
    refine ⟨fun m => ⟨fun h => ?_, fun h => ?_⟩, fun m j hj => ?_⟩
    · by_cases hml : m ∈ l
      · exact (hline m).1 hml
      · rw [List.foldl_cons, (hline m).2 hml]
        exact (hone m).1 ((List.mem_cons.mp h).resolve_right hml)
    · rw [List.mem_cons, not_or] at h
      rw [List.foldl_cons, (hline m).2 h.2, (hone m).2 h.1]
    · rw [List.foldl_cons, hmem m j hj, writeBack_byte hm m hj]
      by_cases hmn : m = n
      · subst hmn
        have hclean : bit (lineAt (s.writeBack cl m) cl m).dirty j = false := by
          rw [(hone m).1 rfl]
          simp [bit]
        have hback : backByte (s.writeBack cl m) cl m j = backByte s cl m j := by
          rw [backByte, hclean, if_neg (by rintro ⟨-, hb⟩; cases hb), writeBack_byte hm m hj, if_pos rfl]
        rw [hback, if_pos rfl, if_pos (List.mem_cons_self ..), ite_self]
      · have hback : backByte (s.writeBack cl n) cl m j = backByte s cl m j := by
          rw [backByte, backByte, (hone m).2 hmn, routed_side (side_writeBack ..).toSide, writeBack_byte hm m hj, if_neg hmn]
        simp only [hback, List.mem_cons, hmn, false_or, if_false]

/-! Maps with rising keys. -/

theorem keys_mset_of_mem {α : Type} {m : SMap α} {k : Nat} (hs : (m.map (·.1)).Pairwise (· < ·)) (hk : k ∈ m.map (·.1)) (v : α) :
    (mset m k v).map (·.1) = m.map (·.1) := by
  induction m with
  | nil => cases hk
  | cons x t ih =>
    obtain ⟨a, w⟩ := x
    rw [List.map_cons, List.pairwise_cons] at hs
    rw [List.map_cons, List.mem_cons] at hk
    simp only [mset]
    split
    · next hlt =>
      rcases hk with rfl | hk
      · exact absurd hlt (lt_irrefl _)
      · exact absurd (hs.1 k hk) (by omega)
    · split
      · next he => rw [List.map_cons, List.map_cons, he]
      · next hne =>
        rw [List.map_cons, List.map_cons, ih hs.2 (hk.resolve_left fun he => hne he.symm)]

theorem mget_of_mem {α : Type} {m : SMap α} (hs : (m.map (·.1)).Pairwise (· < ·)) {x : Nat × α} (hx : x ∈ m) (d : α) : mget d m x.1 = x.2 := by
  induction m with
  | nil => cases hx
  | cons y t ih =>
    rw [List.map_cons, List.pairwise_cons] at hs
    rcases List.mem_cons.mp hx with rfl | hx
    · simp [mget]
    · have hlt := hs.1 x.1 (List.mem_map.mpr ⟨x, hx, rfl⟩)
      simp only [mget, if_neg (show ¬y.1 = x.1 by omega), ih hs.2 hx]

/-- Write-backs of listed lines keep which lines are listed. -/
theorem keys_writeBacks (cl : Nat) (l : List Nat) : ∀ s : State, sortedLines s cl → (∀ n ∈ l, n ∈ (s.cluster cl).lines.map (·.1)) →
    ((l.foldl (fun s n => s.writeBack cl n) s).cluster cl).lines.map (·.1) = (s.cluster cl).lines.map (·.1) := by
  induction l with
  | nil => exact fun _ _ _ => rfl
  | cons n l ih =>
    intro s hs hl
    have hkeys : ((s.writeBack cl n).cluster cl).lines.map (·.1) = (s.cluster cl).lines.map (·.1) := by
      obtain ⟨x, -, -, hx⟩ := writeBack_lines s cl n
      rw [hx]
      split
      · rfl
      · exact keys_mset_of_mem hs (hl n (List.mem_cons_self ..)) x
    rw [List.foldl_cons, ih (s.writeBack cl n) (by rw [sortedLines, hkeys]; exact hs) fun k hk => hkeys ▸ hl k (List.mem_cons_of_mem _ hk), hkeys]

/-- After a release and an acquire at tier or wider the cluster's cache holds nothing. -/
theorem fenced_lines {s : State} {cl : Nat} (hs : sortedLines s cl) (hm : s.migs = []) : (((s.writeBackAll cl).dropClean cl).cluster cl).lines = [] := by
  have hkeys : ((s.writeBackAll cl).cluster cl).lines.map (·.1) = (s.cluster cl).lines.map (·.1) :=
    keys_writeBacks cl ((s.cluster cl).lines.map Prod.fst) s hs fun _ h => h
  obtain ⟨hline, -⟩ := writeBacks cl ((s.cluster cl).lines.map (·.1)) s hm
  rw [State.dropClean, cluster_updCluster]
  refine List.filterMap_eq_nil_iff.mpr fun x hx => if_pos ?_
  have hmem : x.1 ∈ (s.cluster cl).lines.map (·.1) := hkeys ▸ List.mem_map.mpr ⟨x, hx, rfl⟩
  have hget := mget_of_mem (by rw [hkeys]; exact hs) hx CLine.empty
  rw [← hget]
  exact (hline x.1).1 hmem

/-! FENCE. -/

theorem fence_goes {s : State} (sc : BitVec 3) (hq : Quiet s) : exec (.fence sc) s = .next
    ((if wide sc.toNat then (s.writeBackAll (clusterOf s.cur.core)).dropClean (clusterOf s.cur.core) else s).updMe fun c => c.next 4) := by
  have hside : Side s (if wide sc.toNat then (s.writeBackAll (clusterOf s.cur.core)).dropClean (clusterOf s.cur.core) else s) :=
    (side_ite ((side_writeBackAll ..).trans (side_dropClean ..)) (.refl s)).toSide
  have hrel : (s.release s.cur sc.toNat).acquire s.cur sc.toNat =
      if wide sc.toNat then (s.writeBackAll (clusterOf s.cur.core)).dropClean (clusterOf s.cur.core) else s := by
    unfold State.release State.acquire
    cases wide sc.toNat <;> rfl
  rw [exec_fence, execFence, State.settle, afterIf_nil _ _ _ _ hq.whole hq.pend]
  simp only [hrel]
  generalize (if wide sc.toNat then (s.writeBackAll (clusterOf s.cur.core)).dropClean (clusterOf s.cur.core) else s) = u at hside
  rw [← hside.cur]
  exact congrArg _ (pairSync_updMe (f := fun c => c.next 4) rfl (by rw [hside.trailer, hside.cur]; exact hq.single) [] [] [])

/-! Region 0x7D (R141; 08 R183, R186). -/

/-- LD.d at an offset of region 0x7D. -/
theorem ld_mmio {s : State} (t b : BitVec 5) (sc : BitVec 3) (f : BitVec 8) {a : Word} (hq : Quiet s)
    (ha : s.me.x b.toNat + BitVec.ofInt 64 (signedField 8 f.toNat * 2 ^ (3 : BitVec 2).toNat) = a) (hr : a.toNat / 2 ^ 56 = 0x7D)
    (hal : a.toNat % 2 ^ (3 : BitVec 2).toNat = 0) : exec (.ld t b 3 0 sc f) s = s.mmioLoad t.toNat (s.me.xp b.toNat) a 4 := by
  have hf : (s.mmioForm a 8 0 && (3 : BitVec 2) == 3) = true := by
    simp only [State.mmioForm, hr, hq.rlx]
    simpa using hal
  rw [exec_ld, execLd]
  simp only [width_addr, ha, hf, if_true]

theorem st_mmio {s : State} (t b : BitVec 5) (sc : BitVec 3) (f : BitVec 8) {a : Word} (hq : Quiet s)
    (ha : s.me.x b.toNat + BitVec.ofInt 64 (signedField 8 f.toNat * 2 ^ (3 : BitVec 2).toNat) = a) (hr : a.toNat / 2 ^ 56 = 0x7D)
    (hal : a.toNat % 2 ^ (3 : BitVec 2).toNat = 0) : exec (.st t b 3 0 sc f) s =
      s.mmioStore (.st t b 3 0 sc f) (s.me.x t.toNat) (s.me.xp t.toNat || s.me.xp b.toNat) a 4 := by
  have hf : (s.mmioForm a 8 0 && (3 : BitVec 2) == 3) = true := by
    simp only [State.mmioForm, hr, hq.rlx]
    simpa using hal
  rw [exec_st, execSt]
  simp only [width_addr, ha, hf, if_true]

/-- Another form does not take a word of region 0x7D. -/
theorem mmio_otherForm {s : State} {a : Word} {w o : BitVec 2} (h : w ≠ 3 ∨ o ≠ 0) : (s.mmioForm a 8 o && w == 3) = false := by
  rcases h with h | h
  · rw [beq_false_of_ne h, Bool.and_false]
  · rw [State.mmioForm, beq_false_of_ne h]
    simp

theorem access_mmio {s : State} {a : Word} {n al : Nat} {k : Acc1} (i : Instr) (hr : a.toNat / 2 ^ 56 = 0x7D) (hal : a.toNat % al = 0)
    (f : Loc → Res) : s.access i a n al k f = .next (s.trap 6 7 a) := by
  obtain ⟨p, hp⟩ := checkAcc_mmio (s := s) (t := s.cur) n k hr hal
  simp only [State.access, hp]

theorem ld_otherForm {s : State} (t b : BitVec 5) {w o : BitVec 2} (sc : BitVec 3) (f : BitVec 8) {a : Word} (hq : Quiet s)
    (ha : s.me.x b.toNat + BitVec.ofInt 64 (signedField 8 f.toNat * 2 ^ w.toNat) = a) (hr : a.toNat / 2 ^ 56 = 0x7D)
    (hal : a.toNat % 2 ^ w.toNat = 0) (h : w ≠ 3 ∨ o ≠ 0) : exec (.ld t b w o sc f) s = .next (s.trap 6 7 a) := by
  rw [exec_ld, execLd]
  simp only [width_addr, ha, mmio_otherForm h, Bool.false_eq_true, if_false, State.loadInto, isRelaxed_plain hq.rlx]
  exact access_mmio _ hr hal _

theorem st_otherForm {s : State} (t b : BitVec 5) {w o : BitVec 2} (sc : BitVec 3) (f : BitVec 8) {a : Word} (hq : Quiet s)
    (ha : s.me.x b.toNat + BitVec.ofInt 64 (signedField 8 f.toNat * 2 ^ w.toNat) = a) (hr : a.toNat / 2 ^ 56 = 0x7D)
    (hal : a.toNat % 2 ^ w.toNat = 0) (h : w ≠ 3 ∨ o ≠ 0) : exec (.st t b w o sc f) s = .next (s.trap 6 7 a) := by
  rw [exec_st, execSt]
  simp only [width_addr, ha, mmio_otherForm h, Bool.false_eq_true, if_false, State.storeFrom, isRelaxed_plain hq.rlx, length_leBytes]
  exact access_mmio _ hr hal _

/-- No unit assigns the offsets above VUSTAT and MXSTAT. -/
theorem mmioRead_unassigned {s : State} {t : ThreadId} {o : Nat} (h : 0xF040 ≤ o) : s.mmioRead t o = none := by
  have hne (k : Nat) (hk : k < 0xF040) : o ≠ k := by omega
  have hout (base n : Nat) (hb : base + 8 * n ≤ 0xF040) : ¬(base ≤ o ∧ o < base + 8 * n ∧ (o - base) % 8 = 0) := by omega
  simp only [State.mmioRead, hne 0xF000 (by decide), hne 0xF008 (by decide), hne 0xF010 (by decide), hne 0xF018 (by decide), hne 0xF020 (by decide),
    hne 0xF028 (by decide), hne 0xF030 (by decide), hne 0xF038 (by decide), hout 0xE000 64 (by decide), hout 0xE200 64 (by decide),
    hout 0xE480 4 (by decide), hout 0xE500 8 (by decide), hout 0xE540 8 (by decide), if_false]

/-- The words of region 0x7D that the statement names. -/
theorem mmioRead_named {s : State} {o : Nat} {v : Word}
    (h : (o, v) ∈ [(0xF010, w64 (s.cluster (clusterOf s.cur.core)).pfctl.toNat), (0xF018, w64 (s.cluster (clusterOf s.cur.core)).pflines.toNat),
      (0xF020, w64 (s.cluster (clusterOf s.cur.core)).pfused.toNat), (0xF028, w64 (s.cluster (clusterOf s.cur.core)).pfearly.toNat),
      (0xF030, (s.core s.cur.core).vuStat)]) : s.mmioRead s.cur o = some v := by
  simp only [List.mem_cons, List.not_mem_nil, or_false, Prod.mk.injEq] at h
  rcases h with ⟨rfl, rfl⟩ | ⟨rfl, rfl⟩ | ⟨rfl, rfl⟩ | ⟨rfl, rfl⟩ | ⟨rfl, rfl⟩
  · exact congrArg some (zeroExtend_eq _)
  · exact congrArg some (zeroExtend_eq _)
  · exact congrArg some (zeroExtend_eq _)
  · exact congrArg some (zeroExtend_eq _)
  · rfl

theorem mmioLoad_reads {s : State} {t : BitVec 5} {base : Bool} {a v : Word} (ht : s.trailer s.cur = none)
    (hv : s.mmioRead s.cur (a.toNat % 2 ^ 56) = some v) : ∃ u, s.mmioLoad t.toNat base a 4 = .next u ∧ WritesX s u t.toNat v base 4 := by
  have hoff : bits a 55 0 = a.toNat % 2 ^ 56 := by rw [bits, pow_zero, Nat.div_one]
  have hser : (((s.me.consume base).setX t.toNat v base).next 4).serial = s.me.serial := by rw [next_serial, setX_serial, consume_serial]
  rw [State.mmioLoad, hoff, hv]
  exact ⟨_, rfl, (pairSync_updMe (f := fun c => ((c.consume base).setX t.toNat v base).next 4) hser ht ..).symm ▸ writesX_upd s _ t.isLt ..⟩

theorem mmioLoad_unassigned {s : State} {t : BitVec 5} {base : Bool} {a : Word} (ho : 0xF040 ≤ a.toNat % 2 ^ 56) :
    s.mmioLoad t.toNat base a 4 = .next (s.trap 6 7 a) := by
  have hoff : bits a 55 0 = a.toNat % 2 ^ 56 := by rw [bits, pow_zero, Nat.div_one]
  rw [State.mmioLoad, hoff, mmioRead_unassigned ho]

/-- What a store leaves of the cluster's prefetch registers (08 R186). -/
theorem writePfctl_cluster (s : State) (n : Nat) (v : Word) :
    ((s.writePfctl n v).cluster n).pfctl = BitVec.ofNat 8 (v.toNat / 16 % 16 * 16 + v.toNat % 2) ∧
    (((s.writePfctl n v).cluster n).pflines, ((s.writePfctl n v).cluster n).pfused, ((s.writePfctl n v).cluster n).pfearly) =
      (if 2 ^ 63 ≤ v.toNat then (0, 0, 0) else ((s.cluster n).pflines, (s.cluster n).pfused, (s.cluster n).pfearly)) ∧
    ((s.writePfctl n v).cluster n).lines = (s.cluster n).lines := by
  have hclr : bit v 63 = true ↔ 2 ^ 63 ≤ v.toNat := by
    rw [bit_eq_testBit, Nat.testBit_eq_decide_div_mod_eq, decide_eq_true_eq]
    omega
  rw [State.writePfctl, cluster_updCluster]
  refine ⟨?_, ?_, rfl⟩
  · simp only [bits, pow_zero, Nat.div_one]
    rfl
  · by_cases h : 2 ^ 63 ≤ v.toNat
    · simp only [hclr.mpr h, h, if_true]
    · simp only [mt hclr.mp h, h, Bool.false_eq_true, if_false]

/-- A store of PFCTL. -/
theorem mmioStore_pfctl {s : State} (i : Instr) (v : Word) (mark : Bool) {a : Word} (ht : s.trailer s.cur = none) (ho : a.toNat % 2 ^ 56 = 0xF010) :
    s.mmioStore i v mark a 4 = .next ((s.writePfctl (clusterOf s.cur.core) v).updMe fun c => (c.consume mark).next 4) := by
  have hoff : bits a 55 0 = 0xF010 := by rw [bits, pow_zero, Nat.div_one]; exact ho
  have hside : Side s (s.writePfctl (clusterOf s.cur.core) v) := (side_updCluster ..).toSide
  unfold State.mmioStore
  simp only [hoff, if_true]
  rw [← hside.cur]
  exact congrArg _ (pairSync_updMe (f := fun c => (c.consume mark).next 4) (serial_consume_next _ _ 4) (by rw [hside.cur, hside.trailer]; exact ht) [] [] [])

theorem mmioStore_unassigned {s : State} (i : Instr) (v : Word) (mark : Bool) {a : Word} (ho : 0xF040 ≤ a.toNat % 2 ^ 56) :
    s.mmioStore i v mark a 4 = .next (s.trap 6 7 a) := by
  have hoff : bits a 55 0 = a.toNat % 2 ^ 56 := by rw [bits, pow_zero, Nat.div_one]
  have h1 : ¬a.toNat % 2 ^ 56 = 0xF010 := by omega
  have h2 : ¬(0xE400 ≤ a.toNat % 2 ^ 56 ∧ a.toNat % 2 ^ 56 < 0xE420 ∧ a.toNat % 2 ^ 56 % 8 = 0 ∧ s.cur.tier < 2) := by omega
  unfold State.mmioStore
  simp only [hoff, h1, h2, if_false]

end Sys2Proof.Machine.Laws
end

section
open Sys2Proof Sys2Proof.Machine Sys2Proof.Machine.Laws

/-- Settles O15: FENCE by its scope, and region 0x7D by form and offset. -/
theorem fenceAndMmio : Obligations.FenceAndMmio := by
  unfold Obligations.FenceAndMmio
  refine ⟨fun s sc hq => ?_, fun s t b w o sc f hq => ?_⟩
  · intro cl
    refine ⟨fun hw => ?_, fun hw hs hm => ?_⟩
    · refine ⟨_, fence_goes sc hq, ?_⟩
      simp only [hw, Bool.false_eq_true, if_false]
      exact ⟨onlyMe_updMe .., sameMem_updMe _ _, me_updMe ..⟩
    · have hside := (side_writeBackAll s cl).trans (side_dropClean _ cl)
      refine ⟨_, fence_goes sc hq, ?_⟩
      simp only [hw, if_true]
      refine ⟨fun u hu => ?_, hside.fe, ?_, fenced_lines hs hm, fun p hp hr j hj hd => ?_⟩
      · rw [sameOthers_updMe _ _ u (by rw [hside.cur]; exact hu), hside.ctx]
      · rw [me_updMe, hside.me]; rfl
      · have hl : lineAt s cl p.1 = p.2 := mget_of_mem hs hp _
        refine ((writeBacks cl ((s.cluster cl).lines.map (·.1)) s hm).2 p.1 j hj).trans ?_
        rw [if_pos (List.mem_map.mpr ⟨p, hp, rfl⟩), backByte, hl, if_pos ⟨hr, hd⟩]
  · intro a k c off hr hal
    refine ⟨?_, ?_, fun h => ⟨ld_otherForm t b sc f hq rfl hr hal h, st_otherForm t b sc f hq rfl hr hal h⟩, ?_⟩
    · rintro rfl rfl v hv
      rw [ld_mmio t b sc f hq rfl hr hal]
      exact mmioLoad_reads hq.single (mmioRead_named hv)
    · rintro rfl rfl ho
      refine ⟨_, (st_mmio t b sc f hq rfl hr hal).trans (mmioStore_pfctl _ _ _ hq.single ho), fun _ => rfl, fun r => ?_, ?_, ?_⟩
      · simp only [me_updMe, x_next, xp_next, x_consume, xp_consume]
        exact ⟨rfl, rfl⟩
      · rw [me_updMe, next_pc, consume_pc, consume_pfx]
        rfl
      · exact writePfctl_cluster s (clusterOf s.cur.core) (s.me.x t.toNat)
    · rintro rfl rfl ho
      exact ⟨(ld_mmio t b sc f hq rfl hr hal).trans (mmioLoad_unassigned ho),
        (st_mmio t b sc f hq rfl hr hal).trans (mmioStore_unassigned _ _ _ ho)⟩

end

section
/-! Loads: the alignment of a key, a demand of the cluster's cache, and the registers of a load (07 R135 to R137; 08 R184). -/

namespace Sys2Proof.Machine.Laws

/-! An aligned address leads to an aligned key (R134). -/

theorem dvd_mod_two_pow {m v : Nat} (h : 2 ^ m ∣ v) (n : Nat) : 2 ^ m ∣ v % 2 ^ n := by
  rcases le_total m n with hmn | hnm
  · exact (Nat.dvd_mod_iff (pow_dvd_pow 2 hmn)).mpr h
  · rw [Nat.mod_eq_zero_of_dvd ((pow_dvd_pow 2 hnm).trans h)]
    exact dvd_zero _

theorem two_pow_dvd {m n : Nat} (h : m ≤ n) (a : Nat) : 2 ^ m ∣ a * 2 ^ n := (pow_dvd_pow 2 h).mul_left a

theorem dvd_keyLs {m o : Nat} (hm : m ≤ 16) (h : 2 ^ m ∣ o) (c : CoreId) : 2 ^ m ∣ keyLs c o :=
  ((pow_dvd_pow 2 (by omega)).add (two_pow_dvd (by omega) _)).add h
theorem dvd_keyNm {m o : Nat} (hm : m ≤ 16) (h : 2 ^ m ∣ o) (d : Nat) : 2 ^ m ∣ keyNm d o :=
  ((pow_dvd_pow 2 (by omega)).add (two_pow_dvd (by omega) _)).add h
theorem dvd_keyHost {m a : Nat} (hm : m ≤ 16) (h : 2 ^ m ∣ a) : 2 ^ m ∣ keyHost a := (pow_dvd_pow 2 (by omega)).add h

/-- Where a location has a key, `2 ^ m` divides it. -/
def KeyDvd (m : Nat) (l : Loc) : Prop := ∀ q, l.noPeer.key = some q → 2 ^ m ∣ q

theorem keyDvd_none {m : Nat} {l : Loc} (h : l.noPeer.key = none) : KeyDvd m l := fun _ hq => nomatch h.symm.trans hq
theorem keyDvd_some {m q : Nat} {l : Loc} (h : l.noPeer.key = some q) (hd : 2 ^ m ∣ q) : KeyDvd m l :=
  fun _ hq => Option.some.inj (h.symm.trans hq) ▸ hd

theorem keyDvd_leafLoc {m va : Nat} (s : State) (d e sz : Nat) (k : Acc1) (hm : m ≤ 16) (hv : 2 ^ m ∣ va) : KeyDvd m (leafLoc s d e va sz k) := by
  have hpa : 2 ^ m ∣ fld e 16 36 * 2 ^ 16 + va % 2 ^ sz := (two_pow_dvd hm _).add (dvd_mod_two_pow hv sz)
  unfold leafLoc
  extract_lets kind r w ok pa
  repeat' split
  · exact keyDvd_none rfl
  · exact keyDvd_none rfl
  · exact keyDvd_none rfl
  · exact keyDvd_none rfl
  · exact keyDvd_some rfl (dvd_keyHost hm hpa)
  · exact keyDvd_none rfl
  · exact keyDvd_some rfl hpa
  · exact keyDvd_none rfl

theorem keyDvd_walk {m va : Nat} (s : State) (d root : Nat) (k : Acc1) (hm : m ≤ 16) (hv : 2 ^ m ∣ va) : KeyDvd m (s.walk d root va k) := by
  unfold State.walk
  split
  · exact keyDvd_leafLoc s _ _ _ k hm hv
  · split
    · exact keyDvd_none rfl
    · exact keyDvd_none rfl
    · exact keyDvd_none rfl
    · exact keyDvd_leafLoc s _ _ _ k hm hv

theorem keyDvd_ite {m : Nat} {p : Prop} [Decidable p] {l l' : Loc} (h : KeyDvd m l) (h' : KeyDvd m l') : KeyDvd m (if p then l else l') := by
  split
  · exact h
  · exact h'

theorem keyDvd_locate {m : Nat} {a : Word} (s : State) (l : Launch) (c : CoreId) (n : Nat) (k : Acc1) (hm : m ≤ 16) (hv : 2 ^ m ∣ a.toNat) :
    KeyDvd m (s.locate l c a n k) := by
  have hf (w : Nat) : 2 ^ m ∣ fld a.toNat 0 w := by rw [fld, pow_zero, Nat.div_one]; exact dvd_mod_two_pow hv w
  have htrap (x y : Nat) : KeyDvd m (.trap x y) := keyDvd_none rfl
  have hls (x : CoreId) : KeyDvd m (.bank (keyLs x (fld a.toNat 0 21))) := keyDvd_some rfl (dvd_keyLs hm (hf 21) x)
  unfold State.locate
  extract_lets v wr o tc p
  split
  · exact keyDvd_ite (htrap _ _) (keyDvd_walk s _ _ k hm hv)
  · exact keyDvd_ite (htrap _ _) (keyDvd_ite (htrap _ _) (keyDvd_ite (hls _) (keyDvd_ite (hls _) (htrap _ _))))
  · exact keyDvd_ite (htrap _ _) (keyDvd_ite (htrap _ _) (keyDvd_ite (htrap _ _) (keyDvd_ite (hls _) (keyDvd_ite (hls _) (htrap _ _)))))
  · exact keyDvd_ite (htrap _ _) (keyDvd_ite (keyDvd_some rfl (dvd_keyNm hm (hf 25) _)) (htrap _ _))
  · exact keyDvd_none rfl
  · exact htrap _ _

theorem checkAcc_aligned {m q n : Nat} {s : State} {t : ThreadId} {a : Word} {k : Acc1} (hm : m ≤ 16)
    (h : (s.checkAcc t a n (2 ^ m) k).key = some q) : q % 2 ^ m = 0 := by
  unfold State.checkAcc at h
  split at h
  · cases h
  · next hal => exact Nat.mod_eq_zero_of_dvd (keyDvd_locate s _ _ n k hm (Nat.dvd_of_mod_eq_zero (not_not.mp hal)) q h)

/-! The cluster's cache: room for a line, and a demand (08 R184; 09 R197). -/

theorem mget_unlisted {α : Type} (d : α) {m : SMap α} {k : Nat} (h : k ∉ m.map (·.1)) : mget d m k = d := by
  induction m with
  | nil => rfl
  | cons x t ih =>
    rw [List.map_cons, List.mem_cons, not_or] at h
    simp only [mget, if_neg (Ne.symm h.1), ih h.2]

theorem mem_keys_mset {α : Type} (m : SMap α) (k : Nat) (v : α) : k ∈ (mset m k v).map (·.1) := by
  induction m with
  | nil => exact List.mem_cons_self ..
  | cons x t ih =>
    simp only [mset]
    split
    · exact List.mem_cons_self ..
    · split
      · exact List.mem_cons_self ..
      · exact List.mem_cons_of_mem _ ih

theorem listed_of_ne {s : State} {cl line : Nat} (h : lineAt s cl line ≠ .empty) : line ∈ (s.cluster cl).lines.map (·.1) :=
  not_imp_comm.mp (mget_unlisted _) h

theorem roomy_of_listed {s : State} {cl line : Nat} (h : line ∈ (s.cluster cl).lines.map (·.1)) : s.roomy cl line = true := by
  have hin : line ∈ s.setLines cl line := List.mem_filter.mpr ⟨h, beq_self_eq_true _⟩
  rw [State.roomy, List.contains_iff_mem.mpr hin, Bool.true_or]

theorem room_of_roomy {s : State} {cl line : Nat} (h : s.roomy cl line = true) : s.room cl line = s := by rw [State.room, if_pos h]

theorem room_of_listed {s : State} {cl line : Nat} (h : lineAt s cl line ≠ .empty) : s.room cl line = s :=
  room_of_roomy (roomy_of_listed (listed_of_ne h))

theorem side_room (s : State) (cl line : Nat) : CacheSide s (s.room cl line) := by
  unfold State.room
  refine side_ite (.refl s) ?_
  extract_lets l
  split
  · exact (side_flushLine ..).trans (side_updCluster ..)
  · exact (side_draw s).trans (side_flushLine ..)

/-- A byte of a line as the cluster's cache gives it: its own where it holds it, and the controller's otherwise. -/
def lineByte (u : State) (cl line j : Nat) : Byte :=
  if bit (lineAt u cl line).valid j = true then (lineAt u cl line).data.getD j 0 else memGet u.mem (line * 64 + j)

/-- `d` is `u` with bytes `o . o + n - 1` of a line brought into the cluster's cache. -/
structure Brought (u d : State) (cl line o n : Nat) : Prop where
  side : CacheSide u d
  mem : d.mem = u.mem
  launches : d.launches = u.launches
  bytes : ∀ j, o ≤ j → j < o + n → (lineAt d cl line).data.getD j 0 = lineByte u cl line j
  valid : (lineAt d cl line).has o n = true

theorem Brought.after {u d e : State} {cl line o n : Nat} (h : Brought u d cl line o n) (hs : CacheSide d e) (hm : e.mem = d.mem)
    (hl : e.launches = d.launches) (hd : (lineAt e cl line).data = (lineAt d cl line).data) (hv : (lineAt e cl line).valid = (lineAt d cl line).valid) :
    Brought u e cl line o n :=
  ⟨h.side.trans hs, hm.trans h.mem, hl.trans h.launches, fun j hj hn => by rw [hd]; exact h.bytes j hj hn,
    by rw [CLine.has, hv]; exact h.valid⟩

theorem Brought.before {s u d : State} {cl line o n : Nat} (h : Brought u d cl line o n) (hs : CacheSide s u) (hm : u.mem = s.mem)
    (hl : u.launches = s.launches) (hb : ∀ j, lineByte u cl line j = lineByte s cl line j) : Brought s d cl line o n :=
  ⟨hs.trans h.side, h.mem.trans hm, h.launches.trans hl, fun j hj hn => (h.bytes j hj hn).trans (hb j), h.valid⟩

/-- A line that is there. -/
theorem brought_held {s : State} {cl line o n : Nat} (h : (lineAt s cl line).has o n = true) : Brought s s cl line o n := by
  refine ⟨.refl s, rfl, rfl, fun j hj hn => ?_, h⟩
  have hb := List.all_eq_true.mp h (j - o) (List.mem_range.mpr (by omega))
  rw [show o + (j - o) = j by omega] at hb
  rw [lineByte, if_pos hb]

theorem lineAt_updCluster {s : State} {cl line : Nat} {f : Cluster → Cluster} (h : ∀ c, (f c).lines = c.lines) :
    lineAt (s.updCluster cl f) cl line = lineAt s cl line := by rw [lineAt, cluster_updCluster, h, lineAt]

theorem lineAt_put (s : State) (cl line : Nat) (f : Cluster → Cluster) (x : CLine) (h : (f (s.cluster cl)).lines = mset (s.cluster cl).lines line x) :
    lineAt (s.updCluster cl f) cl line = x := by rw [lineAt, cluster_updCluster, h, mget_mset_self]

theorem memGet_memRead (m : List Host.Cell) (n : Nat) : ∀ k j, j < n → (memRead m k n).getD j 0 = memGet m (k + j) := by
  induction n with
  | zero => exact fun _ _ h => absurd h (Nat.not_lt_zero _)
  | succ n ih =>
    intro k j h
    cases j with
    | zero => rfl
    | succ j =>
      rw [memRead, List.getD_cons_succ, ih (k + 1) j (by omega), Nat.add_assoc, Nat.add_comm 1 j]

theorem memGet_rd (s : State) {k n j : Nat} (h : j < n) : (s.rd k n).getD j 0 = memGet s.mem (k + j) := memGet_memRead _ _ _ _ h

/-- A line of the cache with the controller's bytes in the place of those that it does not hold. -/
def filledLine (u : State) (cl line : Nat) (pf : Bool) : CLine :=
  { (lineAt u cl line).fill (u.rd (line * 64) 64) (u.linePoison (line * 64)) with pf := pf }

theorem fillLine_eq (s : State) (cl line : Nat) (pf : Bool) : s.fillLine cl line pf =
    (s.room cl line).updCluster cl fun c => { c with lines := mset c.lines line (filledLine (s.room cl line) cl line pf) } := rfl

/-- A line that is brought in, once there is room. -/
theorem brought_fill {s : State} {cl line o n : Nat} (pf : Bool) (h : o + n ≤ 64) : Brought (s.room cl line) (s.fillLine cl line pf) cl line o n := by
  rw [fillLine_eq]
  have hline := lineAt_put (s.room cl line) cl line (fun c => { c with lines := mset c.lines line (filledLine (s.room cl line) cl line pf) }) _ rfl
  refine ⟨side_updCluster .., rfl, rfl, fun j hj hn => ?_, ?_⟩
  · have hj64 : j < 64 := by omega
    rw [hline, lineByte, ← memGet_rd _ hj64]
    simp [filledLine, CLine.fill, hj64]
  · rw [hline]
    have hall : (filledLine (s.room cl line) cl line pf).valid = BitVec.allOnes 64 := rfl
    refine List.all_eq_true.mpr fun j hj => ?_
    rw [List.mem_range] at hj
    have hj64 : o + j < 64 := by omega
    rw [hall, bit, BitVec.getLsbD_allOnes, decide_eq_true hj64]

/-- A line that a prefetch has asked for arrives as any other; its counters are its own. -/
theorem lineAt_fetched (s : State) (cl line : Nat) :
    lineAt ((s.fetched cl line false).updCluster cl fun c => { c with pfused := satInc c.pfused }) cl line = lineAt (s.fillLine cl line false) cl line :=
  (lineAt_updCluster (f := fun c => { c with pfused := satInc c.pfused }) fun _ => rfl).trans
    (lineAt_updCluster (f := fun c => { c with fetching := c.fetching.erase line, pflines := satInc c.pflines }) fun _ => rfl)

/-- A line that a prefetch has brought and a demand now meets. -/
def metLine (s : State) (cl line : Nat) : State := s.updCluster cl fun c =>
  { c with lines := mset c.lines line { lineAt s cl line with pf := false }, pfused := satInc c.pfused, pfearly := satInc c.pfearly }

theorem lineAt_metLine (s : State) (cl line : Nat) : lineAt (metLine s cl line) cl line = { lineAt s cl line with pf := false } :=
  lineAt_put s cl line _ _ rfl

theorem room_metLine (s : State) (cl line : Nat) : (metLine s cl line).room cl line = metLine s cl line := by
  refine room_of_roomy (roomy_of_listed ?_)
  rw [metLine, cluster_updCluster]
  exact mem_keys_mset ..

/-- A demand makes room for the line, where it does not hold the bytes, and brings them in. -/
theorem demand_brings {s : State} {cl line o n : Nat} (h0 : 0 < n) (h64 : o + n ≤ 64) : Brought (s.room cl line) (s.demand cl line o n) cl line o n := by
  have hempty (l : CLine) (hl : l.has o n = true) : l ≠ .empty := by
    rintro rfl
    have := List.all_eq_true.mp hl 0 (List.mem_range.mpr h0)
    simp [CLine.empty, bit] at this
  have hheld (u : State) (hh : (lineAt u cl line).has o n = true) : Brought (u.room cl line) u cl line o n := by
    rw [room_of_listed (hempty _ hh)]
    exact brought_held hh
  have hrest (u : State) (hb : (lineAt u cl line).has o n = true → Brought (s.room cl line) u cl line o n)
      (hf : Brought (s.room cl line) (u.fillLine cl line false) cl line o n) :
      Brought (s.room cl line) (if (lineAt u cl line).has o n = true then u else u.fillLine cl line false) cl line o n := by
    split
    · next hh => exact hb hh
    · exact hf
  rw [State.demand]
  unfold State.demandMeet
  split
  · have hb : Brought (s.room cl line) ((s.fetched cl line false).updCluster cl fun c => { c with pfused := satInc c.pfused }) cl line o n :=
      (brought_fill false h64).after ((side_updCluster ..).trans (side_updCluster ..)) rfl rfl
        (congrArg CLine.data (lineAt_fetched s cl line)) (congrArg CLine.valid (lineAt_fetched s cl line))
    exact (if_pos hb.valid).symm ▸ hb
  · extract_lets l
    split
    · next hpf =>
      have hne : lineAt s cl line ≠ .empty := fun he => by
        rw [show l = CLine.empty from he] at hpf
        cases hpf
      have hl := lineAt_metLine s cl line
      have hbefore {e : State} (h : Brought (metLine s cl line) e cl line o n) : Brought (s.room cl line) e cl line o n := by
        rw [room_of_listed hne]
        refine h.before (side_updCluster s cl _) rfl rfl fun j => ?_
        rw [lineByte, lineByte, hl]
        rfl
      refine hrest (metLine s cl line) (fun hh => hbefore (brought_held hh)) (hbefore ?_)
      have hf := brought_fill (s := metLine s cl line) (cl := cl) (line := line) false h64
      rwa [room_metLine] at hf
    · exact hrest s (hheld s) (brought_fill false h64)

end Sys2Proof.Machine.Laws
end

section
/-! Loads: what a location gives, and the registers that take it (07 R135 to R137, R140). -/

namespace Sys2Proof.Machine.Laws

/-! Widths. -/

/-- The widths of a load: a power of two, a register's or an octet's. -/
def LoadWidth (n : Nat) : Prop := n = 1 ∨ n = 2 ∨ n = 4 ∨ n = 8 ∨ n = 64

theorem loadWidth_pos {n : Nat} (h : LoadWidth n) : 0 < n := by rcases h with rfl | rfl | rfl | rfl | rfl <;> decide

theorem loadWidth_pow {n : Nat} (h : LoadWidth n) : ∃ m, m ≤ 16 ∧ n = 2 ^ m := by
  rcases h with rfl | rfl | rfl | rfl | rfl
  · exact ⟨0, by decide, rfl⟩
  · exact ⟨1, by decide, rfl⟩
  · exact ⟨2, by decide, rfl⟩
  · exact ⟨3, by decide, rfl⟩
  · exact ⟨6, by decide, rfl⟩

theorem loadWidth_of_two_bits (w : BitVec 2) : LoadWidth (2 ^ w.toNat) := by
  have h : ∀ v : BitVec 2, 2 ^ v.toNat = 1 ∨ 2 ^ v.toNat = 2 ∨ 2 ^ v.toNat = 4 ∨ 2 ^ v.toNat = 8 := by decide
  rcases h w with h | h | h | h
  · exact .inl h
  · exact .inr (.inl h)
  · exact .inr (.inr (.inl h))
  · exact .inr (.inr (.inr (.inl h)))

theorem loadForm_shape {i : Instr} {c : Ctx} {f : LoadForm} (h : loadForm i c = some f) : LoadWidth f.n ∧ f.rt + (f.n + 7) / 8 ≤ 32 := by
  unfold loadForm at h
  split at h
  · next t b w o sc g =>
    cases h
    have hw := loadWidth_of_two_bits w
    have hn : ∀ w : BitVec 2, (2 ^ w.toNat + 7) / 8 = 1 := by decide
    have ht := t.isLt
    exact ⟨hw, by simp only [hn]; omega⟩
  · next q b o sc g =>
    cases h
    exact ⟨.inr (.inr (.inr (.inr rfl))), by have hq := q.isLt; simp only; omega⟩
  · next t b o =>
    cases h
    have ht := t.isLt
    exact ⟨.inr (.inr (.inr (.inl rfl))), by simp only; omega⟩
  · cases h

/-- An aligned access covers as many words as its width has. -/
theorem words_aligned {n q : Nat} (hn : LoadWidth n) (h : q % n = 0) : (q + n + 7) / 8 - q / 8 = (n + 7) / 8 ∧ (q % 8 + n + 7) / 8 = (n + 7) / 8 := by
  rcases hn with rfl | rfl | rfl | rfl | rfl <;> omega

theorem line_aligned {n q : Nat} (hn : LoadWidth n) (h : q % n = 0) : q % 64 + n ≤ 64 := by
  rcases hn with rfl | rfl | rfl | rfl | rfl <;> omega

/-! What a load reads. -/

/-- A load of `n` bytes: its bytes, as many marks as it covers words, and the state with room made for its line. -/
structure Loaded (s u : State) (byte : Nat → Byte) (n : Nat) (r : State × List Byte × List Bool) : Prop where
  side : CacheSide s r.1
  mem : r.1.mem = u.mem
  launches : r.1.launches = u.launches
  short : r.2.1.length ≤ n
  bytes : ∀ j, j < n → r.2.1.getD j 0 = byte j
  marks : r.2.2.length = (n + 7) / 8

theorem length_marksOf (s : State) (q n : Nat) : (s.marksOf q n).length = (q + n + 7) / 8 - q / 8 := by rw [State.marksOf, List.length_map, List.length_range]

theorem loaded_plain {s : State} {q n : Nat} (hn : LoadWidth n) (h : q % n = 0) :
    Loaded s s (fun j => memGet s.mem (q + j)) n (s, s.rd q n, s.marksOf q n) :=
  ⟨.refl s, rfl, rfl, (length_rd ..).le, fun _ hj => memGet_rd s hj, (length_marksOf ..).trans (words_aligned hn h).1⟩

theorem loaded_ctrl {s : State} {pa n : Nat} (hn : LoadWidth n) (h : pa % n = 0) :
    Loaded s s (loadByte s (.hbm pa) true) n (s, s.ctrlRead (clusterOf s.cur.core) pa n) := by
  refine ⟨.refl s, rfl, rfl, ?_, fun j hj => ?_, ?_⟩
  · simp [State.ctrlRead]
  · simp [State.ctrlRead, loadByte, hj]
  · simp only [State.ctrlRead, List.length_map, List.length_range]
    exact (words_aligned hn h).2

theorem loaded_cache {s : State} {pa n : Nat} (hn : LoadWidth n) (h : pa % n = 0) :
    Loaded s (s.room (clusterOf s.cur.core) (pa / 64)) (loadByte (s.room (clusterOf s.cur.core) (pa / 64)) (.hbm pa) false) n
      (s.cacheRead (clusterOf s.cur.core) pa n) := by
  have hb := demand_brings (s := s) (cl := clusterOf s.cur.core) (line := pa / 64) (o := pa % 64) (loadWidth_pos hn) (line_aligned hn h)
  have hcur := (side_room s (clusterOf s.cur.core) (pa / 64)).cur
  refine ⟨(side_room ..).trans hb.side, hb.mem, hb.launches, List.length_take_le .., fun j hj => ?_, ?_⟩
  · have hbyte := hb.bytes (pa % 64 + j) (by omega) (by omega)
    rw [lineByte, show pa / 64 * 64 + (pa % 64 + j) = pa + j by omega] at hbyte
    rw [loadByte, hcur]
    refine Eq.trans ?_ (hbyte.trans ?_)
    · simp [State.cacheRead, hj, lineAt]
    · simp [lineAt]
  · simp only [State.cacheRead, List.length_map, List.length_range]
    exact (words_aligned hn h).2

theorem loaded_loc {s : State} {loc : Loc} {n q : Nat} (hn : LoadWidth n) (hq : loc.key = some q) (h : q % n = 0) (hs : soundLoc s loc n) (a : Word)
    (acq : Option Nat) : Loaded s (withRoom s loc (wide (acq.getD 0))) (loadByte (withRoom s loc (wide (acq.getD 0))) loc (wide (acq.getD 0))) n
      (s.loadLoc s.cur loc a n acq) := by
  cases loc with
  | bank k =>
    cases hq
    rw [loadLoc_bank hs]
    exact loaded_plain hn h
  | hostMem k =>
    cases hq
    exact loaded_plain hn h
  | hbm pa =>
    cases hq
    cases hw : wide (acq.getD 0) with
    | true =>
      simp only [State.loadLoc, hw, if_true]
      exact loaded_ctrl hn h
    | false =>
      simp only [State.loadLoc, hw, Bool.false_eq_true, if_false]
      exact loaded_cache hn h
  | peer _ _ _ => cases hq
  | mmio _ => cases hq
  | trap _ _ => cases hq
  | xfault => cases hq
  | hole _ => cases hq

theorem soundLoc_key {s : State} {loc : Loc} {n : Nat} (h : soundLoc s loc n) : ∃ q, loc.key = some q := by
  cases loc with
  | bank k => exact ⟨k, rfl⟩
  | hostMem k => exact ⟨k, rfl⟩
  | hbm k => exact ⟨k, rfl⟩
  | peer _ _ _ => exact h.elim
  | mmio _ => exact h.elim
  | trap _ _ => exact h.elim
  | xfault => exact h.elim
  | hole _ => exact h.elim

/-! Bytes as numbers. -/

/-- Bytes that a list lacks count as 0. -/
theorem leNat_take_getD (n : Nat) : ∀ l : List Byte, leNat (l.take n) = leNat ((List.range n).map fun j => l.getD j 0) := by
  induction n with
  | zero => exact fun _ => rfl
  | succ n ih =>
    intro l
    have hz (n : Nat) : leNat ((List.range n).map fun _ => (0 : Byte)) = 0 := by
      induction n with
      | zero => rfl
      | succ n ih => simpa [List.range_succ_eq_map, leNat, Function.comp_def] using ih
    cases l with
    | nil =>
      simp only [List.take_nil, List.getD_nil, hz]
      rfl
    | cons b t =>
      simp only [List.range_succ_eq_map, List.map_cons, List.map_map, List.take_succ_cons, leNat, ih t, List.getD_cons_zero]
      rfl

theorem leAt_getD (l : List Byte) (i n : Nat) : leAt l i n = leNat ((List.range n).map fun j => l.getD (i + j) 0) := by
  rw [leAt, leNat_take_getD]
  simp [List.getD_eq_getElem?_getD]

/-! The registers of a load. -/

theorem setConsume_rest (d : Ctx) (r : Nat) (w : Word) (q p : Bool) (b : Word) : (d.setX r w q).consumeAt p b =
    { d with xs := ((d.setX r w q).consumeAt p b).xs, xm := ((d.setX r w q).consumeAt p b).xm, paddr := ((d.setX r w q).consumeAt p b).paddr
             cir := if p then d.cir ||| 1 else d.cir } := by
  unfold Ctx.setX Ctx.consumeAt
  by_cases hr : r = 0
  · cases p <;> simp [hr]
  · cases p <;> simp [hr]

theorem paddr_setConsume (d : Ctx) (r : Nat) (w : Word) (q p : Bool) (b : Word) :
    ((d.setX r w q).consumeAt p b).paddr = if p = true ∧ d.paddr = 0 then b else d.paddr := by
  unfold Ctx.setX Ctx.consumeAt
  by_cases hr : r = 0
  · cases p <;> simp [hr]
  · cases p <;> simp [hr]

section
variable (c : Ctx) (rt : Nat) (base : Bool) (a : Word) (v : Nat → Word) (m : Nat → Bool)

/-- The first `k` words of a load in registers from `rt`. -/
def loadWords (k : Nat) : Ctx :=
  (List.range k).foldl (fun c i => (c.setX (rt + i) (v i) (m i || base)).consumeAt (m i) (a + w64 (8 * i))) c

theorem loadWords_succ (k : Nat) : loadWords c rt base a v m (k + 1) =
    ((loadWords c rt base a v m k).setX (rt + k) (v k) (m k || base)).consumeAt (m k) (a + w64 (8 * k)) := by
  rw [loadWords, List.range_succ, List.foldl_append]
  rfl

theorem x_loadWords (k r : Nat) : (loadWords c rt base a v m k).x r = if r = 0 ∨ r < rt ∨ rt + k ≤ r then c.x r else v (r - rt) := by
  induction k with
  | zero =>
    rw [if_pos (by omega)]
    rfl
  | succ k ih =>
    rw [loadWords_succ, x_consumeAt, x_setX, ih]
    by_cases h0 : r = 0
    · simp [h0, Ctx.x]
    · by_cases hk : r = rt + k
      · subst hk
        rw [if_neg h0, if_pos rfl, if_neg (by omega), Nat.add_sub_cancel_left]
      · rw [if_neg h0, if_neg hk]
        refine if_congr ?_ rfl rfl
        omega

theorem xp_loadWords {k : Nat} (hk : rt + k ≤ 32) (r : Nat) :
    (loadWords c rt base a v m k).xp r = if r = 0 ∨ r < rt ∨ rt + k ≤ r then c.xp r else m (r - rt) || base := by
  induction k with
  | zero =>
    rw [if_pos (by omega)]
    rfl
  | succ k ih =>
    rw [loadWords_succ, xp_consumeAt, xp_setX _ _ _ _ _ (by omega), ih (by omega)]
    by_cases h0 : r = 0
    · simp [h0, Ctx.xp]
    · by_cases hr : r = rt + k
      · subst hr
        rw [if_neg h0, if_pos rfl, if_neg (by omega), Nat.add_sub_cancel_left]
      · rw [if_neg h0, if_neg hr]
        refine if_congr ?_ rfl rfl
        omega

/-- Beside the registers a load changes CIR and PADDR alone. -/
theorem loadWords_frame (k : Nat) : ∃ xs xm p, loadWords c rt base a v m k =
    { c with xs := xs, xm := xm, paddr := p, cir := if (List.range k).any m then c.cir ||| 1 else c.cir } := by
  induction k with
  | zero => exact ⟨_, _, _, rfl⟩
  | succ k ih =>
    obtain ⟨xs, xm, p, h⟩ := ih
    have hcir : (if m k = true then (if (List.range k).any m = true then c.cir ||| 1 else c.cir) ||| 1
        else if (List.range k).any m = true then c.cir ||| 1 else c.cir) = if (List.range (k + 1)).any m = true then c.cir ||| 1 else c.cir := by
      rw [List.range_succ, List.any_append]
      cases (List.range k).any m <;> cases hk : m k <;> simp [hk, BitVec.or_assoc]
    rw [loadWords_succ, h, setConsume_rest]
    simp only [hcir]
    exact ⟨_, _, _, rfl⟩

theorem loadWords_rest (k : Nat) : loadWords c rt base a v m k =
    { c with xs := (loadWords c rt base a v m k).xs, xm := (loadWords c rt base a v m k).xm, paddr := (loadWords c rt base a v m k).paddr
             cir := if (List.range k).any m then c.cir ||| 1 else c.cir } := by
  obtain ⟨xs, xm, p, h⟩ := loadWords_frame c rt base a v m k
  rw [h]

theorem paddr_loadWords (k : Nat) : ((List.range k).any m = false ∨ c.paddr ≠ 0 → (loadWords c rt base a v m k).paddr = c.paddr) ∧
    ((List.range k).any m = true → c.paddr = 0 → ∃ j, j < k ∧ (loadWords c rt base a v m k).paddr = a + w64 (8 * j)) := by
  induction k with
  | zero => exact ⟨fun _ => rfl, fun h => by cases h⟩
  | succ k ih =>
    obtain ⟨hkeep, hset⟩ := ih
    have hp : (loadWords c rt base a v m (k + 1)).paddr =
        if m k = true ∧ (loadWords c rt base a v m k).paddr = 0 then a + w64 (8 * k) else (loadWords c rt base a v m k).paddr := by
      rw [loadWords_succ, paddr_setConsume]
    have hany : (List.range (k + 1)).any m = ((List.range k).any m || m k) := by simp [List.range_succ]
    rw [hp, hany]
    refine ⟨fun h => ?_, fun h h0 => ?_⟩
    · rcases h with h | h
      · obtain ⟨hk, hm⟩ := Bool.or_eq_false_iff.mp h
        rw [if_neg (by rw [hm]; rintro ⟨hf, -⟩; cases hf), hkeep (.inl hk)]
      · rw [if_neg (by rw [hkeep (.inr h)]; exact fun hf => h hf.2), hkeep (.inr h)]
    · by_cases hz : m k = true ∧ (loadWords c rt base a v m k).paddr = 0
      · exact ⟨k, Nat.lt_succ_self k, if_pos hz⟩
      · have hk : (List.range k).any m = true := by
          by_contra hf
          have hf := Bool.eq_false_iff.mpr hf
          refine hz ⟨?_, (hkeep (.inl hf)).trans h0⟩
          rwa [hf, Bool.false_or] at h
        obtain ⟨j, hj, hpj⟩ := hset hk h0
        exact ⟨j, Nat.lt_succ_of_lt hj, (if_neg hz).trans hpj⟩

end

theorem loadRegs_eq {n : Nat} {b : List Byte} (hn : LoadWidth n) (hb : b.length ≤ n) (c : Ctx) (rt : Nat) (marks : List Bool) (base : Bool) (a : Word) :
    c.loadRegs rt n b marks base a = loadWords c rt base a (fun i => w64 (leAt b (8 * i) 8)) (fun i => marks.getD i false) ((n + 7) / 8) := by
  by_cases h64 : n = 64
  · subst h64
    rfl
  · have h8 : n ≤ 8 ∧ (n + 7) / 8 = 1 := by rcases hn with rfl | rfl | rfl | rfl | rfl <;> omega
    have hall : leAt b 0 8 = leNat b := by rw [leAt, List.drop_zero, List.take_of_length_le (hb.trans h8.1)]
    rw [Ctx.loadRegs, if_neg h64, h8.2, loadWords_succ, Nat.mul_zero, hall, Nat.add_zero, BitVec.add_zero]
    rfl

/-! The context of a load. -/

/-- The words of a load, their marks, and the context once it has completed. -/
def loadWord (r : State × List Byte × List Bool) (i : Nat) : Word := w64 (leAt r.2.1 (8 * i) 8)
def loadMark (r : State × List Byte × List Bool) (i : Nat) : Bool := r.2.2.getD i false
def loadCtx (f : LoadForm) (base : Bool) (r : State × List Byte × List Bool) (c : Ctx) : Ctx :=
  (loadWords (c.consume base) f.rt base f.addr (loadWord r) (loadMark r) ((f.n + 7) / 8)).next f.len

theorem loadCtx_serial (f : LoadForm) (base : Bool) (r : State × List Byte × List Bool) (c : Ctx) : (loadCtx f base r c).serial = c.serial := by
  rw [loadCtx, next_serial, loadWords_rest]
  exact consume_serial ..

theorem any_getD (l : List Bool) : (List.range l.length).any (fun i => l.getD i false) = l.any id := by
  induction l with
  | nil => rfl
  | cons b l ih =>
    rw [List.any_cons, ← ih, List.length_cons, List.range_succ_eq_map, List.any_cons, List.any_map]
    rfl

/-- A load leaves one word in each register, and what the marks do to CIR and PADDR (R134). -/
theorem loadCtx_rest {s u : State} {byte : Nat → Byte} {f : LoadForm} {r : State × List Byte × List Bool} (base : Bool) (c : Ctx)
    (hl : Loaded s u byte f.n r) : loadCtx f base r c =
      { c with xs := (loadCtx f base r c).xs, xm := (loadCtx f base r c).xm, paddr := (loadCtx f base r c).paddr
               cir := if base || r.2.2.any id then c.cir ||| 1 else c.cir
               pc := c.pc + w64 (c.pfx + f.len), pfx := 0, rlx := false, held := none } := by
  have hany : (List.range ((f.n + 7) / 8)).any (loadMark r) = r.2.2.any id := by rw [← hl.marks]; exact any_getD _
  obtain ⟨xs, xm, p, h⟩ := loadWords_frame (c.consume base) f.rt base f.addr (loadWord r) (loadMark r) ((f.n + 7) / 8)
  rw [hany] at h
  rw [loadCtx, h]
  cases base <;> cases r.2.2.any id <;> simp [Ctx.consume, Ctx.next, BitVec.or_assoc]

theorem paddr_loadCtx {s u : State} {byte : Nat → Byte} {f : LoadForm} {r : State × List Byte × List Bool} (base : Bool) (c : Ctx)
    (hl : Loaded s u byte f.n r) (hn : LoadWidth f.n) : (r.2.2.any id = false ∨ c.paddr ≠ 0 → (loadCtx f base r c).paddr = c.paddr) ∧
      (r.2.2.any id = true → c.paddr = 0 → ∃ j, j < 8 ∧ (loadCtx f base r c).paddr = f.addr + w64 (8 * j)) := by
  have hany : (List.range ((f.n + 7) / 8)).any (loadMark r) = r.2.2.any id := by rw [← hl.marks]; exact any_getD _
  have h8 : (f.n + 7) / 8 ≤ 8 := by rcases hn with h | h | h | h | h <;> omega
  have hp := paddr_loadWords (c.consume base) f.rt base f.addr (loadWord r) (loadMark r) ((f.n + 7) / 8)
  have hc : (c.consume base).paddr = c.paddr := by rw [consume_eq]
  rw [hany, hc] at hp
  exact ⟨hp.1, fun h h0 => (hp.2 h h0).imp fun j hj => ⟨hj.1.trans_le h8, hj.2⟩⟩

/-- The words of a load of bytes that memory or the cache gives, low byte first. -/
theorem loadWord_eq {s u : State} {byte : Nat → Byte} {n : Nat} {r : State × List Byte × List Bool} (hl : Loaded s u byte n r) (hn : LoadWidth n)
    {i : Nat} (hi : i < (n + 7) / 8) : loadWord r i = w64 (leNat ((List.range (min n 8)).map fun j => byte (8 * i + j))) := by
  have hbytes (w : Nat) (hw : 8 * i + w ≤ n) : (List.range w).map (fun j => r.2.1.getD (8 * i + j) 0) = (List.range w).map fun j => byte (8 * i + j) :=
    List.map_congr_left fun j hj => hl.bytes _ (by rw [List.mem_range] at hj; omega)
  rw [loadWord]
  by_cases h8 : n ≤ 8
  · have h0 : i = 0 := by omega
    have hlen := hl.short
    subst h0
    rw [Nat.min_eq_left h8, ← hbytes n (by omega), ← leAt_getD, leAt, leAt, Nat.mul_zero, List.drop_zero,
      List.take_of_length_le (hlen.trans h8), List.take_of_length_le hlen]
  · have h64 : n = 64 := by rcases hn with h | h | h | h | h <;> omega
    rw [Nat.min_eq_right (by omega), ← hbytes 8 (by omega), ← leAt_getD]

/-! A load that completes. -/

theorem load_completes {i : Instr} {s : State} {f : LoadForm} {loc : Loc} {u : State} {byte : Nat → Byte} (hq : Quiet s) (h : loadForm i s.me = some f)
    (hl : s.checkAcc s.cur f.addr f.n f.n .load = loc) (hk : loc.key.isSome = true) (hload : Loaded s u byte f.n (s.loadLoc s.cur loc f.addr f.n f.acq)) :
    exec i s = .next (afterAcquire ((s.loadLoc s.cur loc f.addr f.n f.acq).1.updMe
      (loadCtx f (s.me.xp f.rb) (s.loadLoc s.cur loc f.addr f.n f.acq))) f.acq) := by
  obtain ⟨hn, -⟩ := loadForm_shape h
  rw [load_plain hq.rlx h hl (key_notMmio hk), access_key i hl hk, loadAt, replied_now hq.slow, State.ordered, afterIf_nil _ _ _ _ hq.whole hq.pend]
  simp only [loadRegs_eq hn hload.short]
  generalize s.loadLoc s.cur loc f.addr f.n f.acq = r at hload
  have hser := loadCtx_serial f (s.me.xp f.rb) r r.1.me
  have htr := trailer_updMe_none (s := r.1) (f := loadCtx f (s.me.xp f.rb) r) hser (by rw [hload.side.cur, hload.side.trailer]; exact hq.single)
  have hside := side_afterAcquire (r.1.updMe (loadCtx f (s.me.xp f.rb) r)) f.acq
  have hpair := hside.toSide.pairSync htr ((List.range (if f.n = 64 then 8 else 1)).map (f.rt + ·)) [] []
  have hout : (afterAcquire (r.1.updMe (loadCtx f (s.me.xp f.rb) r)) f.acq).out = .next (afterAcquire (r.1.updMe (loadCtx f (s.me.xp f.rb) r)) f.acq) := by
    rw [State.out, hside.hole, show (r.1.updMe (loadCtx f (s.me.xp f.rb) r)).hole = none from hload.side.hole.trans hq.whole]
  refine Eq.trans ?_ ((congrArg State.out hpair).trans hout)
  have hcur : (r.1.updMe (loadCtx f (s.me.xp f.rb) r)).cur = s.cur := hload.side.cur
  rw [hcur]
  refine congrArg (fun t : State => (t.pairSync s.cur ((List.range (if f.n = 64 then 8 else 1)).map (f.rt + ·)) [] []).out) ?_
  rw [← acquire_eq, hcur]
  rfl

theorem afterAcquire_launches (s : State) (q : Option Nat) : (afterAcquire s q).launches = s.launches := by unfold afterAcquire; split <;> rfl

theorem acquired_lines {s : State} {q : Option Nat} (h : wide (q.getD 0) = true) :
    ∀ p ∈ ((afterAcquire s q).cluster (clusterOf s.cur.core)).lines, p.2.valid = p.2.dirty := by
  rw [afterAcquire, if_pos h, State.dropClean, cluster_updCluster]
  intro p hp
  obtain ⟨x, -, hx⟩ := List.mem_filterMap.mp hp
  split at hx
  · cases hx
  · cases hx
    rfl

end Sys2Proof.Machine.Laws
end

section
open Sys2Proof Sys2Proof.Machine Sys2Proof.Machine.Laws

/-- Settles O9: a load takes its bytes and marks from its location, once the cache has room for its line. -/
theorem loadResults : Obligations.LoadResults := by
  unfold Obligations.LoadResults
  intro i f s loc hform hq hl hs u
  obtain ⟨hn, hrt⟩ := loadForm_shape hform
  obtain ⟨q, hkey⟩ := soundLoc_key hs
  obtain ⟨m, hm, hnm⟩ := loadWidth_pow hn
  have hal : q % f.n = 0 := by
    rw [hnm]
    refine checkAcc_aligned hm (s := s) (t := s.cur) (a := f.addr) (n := f.n) (k := .load) ?_
    rw [← hnm, hl, hkey]
  have hload := loaded_loc hn hkey hal hs f.addr f.acq
  refine ⟨?_, _, load_completes hq hform hl (by rw [hkey]; rfl) hload, ?_⟩
  · rintro pa rfl hroomy
    show (if wide (f.acq.getD 0) = true then s else s.room (clusterOf s.cur.core) (pa / 64)) = s
    rw [room_of_roomy hroomy, ite_self]
  generalize s.loadLoc s.cur loc f.addr f.n f.acq = r at hload
  have hside := side_afterAcquire (r.1.updMe (loadCtx f (s.me.xp f.rb) r)) f.acq
  have hme : (afterAcquire (r.1.updMe (loadCtx f (s.me.xp f.rb) r)) f.acq).me = loadCtx f (s.me.xp f.rb) r s.me := by
    rw [hside.me, me_updMe, hload.side.me]
  rw [hme]
  refine ⟨fun k => ?_, fun t ht => ?_, ?_, ?_, fun x _ => ?_, fun x _ => ?_, loadCtx_rest _ _ hload, (paddr_loadCtx _ _ hload hn).1,
    (paddr_loadCtx _ _ hload hn).2, fun hw => ?_⟩
  · rw [afterAcquire_mem, updMe_mem, hload.mem]
  · rw [hside.ctx, sameOthers_updMe r.1 _ t (by rw [hload.side.cur]; exact ht), hload.side.ctx]
  · exact (afterAcquire_launches ..).trans hload.launches
  · exact hside.fe.trans hload.side.fe
  · rw [loadCtx, x_next, x_loadWords, x_consume]
    split
    · rfl
    · exact loadWord_eq hload hn (by omega)
  · rw [loadCtx, xp_next, xp_loadWords _ _ _ _ _ _ hrt, xp_consume]
    rfl
  · have hlines := acquired_lines (s := r.1.updMe (loadCtx f (s.me.xp f.rb) r)) hw
    rwa [show (r.1.updMe (loadCtx f (s.me.xp f.rb) r)).cur = s.cur from hload.side.cur] at hlines

end

section
/-! What a store at a bank leaves unchanged, whatever waits on its word: the network and the classes bound at every core (07 R143 to R145,
R158, R163). -/

namespace Sys2Proof.Machine.Laws

/-- The messages in the network and the message classes of every core are the same. -/
structure RingsKept (s t : State) : Prop where
  net : t.net = s.net
  classes : ∀ c, (t.core c).classes = (s.core c).classes

namespace RingsKept

theorem refl (s : State) : RingsKept s s := ⟨rfl, fun _ => rfl⟩
theorem trans {s t u : State} (h : RingsKept s t) (k : RingsKept t u) : RingsKept s u :=
  ⟨k.net.trans h.net, fun c => (k.classes c).trans (h.classes c)⟩

/-- Where no core changes. -/
theorem of_cores {s t : State} (hn : t.net = s.net) (hc : t.cores = s.cores) : RingsKept s t :=
  ⟨hn, fun c => by rw [State.core, State.core, hc]⟩

theorem ite {s t u : State} {p : Prop} [Decidable p] (ht : RingsKept s t) (hu : RingsKept s u) : RingsKept s (if p then t else u) := by
  split
  · exact ht
  · exact hu

theorem foldl {α : Type} {f : State → α → State} (h : ∀ s a, RingsKept s (f s a)) (l : List α) : ∀ s, RingsKept s (l.foldl f s) := by
  induction l with
  | nil => exact refl
  | cons a l ih => exact fun s => (h s a).trans (ih _)

end RingsKept

open RingsKept

theorem cls_of_rings {s t : State} (h : RingsKept s t) (c : CoreId) (n : Nat) : (t.core c).cls n = (s.core c).cls n := by
  rw [Core.cls, Core.cls, h.classes]

theorem rings_updCore (s : State) (c : CoreId) {f : Core → Core} (h : ∀ k, (f k).classes = k.classes) : RingsKept s (s.updCore c f) := by
  refine ⟨rfl, fun d => ?_⟩
  rw [core_updCore_of]
  split
  · exact h _
  · rfl

theorem rings_setCtx (s : State) (t : ThreadId) (c : Ctx) : RingsKept s (s.setCtx t c) := rings_updCore s t.core fun _ => rfl
theorem rings_updCtx (s : State) (t : ThreadId) (f : Ctx → Ctx) : RingsKept s (s.updCtx t f) := rings_setCtx ..

theorem rings_pairSync (s : State) (t : ThreadId) (xd pd hd : List Nat) : RingsKept s (s.pairSync t xd pd hd) := by
  unfold State.pairSync
  split
  · exact refl s
  · exact rings_setCtx ..

theorem rings_wr (s : State) (k : Nat) (b : List Byte) : RingsKept s (s.wr k b) := of_cores rfl rfl
theorem rings_setPz (s : State) (w : Nat) (b : Bool) : RingsKept s (s.setPz w b) := of_cores (setPz_net ..) (setPz_cores ..)
theorem rings_setFe (s : State) (w : Nat) (x : FeWord) : RingsKept s (s.setFe w x) := of_cores rfl rfl
theorem rings_setCondition (s : State) (w n : Nat) : RingsKept s (s.setCondition w n) := of_cores rfl rfl
theorem rings_report (s : State) (r : Word) (x : Report) : RingsKept s (s.report r x) := of_cores rfl rfl
theorem rings_parityReport (s : State) (r : Word) (w : Nat) (a : Word) : RingsKept s (s.parityReport r w a) := of_cores rfl rfl
theorem rings_updCluster (s : State) (n : Nat) (f : Cluster → Cluster) : RingsKept s (s.updCluster n f) := of_cores rfl rfl
theorem rings_updDie (s : State) (d : Nat) (f : Die → Die) : RingsKept s (s.updDie d f) := of_cores rfl rfl
theorem rings_updPart (s : State) (d t : Nat) (f : Part → Part) : RingsKept s (s.updPart d t f) := of_cores rfl rfl
theorem rings_rowWritten (s : State) (w : Nat) : RingsKept s (s.rowWritten w) := of_cores (rowWritten_net ..) (rowWritten_cores ..)
theorem rings_migsOver (s : State) : RingsKept s s.migsOver := of_cores (migsOver_net ..) (migsOver_cores ..)
theorem rings_draw (s : State) : RingsKept s s.draw.2 := of_cores rfl rfl

/-! Write-backs and HBM writes. -/

theorem rings_writeBack (s : State) (cl line : Nat) : RingsKept s (s.writeBack cl line) := by
  rw [writeBack_eq]
  refine ite (refl s) (ite ?_ ?_)
  · refine RingsKept.trans ?_ ((rings_updCluster ..).trans (rings_migsOver _))
    exact of_cores (lostReports_keeps State.net (fun _ _ _ => rfl) ..) (lostReports_keeps State.cores (fun _ _ _ => rfl) ..)
  · refine RingsKept.trans (RingsKept.foldl (fun s i => ?_) _ s) ((rings_updCluster ..).trans (rings_migsOver _))
    exact of_cores (wbByte_keeps State.net (fun _ _ _ => rfl) (fun _ _ _ => setPz_net ..) ..)
      (wbByte_keeps State.cores (fun _ _ _ => rfl) (fun _ _ _ => setPz_cores ..) ..)

theorem rings_release (s : State) (t : ThreadId) (sc : Nat) : RingsKept s (s.release t sc) := by
  unfold State.release State.writeBackAll
  exact ite (RingsKept.foldl (fun s n => rings_writeBack s _ n) _ s) (refl s)
theorem rings_acquire (s : State) (t : ThreadId) (sc : Nat) : RingsKept s (s.acquire t sc) := by
  unfold State.acquire State.dropClean
  exact ite (rings_updCluster ..) (refl s)

theorem rings_hbmWrite (s : State) (pa : Nat) (b : List Byte) (marks : List Bool) : RingsKept s (s.hbmWrite pa b marks) := by
  unfold State.hbmWrite
  refine RingsKept.foldl (fun s p => ?_) _ s
  unfold State.hbmWrite1
  refine RingsKept.foldl (fun s a => ?_) _ s
  extract_lets u
  exact (rings_wr ..).trans (ite (rings_setPz ..) (ite (rings_setPz ..) (refl u)))

/-! Reads and writes at a bank. -/

theorem rings_countRfault (s : State) (w : Nat) : RingsKept s (s.countRfault w) := by
  unfold State.countRfault
  split
  · exact ite (rings_updCore _ _ fun _ => rfl) (rings_updDie ..)
  · exact refl s
theorem rings_countRecon (s : State) (w : Nat) : RingsKept s (s.countRecon w) := by
  unfold State.countRecon
  split
  · exact ite (rings_updCore _ _ fun _ => rfl) (rings_updDie ..)
  · exact refl s

theorem rings_recall (s : State) (w : Nat) : RingsKept s (s.recall w) := by
  unfold State.recall
  extract_lets f out
  exact ite (refl s) (of_cores rfl rfl)

theorem rings_loseWord (s : State) (w : Nat) : RingsKept s (s.loseWord w) := by
  unfold State.loseWord
  exact (rings_draw s).trans ((rings_wr ..).trans ((rings_setFe ..).trans ((rings_setPz ..).trans ((rings_setCondition ..).trans (rings_recall ..)))))

/-- The state of a conditional result. -/
theorem rings_ite_fst {α : Type} {s : State} {p : Prop} [Decidable p] {x y : State × α} (hx : RingsKept s x.1) (hy : RingsKept s y.1) :
    RingsKept s (if p then x else y).1 := by
  split
  · exact hx
  · exact hy

theorem rings_lost (s : State) (w : Nat) : RingsKept s ((s.loseWord w).countRfault w) := (rings_loseWord s w).trans (rings_countRfault ..)

theorem rings_directRead (s : State) (w : Nat) : RingsKept s (s.directRead w).1 := by
  unfold State.directRead
  extract_lets b
  exact rings_ite_fst (refl s) (rings_ite_fst (rings_setCondition ..) (rings_ite_fst (of_cores rfl rfl) (rings_lost s w)))

theorem rings_bankRead (s : State) (w : Nat) : RingsKept s (s.bankRead w).1 := by
  unfold State.bankRead
  split
  · exact refl s
  · extract_lets r u
    exact rings_ite_fst (rings_ite_fst (rings_loseWord s w) (rings_ite_fst (rings_lost s w) (refl s)))
      (rings_ite_fst ((rings_setCondition ..).trans (rings_ite_fst (rings_directRead u w) (rings_ite_fst (rings_lost u w) (rings_countRecon u w))))
        (rings_directRead s w))

theorem rings_bankWrite {s t : State} {k : Nat} {b : List Byte} {mark : Bool} (h : s.bankWrite k b mark = some t) : RingsKept s t := by
  unfold State.bankWrite at h
  extract_lets w s1 s2 s3 at h
  split at h
  · cases h
    have h2 : RingsKept s1 s2 := ite (rings_setPz ..) (ite (rings_setPz ..) (refl s1))
    have h3 : RingsKept s2 s3 := ite (rings_setCondition ..) (refl s2)
    exact (rings_wr s k b).trans (h2.trans (h3.trans (rings_rowWritten ..)))
  · cases h

theorem rings_putWord (s : State) (w : Nat) (v : Word) (mark : Bool) (r a : Word) : RingsKept s (s.putWord w v mark r a) := by
  unfold State.putWord
  split
  · next h => exact rings_bankWrite h
  · exact rings_parityReport ..

/-! Moves of records, and posts (16 R353; 22 R434). -/

/-- A map whose entries change, but for a part of them, keeps that part under each key. -/
theorem mget_map_part {α β : Type} (g : α → β) (f : Nat × α → α) (hf : ∀ x, g (f x) = g x.2) (d : α) (m : SMap α) (k : Nat) :
    g (mget d (m.map fun x => (x.1, f x)) k) = g (mget d m k) := by
  induction m with
  | nil => rfl
  | cons x m ih =>
    simp only [List.map_cons, mget]
    split
    · exact hf x
    · exact ih

/-- The copies of a core, those that settle a moved tag redirected. -/
def redirected (c d : CoreId) (tag new : Nat) (k : Nat × Core) : Core :=
  { k.2 with copies := k.2.copies.map fun o =>
    if (k.1 = coreKey c ∧ o.tag = tag) ∨ o.redirect.contains (c, tag) then { o with redirect := o.redirect ++ [(d, new)] } else o }

theorem rings_redirectCopy (s : State) (c d : CoreId) (tag new : Nat) : RingsKept s (s.redirectCopy c d tag new) := by
  have htag : RingsKept s (s.updCore d fun k =>
      { k with tags := mset k.tags new { Tag.reset with st := .running, gen := (mget .reset k.tags new).gen + 1 } }) := rings_updCore s d fun _ => rfl
  exact htag.trans ⟨rfl, fun e => mget_map_part Core.classes (redirected c d tag new) (fun _ => rfl) _ _ _⟩

theorem rings_redirectAll (c d : CoreId) (key : Nat) (hs : List (Nat × Nat)) : ∀ (ts : List Nat) (s : State), RingsKept s (s.redirectAll c d key hs ts) := by
  induction hs with
  | nil => exact fun ts s => by cases ts <;> exact refl s
  | cons x hs ih =>
    intro ts s
    cases ts with
    | nil => exact refl s
    | cons t ts => exact (rings_redirectCopy s c d x.2 t).trans ((rings_hbmWrite ..).trans (ih ts _))

theorem rings_thermalMove (s : State) (die tier : Nat) (r a : Word) (b : List Byte) (spilled : Bool) (frame : Option Nat) :
    RingsKept s (s.thermalMove die tier r a b spilled frame).1 := by
  unfold State.thermalMove
  extract_lets c moved
  refine rings_ite_fst (refl s) (rings_ite_fst (refl s) ?_)
  split
  · exact refl s
  · next d _ =>
    extract_lets go
    have hgo (u : State) (h : RingsKept s u) : RingsKept s (go u).1 := h.trans (of_cores rfl rfl)
    refine rings_ite_fst (hgo s (refl s)) ?_
    split
    · exact refl s
    · extract_lets hs
      exact rings_ite_fst (refl s) (hgo _ (rings_redirectAll ..))

theorem rings_postKey (s : State) (die tier key : Nat) (a r : Word) (src : Nat) : RingsKept s (s.postKey die tier key a r src) := by
  unfold State.postKey
  extract_lets b l q
  have hq : RingsKept s q.1 := by
    simp only [q]
    split
    · exact rings_thermalMove ..
    · exact refl s
  exact hq.trans ((rings_hbmWrite ..).trans (rings_updPart ..))

theorem rings_postCont (s : State) (w : Nat) (k : Cont) : RingsKept s (s.postCont w k) := by
  unfold State.postCont
  extract_lets u
  have hu : RingsKept s u := of_cores rfl rfl
  exact ite hu (hu.trans (rings_postKey ..))

/-! Requests served at a word (R144, R145). -/

theorem rings_serveLens (s : State) (w : Nat) (c : CoreId) : RingsKept s (s.serveLens w c) := by
  unfold State.serveLens
  exact (rings_bankRead s w).trans (rings_updCore _ _ fun _ => rfl)

theorem rings_engMark (s : State) (t : ThreadId) (run : Nat) (m : BitVec 8) (a : Word) : RingsKept s (s.engMark t run m a) := by
  unfold State.engMark
  split
  · exact rings_updCtx ..
  · exact of_cores rfl rfl

theorem rings_spillOut (s : State) (t : ThreadId) (o : Outcome1) : RingsKept s (s.spillOut t o) := of_cores rfl rfl

theorem rings_finishLoad (s : State) (t : ThreadId) (i : Instr) (b : List Byte) (marks : List Bool) : RingsKept s (s.finishLoad t i b marks) := by
  unfold State.finishLoad
  extract_lets x u v
  have hv : RingsKept u v := by
    simp only [v]
    split
    · exact rings_acquire ..
    · exact refl u
  exact (rings_updCtx ..).trans (hv.trans (rings_pairSync ..))

theorem rings_finishStf (s : State) (t : ThreadId) (i : Instr) : RingsKept s (s.finishStf t i) := by
  unfold State.finishStf
  exact (rings_updCtx ..).trans (rings_pairSync ..)

theorem rings_serveStf (s : State) (w : Nat) (t : ThreadId) (i : Instr) : RingsKept s (s.serveStf w t i).1 := by
  unfold State.serveStf
  extract_lets c x takes u v f y
  have hu : RingsKept s u := by
    simp only [u]
    split
    · exact rings_release ..
    · exact refl s
  have hv : RingsKept u v := rings_putWord ..
  have hy : RingsKept v y := ite (rings_setFe ..) (refl v)
  exact hu.trans (hv.trans (hy.trans (ite (rings_spillOut ..) (rings_finishStf ..))))

theorem rings_serveLdf (s : State) (w : Nat) (t : ThreadId) (i : Instr) (take : Bool) : RingsKept s (s.serveLdf w t i take).1 := by
  unfold State.serveLdf
  extract_lets c r u d m v
  have hu : RingsKept s u := (rings_bankRead s w).trans (ite ((rings_parityReport ..).trans (rings_engMark ..)) (refl _))
  have hv : RingsKept u v := ite (rings_spillOut ..) (rings_finishLoad ..)
  exact hu.trans (hv.trans (rings_ite_fst ((rings_rowWritten ..).trans (rings_setFe ..)) (refl v)))

theorem rings_serve (w n : Nat) : ∀ s : State, RingsKept s (State.serve n s w).1 := by
  induction n with
  | zero => exact refl
  | succ n ih =>
    intro s
    rw [State.serve]
    split
    · exact refl s
    · next t _ =>
      extract_lets u
      have hu : RingsKept s u := rings_setFe ..
      split
      · exact hu.trans ((rings_serveLens ..).trans (ih _))
      · next h _ =>
        split
        · exact hu.trans ((rings_serveStf ..).trans (ih _))
        · exact hu.trans ((rings_serveLdf ..).trans (ih _))
        · exact hu

theorem rings_settleWord (s : State) (w : Nat) (mf me : Bool) : RingsKept s (s.settleWord w mf me) := by
  unfold State.settleWord
  extract_lets r f rd wrs u
  have hr : RingsKept s r.1 := rings_serve ..
  have hu : RingsKept r.1 u := ite (refl _) (rings_setFe ..)
  exact hr.trans (hu.trans (RingsKept.foldl (fun s k => rings_postCont s w k) _ u))

theorem rings_setFull (s : State) (w : Nat) : RingsKept s (s.setFull w) := by
  unfold State.setFull
  extract_lets f
  exact ite (refl s) (ite (refl s) ((rings_setFe ..).trans (rings_settleWord ..)))

theorem rings_releaseBarrier (s : State) (w : Nat) : RingsKept s (s.releaseBarrier w) := by
  unfold State.releaseBarrier
  extract_lets f v u
  have hv : RingsKept s { v with resume := s.resume ++ f.barPark.filter fun t => !s.leaving t } := of_cores rfl rfl
  have hu : RingsKept s u := hv.trans (RingsKept.foldl (fun s t => rings_spillOut s t .again) _ _)
  exact ite (refl s) (hu.trans (RingsKept.foldl (fun s k => rings_postCont s w k) _ u))

theorem rings_bankStore (s : State) (r : Word) (k : Nat) (b : List Byte) (mark : Bool) (a : Word) : RingsKept s (s.bankStore r k b mark a) := by
  unfold State.bankStore
  split
  · exact rings_parityReport ..
  · next t ht =>
    extract_lets w u
    have hu : RingsKept t u := ite (rings_setFull ..) (refl t)
    exact (rings_bankWrite ht).trans (ite hu (hu.trans (rings_releaseBarrier ..)))

theorem rings_ringWrite (r : Word) (c : CoreId) (base words : Nat) (l : List (Word × Bool)) :
    ∀ (s : State) (pos : Nat), RingsKept s (s.ringWrite r c base words pos l) := by
  induction l with
  | nil => exact fun s _ => refl s
  | cons x l ih => exact fun s pos => (rings_bankStore ..).trans (ih _ (pos + 1))

end Sys2Proof.Machine.Laws
end

section
/-! The events of channels (07 R154, R156 to R159, R161). -/

namespace Sys2Proof.Machine.Laws

theorem exec_channelHandshake (c : CoreId) (s : State) : exec (.channelHandshake c) s = execChannelHandshake c s := rfl
theorem exec_ringMessageArrival (c : CoreId) (s : State) : exec (.ringMessageArrival c) s = execRingMessageArrival c s := rfl
theorem exec_messageReturn (c : CoreId) (n : Nat) (s : State) : exec (.messageReturn c n) s = execMessageReturn c n s := rfl
theorem exec_channelTimeout (t : ThreadId) (s : State) : exec (.channelTimeout t) s = execChannelTimeout t s := rfl
theorem exec_channelAudit (c : CoreId) (n : BitVec 5) (s : State) : exec (.channelAudit c n) s = execChannelAudit c n s := rfl

/-! Handshakes (R154). -/

theorem handshake_idle {s : State} {c : CoreId}
    (h : ∀ x ∈ (s.core c).eps, x.2.bound = false ∨ x.2.rem = false ∨ x.2.isCls = true ∨ x.2.peer.isSome = true) :
    exec (.channelHandshake c) s = .next s := by
  have hends : (s.core c).eps.filter (fun x => x.2.unpaired && x.2.rem && !x.2.isCls) = [] := by
    refine List.filter_eq_nil_iff.mpr fun x hx => ?_
    rcases h x hx with h | h | h | h
    · simp [Ep.unpaired, h]
    · simp [h]
    · simp [h]
    · simp [Ep.unpaired, Option.isNone_eq_false_iff.mpr h]
  rw [exec_channelHandshake, execChannelHandshake, hends]
  rfl

/-- An end at the start of a channel with a number of free slots. -/
def startEnd (e : Ep) (free : Nat) (peer : Nat × Nat) : Ep :=
  { e with met := true, resync := false, returned := false, free := free, sent := 0, consumed := 0, received := 0, rpos := 0, wpos := 0
           words := [], ring := 0, seq := 0, peer := some peer }

/-- The two ends as they meet. -/
def metEnds (s : State) (c : CoreId) (n : Nat) (d : CoreId) (m : Nat) : State :=
  (s.updEp c n fun _ => { (meetEnds ((s.core c).ep n) ((s.core d).ep m)).1 with peer := some (coreKey d, m) }).updEp d m
    fun _ => { (meetEnds ((s.core c).ep n) ((s.core d).ep m)).2 with peer := some (coreKey c, n) }

/-- A sender and a receiver that meet with no channel kept. -/
theorem meetRx_ends {s : State} {c d : CoreId} {n m : Nat} (hcd : coreKey d ≠ coreKey c) (hr : ((s.core c).ep n).ring = 0) :
    (s.meetRx c n d m).mem = s.mem ∧
    ((s.meetRx c n d m).core c).ep n = startEnd ((s.core c).ep n) ((s.core d).ep m).rwords (coreKey d, m) ∧
    ((s.meetRx c n d m).core d).ep m = startEnd ((s.core d).ep m) ((s.core d).ep m).rwords (coreKey c, n) := by
  have hp : meetEnds ((s.core c).ep n) ((s.core d).ep m) =
      ({ startEnd ((s.core c).ep n) ((s.core d).ep m).rwords (coreKey d, m) with peer := ((s.core c).ep n).peer },
       { startEnd ((s.core d).ep m) ((s.core d).ep m).rwords (coreKey c, n) with peer := ((s.core d).ep m).peer }) := by
    simp [meetEnds, hr, startEnd]
  have hcore (k : CoreId) (j : Nat) : ((s.meetRx c n d m).core k).ep j = ((metEnds s c n d m).core k).ep j := rfl
  refine ⟨rfl, ?_, ?_⟩
  · rw [hcore, metEnds, ep_updEp_ne (.inl hcd.symm), ep_updEp_self, hp]
    rfl
  · rw [hcore, metEnds, ep_updEp_self, hp]
    rfl

theorem ep_only {s : State} {c : CoreId} {n : Nat} {e : Ep} (h : (s.core c).eps = [(n, e)]) : (s.core c).ep n = e := by
  rw [Core.ep, h]
  simp [mget]

/-- Two remote ends that name each other, each the only one of its core. -/
theorem handshake_meets {s : State} {c : CoreId} {n m : Nat} {e f : Ep} (hn : (s.core c).eps = [(n, e)])
    (hm : (s.core (e.peerCore c)).eps = [(m, f)]) (hrem : e.rem = true) (hx : e.matches_ c f (e.peerCore c) = true) :
    exec (.channelHandshake c) s = .next (s.meet c n (e.peerCore c) m) := by
  have hends : e.unpaired = true ∧ e.isCls = false := by
    simp only [Ep.matches_, Bool.and_eq_true, Bool.not_eq_true'] at hx
    simp only [hx, and_self]
  rw [exec_channelHandshake, execChannelHandshake]
  simp only [hn, List.filter_cons, List.filter_nil, hends.1, hends.2, hrem, Bool.not_false, Bool.and_self, if_true, hm, List.any_cons, List.any_nil, hx,
    Bool.or_false, oldestEp, State.pairEp, ep_only hn]

/-! Messages that arrive (R156 to R158). -/

theorem heldReady_none {s : State} {c : CoreId} (l : List Msg) (h : ∀ y ∈ l, y.dst ≠ c) : ∀ before, s.heldReady c before l = none := by
  induction l with
  | nil => exact fun _ => rfl
  | cons m l ih =>
    intro before
    have hm : (m.dst == c) = false := beq_false_of_ne (h m (List.mem_cons_self ..))
    simp only [State.heldReady, hm, Bool.false_and, Bool.false_eq_true, if_false]
    exact ih (fun y hy => h y (List.mem_cons_of_mem _ hy)) _

theorem comers_nil {c : CoreId} (l : List Msg) (h : ∀ y ∈ l, y.dst ≠ c) : ∀ before, comers c before l = [] := by
  induction l with
  | nil => exact fun _ => rfl
  | cons m l ih =>
    intro before
    have hm : (m.dst == c) = false := beq_false_of_ne (h m (List.mem_cons_self ..))
    simp only [comers, hm, Bool.false_and, Bool.false_eq_true, if_false]
    exact ih (fun y hy => h y (List.mem_cons_of_mem _ hy)) _

theorem arrival_idle {s : State} {c : CoreId} (h : ∀ y ∈ s.net, y.dst ≠ c) : exec (.ringMessageArrival c) s = .next s := by
  rw [exec_ringMessageArrival, execRingMessageArrival, heldReady_none _ h, comers_nil _ h]
  rfl

theorem return_idle {s : State} {c : CoreId} (n : Nat) (h : ∀ y ∈ s.net, y.dst ≠ c) : exec (.messageReturn c n) s = .next s := by
  have hnone : s.net.filter (fun m => m.dst == c && m.since.isSome) = [] :=
    List.filter_eq_nil_iff.mpr fun y hy => by simp [beq_false_of_ne (h y hy)]
  rw [exec_messageReturn, execMessageReturn, hnone]
  rfl

section
variable {s : State} {c : CoreId} {m : Msg}

/-- The one message under way is taken for the arrival; a draw has chosen it. -/
theorem arrival_underWay (h : OneMsg s c m) (hm : m.since = none) : exec (.ringMessageArrival c) s =
    .next (if s.ringRoom m then s.draw.2.arrive1 c m else { s.draw.2 with net := [{ m with since := some (s.cyc c) }] }) := by
  have hdst : (m.dst == c) = true := beq_iff_eq.mpr h.dst
  have hready : s.heldReady c [] s.net = none := by simp [h.only, State.heldReady, hm]
  have hcomers : comers c [] s.net = [m] := by simp [h.only, comers, hm, hdst]
  have hone (k : Nat) : [m][k % 1]? = some m := by rw [Nat.mod_one]; rfl
  have hnet : s.draw.2.net = [m] := h.only
  have hroom : s.draw.2.ringRoom m = s.ringRoom m := rfl
  rw [exec_ringMessageArrival, execRingMessageArrival, hready, hcomers]
  simp only [List.isEmpty_cons, Bool.false_eq_true, if_false, List.length_singleton, hone, hnet, hroom, List.any_cons, hm, Option.isSome_none,
    Bool.false_and, List.any_nil, Bool.or_false, Bool.false_or, List.erase_cons_head, List.nil_append]
  cases s.ringRoom m <;> rfl

/-- The one message, with room in its ring, goes in. -/
theorem arrival_goes (h : OneMsg s c m) (hroom : s.ringRoom m = true) :
    ∃ u, exec (.ringMessageArrival c) s = .next (u.arrive1 c m) ∧ OneMsg u c m ∧ CacheSide s u ∧ u.mem = s.mem := by
  cases hm : m.since with
  | none => exact ⟨s.draw.2, (arrival_underWay h hm).trans (congrArg _ (if_pos hroom)), ⟨h.only, h.dst, h.live⟩, side_draw s, rfl⟩
  | some a =>
    have hready : s.heldReady c [] s.net = some m := by simp [h.only, State.heldReady, hm, hroom, h.dst]
    refine ⟨s, ?_, h, .refl s, rfl⟩
    rw [exec_ringMessageArrival, execRingMessageArrival, hready]
end

/-! A message in its ring. -/

/-- Key of a position of a ring at a core. -/
def ringKey (c : CoreId) (base words pos : Nat) : Nat := keyLs c (base + 8 * (pos % words))

theorem ringKey_aligned {c : CoreId} {base : Nat} (h : base % 64 = 0) (words pos : Nat) : ringKey c base words pos % 8 = 0 := by
  have hoff : 2 ^ 3 ∣ base + 8 * (pos % words) := Nat.dvd_of_mod_eq_zero (by omega)
  have hkey := dvd_keyLs (by decide) hoff c
  rw [ringKey]
  exact Nat.mod_eq_zero_of_dvd hkey

/-- One word written into a ring. -/
def ringStore (s : State) (r : Word) (c : CoreId) (base words pos : Nat) (x : Word × Bool) : State :=
  s.bankStore r (ringKey c base words pos) (leBytes 8 x.1.toNat) x.2 (w64 (0x7F * 2 ^ 56 + (base + 8 * (pos % words))))

theorem ringWrite_pair (s : State) (r : Word) (c : CoreId) (base words pos : Nat) (x y : Word × Bool) :
    s.ringWrite r c base words pos [x, y] = ringStore (ringStore s r c base words pos x) r c base words (pos + 1) y := rfl

theorem ringStore_calm {s : State} {c : CoreId} {base words pos : Nat} (r : Word) (x : Word × Bool) (h : calmWord s (ringKey c base words pos / 8)) :
    BankWritten s (ringStore s r c base words pos x) (ringKey c base words pos) (leBytes 8 x.1.toNat) x.2 := bankStore_calm r _ _ _ h

/-- Two whole words written at different keys. -/
theorem bankWritten_two {s u t : State} {k0 k1 : Nat} {v w : Word} {p q : Bool} (ha : k0 % 8 = 0) (hb : k1 % 8 = 0) (hne : k0 ≠ k1)
    (hone : BankWritten s u k0 (leBytes 8 v.toNat) p) (htwo : BankWritten u t k1 (leBytes 8 w.toNat) q) :
    CacheSide s t ∧ memWord t (k0 / 8) = v ∧ memWord t (k1 / 8) = w ∧ t.pz (k1 / 8) = q ∧
      ∀ j, (j < k0 ∨ k0 + 8 ≤ j) → (j < k1 ∨ k1 + 8 ≤ j) → memGet t.mem j = memGet s.mem j := by
  have hoff {j : Nat} (hj : j < k1 ∨ k1 + 8 ≤ j) : memGet t.mem j = memGet u.mem j := by
    rw [htwo.mem]
    exact memGet_memWrite_off (by rw [length_leBytes]; omega)
  have h0 : memWord u (k0 / 8) = v := memWord_of_write (hone.mem.trans (by rw [Nat.mul_div_cancel' (Nat.dvd_of_mod_eq_zero ha)]))
  have h1 : memWord t (k1 / 8) = w := memWord_of_write (htwo.mem.trans (by rw [Nat.mul_div_cancel' (Nat.dvd_of_mod_eq_zero hb)]))
  refine ⟨hone.side.trans htwo.side, (memWord_congr fun i hi hj => hoff (by omega)).trans h0, h1, ?_, fun j hj0 hj1 => ?_⟩
  · rw [htwo.pz, if_pos rfl, length_leBytes]
    cases q <;> rfl
  · rw [hoff hj1, hone.mem]
    exact memGet_memWrite_off (by rw [length_leBytes]; omega)

/-- Positions next to each other in a ring of two words or more. -/
theorem ringKey_next {c : CoreId} {base words pos : Nat} (h2 : 2 ≤ words) : ringKey c base words pos ≠ ringKey c base words (pos + 1) := by
  intro he
  have hoff : base + 8 * (pos % words) = base + 8 * ((pos + 1) % words) := Nat.add_left_cancel he
  have hmod : pos ≡ pos + 1 [MOD words] := by rw [Nat.ModEq]; omega
  have hd := Nat.ModEq.dvd hmod
  simp only [Nat.cast_add, Nat.cast_one, add_sub_cancel_left] at hd
  have := Int.le_of_dvd one_pos hd
  omega

/-- Two words written into a ring, at words on which nothing waits. -/
theorem ringWrite_two {s : State} {c : CoreId} {base words pos : Nat} (r : Word) (x y : Word × Bool) (h : base % 64 = 0) (h2 : 2 ≤ words)
    (h0 : calmWord s (ringKey c base words pos / 8)) (h1 : calmWord s (ringKey c base words (pos + 1) / 8)) :
    CacheSide s (s.ringWrite r c base words pos [x, y]) ∧ memWord (s.ringWrite r c base words pos [x, y]) (ringKey c base words pos / 8) = x.1 ∧
      memWord (s.ringWrite r c base words pos [x, y]) (ringKey c base words (pos + 1) / 8) = y.1 ∧
      (s.ringWrite r c base words pos [x, y]).pz (ringKey c base words (pos + 1) / 8) = y.2 ∧
      ∀ j, (j < ringKey c base words pos ∨ ringKey c base words pos + 8 ≤ j) → (j < ringKey c base words (pos + 1) ∨ ringKey c base words (pos + 1) + 8 ≤ j) →
        memGet (s.ringWrite r c base words pos [x, y]).mem j = memGet s.mem j := by
  rw [ringWrite_pair]
  have hone := ringStore_calm r x h0
  exact bankWritten_two (ringKey_aligned h ..) (ringKey_aligned h ..) (ringKey_next h2) hone (ringStore_calm r y (calmWord_of hone.side h1))

/-- The message has left the network. -/
def erased (s : State) (m : Msg) : State := { s with net := s.net.erase m }

theorem side_erased (s : State) (m : Msg) : CacheSide s (erased s m) := ⟨side_of ⟨rfl, rfl, rfl, rfl, rfl⟩ rfl, rfl⟩

/-- The ring of a channel and that of a class with a message in it. -/
def channelWritten (s : State) (c : CoreId) (m : Msg) : State :=
  let e := (s.core c).ep m.target
  (erased s m).ringWrite e.serial c e.rbase e.rwords e.wpos ((ringHeader m.seq false m.srcCtx 0 1, false) :: m.words)
def classWritten (s : State) (c : CoreId) (m : Msg) : State :=
  let b := (s.core c).cls m.target
  (erased s m).ringWrite b.serial c b.rbase b.rwords b.wpos
    ((ringHeader b.seq.toNat true m.srcCtx (if b.wpos + 9 ≤ b.rwords then 0 else b.rwords - b.wpos) 8, false) :: m.words)

/-- What a message that has arrived counts at its receiving end, and at its class. -/
def arrivedEp (e : Ep) : Ep := { e with wpos := (e.wpos + 2) % e.rwords, received := e.received + 2 }
def arrivedCls (now : Nat) (b : ClassB) : ClassB :=
  { b with wpos := (b.wpos + 9) % b.rwords, msgs := b.msgs + 1, seq := b.seq + 1, lastAt := now
           fresh := if b.lastAt = now then b.fresh + 1 else 1 }

theorem arrive1_channel {s : State} {c : CoreId} {m : Msg} (h : m.cls = false) : s.arrive1 c m =
    ((channelWritten s c m).updEp c m.target arrivedEp).updCore c fun k => k.countRecv m.serial := by
  unfold State.arrive1
  simp only [h, Bool.false_eq_true, if_false]
  rfl

theorem arrive1_class {s : State} {c : CoreId} {m : Msg} (h : m.cls = true) : s.arrive1 c m =
    ((classWritten s c m).updCls c m.target (arrivedCls ((classWritten s c m).cyc c))).updCore c fun k => k.countRecv m.serial := by
  unfold State.arrive1
  simp only [h, if_true]
  rfl

theorem erased_only {s : State} {c : CoreId} {m : Msg} (h : OneMsg s c m) : s.net.erase m = [] := by rw [h.only, List.erase_cons_head]

theorem cls_updCore {s : State} {c d : CoreId} {f : Core → Core} (h : ∀ k, (f k).classes = k.classes) (n : Nat) :
    ((s.updCore c f).core d).cls n = (s.core d).cls n := cls_of_rings (rings_updCore s c h) d n

theorem class_arrives {s : State} {c : CoreId} {m : Msg} (h : OneMsg s c m) (hcls : m.cls = true) :
    let b := (s.core c).cls m.target
    let d := ((s.arrive1 c m).core c).cls m.target
    (s.arrive1 c m).net = [] ∧ d.msgs = b.msgs + 1 ∧ d.wpos = (b.wpos + 9) % b.rwords ∧ d.seq = b.seq + 1 := by
  have hr : RingsKept (erased s m) (classWritten s c m) := rings_ringWrite ..
  have hb : (((s.arrive1 c m).core c).cls m.target) = arrivedCls ((classWritten s c m).cyc c) ((s.core c).cls m.target) := by
    rw [arrive1_class hcls, cls_updCore (f := fun k => k.countRecv m.serial) fun _ => rfl, cls_updCls_self, cls_of_rings hr]
    rfl
  have hnet : (s.arrive1 c m).net = (classWritten s c m).net := by rw [arrive1_class hcls]; rfl
  intro b d
  refine ⟨hnet.trans (hr.net.trans (erased_only h)), ?_, ?_, ?_⟩
  · exact congrArg ClassB.msgs hb
  · exact congrArg ClassB.wpos hb
  · exact congrArg ClassB.seq hb

/-- What a channel's message leaves in its ring, at its end, and in the counts of its launch. -/
theorem channel_arrives {s : State} {c : CoreId} {m : Msg} {w : Word × Bool} {e : Ep} (h : OneMsg s c m) (hcls : m.cls = false) (hw : m.words = [w])
    (he : (s.core c).ep m.target = e) (h2 : 2 ≤ e.rwords) :
    let t := s.arrive1 c m
    let k0 := ringKey c e.rbase e.rwords e.wpos
    let k1 := ringKey c e.rbase e.rwords (e.wpos + 1)
    calmWord s (k0 / 8) → calmWord s (k1 / 8) →
      t.net = [] ∧ memWord t (k0 / 8) = ringHeader m.seq false m.srcCtx 0 1 ∧ memWord t (k1 / 8) = w.1 ∧ t.pz (k1 / 8) = w.2 ∧
        (t.core c).ep m.target = arrivedEp e ∧
        mget 0 (t.core c).msgRecv m.serial.toNat = mget 0 (s.core c).msgRecv m.serial.toNat + 1 ∧
        ∀ j, (j < k0 ∨ k0 + 8 ≤ j) → (j < k1 ∨ k1 + 8 ≤ j) → memGet t.mem j = memGet s.mem j := by
  intro t k0 k1 hc0 hc1
  have ht : t = ((channelWritten s c m).updEp c m.target arrivedEp).updCore c fun k => k.countRecv m.serial := arrive1_channel hcls
  have hr : RingsKept (erased s m) (channelWritten s c m) := rings_ringWrite ..
  have hwr : channelWritten s c m = (erased s m).ringWrite e.serial c e.rbase e.rwords e.wpos
      [(ringHeader m.seq false m.srcCtx 0 1, false), w] := by rw [channelWritten, hw, he]
  have h64 : e.rbase % 64 = 0 := Nat.mul_mod_left ..
  obtain ⟨hside, hhead, hword, hpz, hmem⟩ := ringWrite_two (s := erased s m) e.serial (ringHeader m.seq false m.srcCtx 0 1, false) w
    h64 h2 (calmWord_of (side_erased s m) hc0) (calmWord_of (side_erased s m) hc1)
  rw [← hwr] at hside hhead hword hpz hmem
  have hcore (d : CoreId) : (channelWritten s c m).core d = s.core d := by
    rw [State.core, hside.cores, (side_erased s m).cores, State.core]
  have hframe (u : State) (f : Ep → Ep) (g : Core → Core) : ((u.updEp c m.target f).updCore c g).net = u.net ∧
      ((u.updEp c m.target f).updCore c g).mem = u.mem ∧ ∀ v, ((u.updEp c m.target f).updCore c g).pz v = u.pz v := ⟨rfl, rfl, fun _ => rfl⟩
  obtain ⟨hn, hm, hp⟩ := hframe (channelWritten s c m) arrivedEp fun k => k.countRecv m.serial
  rw [← ht] at hn hm hp
  have hmw (v : Nat) : memWord t v = memWord (channelWritten s c m) v := by rw [memWord, memWord, State.rd, State.rd, hm]
  rw [hmw, hmw, hp, hm, hn]
  refine ⟨hr.net.trans (erased_only h), hhead, hword, hpz, ?_, ?_, hmem⟩
  all_goals rw [ht]
  · rw [ep_updCore (f := fun k => k.countRecv m.serial) fun _ => rfl, ep_updEp_self, hcore, he]
  · rw [core_updCore, Core.countRecv, mget_mset_self, State.updEp, core_updCore, hcore]

theorem launch_updLaunch {s : State} {r : Word} {f : Launch → Launch} (hf : ∀ l, (f l).serial = l.serial) (hk : s.known r = true) :
    (s.updLaunch r f).launch r = f (s.launch r) := by
  have hfind (l : List Launch) (h : l.any (fun x => x.serial == r) = true) : ∃ x, l.find? (fun x => x.serial == r) = some x ∧
      (l.map fun x => if x.serial = r then f x else x).find? (fun x => x.serial == r) = some (f x) := by
    induction l with
    | nil => cases h
    | cons x l ih =>
      by_cases hx : x.serial = r
      · exact ⟨x, by simp [hx], by simp [hx, hf]⟩
      · obtain ⟨y, hy, hfy⟩ := ih (by simpa [hx] using h)
        exact ⟨y, by simp [hx, hy], by simp [hx, hfy]⟩
  obtain ⟨x, hx, hfx⟩ := hfind s.launches hk
  simp only [State.launch, State.updLaunch, hx, hfx]

theorem errcnt_report {s : State} {r : Word} (x : Report) (hk : s.known r = true) : ((s.report r x).launch r).errcnt = (s.launch r).errcnt + 1 := by
  have hser (l : Launch) : (l.report x).serial = l.serial ∧ (l.report x).errcnt = l.errcnt + 1 := by
    unfold Launch.report
    extract_lets k
    split
    · exact ⟨rfl, rfl⟩
    · split <;> exact ⟨rfl, rfl⟩
  rw [State.report, launch_updLaunch (fun l => (hser l).1) hk, (hser _).2]

/-! A held message that goes back (R157). -/

section
variable {s : State} {c : CoreId} {m : Msg} {a : Nat}

theorem return_held (h : OneMsg s c m) (hm : m.since = some a) (n : Nat) :
    (s.net.filter fun m => m.dst == c && m.since.isSome)[n]? = if n = 0 then some m else none := by
  rw [h.only]
  cases n <;> simp [h.dst, hm]

theorem return_waits (h : OneMsg s c m) (hm : m.since = some a) (hw : s.cyc c - a ≤ m.tmo ∨ s.ringRoom m = true) (n : Nat) :
    exec (.messageReturn c n) s = .next s := by
  rw [exec_messageReturn, execMessageReturn]
  simp only [return_held h hm]
  by_cases hn : n = 0
  · simp only [hn, if_true, hm, Option.getD_some]
    rcases hw with hw | hw
    · simp [hw]
    · simp [hw]
  · simp only [hn, if_false]

/-- The network without the message, and its launch told. -/
def returnTold (s : State) (c : CoreId) (m : Msg) : State :=
  let k := s.core c
  let bound := if m.cls then (k.cls m.target).bound else (k.ep m.target).bound
  let base := if m.cls then (k.cls m.target).rbase else (k.ep m.target).rbase
  let r := ({ s with net := [] } : State).draw
  r.2.report m.serial
    { cls := 10, detail := 2, engine := r.1.toNat % 16, ctx := m.srcCtx, unit := place c, addr := if bound then w64 (0x7F * 2 ^ 56 + base) else 0 }

/-- What the sending end keeps of the message: the error that its thread meets, and the slots it has again. -/
def returnedEp (m : Msg) (e : Ep) : Ep :=
  { e with returned := true, free := if m.cls then e.free else e.free + 2, sent := if m.cls then e.sent else e.sent - 2 }

theorem return_goes (h : OneMsg s c m) (hm : m.since = some a) (hw : m.tmo < s.cyc c - a) (hroom : s.ringRoom m = false)
    (hs : s.ringOwner m ∉ (s.core c).stopped) (hb : ((s.core m.src).ep m.srcEp).bound = true) (ho : ((s.core m.src).ep m.srcEp).order = m.srcOrder) :
    exec (.messageReturn c 0) s = .next ((returnTold s c m).updEp m.src m.srcEp (returnedEp m)) := by
  have hstop : (s.core c).stopped.contains (s.ringOwner m) = false := by simpa using hs
  have hnet : s.net.erase m = [] := by rw [h.only, List.erase_cons_head]
  have hend : ((((returnTold s c m).core m.src).ep m.srcEp).bound && (((returnTold s c m).core m.src).ep m.srcEp).order == m.srcOrder) = true := by
    rw [Bool.and_eq_true, beq_iff_eq]
    exact ⟨hb, ho⟩
  rw [exec_messageReturn, execMessageReturn]
  simp only [return_held h hm, if_true, hm, Option.getD_some, not_le.mpr hw, hstop, h.live, hroom, decide_false, Bool.or_self, Bool.false_eq_true, if_false,
    hnet]
  exact if_pos hend

end

/-! Timeouts and audits (R156, R159). -/

section
variable {s : State} {t : ThreadId}

theorem timeout_none (h : (s.ctx t).held = none) : exec (.channelTimeout t) s = .next s := by
  rw [exec_channelTimeout, execChannelTimeout]
  simp only [h]
theorem timeout_waits {h : Held} {ep : Nat} (hh : (s.ctx t).held = some h) (hc : h.cause = .send ep)
    (hw : (s.ctx t).st ≠ .parked ∨ s.cycleOf t - h.since ≤ h.left.getD (s.ctx t).chtmo.toNat) : exec (.channelTimeout t) s = .next s := by
  rw [exec_channelTimeout, execChannelTimeout]
  simp only [hh, hc]
  exact if_neg fun hp => hw.elim (· hp.1) (not_le.mpr hp.2)
theorem timeout_traps {h : Held} {ep : Nat} (hh : (s.ctx t).held = some h) (hc : h.cause = .send ep) (hp : (s.ctx t).st = .parked)
    (hw : h.left.getD (s.ctx t).chtmo.toNat < s.cycleOf t - h.since) : exec (.channelTimeout t) s = .next (s.trapAt t 10 2 0) := by
  rw [exec_channelTimeout, execChannelTimeout]
  simp only [hh, hc]
  exact if_pos ⟨hp, hw⟩
end

/-- One end broken by an audit, and its launch told. -/
def breakOne (det : Nat) (s : State) (c : CoreId) (n : Nat) : State :=
  let e := (s.core c).ep n
  let a : Word := if e.rx then w64 (0x7F * 2 ^ 56 + e.rbase) else 0
  let r := (s.updEp c n fun e => { e with broken := det }).draw
  r.2.report e.serial { cls := 10, detail := det, engine := r.1.toNat % 16, ctx := e.ctx, unit := place c, addr := a }

theorem breakOne_mem (det : Nat) (s : State) (c : CoreId) (n : Nat) : (breakOne det s c n).mem = s.mem := rfl

theorem ep_breakOne (det : Nat) (s : State) (c d : CoreId) (n m : Nat) : ((breakOne det s c n).core d).ep m =
    if coreKey d = coreKey c ∧ m = n then { (s.core d).ep m with broken := det } else (s.core d).ep m :=
  ep_updEp s c d n m fun e => { e with broken := det }

theorem broken_breakOne (det : Nat) (s : State) (c : CoreId) (n : Nat) : (((breakOne det s c n).core c).ep n).broken = det := by
  rw [ep_breakOne, if_pos (And.intro rfl rfl)]

theorem breakChannel_peer {s : State} {c d : CoreId} {n m : Nat} (det : Nat) (h : ((s.core c).ep n).peer = some (coreKey d, m))
    (hd : coreOf (coreKey d) = d) : s.breakChannel c n det = breakOne det (breakOne det s c n) d m := by
  unfold State.breakChannel
  simp only [h, hd]
  rfl

section
variable {s : State} {c d : CoreId} {n : BitVec 5} {m : Nat}

theorem audit_none (h : ((s.core c).ep n.toNat).peer = none) : exec (.channelAudit c n) s = .next s := by
  rw [exec_channelAudit, execChannelAudit]
  simp only [h]

/-- An audit that finds nothing to compare, or counters that agree. -/
theorem audit_agrees (hp : ((s.core c).ep n.toNat).peer = some (coreKey d, m)) (hd : coreOf (coreKey d) = d)
    (h : ((s.core c).ep n.toNat).rem = false ∨ ((s.core c).ep n.toNat).rx = true ∨ ((s.core c).ep n.toNat).met = false ∨
      ((s.core c).ep n.toNat).sent = ((s.core d).ep m).received ∧
        ((s.core c).ep n.toNat).free + (((s.core c).ep n.toNat).sent - ((s.core d).ep m).consumed).toNat = ((s.core d).ep m).rwords) :
    exec (.channelAudit c n) s = .next s := by
  rw [exec_channelAudit, execChannelAudit]
  simp only [hp, hd]
  rcases h with h | h | h | ⟨h1, h2⟩
  · simp [h]
  · simp [h]
  · simp [h]
  · have hb : (((s.core c).ep n.toNat).sent == ((s.core d).ep m).received && ((s.core c).ep n.toNat).free +
        (((s.core c).ep n.toNat).sent - ((s.core d).ep m).consumed).toNat == ((s.core d).ep m).rwords) = true := by
      rw [Bool.and_eq_true, beq_iff_eq, beq_iff_eq]
      exact ⟨h1, h2⟩
    simp only [hb, if_true, ite_self]

end

theorem audit_breaks {s : State} {c d : CoreId} {n : BitVec 5} {m : Nat} (hp : ((s.core c).ep n.toNat).peer = some (coreKey d, m))
    (hd : coreOf (coreKey d) = d) (hrem : ((s.core c).ep n.toNat).rem = true) (hrx : ((s.core c).ep n.toNat).rx = false)
    (hmet : ((s.core c).ep n.toNat).met = true) (hnet : s.net = [])
    (h : ¬(((s.core c).ep n.toNat).sent = ((s.core d).ep m).received ∧
        ((s.core c).ep n.toNat).free + (((s.core c).ep n.toNat).sent - ((s.core d).ep m).consumed).toNat = ((s.core d).ep m).rwords)) :
    exec (.channelAudit c n) s = .next (s.breakChannel c n.toNat 3) := by
  have hb : (((s.core c).ep n.toNat).sent == ((s.core d).ep m).received && ((s.core c).ep n.toNat).free +
      (((s.core c).ep n.toNat).sent - ((s.core d).ep m).consumed).toNat == ((s.core d).ep m).rwords) = false := by
    rw [Bool.eq_false_iff, ne_eq, Bool.and_eq_true, beq_iff_eq, beq_iff_eq]
    exact h
  rw [exec_channelAudit, execChannelAudit]
  simp only [hp, hd, hrem, hrx, hmet, hnet, hb, List.any_nil, Bool.not_true, Bool.or_self, Bool.false_eq_true, if_false]

end Sys2Proof.Machine.Laws
end

section
open Sys2Proof Sys2Proof.Machine Sys2Proof.Machine.Laws

/-- Settles O47: what each event of a channel does to its ends, its ring and the network. -/
theorem channelEvents : Obligations.ChannelEvents := by
  unfold Obligations.ChannelEvents
  refine ⟨fun s c n m e f => ⟨handshake_idle, fun hn hcd hm hrem hx hre hrf => ?_⟩, fun s c m w n => ⟨fun h => ⟨arrival_idle h, return_idle n h⟩,
    fun h hcls hw hmet hpeer hroom h0 h1 => ?_, fun h hcls hb hroom => ?_, fun h hroom hm => ?_, fun a h hm => ⟨fun hw => return_waits h hm hw n, ?_⟩⟩,
    fun s t h ep => ⟨timeout_none, timeout_waits, timeout_traps⟩, fun s c d n m => ⟨audit_none, fun hp h hd => audit_agrees hp hd h, ?_⟩⟩
  · have hep := ep_only hn
    have hfp := ep_only hm
    refine ⟨_, handshake_meets hn hm hrem hx, ?_⟩
    cases hrx : e.rx with
    | true =>
      obtain ⟨hmem, hb, ha⟩ := meetRx_ends (s := s) (c := e.peerCore c) (d := c) (n := m) (m := n) hcd.symm (by rw [hfp]; exact hrf)
      rw [State.meet, hep, hrx, if_pos rfl]
      refine ⟨fun k => by rw [hmem], ?_⟩
      simp only [ha, hb, hep, hfp]
      exact ⟨rfl, rfl, rfl, rfl, rfl, rfl, rfl, rfl, rfl, rfl⟩
    | false =>
      obtain ⟨hmem, ha, hb⟩ := meetRx_ends (s := s) (c := c) (d := e.peerCore c) (n := n) (m := m) hcd (by rw [hep]; exact hre)
      rw [State.meet, hep, hrx, if_neg Bool.false_ne_true]
      refine ⟨fun k => by rw [hmem], ?_⟩
      simp only [ha, hb, hep, hfp]
      exact ⟨rfl, rfl, rfl, rfl, rfl, rfl, rfl, rfl, rfl, rfl⟩
  · have hgo : s.ringRoom m = true := by
      simp only [State.ringRoom, h.live, hcls, h.dst, hmet, hpeer, beq_self_eq_true, Bool.or_true, Bool.and_self, Bool.false_eq_true, if_false,
        Bool.true_and]
      exact decide_eq_true hroom
    obtain ⟨u, hu, hone, hside, hmem⟩ := arrival_goes h hgo
    have hcore : u.core c = s.core c := by rw [State.core, State.core, hside.cores]
    have hcalm {v : Nat} (hv : takesWord s v) : calmWord u v := calmWord_of hside hv.1
    have hal (p : Nat) : 8 * (ringKey c ((s.core c).ep m.target).rbase ((s.core c).ep m.target).rwords p / 8) =
        ringKey c ((s.core c).ep m.target).rbase ((s.core c).ep m.target).rwords p :=
      Nat.mul_div_cancel' (Nat.dvd_of_mod_eq_zero (ringKey_aligned (Nat.mul_mod_left ..) ..))
    obtain ⟨hnet, hhead, hword, hpz, hep, hcount, hrest⟩ :=
      channel_arrives (e := (s.core c).ep m.target) hone hcls hw (by rw [hcore]) (by omega) (hcalm h0) (hcalm h1)
    refine ⟨_, hu, hnet, hhead, hword, hpz, congrArg Ep.received hep, congrArg Ep.wpos hep, hcount.trans (by rw [hcore]), fun j hj0 hj1 => ?_⟩
    rw [← hmem]
    exact hrest j (by rwa [← hal]) (by rwa [← hal])
  · have hgo : s.ringRoom m = true := by
      simp only [State.ringRoom, h.live, hcls, h.dst, hb, Bool.false_eq_true, if_false, if_true, Bool.true_and]
      exact decide_eq_true hroom
    obtain ⟨u, hu, hone, hside, -⟩ := arrival_goes h hgo
    have hcore : s.core c = u.core c := by rw [State.core, State.core, hside.cores]
    rw [hcore]
    exact ⟨_, hu, class_arrives hone hcls⟩
  · exact ⟨_, (arrival_underWay h hm).trans (congrArg _ (if_neg (by rw [hroom]; exact Bool.false_ne_true))), fun _ => rfl, rfl⟩
  · intro hw hroom hs hb ho hk
    have hep : (((returnTold s c m).updEp m.src m.srcEp (returnedEp m)).core m.src).ep m.srcEp = returnedEp m ((s.core m.src).ep m.srcEp) :=
      ep_updEp_self ..
    refine ⟨_, return_goes h hm hw hroom hs hb ho, fun _ => rfl, rfl, congrArg Ep.returned hep, by rw [hep]; rfl, congrArg Ep.free hep, ?_⟩
    exact errcnt_report (s := ({ s with net := [] } : State).draw.2) _ hk
  · intro hp hd hrem hrx hmet hnet h
    refine ⟨_, (audit_breaks hp hd hrem hrx hmet hnet h).trans (congrArg _ (breakChannel_peer 3 hp hd)), fun _ => rfl, ?_, ?_⟩
    · rw [ep_breakOne]
      split
      · rfl
      · exact broken_breakOne ..
    · exact broken_breakOne ..

end

section
/-! Rules for the forms that complete: banked addresses, the chunk instructions, and what a store of a core's own gives
(07 R134, R150; 08 R169, R170; 20 R408, R410, R416). -/

namespace Sys2Proof.Machine.Laws

/-! Banked memory that a launch may use (R134). -/

/-- The kind of a plain access. -/
def accOf (wr : Bool) : Acc1 := if wr then .store else .load

theorem locate_region {s : State} {l : Launch} {c : CoreId} {a : Word} {n q : Nat} {wr : Bool} (h : regionLoc l c a n wr = some (.bank q)) :
    s.locate l c a n (accOf wr) = .bank q := by
  unfold State.locate
  extract_lets v w o tc p
  have hw : w = wr := by cases wr <;> rfl
  have ho : o = v % 2 ^ 21 := by rw [show o = v / 2 ^ 0 % 2 ^ 21 from rfl, pow_zero, Nat.div_one]
  have hp : p = v % 2 ^ 25 := by rw [show p = v / 2 ^ 0 % 2 ^ 25 from rfl, pow_zero, Nat.div_one]
  clear_value w o p
  subst hw ho hp
  unfold regionLoc at h
  by_cases h1 : v / 2 ^ 56 = 0x7F
  · rw [if_pos h1, Option.some.injEq] at h
    simp only [h1, Bool.and_eq_true, decide_eq_true_eq]
    exact h
  by_cases h2 : v / 2 ^ 56 = 0x7C
  · rw [if_neg h1, if_pos h2, Option.some.injEq] at h
    simp only [h2, Bool.and_eq_true, decide_eq_true_eq]
    exact h
  by_cases h3 : v / 2 ^ 56 = 0x7E
  · rw [if_neg h1, if_neg h2, if_pos h3] at h
    simp only [h3]
    exact Option.some.inj h
  rw [if_neg h1, if_neg h2, if_neg h3] at h
  split_ifs at h <;> cases h

theorem checkAcc_region {s : State} {a : Word} {n al q : Nat} {wr : Bool} (hal : a.toNat % al = 0)
    (h : regionLoc (s.launchOf s.cur) s.cur.core a n wr = some (.bank q)) : s.checkAcc s.cur a n al (accOf wr) = .bank q := by
  rw [State.checkAcc, if_neg (not_not.mpr hal), locate_region h]
  rfl

/-! Data operations of a schedule (20 R408, R410, R416). -/

theorem exec_hSend (u : BitVec 3) (even : Bool) (ev : BitVec 3) (p : BitVec 5) (ch : BitVec 6) (len : BitVec 14) (off : BitVec 24) (s : State) :
    exec (.hSend u even ev p ch len off) s = s.haloStart 0 u.toNat even ev.toNat p.toNat ch.toNat 0 0 len.toNat off.toNat := rfl
theorem exec_hRecv (u : BitVec 3) (even : Bool) (ev : BitVec 3) (p : BitVec 5) (ch : BitVec 6) (len : BitVec 14) (off : BitVec 24) (s : State) :
    exec (.hRecv u even ev p ch len off) s = s.haloStart 1 u.toNat even ev.toNat p.toNat ch.toNat 0 0 len.toNat off.toNat := rfl
theorem exec_hReduce (u : BitVec 3) (even : Bool) (ev : BitVec 3) (p : BitVec 5) (ch : BitVec 6) (r : BitVec 4) (len : BitVec 14) (off : BitVec 24)
    (s : State) :
    exec (.hReduce u even ev p ch r len off) s = s.haloStart 2 u.toNat even ev.toNat p.toNat ch.toNat r.toNat 0 len.toNat off.toNat := rfl
theorem exec_hCopy (u : BitVec 3) (even : Bool) (ev w : BitVec 3) (len : BitVec 14) (off : BitVec 24) (s : State) :
    exec (.hCopy u even ev w len off) s = s.haloStart 3 u.toNat even ev.toNat 0 0 0 w.toNat len.toNat off.toNat := rfl

theorem sched_updSched {s : State} {d n : Nat} {f : Sched → Sched} {c : Sched} (h : s.sched_ d n = some c) :
    (s.updSched d n f).sched_ d n = some (f c) := by
  have hh : ((s.die d).htag n).sched = some c := h
  simp only [State.updSched, State.updHTag, State.sched_, die_updDie, Die.htag, mget_mset_self]
  exact congrArg (Option.map f) hh

/-- The next match number changes nothing of its schedule but its counts. -/
theorem takeNum_keeps {s : State} {d n : Nat} {c : Sched} (key : Nat) (h : s.sched_ d n = some c) :
    ∃ m, (s.takeNum d n c key).2.sched_ d n = some { c with cnts := m } ∧ (s.takeNum d n c key).2.mem = s.mem ∧
      (s.takeNum d n c key).2.cores = s.cores := by
  unfold State.takeNum
  extract_lets k m
  split
  · next g _ =>
    refine ⟨_, sched_updSched (s := s.updDie d fun x => { x with gave := x.gave.erase g }) ?_, rfl, rfl⟩
    exact (congrArg (fun x : Die => (x.htag n).sched) (die_updDie ..)).trans h
  · exact ⟨_, sched_updSched h, rfl, rfl⟩

/-- A buffer in region 0x00 fails no check. -/
theorem buffer_sound {s : State} {c : Sched} {base a : Word} {n : Nat} {k : Acc1} (hb : base.toNat / 2 ^ 56 = 0) (h8 : a.toNat % 8 = 0)
    (ha : a.toNat < 2 ^ 52) : (baseFail base a).or (s.haloRange c a n k) = none := by
  have hr : a.toNat / 2 ^ 56 = 0 := Nat.div_eq_of_lt (by omega)
  have hbits : bits a 55 52 = 0 := by rw [bits, Nat.div_eq_of_lt ha, Nat.zero_mod]
  have hbase : baseFail base a = none := by
    unfold baseFail
    rw [if_neg (by omega), if_neg (by omega)]
  have hrange : s.haloRange c a n k = none := by
    unfold State.haloRange
    rw [if_neg (not_not.mpr h8), if_neg (by omega), if_neg (by omega), if_pos hr, if_neg (not_not.mpr hbits)]
  rw [hbase, hrange]
  rfl

/-- One buffer: a send, a receive, a reduction. -/
theorem haloChecks_one {s : State} {c : Sched} {base a : Word} {src : Word × Word} {kind n : Nat} (hk : kind ≠ 3) (hb : base.toNat / 2 ^ 56 = 0)
    (h8 : a.toNat % 8 = 0) (ha : a.toNat < 2 ^ 52) : s.haloChecks c kind (base, a) src n = none := by
  unfold State.haloChecks
  rw [if_neg (not_not.mpr h8), if_neg (fun h => hk h.1), if_neg hk, Option.or_none]
  exact buffer_sound hb h8 ha

/-- Two buffers: a copy. -/
theorem haloChecks_two {s : State} {c : Sched} {base a base' a' : Word} {n : Nat} (hb : base.toNat / 2 ^ 56 = 0) (h8 : a.toNat % 8 = 0)
    (ha : a.toNat < 2 ^ 52) (hb' : base'.toNat / 2 ^ 56 = 0) (h8' : a'.toNat % 8 = 0) (ha' : a'.toNat < 2 ^ 52) :
    s.haloChecks c 3 (base, a) (base', a') n = none := by
  unfold State.haloChecks
  rw [if_neg (not_not.mpr h8), if_neg (fun h => h.2 h8'), if_pos rfl]
  exact (congrArg₂ Option.or (buffer_sound hb h8 ha) (buffer_sound hb' h8' ha')).trans rfl

section
variable {s : State} {c : Sched} {kind base : Nat} {even : Bool} {ev peer ch opr sbase len off : Nat}

/-- A data operation starts where its checks find nothing: it stands last in its schedule, which goes on. -/
theorem haloStart_goes (hc : ChunkOn s c) (h64 : s.haloOps s.curHalo.1 < 64) (hp : kind ≠ 3 → s.portLost s.curHalo.1 peer = false)
    (hok : s.haloChecks c kind (mget 0 c.bases base, mget 0 c.bases base + w64 (8 * off)) (mget 0 c.bases sbase, mget 0 c.bases sbase + w64 (8 * off))
      (8 * len) = none) :
    ∃ t d o, s.haloStart kind base even ev peer ch opr sbase len off = .next t ∧ ChunkGoes s t d ∧ d.ops = c.ops ++ [o] ∧ d.pcix = c.pcix + 1 ∧
      o.va = mget 0 c.bases base + w64 (8 * off) ∧ o.len = 8 * len := by
  obtain ⟨hat, hstop, hfrozen⟩ := hc
  have hat' : s.sched_ s.curHalo.1 s.curHalo.2 = some c := hat
  have hlost : ¬(kind ≠ 3 ∧ s.portLost s.curHalo.1 peer = true) := fun ⟨h3, h⟩ => by rw [hp h3] at h; cases h
  obtain ⟨m, u, hnum, hsched, hmem, hcores⟩ : ∃ m u, (if kind = 3 then (0, s) else s.takeNum s.curHalo.1 s.curHalo.2 c (opKey (kind == 0) peer ch)) = u ∧
      u.2.sched_ s.curHalo.1 s.curHalo.2 = some { c with cnts := m } ∧ u.2.mem = s.mem ∧ u.2.cores = s.cores := by
    split
    · exact ⟨c.cnts, _, rfl, hat', rfl, rfl⟩
    · obtain ⟨m, h⟩ := takeNum_keeps (opKey (kind == 0) peer ch) hat'
      exact ⟨m, _, rfl, h⟩
  obtain ⟨o, hrun, hva, hlen⟩ : ∃ o : HaloOp, s.haloStart kind base even ev peer ch opr sbase len off = .next (u.2.fresh.2.updSched s.curHalo.1 s.curHalo.2
      fun x => { x.go with ops := x.ops ++ [o] }) ∧ o.va = mget 0 c.bases base + w64 (8 * off) ∧ o.len = 8 * len := by
    refine ⟨⟨kind, mget 0 c.bases base + w64 (8 * off), mget 0 c.bases sbase + w64 (8 * off), 8 * len, even, ev, peer, ch, opr, u.2.fresh.1, u.1,
      c.pcix, false, false⟩, ?_, rfl, rfl⟩
    unfold State.haloStart State.onSched
    simp only [hat', hstop, hfrozen, Bool.false_and, Bool.or_self, Bool.false_eq_true, if_false, if_neg (Nat.not_le.mpr h64), if_neg hlost, hok, hnum]
  exact ⟨_, _, o, hrun, ⟨sched_updSched (s := u.2.fresh.2) hsched, fun k => congrArg (fun x => memGet x k) hmem,
    fun v => congrArg (fun x : SMap Core => (mget Core.reset x (coreKey v.core)).ctx v.ctx) hcores⟩, rfl, rfl, hva, hlen⟩

end

theorem portLost_way {s : State} {d peer : Nat}
    (h : peer < 16 ∨ (bit s.dev.xlost (peer - 16) = false ∧ s.routed d ((peer - 16) / 2) = true)) : s.portLost d peer = false := by
  unfold State.portLost
  obtain hp | ⟨hx, hr⟩ := h
  · rw [decide_eq_false (Nat.not_le.mpr hp), Bool.false_and]
  · rw [hx, hr, Bool.not_true, Bool.or_self, Bool.and_false]

theorem chunkForms_start {s : State} {c : Sched} {u : BitVec 3} {even : Bool} {ev w : BitVec 3} {p : BitVec 5} {ch : BitVec 6} {r : BitVec 4}
    {len : BitVec 14} {off : BitVec 24} (hc : ChunkOn s c) (h64 : s.haloOps s.curHalo.1 < 64)
    (hp : p.toNat < 16 ∨ (bit s.dev.xlost (p.toNat - 16) = false ∧ s.routed s.curHalo.1 ((p.toNat - 16) / 2) = true))
    (hb : (mget 0 c.bases u.toNat).toNat / 2 ^ 56 = 0) (hw : (mget 0 c.bases w.toNat).toNat / 2 ^ 56 = 0)
    (h8 : (mget 0 c.bases u.toNat + w64 (8 * off.toNat)).toNat % 8 = 0) (hlt : (mget 0 c.bases u.toNat + w64 (8 * off.toNat)).toNat < 2 ^ 52)
    (h8' : (mget 0 c.bases w.toNat + w64 (8 * off.toNat)).toNat % 8 = 0) (hlt' : (mget 0 c.bases w.toNat + w64 (8 * off.toNat)).toNat < 2 ^ 52)
    (i : Instr) (hi : i ∈ [Instr.hSend u even ev p ch len off, .hRecv u even ev p ch len off, .hReduce u even ev p ch r len off, .hCopy u even ev w len off]) :
    ∃ t d o, exec i s = .next t ∧ ChunkGoes s t d ∧ d.ops = c.ops ++ [o] ∧ d.pcix = c.pcix + 1 ∧
      o.va = mget 0 c.bases u.toNat + w64 (8 * off.toNat) ∧ o.len = 8 * len.toNat := by
  have hp' := portLost_way hp
  have hpeer (kind opr : Nat) (h3 : kind ≠ 3) : ∃ t d o, s.haloStart kind u.toNat even ev.toNat p.toNat ch.toNat opr 0 len.toNat off.toNat = .next t ∧
      ChunkGoes s t d ∧ d.ops = c.ops ++ [o] ∧ d.pcix = c.pcix + 1 ∧ o.va = mget 0 c.bases u.toNat + w64 (8 * off.toNat) ∧ o.len = 8 * len.toNat :=
    haloStart_goes hc h64 (fun _ => hp') (haloChecks_one h3 hb h8 hlt)
  simp only [List.mem_cons, List.not_mem_nil, or_false] at hi
  obtain rfl | rfl | rfl | rfl := hi
  · exact hpeer 0 0 (by decide)
  · exact hpeer 1 0 (by decide)
  · exact hpeer 2 r.toNat (by decide)
  · exact haloStart_goes hc h64 (absurd rfl) (haloChecks_two hb h8 hlt hw h8' hlt')

end Sys2Proof.Machine.Laws
end

section
/-! BANKOP completes on a block of Nimbus (07 R150). -/

namespace Sys2Proof.Machine.Laws

/-- Where a block of Nimbus inside the launch's range lies. -/
theorem regionLoc_nimbus {l : Launch} {c : CoreId} {a : Word} {n : Nat} {wr : Bool} (hr : a.toNat / 2 ^ 25 = 0x7E * 2 ^ 31) (hlo : l.nmbase ≤ a.toNat % 2 ^ 25)
    (hhi : a.toNat % 2 ^ 25 + n ≤ l.nmbase + l.nmsize) : regionLoc l c a n wr = some (.bank (2 ^ 61 + c.die * 2 ^ 25 + a.toNat % 2 ^ 25)) := by
  unfold regionLoc
  extract_lets v o foot store p
  have h7E : v / 2 ^ 56 = 0x7E := by omega
  have hmid : v / 2 ^ 25 % 2 ^ 31 = 0 := by omega
  rw [if_neg (by omega), if_neg (by omega), if_pos h7E, if_neg (not_not.mpr hmid), if_pos (And.intro hlo hhi)]

/-- What an operation of a block leaves: the context has moved on with its registers, and only the block has changed. -/
theorem Opped.completes {x : BankOp} {s u : State} {j : Nat} (h : Opped x s u j) :
    Completes s (u.updMe fun c => c.next 4) ∧ SameX s (u.updMe fun c => c.next 4) ∧ SameOthers s (u.updMe fun c => c.next 4) ∧
      OnlyAt s (u.updMe fun c => c.next 4) x.k (8 * j) := by
  refine ⟨?_, fun r => ?_, fun v hv => ?_, h.mem⟩
  · rw [Completes, me_updMe, h.me]
    exact ⟨rfl, rfl, rfl⟩
  · rw [me_updMe, h.me]
    exact ⟨rfl, rfl⟩
  · rw [sameOthers_updMe u _ v (by rw [h.cur]; exact hv), h.others v hv]

theorem bankForms_complete {s : State} {q : BitVec 2} {a : BitVec 5} {c : BitVec 4} {n : BitVec 3} (hq : Quiet s)
    (hf : (Fmt.ofClass c.toNat).isSome = true) (h8 : (s.me.x a.toNat).toNat % 8 = 0) (h64 : (s.me.x a.toNat).toNat % 64 + 8 * (n.toNat + 1) ≤ 64)
    (hr : (s.me.x a.toNat).toNat / 2 ^ 25 = 0x7E * 2 ^ 31) (hlo : (s.launchOf s.cur).nmbase ≤ (s.me.x a.toNat).toNat % 2 ^ 25)
    (hhi : (s.me.x a.toNat).toNat % 2 ^ 25 + 8 * (n.toNat + 1) ≤ (s.launchOf s.cur).nmbase + (s.launchOf s.cur).nmsize)
    (hw : ∀ w ∈ wordsOf (2 ^ 61 + s.cur.die * 2 ^ 25 + (s.me.x a.toNat).toNat % 2 ^ 25) (8 * (n.toNat + 1)),
      mget 0 s.badWords w = 0 ∧ bankKey w ∉ s.dev.retired ∧ calmWord s w)
    (i : Instr) (hi : i ∈ [Instr.bankopAdd q a c n, .bankopMax q a c n, .bankopMin q a c n, .bankopAxpy q a c n]) :
    ∃ t, exec i s = .next t ∧ Completes s t ∧ SameX s t ∧ SameOthers s t ∧
      OnlyAt s t (2 ^ 61 + s.cur.die * 2 ^ 25 + (s.me.x a.toNat).toNat % 2 ^ 25) (8 * (n.toNat + 1)) := by
  obtain ⟨f, hf⟩ := Option.isSome_iff_exists.mp hf
  have hk : s.checkAcc s.cur (s.me.x a.toNat) (8 * (n.toNat + 1)) 8 .store = .bank (2 ^ 61 + s.cur.core.die * 2 ^ 25 + (s.me.x a.toNat).toNat % 2 ^ 25) :=
    checkAcc_region (wr := true) h8 (regionLoc_nimbus hr hlo hhi)
  have hk8 : (2 ^ 61 + s.cur.core.die * 2 ^ 25 + (s.me.x a.toNat).toNat % 2 ^ 25) % 8 = 0 := by omega
  have hform (j : Instr) (op : Nat) (he : exec j s = s.bankop j op q a c n) : ∃ t, exec j s = .next t ∧ Completes s t ∧ SameX s t ∧ SameOthers s t ∧
      OnlyAt s t (2 ^ 61 + s.cur.die * 2 ^ 25 + (s.me.x a.toNat).toNat % 2 ^ 25) (8 * (n.toNat + 1)) := by
    obtain ⟨u, hop, hrun⟩ := bankop_opped h8 h64 (by omega) hq hf hk hk8 (fun w h => ⟨(hw w h).1, (hw w h).2.1⟩) (fun w h => (hw w h).2.2)
    exact ⟨_, he.trans hrun, hop.completes⟩
  simp only [List.mem_cons, List.not_mem_nil, or_false] at hi
  obtain rfl | rfl | rfl | rfl := hi
  · exact hform _ 0 rfl
  · exact hform _ 1 rfl
  · exact hform _ 2 rfl
  · exact hform _ 3 rfl

end Sys2Proof.Machine.Laws
end

section
/-! STRM.BIND and STRM.END complete (13 R293, R294), and what an idle vector unit accepts (11 R231). -/

namespace Sys2Proof.Machine.Laws

/-- An idle vector unit takes a command. -/
theorem vuTakes_idle {s : State} (h : VuIdle s) (ctx : Nat) (e : Bool) : (s.core s.cur.core).vuTakes ctx e = true := by
  obtain ⟨hq, hr, hw⟩ := h.held
  simp [Core.vuTakes, Core.strw, hq, hr, hw]

/-- The executing core, once its thread is updated. -/
theorem core_updMe (s : State) (f : Ctx → Ctx) : (s.updMe f).core s.cur.core = (s.core s.cur.core).setCtx s.cur.ctx (f s.me) := by
  rw [State.updMe, State.updCtx, State.setCtx, core_updCore]
  rfl

/-- Where the executing core's own store leads: inside the launch's part of it. -/
theorem regionLoc_store {l : Launch} {c : CoreId} {a : Word} {n : Nat} (hr : a.toNat / 2 ^ 21 = 0x7F * 2 ^ 35) (hon : l.on c = true)
    (hlo : l.base c ≤ a.toNat % 2 ^ 21) (hhi : a.toNat % 2 ^ 21 + n ≤ l.base c + l.lssize) :
    regionLoc l c a n false = some (.bank (2 ^ 60 + coreKey c * 2 ^ 21 + a.toNat % 2 ^ 21)) := by
  unfold regionLoc
  extract_lets v o foot store
  have h7F : v / 2 ^ 56 = 0x7F := by omega
  have hmid : v / 2 ^ 21 % 2 ^ 35 = 0 := by omega
  have hfoot : foot c := ⟨hon, hlo, hhi⟩
  rw [if_pos h7F, if_neg (not_not.mpr hmid)]
  unfold store
  rw [if_neg (fun h => Bool.noConfusion h.1), if_pos hfoot, ite_self]

/-! Binding a port (R293). -/

/-- What leaves a thread and the launches keeps its window. -/
theorem Aside.vwin {s u : State} (h : Aside s u) : u.vwin s.cur = s.vwin s.cur := by
  have hm : u.ctx s.cur = s.ctx s.cur := (congrArg u.ctx h.cur).symm.trans h.me
  have hl : u.launchOf s.cur = s.launchOf s.cur := by rw [State.launchOf, State.launchOf, State.launch, State.launch, hm, h.launches]
  rw [State.vwin, State.vwin, hl]

/-- The core once a thread no longer waits for its VU. -/
def offWait (s : State) : State := s.updCore s.cur.core fun k => { k with vuWait := k.vuWait.erase s.cur.ctx }

theorem aside_offWait (s : State) : Aside s (offWait s) := aside_updCore s s.cur.core fun _ => rfl
theorem core_offWait (s : State) : (offWait s).core s.cur.core = { s.core s.cur.core with vuWait := (s.core s.cur.core).vuWait.erase s.cur.ctx } :=
  core_updCore ..

theorem aside_updPort (s : State) (c : CoreId) (p : Nat) (f : Port → Port) : Aside s (s.updPort c p f) := aside_updCore s c fun _ => rfl
theorem aside_updWin (s : State) (c : CoreId) (w : Nat) (f : Window → Window) : Aside s (s.updWin c w f) := aside_updCore s c fun _ => rfl
theorem aside_updHart (s : State) (h : HartId) (f : Hart → Hart) : Aside s (s.updHart h f) := aside_updCore s h.core fun _ => rfl

section
variable (s : State) (t : ThreadId) (w r : Nat) (a : Word) (b : List Byte) (ls : List Nat) (n : Nat)

theorem aside_bindPort : Aside s (s.bindPort t w r a b ls n) := by
  unfold State.bindPort
  refine Aside.trans (Aside.trans ?_ (aside_updWin _ _ _ _)) (aside_updHart _ _ _)
  exact aside_updCore s t.core fun _ => rfl

theorem bindPort_bound : (((s.bindPort t w r a b ls n).core t.core).port (fld (leAt b 0 8) 0 2)).bound = true := by
  simp only [State.bindPort, State.updHart, State.updWin, core_updCore, Core.port, Core.setPort, mget_mset_self]

theorem bindPort_binds : mfind (((s.bindPort t w r a b ls n).core t.core).win w).binds r = some (fld (leAt b 0 8) 0 2) := by
  simp only [State.bindPort, State.updHart, State.updWin, core_updCore, Core.win, mget_mset_self, mfind_mset_self]

end

/-- The thread's own part: it has read the block. -/
def boundCtx (base poison : Bool) (a : Word) (x : Ctx) : Ctx := ((x.consumeAt poison a).consume base).next 4

theorem boundCtx_rest (base poison : Bool) (a : Word) (x : Ctx) :
    boundCtx base poison a x = { x.next 4 with cir := (boundCtx base poison a x).cir, paddr := (boundCtx base poison a x).paddr } := by
  cases base <;> cases poison <;> rfl

theorem exec_strmBind (v : BitVec 2) (a : BitVec 5) (s : State) : exec (.strmBind v a) s = execStrmBind v a s := rfl
theorem exec_strmEnd (v : BitVec 2) (s : State) : exec (.strmEnd v) s = execStrmEnd v s := rfl

/-- Where the register, the port and its harts are unused, the port may be bound. -/
theorem bindable_free {s : State} {t : ThreadId} {r p : Nat} (hw : s.vwin t ≠ 15) (ht : t.tier < 2)
    (hr : mfind ((s.core t.core).win (s.vwin t)).binds r = none) (hp : ((s.core t.core).port p).bound = false)
    (hin : ((s.core t.core).hart p).ended = true) (hout : ((s.core t.core).hart (4 + p)).ended = true) : s.bindable t r p = true := by
  simp [State.bindable, hw, ht, hr, hp, hin, hout]

theorem strmBind_completes {s : State} {v : BitVec 2} {a : BitVec 5} (hi : VuIdle s) {b : List Byte} {o p : Nat} (hp : p = fld (leAt b 0 8) 0 2)
    (ho : o = (s.me.x a.toNat).toNat % 2 ^ 21) (hb : b = s.rd (storeKey s o) 64)
    (hr : (s.me.x a.toNat).toNat / 2 ^ 21 = 0x7F * 2 ^ 35) (hal : (s.me.x a.toNat).toNat % 64 = 0)
    (hon : (s.launchOf s.cur).on s.cur.core = true) (hlo : (s.launchOf s.cur).base s.cur.core ≤ o)
    (hhi : o + 64 ≤ (s.launchOf s.cur).base s.cur.core + (s.launchOf s.cur).lssize)
    (hs : ∀ w ∈ wordsOf (storeKey s o) 64, mget 0 s.badWords w = 0 ∧ bankKey w ∉ s.dev.retired) (hok : scbOk b = true)
    (hf : leAt b 0 8 / 4 % 2 = 1 ∨ ((s.core s.cur.core).fmtOf (leAt b 0 8 / 2 ^ 8 % 16)).isSome = true)
    (hbind : s.bindable s.cur (12 + v.toNat) p = true) :
    ∃ t, exec (.strmBind v a) s = .next t ∧ Completes s t ∧ SameX s t ∧ SameMem s t ∧ ((t.core s.cur.core).port p).bound = true ∧
      mfind ((t.core s.cur.core).win (s.vwin s.cur)).binds (12 + v.toNat) = some p := by
  subst hp
  have hk : s.checkAcc s.cur (s.me.x a.toNat) 64 64 .load = .bank (storeKey s o) := by
    subst ho
    exact checkAcc_region (wr := false) hal (regionLoc_store hr hon hlo hhi)
  have hout : ¬((s.me.x a.toNat).toNat / 2 ^ 56 ≠ 0 ∧ (s.me.x a.toNat).toNat / 2 ^ 56 ≠ 0x7F) := by omega
  have hwait : s.bindWaits s.cur (12 + v.toNat) b = false := by
    rw [State.bindWaits, Core.ending, hi.held.1, List.any_nil, Bool.and_false]
  have hbind' : (offWait s).bindable s.cur (12 + v.toNat) (fld (leAt b 0 8) 0 2) = true := by
    rw [State.bindable, core_offWait, (aside_offWait s).vwin]
    exact hbind
  have hfmt : ¬(fld (leAt b 0 8) 2 1 = 0 ∧ (((offWait s).core s.cur.core).fmtOf (fld (leAt b 0 8) 8 4)).isNone = true) := by
    rw [core_offWait]
    rintro ⟨h0, hn⟩
    obtain hout | hf := hf
    · exact absurd (h0.symm.trans hout) (by decide)
    · exact absurd (Option.isNone_iff_eq_none.mp hn) (Option.isSome_iff_ne_none.mp hf)
  have hrun : exec (.strmBind v a) s = .next (((offWait s).bindPort s.cur (s.vwin s.cur) (12 + v.toNat) (s.me.x a.toNat) b [0, 0, 0, 0] 0).updMe
      (boundCtx (s.me.xp a.toNat) ((s.marksOf (storeKey s o) 64).any id) (s.me.x a.toNat))) := by
    rw [exec_strmBind, execStrmBind]
    simp only [vuTakes_idle hi, Bool.not_true, Bool.false_eq_true, if_false, if_neg hout, hk, access_bank hk, afterIf_nil _ _ _ _ hi.quiet.whole hi.quiet.pend,
      loadLoc_bank hs, ← hb, hwait]
    change (offWait s).bindWith .. = _
    simp only [State.bindWith, hok, hfmt, hbind', (aside_offWait s).vwin, Bool.not_true, Bool.false_eq_true, if_false]
    rfl
  have hside : Aside s ((offWait s).bindPort s.cur (s.vwin s.cur) (12 + v.toNat) (s.me.x a.toNat) b [0, 0, 0, 0] 0) :=
    (aside_offWait s).trans (aside_bindPort ..)
  have hcore := core_updMe ((offWait s).bindPort s.cur (s.vwin s.cur) (12 + v.toNat) (s.me.x a.toNat) b [0, 0, 0, 0] 0)
    (boundCtx (s.me.xp a.toNat) ((s.marksOf (storeKey s o) 64).any id) (s.me.x a.toNat))
  rw [hside.cur] at hcore
  refine ⟨_, hrun, ?_, hside.sameX ?_, hside.sameMem _, ?_, ?_⟩
  · rw [Completes, hside.me_updMe, boundCtx_rest]
    exact ⟨rfl, rfl, rfl⟩
  · intro r
    rw [boundCtx_rest]
    exact ⟨rfl, rfl⟩
  · rw [hcore]
    exact bindPort_bound ..
  · rw [hcore]
    exact bindPort_binds ..

/-! Accepting a command, with no register bound that it names (11 R230, R231). -/

/-- The command that an acceptance queues, of a form that names no bound register. -/
def plainCmd (s : State) (i : Instr) (f : VForm) (w : Nat) (keys : List (Nat × Nat × Word)) : VuCmd :=
  { instr := i, thread := s.cur, serial := s.me.serial, run := s.me.run, win := w, xa := s.me.x f.xa, xb := s.me.x f.xb,
    xam := s.me.xp f.xa || s.me.xp f.xb, keys := keys, ins := [], outs := [] }

/-- The core with a command queued. -/
def queued (s : State) (m : VuCmd) : State :=
  s.updCore s.cur.core fun k => { k with vq := k.vq ++ [m], vuWait := k.vuWait.erase s.cur.ctx }

/-- The thread whose command is accepted. -/
def acceptedCtx (m : Bool) (c : Ctx) : Ctx := { (c.consume m).next 4 with needs := true }

theorem aside_queued (s : State) (m : VuCmd) : Aside s (queued s m) := aside_updCore s s.cur.core fun _ => rfl

theorem vuAccept_plain {s : State} {i : Instr} {f : VForm} {w : Nat} {keys : List (Nat × Nat × Word)}
    (hin : ∀ r ∈ f.srcs, (s.core s.cur.core).boundTo w r false = none) (hout : ∀ r ∈ f.dsts, (s.core s.cur.core).boundTo w r true = none) :
    s.vuAccept i f w keys = (queued s (plainCmd s i f w keys)).updMe (acceptedCtx (plainCmd s i f w keys).xam) := by
  have hins : (f.srcs.eraseDups.filterMap fun r => ((s.core s.cur.core).boundTo w r false).map fun p =>
      (r, p, ((s.core s.cur.core).port p).claim, ((s.core s.cur.core).port p).tag)) = [] :=
    List.filterMap_eq_nil_iff.mpr fun r hr => by rw [hin r (List.mem_eraseDups.mp hr)]; rfl
  have houts : (f.dsts.eraseDups.filterMap fun r => ((s.core s.cur.core).boundTo w r true).map fun p => (r, p)) = [] :=
    List.filterMap_eq_nil_iff.mpr fun r hr => by rw [hout r (List.mem_eraseDups.mp hr)]; rfl
  unfold State.vuAccept
  simp only [hins, houts, List.foldl_nil]
  rfl

theorem acceptedCtx_rest (m : Bool) (c : Ctx) : acceptedCtx m c = { c.next 4 with cir := (acceptedCtx m c).cir, needs := true } := by cases m <;> rfl

/-! Unbinding a port (R294). -/

/-- The command of a STRM.END of port `j`. -/
def endCmd (s : State) (v : BitVec 2) (j : Nat) : VuCmd := plainCmd s (.strmEnd v) (VForm.of [] [] none) (s.vwin s.cur) [(j, 0, 0)]

/-- Its command is queued, and the register and the port are unbound. -/
def unbound (s : State) (v : BitVec 2) (j : Nat) : State :=
  (((queued s (endCmd s v j)).updMe (acceptedCtx (endCmd s v j).xam)).updWin s.cur.core (s.vwin s.cur)
    fun x => { x with binds := merase x.binds (12 + v.toNat) }).updPort s.cur.core j fun x => { x with bound := false }

theorem exec_strmEnd_bound {s : State} {v : BitVec 2} {j : Nat} (hi : VuIdle s)
    (hj : mfind ((s.core s.cur.core).win (s.vwin s.cur)).binds (12 + v.toNat) = some j) : exec (.strmEnd v) s = .next (unbound s v j) := by
  have hplain := vuAccept_plain (i := .strmEnd v) (w := s.vwin s.cur) (keys := [(j, 0, 0)]) (s := s) (f := VForm.of [] [] none)
    (fun r hr => absurd hr (List.not_mem_nil)) (fun r hr => absurd hr (List.not_mem_nil))
  rw [exec_strmEnd, execStrmEnd]
  simp only [if_neg hi.win, vuTakes_idle hi, Bool.not_true, Bool.false_eq_true, if_false, hj, hplain]
  rfl

theorem aside_unbound (s : State) (v : BitVec 2) (j : Nat) :
    Aside ((queued s (endCmd s v j)).updMe (acceptedCtx (endCmd s v j).xam)) (unbound s v j) := (aside_updWin _ _ _ _).trans (aside_updPort _ _ _ _)

theorem strmEnd_completes {s : State} {v : BitVec 2} {j : Nat} (hi : VuIdle s)
    (hj : mfind ((s.core s.cur.core).win (s.vwin s.cur)).binds (12 + v.toNat) = some j) :
    ∃ t, exec (.strmEnd v) s = .next t ∧ Completes s t ∧ SameX s t ∧ SameMem s t ∧ ((t.core s.cur.core).port j).bound = false ∧
      ∃ m, (t.core s.cur.core).vq = [m] ∧ m.instr = .strmEnd v := by
  have hq := aside_queued s (endCmd s v j)
  have hme : (unbound s v j).me = acceptedCtx (endCmd s v j).xam s.me := (aside_unbound s v j).me.trans (hq.me_updMe _)
  refine ⟨_, exec_strmEnd_bound hi hj, ?_, fun r => ?_, fun k => ?_, ?_, endCmd s v j, ?_, rfl⟩
  · rw [Completes, hme, acceptedCtx_rest]
    exact ⟨rfl, rfl, rfl⟩
  · rw [hme, acceptedCtx_rest]
    exact ⟨rfl, rfl⟩
  · rw [(aside_unbound s v j).mem]
    exact hq.sameMem _ k
  · rw [unbound, State.updPort, core_updCore, Core.port, Core.setPort, mget_mset_self]
  · have hcore := core_updMe (queued s (endCmd s v j)) (acceptedCtx (endCmd s v j).xam)
    rw [hq.cur] at hcore
    rw [unbound, State.updPort, core_updCore, State.updWin, core_updCore, hcore, queued, core_updCore]
    exact congrArg (· ++ [endCmd s v j]) hi.held.1

end Sys2Proof.Machine.Laws
end

section
/-! The memory forms of the vector unit are accepted where every element lies in a bank (11 R231, R235, R236). -/

namespace Sys2Proof.Machine.Laws

theorem vq_queued (s : State) (m : VuCmd) : ((queued s m).core s.cur.core).vq = (s.core s.cur.core).vq ++ [m] := by rw [queued, core_updCore]
theorem wins_queued (s : State) (m : VuCmd) : ((queued s m).core s.cur.core).wins = (s.core s.cur.core).wins := by rw [queued, core_updCore]
theorem ctx_queued (s : State) (m : VuCmd) (u : ThreadId) : (queued s m).ctx u = s.ctx u := by
  unfold queued
  rw [ctx_updCore]
  exact fun _ => rfl

/-- What an acceptance that names no bound register leaves. -/
theorem accepted_queued {s : State} {i : Instr} {f : VForm} (keys : List (Nat × Nat × Word)) :
    Accepted s ((queued s (plainCmd s i f (s.vwin s.cur) keys)).updMe (acceptedCtx (plainCmd s i f (s.vwin s.cur) keys).xam)) i f.xa := by
  have hq := aside_queued s (plainCmd s i f (s.vwin s.cur) keys)
  have hcore := core_updMe (queued s (plainCmd s i f (s.vwin s.cur) keys)) (acceptedCtx (plainCmd s i f (s.vwin s.cur) keys).xam)
  rw [hq.cur] at hcore
  constructor
  case cmd => exact ⟨_, (congrArg Core.vq hcore).trans (vq_queued ..), rfl, rfl, rfl, fun _ => rfl⟩
  case wins => exact (congrArg Core.wins hcore).trans (wins_queued ..)
  case regs =>
    refine ⟨hq.sameX fun r => ?_, ?_⟩
    · rw [acceptedCtx_rest]
      exact ⟨rfl, rfl⟩
    · rw [hq.me_updMe, acceptedCtx_rest]
      rfl
  case pc => rw [hq.me_updMe, acceptedCtx_rest]; rfl
  case mem => exact hq.sameMem _
  case others =>
    intro u hu
    rw [sameOthers_updMe _ _ u (by rw [hq.cur]; exact hu)]
    exact ctx_queued ..

theorem boundTo_free {k : Core} {w : Nat} (h : (k.win w).binds = []) (r : Nat) (out : Bool) : k.boundTo w r out = none := by
  rw [Core.boundTo, h]
  rfl

/-- The elements of a memory form with the places they lead to. -/
def keyed (s : State) (m : VMem) : List (Nat × Loc × Word) := m.elems.map fun x => (x.1, s.vuKey m x, x.2)

theorem keyed_banks {s : State} {m : VMem} (h : ∀ x ∈ m.elems, ∃ q, s.vuKey m x = .bank q) : ∀ y ∈ keyed s m, ∃ q, y.2.1 = .bank q := by
  intro y hy
  obtain ⟨x, hx, rfl⟩ := List.mem_map.mp hy
  exact h x hx

/-- No element of a memory form fails where each lies in a bank. -/
theorem vuKeys_banks {s : State} {m : VMem} (h : ∀ x ∈ m.elems, ∃ q, s.vuKey m x = .bank q) : s.vuKeys m = .ok (keyed s m) := by
  unfold State.vuKeys
  extract_lets locs
  split
  · next e he =>
    obtain ⟨y, hy, hf⟩ := List.exists_of_findSome?_eq_some he
    obtain ⟨q, hq⟩ := keyed_banks h y hy
    rw [hq] at hf
    cases hf
  · rfl

/-- A memory form that no check refuses, whose elements all lie in banks, is accepted. -/
theorem vuIssue_banks {s : State} {i : Instr} {form : State → VForm} {m : VMem} (hi : VuIdle s)
    (hb : ((s.core s.cur.core).win (s.vwin s.cur)).binds = []) (hwait : (form s).wait = false) (hbad : (form s).bad = none) (hm : (form s).mem = some m)
    (h : ∀ x ∈ m.elems, ∃ q, s.vuKey m x = .bank q) : ∃ t, s.vuIssue i form id = .next t ∧ Accepted s t i (form s).xa := by
  have hfault : (keyed s m).find? (fun x => x.2.1 == .xfault) = none := by
    rw [List.find?_eq_none]
    intro y hy
    obtain ⟨q, hq⟩ := keyed_banks h y hy
    rw [hq]
    exact Bool.noConfusion
  unfold State.vuIssue
  simp only [if_neg hi.win, hm, Option.isNone_some, Bool.false_eq_true, if_false, afterIf_nil _ _ _ _ hi.quiet.whole hi.quiet.pend, hwait, vuTakes_idle hi,
    boundTo_free hb, hb, hbad, vuKeys_banks h, hfault]
  rw [if_neg (by decide), if_neg (by simp [mfind])]
  split
  · next pa hpa =>
    obtain ⟨y, hy, hf⟩ := List.exists_of_findSome?_eq_some hpa
    obtain ⟨q, hq⟩ := keyed_banks h y hy
    rw [hq] at hf
    cases hf
  · rw [id_eq, vuAccept_plain (fun r _ => boundTo_free hb r false) (fun r _ => boundTo_free hb r true)]
    exact ⟨_, rfl, accepted_queued _⟩

/-! The addresses of the forms. -/

/-- An element whose own checks pass leads to a bank. -/
theorem vuKey_bank {s : State} {m : VMem} {x : Nat × Word} {q : Nat} (hal : (x.2 - w64 (x.1 * m.step)).toNat % m.align = 0)
    (h : regionLoc (s.launchOf s.cur) s.cur.core x.2 m.size m.store = some (.bank q)) : s.vuKey m x = .bank q := by
  rw [State.vuKey, if_neg (not_not.mpr hal), show (if m.store then Acc1.store else .load) = accOf m.store from rfl,
    checkAcc_region (Nat.mod_one _) h]

/-- The elements of `lanes`, with their addresses. -/
theorem vuKey_lies {s : State} {m : VMem} {lanes : List Nat} {at_ : Nat → Word} {al : Nat} (hm : m.elems = lanes.map fun l => (l, at_ l))
    (hl : elemsLie s m.size al m.store (lanes.map at_)) (hal : ∀ l ∈ lanes, (at_ l).toNat % al = 0 → (at_ l - w64 (l * m.step)).toNat % m.align = 0) :
    ∀ x ∈ m.elems, ∃ q, s.vuKey m x = .bank q := by
  intro x hx
  rw [hm] at hx
  obtain ⟨l, hl', rfl⟩ := List.mem_map.mp hx
  obtain ⟨h8, q, hq⟩ := hl (at_ l) (List.mem_map_of_mem hl')
  exact ⟨q, vuKey_bank (hal l hl' h8) hq⟩

/-- Bytes of an element of a format, as a block holds it. -/
def elemBytes (fm : Fmt) : Nat := if fm.cont = 16 then 2 else 4

theorem elemBytes_cases (fm : Fmt) : elemBytes fm = 2 ∨ elemBytes fm = 4 := by
  unfold elemBytes
  split
  · exact .inl rfl
  · exact .inr rfl

/-- Numbers of the active elements of `n` bytes. -/
def activeElems (s : State) (m : BitVec 3) (e : BitVec 1) (n : Nat) : List Nat :=
  (List.range (256 / n)).filter fun l => e == 0 || bit (((s.core s.cur.core).win (s.vwin s.cur)).m m.toNat) (l * n / 4)

theorem activeElems_eq {s : State} {m : BitVec 3} {e : BitVec 1} {n : Nat} (hn : n = 2 ∨ n = 4) :
    ((List.range (256 / n)).filter fun j => s.vActive m e (if n = 2 then j / 2 else j)) = activeElems s m e n := by
  refine List.filter_congr fun j _ => ?_
  have hlane : (if n = 2 then j / 2 else j) = j * n / 4 := by
    obtain rfl | rfl := hn
    · rw [if_pos rfl]
      omega
    · rw [if_neg (by decide)]
      omega
  rw [hlane]
  rfl

theorem activeElems_lanes (s : State) (m : BitVec 3) (e : BitVec 1) : ((List.range 64).filter fun l => s.vActive m e l) = activeElems s m e 4 :=
  activeElems_eq (.inr rfl)

/-- The alignment of a block of a format. -/
def blockAlign (fm : Fmt) : Nat := if fm.cont < 16 then 256 else elemBytes fm

theorem vBlock_elems (s : State) (store : Bool) (fm : Fmt) (a : Word) (m : BitVec 3) (e : BitVec 1) :
    (s.vBlock store (some fm) a m e).elems = (activeElems s m e (elemBytes fm)).map fun j => (j, a + w64 (elemBytes fm * j)) :=
  congrArg (List.map _) (activeElems_eq (elemBytes_cases fm))

/-- The elements of an aligned block that lies in banks. -/
theorem vBlock_lies {s : State} {store : Bool} {fm : Fmt} {a : Word} {m : BitVec 3} {e : BitVec 1} (ha : a.toNat % blockAlign fm = 0)
    (hl : elemsLie s (elemBytes fm) (elemBytes fm) store ((activeElems s m e (elemBytes fm)).map fun l => a + w64 (elemBytes fm * l))) :
    ∀ x ∈ (s.vBlock store (some fm) a m e).elems, ∃ q, s.vuKey (s.vBlock store (some fm) a m e) x = .bank q := by
  have halign : (s.vBlock store (some fm) a m e).align = blockAlign fm := by
    simp only [State.vBlock, blockAlign, decide_eq_true_eq]
    rfl
  refine vuKey_lies (vBlock_elems ..) hl fun l _ _ => ?_
  have hbase : a + w64 (elemBytes fm * l) - w64 (l * (s.vBlock store (some fm) a m e).step) = a := by
    rw [show (s.vBlock store (some fm) a m e).step = elemBytes fm from rfl, Nat.mul_comm l, BitVec.add_sub_cancel]
  rw [hbase, halign]
  exact ha

/-- The elements of a strided form. -/
def strided (s : State) (fm : Fmt) (x y : Word) (m : BitVec 3) (e : BitVec 1) : VMem :=
  { store := false, size := elemBytes fm, align := elemBytes fm, step := 0, detail := 1
    elems := (activeElems s m e (elemBytes fm)).map fun j => (j, x + w64 j * y) }

/-- Elements whose addresses are checked where they lie. -/
theorem own_step {a : Word} {l n : Nat} (h : a.toNat % n = 0) : (a - w64 (l * 0)).toNat % n = 0 := by
  rwa [Nat.mul_zero, show w64 0 = 0 from rfl, sub_zero]

/-- The lane of an index register, extended as its format says. -/
def laneIndex (s : State) (j l : Nat) (g : Fmt) : Word :=
  let v := laneOf ((s.core s.cur.core).win (s.vwin s.cur)) j l
  if g.signed then v.signExtend 64 else v.zeroExtend 64

theorem vIndexed_elems {s : State} {store : Bool} {x : Word} {j : Nat} {m : BitVec 3} {e : BitVec 1} {g : Fmt}
    (hb : ((s.core s.cur.core).win (s.vwin s.cur)).binds = []) (hg : s.vFmt j = some g) :
    (s.vIndexed store x j m e).elems = (activeElems s m e 4).map fun l => (l, x + 4 * laneIndex s j l g) := by
  unfold State.vIndexed
  simp only [hg, Core.peek, boundTo_free hb, activeElems_lanes]
  rfl

theorem vIndexed_lies {s : State} {store : Bool} {x : Word} {j : Nat} {m : BitVec 3} {e : BitVec 1} {g : Fmt}
    (hb : ((s.core s.cur.core).win (s.vwin s.cur)).binds = []) (hg : s.vFmt j = some g)
    (hl : elemsLie s 4 4 store ((activeElems s m e 4).map fun l => x + 4 * laneIndex s j l g)) :
    ∀ y ∈ (s.vIndexed store x j m e).elems, ∃ q, s.vuKey (s.vIndexed store x j m e) y = .bank q :=
  vuKey_lies (vIndexed_elems hb hg) hl fun _ _ => own_step

/-! The forms (R235, R236). -/

/-- The thread's own view of a register's format, where no register is bound. -/
theorem vFmt_free {s : State} (hb : ((s.core s.cur.core).win (s.vwin s.cur)).binds = []) (r : Nat) : s.vFmt r = viewFmt s r := by
  simp only [State.vFmt, viewFmt, Core.srcTag, boundTo_free hb]

theorem vTags_one {s : State} {g : Fmt → Bool} {r : Nat} {f : Fmt} (hf : s.vFmt r = some f) (hg : g f = true) : s.vTags g [r] = none := by
  have hf' : (s.core s.cur.core).tagFmt ((s.core s.cur.core).srcTag (s.vwin s.cur) r) = some f := hf
  simp [State.vTags, Core.tagsOk, hf', hg]

theorem exec_vld (v : BitVec 4) (a : BitVec 5) (f : BitVec 4) (m : BitVec 3) (e : BitVec 1) (s : State) : exec (.vld v a f m e) s = execVld v a f m e s := rfl
theorem exec_vst (v : BitVec 4) (a : BitVec 5) (m : BitVec 3) (e : BitVec 1) (s : State) : exec (.vst v a m e) s = execVst v a m e s := rfl
theorem exec_vlds (v : BitVec 4) (a b : BitVec 5) (f : BitVec 4) (m : BitVec 3) (e : BitVec 1) (s : State) :
    exec (.vlds v a b f m e) s = execVlds v a b f m e s := rfl
theorem exec_vldx (v : BitVec 4) (a : BitVec 5) (j f : BitVec 4) (m : BitVec 3) (e : BitVec 1) (s : State) :
    exec (.vldx v a j f m e) s = execVldx v a j f m e s := rfl
theorem exec_vstx (v : BitVec 4) (a : BitVec 5) (j : BitVec 4) (m : BitVec 3) (e : BitVec 1) (s : State) :
    exec (.vstx v a j m e) s = execVstx v a j m e s := rfl

section
variable {s : State} {v j f : BitVec 4} {a b : BitVec 5} {m : BitVec 3} {e : BitVec 1} {fm g : Fmt}

theorem vld_accepted (hi : VuIdle s) (hb : ((s.core s.cur.core).win (s.vwin s.cur)).binds = []) (hf : (s.core s.cur.core).fmtOf f.toNat = some fm)
    (ha : (s.me.x a.toNat).toNat % blockAlign fm = 0)
    (hl : elemsLie s (elemBytes fm) (elemBytes fm) false ((activeElems s m e (elemBytes fm)).map fun l => s.me.x a.toNat + w64 (elemBytes fm * l))) :
    ∃ t, exec (.vld v a f m e) s = .next t ∧ Accepted s t (.vld v a f m e) a.toNat := by
  have hf' : s.vImg f = some fm := hf
  rw [exec_vld, execVld]
  refine vuIssue_banks hi hb rfl ?_ ?_ (vBlock_lies ha hl)
  · simp only [hf']
    rfl
  · simp only [hf']

theorem vst_accepted (hi : VuIdle s) (hb : ((s.core s.cur.core).win (s.vwin s.cur)).binds = []) (hf : viewFmt s v.toNat = some fm)
    (ha : (s.me.x a.toNat).toNat % blockAlign fm = 0)
    (hl : elemsLie s (elemBytes fm) (elemBytes fm) true ((activeElems s m e (elemBytes fm)).map fun l => s.me.x a.toNat + w64 (elemBytes fm * l))) :
    ∃ t, exec (.vst v a m e) s = .next t ∧ Accepted s t (.vst v a m e) a.toNat := by
  have hf' : s.vFmt v.toNat = some fm := (vFmt_free hb _).trans hf
  rw [exec_vst, execVst]
  refine vuIssue_banks hi hb rfl ?_ ?_ (vBlock_lies ha hl)
  · simp only [hf']
    rfl
  · simp only [hf']

theorem vlds_accepted (hi : VuIdle s) (hb : ((s.core s.cur.core).win (s.vwin s.cur)).binds = []) (hf : (s.core s.cur.core).fmtOf f.toNat = some fm)
    (h16 : 16 ≤ fm.cont)
    (hl : elemsLie s (elemBytes fm) (elemBytes fm) false ((activeElems s m e (elemBytes fm)).map fun l => s.me.x a.toNat + w64 l * s.me.x b.toNat)) :
    ∃ t, exec (.vlds v a b f m e) s = .next t ∧ Accepted s t (.vlds v a b f m e) a.toNat := by
  have hf' : s.vImg f = some fm := hf
  rw [exec_vlds, execVlds]
  refine vuIssue_banks (m := strided s fm (s.me.x a.toNat) (s.me.x b.toNat) m e) hi hb rfl ?_ ?_ (vuKey_lies rfl hl fun _ _ => own_step)
  · simp only [hf', decide_eq_true h16]
    rfl
  · simp only [hf']
    exact congrArg (fun l => some (VMem.mk false (elemBytes fm) (elemBytes fm) 0 1 (l.map fun j => (j, s.me.x a.toNat + w64 j * s.me.x b.toNat))))
      (activeElems_eq (elemBytes_cases fm))

theorem vldx_accepted (hi : VuIdle s) (hb : ((s.core s.cur.core).win (s.vwin s.cur)).binds = []) (hf : (s.core s.cur.core).fmtOf f.toNat = some fm)
    (hw : inW32 fm = true) (hg : viewFmt s j.toNat = some g) (hi32 : inI32 g = true)
    (hl : elemsLie s 4 4 false ((activeElems s m e 4).map fun l => s.me.x a.toNat + 4 * laneIndex s j.toNat l g)) :
    ∃ t, exec (.vldx v a j f m e) s = .next t ∧ Accepted s t (.vldx v a j f m e) a.toNat := by
  have hf' : s.vImg f = some fm := hf
  have hg' : s.vFmt j.toNat = some g := (vFmt_free hb _).trans hg
  rw [exec_vldx, execVldx]
  refine vuIssue_banks hi hb ?_ ?_ rfl (vIndexed_lies hb hg' hl)
  · simp only [Core.peek, boundTo_free hb]
    rfl
  · simp only [hf', hw, vTags_one hg' hi32]
    rfl

theorem vstx_accepted (hi : VuIdle s) (hb : ((s.core s.cur.core).win (s.vwin s.cur)).binds = []) (hf : viewFmt s v.toNat = some fm)
    (hw : inW32 fm = true) (hg : viewFmt s j.toNat = some g) (hi32 : inI32 g = true)
    (hl : elemsLie s 4 4 true ((activeElems s m e 4).map fun l => s.me.x a.toNat + 4 * laneIndex s j.toNat l g)) :
    ∃ t, exec (.vstx v a j m e) s = .next t ∧ Accepted s t (.vstx v a j m e) a.toNat := by
  have hf' : s.vFmt v.toNat = some fm := (vFmt_free hb _).trans hf
  have hg' : s.vFmt j.toNat = some g := (vFmt_free hb _).trans hg
  rw [exec_vstx, execVstx]
  refine vuIssue_banks hi hb ?_ ?_ rfl (vIndexed_lies hb hg' hl)
  · simp only [Core.peek, boundTo_free hb]
    rfl
  · simp only [vTags_one hf' hw, vTags_one hg' hi32]
    rfl

end

/-- A format of 32-bit elements holds an element in four bytes. -/
theorem elemBytes_w32 {fm : Fmt} (h : inW32 fm = true) : elemBytes fm = 4 := by
  have hwidth : fm.width = 32 := by
    obtain hf | hi := Bool.or_eq_true_iff.mp h
    · rw [of_decide_eq_true hf]
      rfl
    · exact of_decide_eq_true (Bool.and_eq_true_iff.mp hi).2
  simp [elemBytes, Fmt.cont, hwidth]

theorem activeElems_w32 {fm : Fmt} (h : inW32 fm = true) (s : State) (m : BitVec 3) (e : BitVec 1) :
    activeElems s m e 4 = activeElems s m e (elemBytes fm) := by rw [elemBytes_w32 h]

end Sys2Proof.Machine.Laws
end

section
open Sys2Proof Sys2Proof.Machine Sys2Proof.Machine.Laws

/-- Settles O60: a block's words one after another, a port's binding and its end, the elements of a vector form each in a bank, and a data
operation whose checks find nothing. -/
theorem formsComplete : Obligations.FormsComplete := by
  unfold Obligations.FormsComplete
  refine ⟨?bankop, ?streams, ?vectors, ?chunks⟩
  case bankop =>
    intro s q a c n hq
    exact fun hf h8 h64 hr hlo hhi hw => bankForms_complete hq hf h8 h64 hr hlo hhi hw
  case streams =>
    intro s v a hi c at_ o b p L binds
    refine ⟨fun hr hal hon hlo hhi hs hok hf ht hfree hport hin hout => ?_, fun j hj => strmEnd_completes hi hj⟩
    have hp : p = fld (leAt b 0 8) 0 2 := by rw [fld, pow_zero, Nat.div_one]; rfl
    exact strmBind_completes hi hp rfl rfl hr hal hon hlo hhi hs hok hf (bindable_free hi.win ht hfree hport hin hout)
  case vectors =>
    intro s v j f a b m e fm hi hb
    refine ⟨fun hf ha hl => vld_accepted hi hb hf ha hl, fun hf ha hl => vst_accepted hi hb hf ha hl, fun hf h16 hl => vlds_accepted hi hb hf h16 hl,
      fun g hf hw hg hi32 hl => vldx_accepted hi hb hf hw hg hi32 ?_, fun g hf hw hg hi32 hl => vstx_accepted hi hb hf hw hg hi32 ?_⟩
    · rw [activeElems_w32 hw]
      exact hl
    · rw [activeElems_w32 hw]
      exact hl
  case chunks =>
    intro s c u even ev w p ch r len off hc h64 hp
    exact fun hb hw h8 hlt h8' hlt' => chunkForms_start hc h64 hp hb hw h8 hlt h8' hlt'
end
